-- ==== Sys2Proof/Word.lean ====
section
/-! DEFINITION. The native word of the device (00_scope.md, Notation) and the byte. -/
namespace Sys2Proof

/-- A native word: 18 bits, bit 17 the most significant (00_scope.md, Words and bits). -/
abbrev Word := BitVec 18

/-- A byte of flash, of MRAM records and of byte strings (R248). -/
abbrev Byte := BitVec 8

/-- A table that lists only the entries differing from a default, keys strictly rising. -/
abbrev Tab (α : Type) := List (Nat × α)

end Sys2Proof
end

