-- ==== Sys2Proof/Syntax.lean ====
section
/-! DEFINITION. The commands of the block: one constructor per row of spec/opcode_table.json.
Operands name the unit the step happens in and carry what comes from outside the digital model:
the value written, the reading of an analogue circuit, the level or data on a pin (log entry 3).
`p` is a physical cell 0..271, `r` a region 0..3, `b` a block index 4·r+b 0..15, `t` a TIU 0..63,
`i` an event input 0..255 or a Plawen port (0 UP, 1..4 DN0..DN3), `tag` a mailbox tag. -/
namespace Sys2Proof

/-- One calibration item as measured (R382): its code and unit, and the pairs of results in the order
taken, each with a flag that a reference disturbance, epoch tick or Tj drift overlapped it. -/
structure Meas where
  code  : Nat
  unit  : Nat
  pairs : List (List Int × List Int × Bool)
  deriving DecidableEq, Repr

/-- What one self-test run on one unit reports (R395 to R397): the test, the unit (its descriptor word 1),
the count applied, checkpoints passed and failed, and the signature; a test whose passed and failed checkpoints do
not reach the count was cut short. `repairs` are the spare rows and columns that March C- allocated to failing
addresses before its rerun: memory, row or column, spare, address (R407). -/
structure TestOut where
  test   : Nat
  unit   : Nat
  count  : Nat
  passed : Nat
  failed : Nat
  sig    : BitVec 36
  repairs : List (Nat × Nat × Nat × Nat)
  deriving DecidableEq, Repr

inductive Instr where
  -- power, reset and start-up
  | rstNAssert (ns : Nat)
  | resetCtlWrite (v : Word)
  | brownOut (rail : Nat)
  | dcoSupply (r : Nat)
  | supplyWindow (rail mv : Nat)
  | supplyHoldRelease (r : Nat)
  | undervolt (mv : Nat)
  | paceConfirm (mv : Nat)
  | paceConfirmTimeout (mv : Nat)
  | paceCtlModeWrite (v : Word) (voutMode : Option Byte)
  | pmAlertNAssert (status : BitVec 16)
  | sensorConversion (b : Nat) (t : Int)
  | railBackInWindow (rail mv : Nat)
  -- reference and system time
  | rcWindowEnd (count : Nat)
  | refinWindowEnd (count256 : Nat)
  | uplinkWindowEnd (count256 : Nat)
  | activityMonitorFire (src : Nat)
  | refinCfgWrite (v : Word)
  | refinFreqCommit (hi : Word)
  | refCtlSrcWrite (r : Nat) (v : Word)
  | refCtlBwWrite (r : Nat) (v : Word)
  | muxChangeover (r : Nat) (present : Bool)
  | muxWatchdog (r : Nat) (present : Bool)
  | relockFail (p : Nat)
  | holdoverLong (r : Nat)
  | borrowDelayExpiry (r : Nat)
  | rrpLocked (r : Nat)
  | realigned (r : Nat)
  | timeWrap (r : Nat)
  | regionRealignTick (r : Nat)
  | unitResetEnd (scope index : Nat)
  -- the synthesis cell
  | cellCtlEnSet (p : Nat) (v : Word)
  | cellCtlEnClear (p : Nat) (v : Word)
  | cellCtlOutEnSet (p : Nat) (v : Word)
  | cellCtlOutEnClear (p : Nat) (v : Word)
  | cellCtlMuteSet (p : Nat) (v : Word)
  | cellCtlMuteClear (p : Nat) (v : Word)
  | cellCtlHoldSet (p : Nat) (v : Word)
  | cellCtlHoldClear (p : Nat) (v : Word)
  | fcwIntCommit (p : Nat) (v : Word)
  | lowDivCommit (p : Nat) (v : Word)
  | phaseHiCommit (p : Nat) (v : Word)
  | outCfgWrite (p : Nat) (v : Word)
  | loopBwWrite (p : Nat) (v : Word)
  | lockThrWrite (p : Nat) (v : Word)
  | lockCntWrite (p : Nat) (v : Word)
  | engCtlRun (p : Nat) (v : Word)
  | engCtlStop (p : Nat) (v : Word)
  | engCtlStep (p : Nat) (v : Word)
  | bandSearchEnd (p : Nat) (found : Bool) (band : BitVec 7) (fine : Word)
  | bandSwitchSettled (p : Nat)
  | gearPeriodEnd (p : Nat)
  | slewPeriod (p : Nat)
  | dividerChangeover (p : Nat)
  | hopRetime (p : Nat)
  | retimeFirstRise (p : Nat)
  | toutMuteAtFall (p : Nat)
  | toutActiveAtAnchor (p : Nat)
  | toutDisableDelay (p : Nat)
  | lockDeclared (p : Nat) (fine pherr : Word)
  | lockLoss (p : Nat) (pherr : Word)
  | fineCodeRail (p : Nat) (fine : Word)
  | acqTimeout (p : Nat)
  | hintStale (p : Nat)
  | drvFault (p : Nat) (legs : BitVec 2)
  | learnWriteback (p : Nat)
  | profileFetchComplete (p : Nat) (soft : Bool)
  | hopEffectEdge (p : Nat)
  -- block arbiter and seating
  | arbiterGrant (b : Nat)
  | changeoverEdge (b : Nat)
  | selectorSwitch (b : Nat)
  | seatingTimeout (b : Nat)
  -- hop engine instructions
  | halt (p : Nat)
  | nop (p : Nat)
  | hopInstr (p : Nat)
  | hopl (p : Nat)
  | waitc (p : Nat)
  | waitt (p : Nat)
  | waite (p : Nat)
  | sync (p : Nat)
  | mark (p : Nat)
  | phs (p : Nat)
  | seto (p : Nat)
  | loop (p : Nat)
  | endl (p : Nat)
  | jmp (p : Nat)
  | brl (p : Nat)
  | irq (p : Nat)
  | ext (p : Nat)
  | illegalOpcode (p : Nat)
  | engineRunaway (p : Nat)
  | engineLate (p : Nat)
  | waitTimeout (p : Nat)
  | heldRecordPost (acq : Bool) (i : Nat)
  -- time-interval units
  | tiuCtlArm (t : Nat) (v : Word)
  | tiuCtlAbort (t : Nat)
  | gateCommit (t : Nat) (hi : Word)
  | tiuPrecalDone (t : Nat) (a1 a2 b1 b2 : Nat)
  | tiuReadyAtTime (t : Nat)
  | tiuSourceEdge (t : Nat) (stop : Bool) (code : Nat)
  | tiuResult (t : Nat)
  | tiuTimeout (t : Nat)
  -- event inputs and acquisition
  | evinCtlWrite (i : Nat) (v : Word)
  | thresholdWrite (i : Nat) (hi : Bool) (v : Word)
  | evinEnableSettle (i : Nat)
  | evinComparatorChange (r slot : Nat) (chg : List (Nat × Int))
  | triggerQuietTime (r slot n : Nat)
  | trigRegisterWrite (r off : Nat) (v : Word)
  | acqCtlArm (r : Nat) (v : Word)
  | acqCtlStop (r : Nat)
  | acqStartEdge (r : Nat)
  | postTimeExpiry (r : Nat)
  | rearmEnd (r : Nat)
  | gapClose (r slot : Nat)
  | streamPacketSend (r : Nat)
  -- mailbox
  | mbxPushWrite (w : Word)
  | mbxDoorbellWrite (w : Word)
  | continuationResume (tag : Nat)
  | unknownOpcode (tag : Nat)
  | deadlineExpiry (tag : Nat)
  -- faults
  | mpLockstep (addr : Word)
  | mpRamEcc (addr : Word)
  | fabricDeadlock (seg unit : Nat)
  | registerScrub (addr : Nat) (bad : Bool)
  | eccScrub (r mem addr : Nat) (uncorr bad : Bool)
  | mirrorWrite (ok : Bool)
  -- Hitan commands
  | info (tag : Nat)
  | reset (tag : Nat)
  | paceSet (tag : Nat)
  | tempRead (tag : Nat)
  | refSelect (tag : Nat)
  | refQualify (tag : Nat)
  | rrpConfig (tag : Nat)
  | timeRead (tag : Nat)
  | epochSet (tag : Nat)
  | cellEnable (tag : Nat)
  | profileWrite (tag : Nat)
  | profileRead (tag : Nat) (soft : Bool)
  | hop (tag : Nat)
  | phaseSet (tag : Nat)
  | outConfig (tag : Nat)
  | lockConfig (tag : Nat)
  | cellStatus (tag : Nat)
  | progLoad (tag : Nat)
  | engineStart (tag : Nat)
  | engineStop (tag : Nat)
  | engineStatus (tag : Nat)
  | hoptablePartition (tag : Nat)
  | partitionComplete (r : Nat)
  | planCheck (tag : Nat)
  | tiuConfig (tag : Nat)
  | tiuArm (tag : Nat)
  | freqMeasure (tag : Nat)
  | tiuRead (tag : Nat)
  | evinConfig (tag : Nat)
  | trigConfig (tag : Nat)
  | acqArm (tag : Nat)
  | acqStop (tag : Nat)
  | acqRead (tag : Nat) (soft : Bool)
  | acqStream (tag : Nat)
  | calRun (tag : Nat)
  | calUnitMeasured (b : Nat) (pinOk : Bool) (meas : List Meas)
  | calStatus (tag : Nat)
  | calCommit (tag : Nat)
  | calCommitWritten (ok : Bool)
  | calDeferredApply (r : Nat)
  | calApplicationEdge (r : Nat)
  | calExport (tag : Nat)
  | calImportTh64 (tag : Nat)
  | bistRun (tag : Nat)
  | bistTestsDone (b : Nat) (outs : List TestOut) (dur : Nat)
  | offlineStart (r : Nat)
  | offlineRestore (r : Nat) (outs : List TestOut) (dur : Nat)
  | bistResult (tag : Nat)
  | repairApply (tag : Nat)
  | repairBurn (tag : Nat)
  | fuseEntryBurned (ok : Bool)
  | idRead (tag : Nat)
  | certRead (tag : Nat)
  | hallmark (tag : Nat)
  | sessionOpen (tag : Nat)
  | sessionEnd (tag : Nat)
  | pinSet (tag : Nat)
  | protSet (tag : Nat)
  | protRead (tag : Nat)
  | lifecycleSet (tag : Nat)
  | ownerTransfer (tag : Nat)
  | lifecycleWipeDone (ok : Bool)
  /-- `found` is what the workers answer: path, SERIAL word 3 and state of each. -/
  | treeScan (tag : Nat) (found : List (Nat × Word × Nat))
  /-- `ans` is what the named worker answers at scope 6, empty when no device is joined there. -/
  | treeStatus (tag : Nat) (ans : List Word)
  /-- `joined` tells whether the named worker is JOINED or ALIGNED. -/
  | treeTunnel (tag : Nat) (joined : Bool)
  | regRead (tag : Nat)
  | regWrite (tag : Nat)
  | loupe (tag : Nat)
  | faultLogRead (tag : Nat)
  | fwInfo (tag : Nat)
  | fwUpdateBegin (tag : Nat)
  | fwUpdateData (tag : Nat)
  | fwUpdateEnd (tag : Nat)
  -- host serial port
  | nullFrame (bits : List Bool)
  | readFrame (bits : List Bool) (late : List Nat)
  | writeFrame (bits : List Bool)
  | hostCfgWrite (v : Word)
  -- register access kinds
  | claspWrite (v : Word)
  | rwcWrite (addr : Nat) (v : Word)
  | sqcRead (addr : Nat)
  | sqcWriteBack (addr : Nat) (v : Word)
  | wo1Write (addr : Nat) (v : Word)
  | bitAliasWrite (addr : Nat) (v : Word)
  | snapshotRead (addr : Nat)
  | registerWrite (addr : Nat) (v : Word)
  -- flash port
  | flashCmdGo (v : Word) (resp : List Byte) (eff : List (Nat × Byte))
  | flashDataWrite (v : Word)
  | flashSelWrite (v : Word)
  | flashCfgWrite (v : Word)
  | flashWindowRead (a : Nat)
  | flashWindowWrite (a : Nat) (bytes : List Byte)
  | flashWipPoll (wip : Bool)
  -- Plawen link and tree
  | signalDetect (i : Nat)
  | blockLock (i : Nat)
  | identBlockReceive (i : Nat) (serial3 : Word) (role depth path : Nat)
  | measureComplete (i : Nat) (oneway asymInt : Word)
  | invalidBlock (i : Nat) (badHeader : Bool)
  | lossOfSignal (i : Nat)
  | plCtlRetrain (i : Nat)
  | timeExchange (i : Nat)
  /-- Stamps in 0.1 ps; at the UP port t3 is the d_dn that the block carries and t4 is not used. -/
  | timeBlockReceive (i : Nat) (t1 t2 t3 t4 : Int) (parentAligned : Bool)
  | eventBlockReceive (i m : Nat) (edge10 : BitVec 10)
  | eventDelivery (m : Nat) (edge : BitVec 54)
  | tevEdge (i : Nat) (rising : Bool)
  | epochBlockReceive (value tl : BitVec 54)
  | joinBlockReceive (boundary : BitVec 54)
  | joinBoundary (parentTime : BitVec 54) (diffPs : Nat)
  | tunnelFrameReceive (i : Nat) (path : Nat) (up : Bool) (words : List Word)
  | streamPacketReceive (i : Nat) (path r strand : Nat) (lost : Bool) (words : List Word)
  | creditBlockReceive (i n : Nat)
  -- JTAG and TH64
  | jtagInstructionUpdate (code : Byte)
  | th64CtlWrite (r : Nat) (v : Word)
  -- the commands without operands, of every chapter
  | powerOnResetRelease
  | rstNRelease
  | wipeEnd
  | xoQualTimeout
  | firmwareStart
  | readyAssert
  | frstNRelease
  | paceDrainEnd
  | thermRelease
  | hoursTick
  | epochLoad
  | selfTestSlotGrant
  | batchParse
  | parseResume
  | mbxPopRead
  | coalesceAgeExpiry
  | mpWatchdog
  | mpRestart
  | chipWatchdog
  | logOverflow
  | pinFailDelayEnd
  | challengeExpiry
  | emptyFrame
  | claspTimeout
  | flashDataRead
  | flashPollTimeout
  | tunnelDeliver
  | tapReset
  deriving DecidableEq, Repr

end Sys2Proof
end

