-- ==== Sys2Proof/Config.lean ====
section
/-! DEFINITION. What the spec leaves open, as constants without a body: nothing can evaluate them, so a
claim holds whatever they are (log entries 8 to 11). -/
namespace Sys2Proof

/-- The running output phase, in thousandths of a period modulo 1, of an output that is not on its anchor (R156). -/
opaque Config.runningPhase : Nat → Nat

/-- The loop's own phase error on one comparison in fs, MMD edge behind CREF edge positive: what the oscillator does between
two edges is analogue (R70, R502). -/
opaque Config.phaseError : Nat → Int

/-- Draws of the random generator: bank keys, salts and challenges (R217, R420, R421). -/
opaque Config.random64 : Nat → BitVec 64

/-- Whether an RST_N pulse between 20 ns and 100 ns resets the chip (R459 leaves either outcome). -/
opaque Config.rstPulse : Nat → Bool

/-- Whether a crossing with an uncertainty of one cycle takes the later edge (R130 classes 0, 2 and 3). -/
opaque Config.laterEdge : Nat → Bool

/-- The bank of a bead: a keyed hash of its input or strand index and its sample, of which three bits count (R217 names no
function). -/
opaque Config.bankHash : BitVec 64 → Nat → Nat → Nat

/-- What a comparator of an event input is off its threshold by, trims included, in 1/64 mV: HI where the flag is set (R200,
R225). -/
opaque Config.evinOffset : Nat → Bool → Int

/-- The delta of a bead that refers to no bead of its strand, which R207 gives no meaning, and of a STRAND_END that
stands more than 32,767 samples behind with no position left for a TIME pair. -/
opaque Config.beadDelta : Nat → BitVec 15

/-- REFIN_ERR of a window without an edge against no declared frequency, which R39 does not state. -/
opaque Config.refinErrZero : Word

/-- Dead time of a TIU interpolator between two conversions in FREQ mode, in 2^-18 CREF cycles (R191 names no figure). -/
opaque Config.tiuDead : Nat

/-- What a TH64 calibration file holds, whose layout the spec does not give (R394): none when a record fails its own
check, else per record the TH64 channel, temperature in 1/16 C, delay, gain and 16 element codes. -/
opaque Config.th64Records : List (BitVec 8) → Option (List (Nat × Int × Int × Int × List Int))

/-- Golden signature of tests 0 and 1, by test, kind of unit (its scope) and stepping (R404: not published). -/
opaque Config.golden : Nat → Nat → BitVec 18 → BitVec 36

/-- The Synalmong session key in boot ROM, x then y (R421). -/
opaque Config.sessionKey : BitVec 512

/-- The Synalmong firmware key in boot ROM, x then y (R330, R331). -/
opaque Config.fwKey : BitVec 512

/-- What the regulator answers to a read of VOUT_MODE that a register write of PACE_CTL starts (R454): none for a NACK
or a PEC error. -/
opaque Config.voutMode : Nat → Option (BitVec 8)

/-- What the flash returns to a command that a register write of FLASH_CMD starts, other than a read of its array (R326). -/
opaque Config.flashAnswer : Nat → List (BitVec 8)

/-- The bytes that such a command, other than a page program, changes in the flash: address and byte (R326). -/
opaque Config.flashEffect : Nat → List (Nat × BitVec 8)

/-- RC, within its 3 %, is slow enough for a time to lie within a bound that is stated in RC time (R36). -/
opaque Config.rcSlow : Nat → Bool

end Sys2Proof
end

