-- ==== Sys2Proof/Machine/State.lean ====
section
/-! DEFINITION. The state of the block as plain data: every register, memory, queue, mode and pin the
spec gives the device, with its reset value as the default of its field, and the queue of waiting
commands. A table `Tab α` lists only the entries that differ from its unit's reset value. Fields marked
"(model)" are the model's own bookkeeping of something the spec only describes in words. -/
namespace Sys2Proof.Machine
open Sys2Proof

/-! ### Registers shared by every unit -/

/-- A sequence-cleared status register (R299): sequence number, events, hidden read mark, occurrences since the last read. -/
structure Sqc where
  /-- [SQC seq] 6 bits; 13 R299; reset 0 -/
  seq : BitVec 6 := 0
  /-- [SQC events] 12 bits; 13 R299; reset 0 -/
  ev : BitVec 12 := 0
  /-- [SQC hidden read mark] 1 bit; 13 R299; reset 0 -/
  readMark : Bool := false
  /-- [SQC occurrences since the last read, counted to 64] 7 bits; 13 R299; reset 0 -/
  count : Nat := 0
  deriving DecidableEq, Repr

/-! ### References, region loops and system time (02) -/

/-- The selectable sources of a region, as REF_CTL.src encodes them. -/
inductive Src where
  | xo | refin | uplink | neighbour
  deriving DecidableEq, Repr

/-- REF_STATUS.rrp_state. -/
inductive Rrp where
  | off | acquiring | locked | holdover | holdoverLong | switching
  deriving DecidableEq, Repr

/-- REGION_STATUS.state (R444). -/
inductive RegionRun where
  | run | reset | realign | thermHold | supplyHold
  deriving DecidableEq, Repr

/-- A change of source under way in a region (R44). -/
structure SrcChange where
  /-- [target of the change] 2 bits; 02 R44; reset none -/
  target : Src
  /-- [the change is a borrow] 1 bit; 02 R50; reset none -/
  borrow : Bool := false
  /-- [tag of the REF_SELECT that waits for it] 9 bits; 11 R256; reset none -/
  tag : Option Nat := none
  /-- [the change followed holdover, so time is steered after it] 1 bit; 02 R52; reset none -/
  afterHoldover : Bool := false
  deriving DecidableEq, Repr

/-- Reference loop, system time and region control of one region (02, 19). -/
structure RegionSt where
  /-- [REF_CTL.borrow_delay] 3 bits; 02 R50; reset 1 -/
  borrowDelay : BitVec 3 := 1
  /-- [REF_CTL.borrow_en] 1 bit; 02 R50; reset 1 -/
  borrowEn : Bool := true
  /-- [REF_CTL.bw] 2 bits; 02 R48; reset 1 -/
  bw : BitVec 2 := 1
  /-- [REF_CTL.src, the last value written] 2 bits; 02 R43; reset 0 (XO) -/
  srcReg : Src := .xo
  /-- [REF_STATUS.rrp_state] 3 bits; 02 R44; reset 0 (OFF) -/
  rrp : Rrp := .off
  /-- [REF_STATUS.active] 2 bits; 02 R43; reset 0 (XO) -/
  active : Src := .xo
  /-- [REF_STATUS.borrowed] 1 bit; 02 R50; reset 0 -/
  borrowed : Bool := false
  /-- [REF_STATUS.time_aligned] 1 bit; 02 R52, R503; reset 0 -/
  timeAligned : Bool := false
  /-- [REF_STATUS.relock_pending] 1 bit; 02 R45; reset 0 -/
  relockPending : Bool := false
  /-- [source change under way] record; 02 R44; reset none -/
  change : Option SrcChange := none
  /-- [source requested during a change, and its tag] record; 02 R46; reset none -/
  queued : Option (Src × Option Nat) := none
  /-- [borrow pending in holdover: 0 no, 1 delay running, 2 delay elapsed, waiting for NEIGHBOUR] 2 bits; 02 R50; reset 0 -/
  borrowWait : Nat := 0
  /-- [time difference being removed by steering] 1 bit; 02 R52; reset 0 -/
  steering : Bool := false
  /-- [region whose system time the steering moves to] 2 bits; 02 R52, R503 (model); reset 0 -/
  steerTo : Nat := 0
  /-- [root that the region was last seen on: a source, or a region of its own] 02 R56 (model); reset XO -/
  root : Option Src × Nat := (some .xo, 0)
  /-- [the regions were last seen not to share a root (model)] 1 bit; 02 R56; reset 0 -/
  split : Bool := false
  /-- [REF_EVENTS] SQC; 02 R49; reset 0 -/
  refEvents : Sqc := {}
  /-- [coarse system time] 54 bits; 02 R56; reset 0 -/
  time : BitVec 54 := 0
  /-- [anchor count bits 63..54; its low 54 bits are the coarse time] 10 bits; 04 R99; reset 0 -/
  anchorHi : BitVec 10 := 0
  /-- [edge of the last load of system time by an epoch tick] count; 05 R132 (model); reset none -/
  loadAt : Option Nat := none
  /-- [CREF edges since chip reset, the model's name for an edge] unbounded count; 02 R56 (model); reset 0 -/
  edge : Nat := 0
  /-- [REGION_STATUS.state] 3 bits; 19 R444; reset 0 -/
  run : RegionRun := .run
  /-- [the region is held in reset: by start-up, RESET, supply or temperature (model)] 1 bit; 01 R29; reset 1 -/
  inReset : Bool := true
  /-- [tag of the RESET that restarted the region reset] 9 bits; 20 R462; reset none -/
  resetTag : Option Nat := none
  /-- [READY_STATE.locked bit of the region] 1 bit; 20 R464; reset 0 -/
  everLocked : Bool := false
  /-- [REGION_STATUS.ref_unrec] 1 bit; 19 R444; reset 0 -/
  refUnrec : Bool := false
  /-- [REGION_EVENTS] SQC; 19 R444; reset 0 -/
  regionEvents : Sqc := {}
  /-- [ECC_CORR] 18 bits; 19 R444; reset 0 -/
  eccCorr : BitVec 18 := 0
  /-- [ECC_UNCORR] 18 bits; 19 R444; reset 0 -/
  eccUncorr : BitVec 18 := 0
  deriving DecidableEq, Repr

/-- What a region holds beside its loop: hop-table partitions, TH64 mode and memory repairs. -/
structure RegionMem where
  /-- [PART_LEN0..63, in units of 64 words] 10 bits each; 05 R119; reset 8 each -/
  partLen : Tab Nat := []
  /-- [HOPTABLE_PARTITION in progress, its tag and new lengths] record; 05 R120; reset none -/
  partBusy : Option (Nat × List Nat) := none
  /-- [staged HOPTABLE_PARTITION parts: part and its eight lengths] up to 8 records; 11 R254, R258; reset empty -/
  partStage : List (Nat × List Nat) := []
  /-- [staged CAL_IMPORT_TH64 words and the next part number] words, count; 11 R254, R262; reset empty, 0 -/
  thStage : List Word × Nat := ([], 0)
  /-- [TH64_CTL: bit 0 en; bit 16 the mode in force for the checks of commands, bit 17 the element selection in force (model)] 18 bits; 22 R497, R498; reset 0 -/
  th64 : Word := 0
  /-- [a region-wide OFFLINE period covers the region] 1 bit; 17 R402; reset 0 -/
  offline : Bool := false
  deriving DecidableEq, Repr

/-- The chip's sources and their qualification (02 R36 to R42). -/
structure RefChip where
  /-- [XO_FREQ] 18 bits; 02 R37; reset 50,000 (fuse: loaded by the boot ROM, 50,000 without a valid record) -/
  xoFreq : BitVec 18 := 50000
  /-- [XO_STATUS.active] 1 bit; 02 R41; reset 0 -/
  xoActive : Bool := false
  /-- [XO_STATUS.qual] 1 bit; 02 R38; reset 0 -/
  xoQual : Bool := false
  /-- [XO started] 1 bit; 20 R463 step 4; reset 0 -/
  xoOn : Bool := false
  /-- [XO window counts kept, newest first] up to 4 counts; 02 R38; reset none -/
  xoWin : List Nat := []
  /-- [REFIN_CFG.en] 1 bit; 02 R39; reset 0 -/
  refinEn : Bool := false
  /-- [REFIN_CFG.se] 1 bit; 02 R39; reset 0 -/
  refinSe : Bool := false
  /-- [REFIN_CFG.term] 1 bit; 02 R39; reset 0 -/
  refinTerm : Bool := false
  /-- [REFIN_STATUS.state: 0 OFF, 1 WAIT_XO, 2 COUNTING, 3 QUALIFIED, 4 FAILED, 5 LOST] 3 bits; 02 R39; reset 0 -/
  refinState : Nat := 0
  /-- [REFIN_STATUS.freq_err] 1 bit; 02 R39; reset 0 -/
  refinFreqErr : Bool := false
  /-- [REFIN_FREQ_LO, staged] 18 bits; 02 R39; reset 0 -/
  refinLo : BitVec 18 := 0
  /-- [REFIN_FREQ in force, Hz] 36 bits; 02 R39; reset 0 -/
  refinFreq : BitVec 36 := 0
  /-- [REFIN window counts in 1/256 cycle, newest first] up to 3 counts; 02 R39; reset none -/
  refinWin : List Nat := []
  /-- [REFIN_ERR] 18 bits; 02 R39; reset 0 -/
  refinErr : BitVec 18 := 0
  /-- [UPLINK state, coded as REFIN_STATUS.state] 3 bits; 02 R40, 11 R256; reset 0 -/
  upState : Nat := 0
  /-- [UPLINK window counts in 1/256 cycle, newest first] up to 3 counts; 02 R40; reset none -/
  upWin : List Nat := []
  /-- [pending EPOCH_SET: value, load edge in the time of the counting region, that region] record; 02 R59; reset none -/
  epoch : Option (BitVec 54 × BitVec 54 × Nat) := none
  /-- [the start-up epoch tick has been issued] 1 bit; 02 R58; reset 0 -/
  startTick : Bool := false
  /-- [commands waiting for REFIN qualification: tags of REF_QUALIFY with wait] up to 512; 11 R256; reset none -/
  qualWait : List Nat := []
  deriving DecidableEq, Repr

/-! ### The synthesis cell (03 to 06) -/

/-- CELL_CTL (R82). -/
structure CellCtl where
  /-- [CELL_CTL.en] 1 bit; 03 R82; reset 0 -/
  en : Bool := false
  /-- [CELL_CTL.out_en] 1 bit; 03 R82; reset 0 -/
  outEn : Bool := false
  /-- [CELL_CTL.mute] 1 bit; 03 R82; reset 0 -/
  mute : Bool := false
  /-- [CELL_CTL.hold] 1 bit; 03 R82; reset 0 -/
  hold : Bool := false
  /-- [CELL_CTL.cont] 1 bit; 03 R82; reset 0 -/
  cont : Bool := false
  /-- [CELL_CTL.hint_en] 1 bit; 03 R82; reset 1 -/
  hintEn : Bool := true
  deriving DecidableEq, Repr

/-- The frequency value in force: FCW_INT and its fraction (R71). -/
structure Freq where
  /-- [FCW_INT.mode in force] 1 bit; 03 R71; reset 0 -/
  mode : Bool := false
  /-- [FCW_INT.n in force] 5 bits; 03 R71; reset 10 -/
  n : BitVec 5 := 10
  /-- [F in force] 36 bits; 03 R71; reset 0 -/
  f : BitVec 36 := 0
  /-- [K in force] 18 bits; 03 R71; reset 0 -/
  k : BitVec 18 := 0
  /-- [M in force] 18 bits; 03 R71; reset 2 -/
  m : BitVec 18 := 2
  deriving DecidableEq, Repr

/-- The values a cell runs on: the quantities of the anchor rule (R100), staged words and profile bookkeeping. -/
structure CellVals where
  /-- [frequency in force] 78 bits; 03 R71; reset N = 10 -/
  freq : Freq := {}
  /-- [FRAC_HI:FRAC_LO staged] 36 bits; 03 R72; reset 0 -/
  stF : BitVec 36 := 0
  /-- [MOD_K staged] 18 bits; 03 R72; reset 0 -/
  stK : BitVec 18 := 0
  /-- [MOD_M staged] 18 bits; 03 R72; reset 2 -/
  stM : BitVec 18 := 2
  /-- [OUT_DIV.d staged] 13 bits; 03 R79; reset 2 -/
  stD : BitVec 13 := 2
  /-- [D in force] 13 bits; 03 R79; reset 2 -/
  d : BitVec 13 := 2
  /-- [LOW_DIV.l in force] 18 bits; 03 R79; reset 1 -/
  l : BitVec 18 := 1
  /-- [PHASE_LO staged] 18 bits; 06 R148; reset 0 -/
  stPhLo : BitVec 18 := 0
  /-- [PHASE_OFS committed] 36 bits; 06 R148; reset 0 -/
  ofs : BitVec 36 := 0
  /-- [phi in force, the moving value during a slew] 36 bits; 06 R148; reset 0 -/
  phi : BitVec 36 := 0
  /-- [CELL_STATUS.slewing] 1 bit; 06 R148; reset 0 -/
  slewing : Bool := false
  /-- [continuity offset Delta] exact fraction in [0,1); 04 R103; reset 0 -/
  delta : Rat := 0
  /-- [PROFILE_ACTIVE.modified] 1 bit; 03 R82; reset 0 -/
  modified : Bool := false
  /-- [PROFILE_ACTIVE.valid] 1 bit; 03 R82; reset 0 -/
  profValid : Bool := false
  /-- [PROFILE_ACTIVE.index] 8 bits; 03 R82; reset 0 -/
  profIdx : BitVec 8 := 0
  deriving DecidableEq, Repr

/-- The configuration words of a cell that move with the channel at a seating (R112, second row). -/
structure CellCfg where
  /-- [CELL_CTL] 6 bits; 03 R82; reset 0x00020 -/
  ctl : CellCtl := {}
  /-- [OUT_CFG.lvds as written] 1 bit; 03 R80; reset 0 -/
  lvds : Bool := false
  /-- [OUT_CFG.swing] 4 bits; 03 R80; reset 4 -/
  swing : BitVec 4 := 4
  /-- [PHASE_SLEW.step] 1 bit; 06 R149; reset 0 -/
  step : Bool := false
  /-- [PHASE_SLEW.rate] 4 bits; 06 R148; reset 4 -/
  rate : BitVec 4 := 4
  /-- [LOOP_BW.preset] 3 bits; 03 R75; reset 4 -/
  bw : BitVec 3 := 4
  /-- [GEAR_TIME.t] 12 bits; 03 R77; reset 0x040 -/
  gearTime : BitVec 12 := 0x040
  /-- [LOCK_THR.thr] 8 bits; 06 R151; reset 8 -/
  thr : BitVec 8 := 8
  /-- [LOCK_CNT.k] 5 bits; 06 R152; reset 8 -/
  cntK : BitVec 5 := 8
  /-- [LOCK_ACTION.action] 2 bits; 06 R158; reset 1 -/
  action : BitVec 2 := 1
  /-- [ENG_CTL.late_halt] 1 bit; 05 R128; reset 0 -/
  lateHalt : Bool := false
  deriving DecidableEq, Repr

/-- Why a cell is acquiring (R108, R157, R45). -/
inductive AcqCause where
  | none | hop | enable | leaveHold | loss | relock | seating
  deriving DecidableEq, Repr

/-- The hint in use by an acquisition: none, the hint latch, or a profile's hint. -/
inductive HintUse where
  | none | sameBand | otherBand
  deriving DecidableEq, Repr

/-- The third-order MASH 1-1-1 modulator and the DTC of one cell (R67 to R69). -/
structure Mash where
  /-- [first accumulator] 36 bits, or below M; 03 R67; reset 0 -/
  acc1 : Nat := 0
  /-- [second accumulator] 36 bits, or below M; 03 R67; reset 0 -/
  acc2 : Nat := 0
  /-- [third accumulator, q_k times its modulus] 36 bits, or below M; 03 R67; reset 0 -/
  acc3 : Nat := 0
  /-- [carry of the second accumulator on the previous cycle] 1 bit; 03 R67; reset 0 -/
  c2 : Nat := 0
  /-- [carries of the third accumulator on the previous two cycles] 1 bit each; 03 R67; reset 0 -/
  c3 : Nat × Nat := (0, 0)
  /-- [third accumulator on the previous two cycles] as acc3; 03 R69; reset 0 -/
  q : Nat × Nat := (0, 0)
  /-- [modulator output y_k] -3..+4; 03 R67; reset 0 -/
  y : Int := 0
  /-- [instantaneous MMD ratio N + y_k] 5 bits; 03 R67; reset 10 -/
  mmd : Int := 10
  /-- [quantisation error e_k in DCO periods] exact; 03 R69; reset 0 -/
  e : Rat := 0
  /-- [DTC code c_k] 10 bits; 03 R69; reset 0 -/
  dtc : Nat := 0
  deriving DecidableEq, Repr

/-- The loop of one physical cell: oscillator codes, lock detector, flags and latches. -/
structure CellLoop where
  /-- [DCO_BAND.hint_valid] 1 bit; 03 R82; reset 0 -/
  hintValid : Bool := false
  /-- [DCO_BAND.hint_band] 7 bits; 03 R82; reset 0 -/
  hintBand : BitVec 7 := 0
  /-- [hint latch fine code] 18 bits; 03 R82; reset 0x20000 -/
  hintFine : BitVec 18 := 0x20000
  /-- [DCO_BAND.band in use] 7 bits; 03 R82; reset 0 -/
  band : BitVec 7 := 0
  /-- [DCO_FINE fine code in use] 18 bits; 03 R82; reset 0x20000 -/
  fine : BitVec 18 := 0x20000
  /-- [PHERR] 18 bits; 03 R82; reset 0 -/
  pherr : BitVec 18 := 0
  /-- [lock detector verdict is LOCKED] 1 bit; 06 R151; reset 0 -/
  locked : Bool := false
  /-- [in-range count] 17 bits; 06 R151; reset 0 -/
  inCnt : Nat := 0
  /-- [out-of-range count] 3 bits; 06 R151; reset 0 -/
  outCnt : Nat := 0
  /-- [CELL_STATUS.ref_relock] 1 bit; 02 R45; reset 0 -/
  refRelock : Bool := false
  /-- [CELL_STATUS.gear] 1 bit; 03 R77; reset 0 -/
  gear : Bool := false
  /-- [CELL_STATUS.searching] 1 bit; 03 R64; reset 0 -/
  searching : Bool := false
  /-- [capacitor bank switching] 1 bit; 04 R108 step 5; reset 0 -/
  bandSwitch : Bool := false
  /-- [band choice of the enable complete] 1 bit; 06 R165; reset 0 -/
  bandChosen : Bool := false
  /-- [CELL_STATUS.cfg_err] 1 bit; 03 R82; reset 0 -/
  cfgErr : Bool := false
  /-- [CELL_STATUS.rail] 1 bit; 03 R82; reset 0 -/
  rail : Bool := false
  /-- [CELL_STATUS.band_ovf] 1 bit; 03 R66; reset 0 -/
  bandOvf : Bool := false
  /-- [CELL_STATUS.drv_fault] 1 bit; 06 R162; reset 0 -/
  drvFault : Bool := false
  /-- [CELL_STATUS.par_err] 1 bit; 13 R303; reset 0 -/
  parErr : Bool := false
  /-- [loss-mute latch] 1 bit; 06 R158; reset 0 -/
  lossMute : Bool := false
  /-- [the loss-mute latch was set by cause C alone] 1 bit; 06 R158, R159; reset 0 -/
  lossMuteC : Bool := false
  /-- [loss-hold latch] 1 bit; 06 R158; reset 0 -/
  lossHold : Bool := false
  /-- [why the cell acquires] enumeration; 04 R108, 02 R45; reset none -/
  acq : AcqCause := .none
  /-- [hint in use by the acquisition] enumeration; 04 R97; reset none -/
  hintUse : HintUse := .none
  /-- [hint misses, as LOUPE reports] 18 bits; 04 R97; reset 0 -/
  hintMiss : Nat := 0
  /-- [edge E from which the acquisition's bounds count] count; 04 R108, R111; reset 0 -/
  acqFrom : Nat := 0
  /-- [edge on which the reference relock started] count; 02 R45; reset 0 -/
  relockFrom : Nat := 0
  /-- [edge on which the gear period ends] count; 03 R77; reset 0 -/
  gearEnd : Nat := 0
  /-- [the lock count is the fixed one of 256 cycles] 1 bit; 04 R115, R116; reset 0 -/
  fast : Bool := false
  /-- [edge of the last TDC comparison] count; 03 R70 (model); reset none -/
  cmpAt : Option Nat := none
  /-- [loop filter: code that the filter's output moves from] 18 bits; 03 R75 (model); reset 0x20000 -/
  base : BitVec 18 := 0x20000
  /-- [loop filter: integrator, in DCO periods per CREF cycle] exact; 03 R75; reset 0 -/
  integ : Rat := 0
  /-- [fine codes of the last cycles, newest first, for the mean of R156] 260 codes; 06 R156; reset none -/
  fineHist : List (BitVec 18) := []
  /-- [modulator and DTC] record; 03 R67 to R69; reset as Mash -/
  mash : Mash := {}
  deriving DecidableEq, Repr

/-- The driver state behind TOUT (R161). -/
inductive Drv where
  | off | disabled | muted | toggling
  deriving DecidableEq, Repr

/-- A change that the output domain has still to make at a falling edge (R79, R109). -/
inductive OutPend where
  | none | divAnchored | divCont | hopRetime
  deriving DecidableEq, Repr

/-- The output domain of one physical cell (03 R78 to R80, 06 R161 to R166). -/
structure CellOut where
  /-- [driver state] 2 bits; 06 R161; reset off -/
  drv : Drv := .off
  /-- [OUT_CFG.lvds in effect in the driver] 1 bit; 03 R80; reset 0 -/
  lvdsNow : Bool := false
  /-- [D presently dividing] 13 bits; 03 R79; reset 2 -/
  dNow : BitVec 13 := 2
  /-- [L presently dividing] 18 bits; 03 R79; reset 1 -/
  lNow : BitVec 18 := 1
  /-- [change waiting for a falling output edge] enumeration; 03 R79, 04 R109; reset none -/
  pend : OutPend := .none
  /-- [falling edge at which the pending change acts, in CREF cycles of the anchor count] exact; 03 R79; reset none -/
  fallAt : Option Rat := none
  /-- [output held low since a re-timing] 1 bit; 03 R79; reset 0 -/
  heldLow : Bool := false
  /-- [first rising edge that ends the hold, in CREF cycles of the anchor count] exact; 03 R79; reset none -/
  riseAt : Option Rat := none
  /-- [mute_hop in force until LOCKED] 1 bit; 04 R109; reset 0 -/
  muteHop : Bool := false
  /-- [falling edge at which the output is muted, in CREF cycles of the anchor count] exact; 06 R166; reset none -/
  muteAtFall : Option Rat := none
  /-- [edge from which the driver may be disabled, 16 cycles after the muted level] count; 06 R166; reset none -/
  disableAt : Option Nat := none
  /-- [time from which the first anchored edge makes TOUT ACTIVE, in CREF cycles of the anchor count] exact; 06 R166; reset none -/
  activeAfter : Option Rat := none
  /-- [running waveform while a re-timing waits for its falling edge: rho, phi, Delta] exact; 04 R109; reset none -/
  run : Option (Rat × Rat × Rat) := none
  /-- [time up to which a re-timing holds the output low at least] exact; 03 R79; reset 0 -/
  holdTo : Rat := 0
  /-- [rising output edge of the next slew step, in CREF cycles of the anchor count] exact; 06 R148; reset none -/
  slewAt : Option Rat := none
  /-- [divider preset: whole DCO periods of phi x D x L] count; 06 R147; reset 0 -/
  preset : Nat := 0
  /-- [interpolator step: 1/1024 DCO period] 10 bits; 06 R147; reset 0 -/
  interp : Nat := 0
  deriving DecidableEq, Repr

/-- One fetched hop: the ten profile words, and where and for whom they take effect. -/
structure HopReq where
  /-- [ten words fetched] 180 bits; 04 R94; reset none -/
  words : List Word
  /-- [profile index] 8 bits; 04 R104; reset none -/
  idx : Nat
  /-- [due edge; none until the fetch completes] count; 04 R104; reset none -/
  due : Option Nat
  /-- [system time named by the HOP command] 54 bits; 04 R104; reset none -/
  at_ : Option (BitVec 54) := none
  /-- [tag of the HOP command, none for an engine hop] 9 bits; 04 R104; reset none -/
  tag : Option Nat := none
  /-- [HOP carries wait_lock] 1 bit; 11 R257; reset none -/
  waitLock : Bool := false
  deriving DecidableEq, Repr

/-- Which action of an edge a host write of the same edge may have to prevail over (R20, R74, R144). -/
inductive EdgeAct where
  | engHop | phs | seto | hostHop
  deriving DecidableEq, Repr

/-- What a cell held before the one action that it took on an edge, for a host write of the same edge (R20, R144). -/
structure EdgeUndo where
  /-- [edge of the action] count; 05 R144 (model); reset none -/
  edge : Nat
  /-- [the action] enumeration; 05 R144 (model); reset none -/
  act : EdgeAct
  /-- [channel values before it] record; 05 R144 (model); reset none -/
  vals : CellVals
  /-- [loop before it] record; 05 R144 (model); reset none -/
  loop : CellLoop
  /-- [output domain before it] record; 05 R144 (model); reset none -/
  out : CellOut
  /-- [CELL_CTL before it] record; 05 R144 (model); reset none -/
  ctl : CellCtl
  /-- [LOOP_BW.preset before it] 3 bits; 05 R144 (model); reset none -/
  bw : BitVec 3
  deriving DecidableEq, Repr

/-- Hops of one physical cell and the arbitration marks of R20. -/
structure CellHop where
  /-- [engine hop due] record; 05 R137; reset none -/
  eng : Option HopReq := none
  /-- [host HOP being fetched or due] record; 04 R104; reset none -/
  host : Option HopReq := none
  /-- [words of the last profile hop that took effect, for the learn write-back] 180 bits; 04 R98; reset none -/
  learn : Option (Nat × List Word) := none
  /-- [corrected hint code of that hop when it used a hint] 18 bits; 04 R98; reset none -/
  learnHint : Option (BitVec 18) := none
  /-- [learn averaging running] 1 bit; 04 R98; reset 0 -/
  learnRun : Bool := false
  /-- [a hop or frequency commit stored in HOLD is waiting] 1 bit; 06 R156; reset 0 -/
  stored : Bool := false
  /-- [the stored hop or commit is phase-continuous] 1 bit; 06 R156; reset 0 -/
  storedCont : Bool := false
  /-- [sum of the fine codes averaged so far] count; 04 R98; reset 0 -/
  learnSum : Nat := 0
  /-- [cycles averaged so far, up to 1,024] count; 04 R98; reset 0 -/
  learnN : Nat := 0
  /-- [mute_hop of a profile loaded while disabled or in HOLD] 1 bit; 04 R109, 06 R166; reset 0 -/
  pendMute : Bool := false
  /-- [edge of the last host frequency or divider commit or host hop] count; 01 R20, 05 R144 (model); reset none -/
  hostHopAt : Option Nat := none
  /-- [edge of the last host FCW_INT commit] count; 04 R74 (model); reset none -/
  hostFcwAt : Option Nat := none
  /-- [edge of the last host LOW_DIV commit] count; 01 R20 (model); reset none -/
  hostDivAt : Option Nat := none
  /-- [edge of the last host LOOP_BW write] count; 01 R20 (model); reset none -/
  hostBwAt : Option Nat := none
  /-- [what the cell held before the action of an edge] record; 05 R144 (model); reset none -/
  undo : Option EdgeUndo := none
  /-- [edge of the last host PHASE_HI commit] count; 05 R144 (model); reset none -/
  hostPhaseAt : Option Nat := none
  /-- [edge of the last host CELL_CTL write] count; 05 R144 (model); reset none -/
  hostCtlAt : Option Nat := none
  /-- [commands waiting for LOCKED: tag, and for HOP the result taken on E (CELL_ENABLE: none)] list; 11 R257, R504; reset none -/
  lockTags : List (Nat × Option (List Word)) := []
  /-- [tag of PHASE_SET with wait] 9 bits; 11 R257; reset none -/
  phaseTag : Option Nat := none
  deriving DecidableEq, Repr

/-- The clasp-guarded trims and working gain of a cell (R82, R83). -/
structure CellTrim where
  /-- [TRIM_TDC] 18 bits; 03 R82; reset 0x20000 -/
  tdc : BitVec 18 := 0x20000
  /-- [TRIM_DTC] 18 bits; 03 R82; reset 0x20000 -/
  dtc : BitVec 18 := 0x20000
  /-- [TRIM_SKEW.skew] 12 bits; 03 R82; reset 0 -/
  skew : BitVec 12 := 0
  /-- [TRIM_DUTY.duty] 8 bits; 03 R82; reset 0 -/
  duty : BitVec 8 := 0
  /-- [working K_DCO at the 8 knot bands, 1/16 Hz] 8 x 16 bits; 03 R63; reset empty (not loaded) -/
  kdco : List Int := []
  /-- [working band model at the 8 knots, 4 ppm] 8 x 16 bits; 16 R363; reset empty (not loaded) -/
  bandModel : List Int := []
  /-- [working DTC INL table] 16 x 8 bits; 03 R69; reset empty (not loaded) -/
  dtcInl : List Int := []
  /-- [working phase INL table] 16 x 8 bits; 06 R147; reset empty (not loaded) -/
  phInl : List Int := []
  /-- [DTC element selection applied in TH64 mode] 16 x 8 bits; 16 R393; reset empty -/
  elem : List Int := []
  deriving DecidableEq, Repr

/-- ENG_STATUS.state (R142). -/
inductive EngSt where
  | stopped | running | waiting | halted | late | fault
  deriving DecidableEq, Repr

/-- The outcomes of the checks of a profile at fetch, in their order (R95). -/
inductive FetchRes where
  | ok | uncorr | invalid | badCheck | lvds
  deriving DecidableEq, Repr

/-- What the engine has prepared towards its next action (R126). -/
structure Prep where
  /-- [instruction words issued on the prepared path: offset and word] 18 bits each; 05 R121, R126; reset none -/
  words : List (Nat × Word) := []
  /-- [HOP or HOPL at the end of the path: its offset and profile] 15 and 8 bits; 05 R126; reset none -/
  hop : Option (Nat × Nat) := none
  /-- [outcome of its profile fetch, and the ten words] record; 05 R126, 04 R95; reset none -/
  fetched : Option (FetchRes × List Word) := none
  deriving DecidableEq, Repr

/-- What a waiting engine waits for (R129 to R133). -/
inductive Wait where
  | none
  | edge (e : Nat)
  | time (c : BitVec 54)
  | event (cls idx : Nat) (tmo : Option Nat)
  | sync (tmo : Option Nat)
  | lock
  deriving DecidableEq, Repr

/-- A held engine or acquisition record and the records it counts (R141). -/
structure HeldRec where
  /-- [record words 0 to 7] 144 bits; 05 R141; reset none -/
  words : List Word
  /-- [records lost while held] 6 bits; 05 R141; reset none -/
  lost : Nat := 0
  deriving DecidableEq, Repr

/-- The hop engine of one physical cell (05). -/
structure Engine where
  /-- [ENG_STATUS.state] 3 bits; 05 R142; reset 0 (STOPPED) -/
  st : EngSt := .stopped
  /-- [ENG_PC.pc] 15 bits; 03 R82; reset 0 -/
  pc : Nat := 0
  /-- [schedule edge S] count; 05 R124; reset 0 -/
  s : Nat := 0
  /-- [extension E] up to 52 bits; 05 R123; reset 0 -/
  ext : Nat := 0
  /-- [EXT words accumulated] count; 05 R123; reset 0 -/
  extN : Nat := 0
  /-- [first word of the chain being issued] 15 bits; 05 R145; reset 0 -/
  chain : Nat := 0
  /-- [four loop counters] 24 bits each; 05 R135; reset 0 -/
  ctr : Tab Nat := []
  /-- [start offsets of the four loops] 15 bits each; 05 R135; reset 0 -/
  ctrStart : Tab Nat := []
  /-- [lock-lost flag] 1 bit; 05 R134; reset 0 -/
  lockLost : Bool := false
  /-- [ENG_STATUS.late] 1 bit; 05 R128; reset 0 -/
  late : Bool := false
  /-- [ENG_STATUS.fault] 1 bit; 05 R145; reset 0 -/
  fault : Bool := false
  /-- [ENGINE_LATE count] 18 bits, saturating; 05 R128; reset 0 -/
  lateCnt : Nat := 0
  /-- [words executed without S advancing] 13 bits; 05 R136; reset 0 -/
  noAdv : Nat := 0
  /-- [pending wait] record; 05 R142; reset none -/
  wait : Wait := .none
  /-- [prepared action] record; 05 R126; reset none -/
  prep : Option Prep := none
  /-- [edge on which the preparation of the next action began] count; 05 R126, R127; reset none -/
  prepFrom : Option Nat := none
  /-- [held engine record; ENG_STATUS.irq_pending is its presence] record; 05 R141; reset none -/
  held : Option HeldRec := none
  deriving DecidableEq, Repr

/-- One physical cell, 0..255 channel cells and 256..271 spares. -/
structure CellSt where
  /-- [channel values] record; 03, 04; reset as CellVals -/
  vals : CellVals := {}
  /-- [configuration] record; 03; reset as CellCfg -/
  cfg : CellCfg := {}
  /-- [loop] record; 03, 06; reset as CellLoop -/
  loop : CellLoop := {}
  /-- [output domain] record; 06; reset as CellOut -/
  out : CellOut := {}
  /-- [hops] record; 04; reset as CellHop -/
  hop : CellHop := {}
  /-- [trims] record; 03; reset as CellTrim -/
  trim : CellTrim := {}
  /-- [engine] record; 05; reset as Engine -/
  eng : Engine := {}
  /-- [offsets the host wrote directly while the cell was replaced (R18)] 32 flags; 04 R112; reset none -/
  own : List Nat := []
  deriving DecidableEq, Repr

/-! ### The block (01, 04, 17) -/

/-- Who asks the arbiter for the spare or the TIUs (R21); `map` is a repair map (R406). -/
inductive Requester where
  | fault | cal | online | offline | map | host
  deriving DecidableEq, Repr

/-- How a seated spare serves its channel (R406), as SWITCH_MAP.why encodes it. -/
inductive SeatWhy where
  | maintenance | fault | softMap | fusedMap
  deriving DecidableEq, Repr

/-- Steps of a seating or return (R114 to R116). -/
inductive SeatStep where
  | acquiring
  | changed
  deriving DecidableEq, Repr

/-- A seating or a return in progress in a block. -/
structure Seating where
  /-- [cell index c of the channel] 4 bits; 04 R114; reset none -/
  c : Nat
  /-- [for whom] enumeration; 01 R21; reset none -/
  req : Requester
  /-- [true: return S to X; false: seat X to S] 1 bit; 04 R116; reset none -/
  ret : Bool
  /-- [the return was forced to free the spare for channel m] 4 bits; 04 R115; reset none -/
  forcedFor : Option Nat := none
  /-- [acquiring, or past C and waiting for the switch] enumeration; 04 R114; reset none -/
  step : SeatStep := .acquiring
  /-- [edge of the fault detection, for record 0x10] count; 19 R430; reset none -/
  from_ : Nat := 0
  /-- [changeover edge C] count; 04 R114; reset 0 -/
  cAt : Nat := 0
  deriving DecidableEq, Repr

/-- One block: arbiter, output switch, sensor and events. -/
structure BlockSt where
  /-- [channel served by the spare, cell index c] 4 bits; 06 R163; reset none -/
  seated : Option Nat := none
  /-- [SWITCH_MAP.why: how the seated spare serves] 2 bits; 17 R406; reset 0 -/
  why : SeatWhy := .maintenance
  /-- [holder of the spare] enumeration; 01 R21; reset none -/
  holder : Option Requester := none
  /-- [cell index under maintenance by the holder] 4 bits; 04 R114; reset none -/
  holdCell : Option Nat := none
  /-- [requests waiting, oldest first: requester and tag of its command] queue; 01 R21; reset empty -/
  waiting : List (Requester × Nat) := []
  /-- [seating or return in progress] record; 04 R114; reset none -/
  seating : Option Seating := none
  /-- [fault recovery waiting for a forced return: cell index, detection edge] record; 01 R22; reset none -/
  recover : Option (Nat × Nat) := none
  /-- [channel cells that have failed] 16 flags; 01 R26; reset none -/
  failed : List Nat := []
  /-- [channels lost] 16 flags; 01 R26; reset none -/
  lost : List Nat := []
  /-- [SWITCH_MAP.spare_faulty] 1 bit; 01 R26; reset 0; kept by region and block resets (R411) -/
  spareFaulty : Bool := false
  /-- [TIUs held by a maintenance requester] 4 flags; 01 R21; reset none -/
  tiuHeld : List Nat := []
  /-- [SOFT_MAP.soft: channel cell of the soft map] 5 bits; 17 R411; reset none (kept by block and region resets) -/
  softMap : Option Nat := none
  /-- [SOFT_MAP.fused: channel cell of the fused map in use] 5 bits; 17 R408, R411; reset none (fuse) -/
  fusedMap : Option Nat := none
  /-- [OFFLINE period covers the block] 1 bit; 17 R402; reset 0 -/
  offline : Bool := false
  /-- [edge G at which the OFFLINE period of the block began] count; 09 R220, 17 R402; reset 0 -/
  offAt : Nat := 0
  /-- [BIST_STATUS.state] 3 bits; 17 R411; reset 0 -/
  bistState : Nat := 0
  /-- [BIST_STATUS.test] 3 bits; 17 R411; reset 7 -/
  bistTest : Nat := 7
  /-- [BIST_STATUS.pass] 6 bits; 17 R411; reset 0 -/
  bistPass : BitVec 6 := 0
  /-- [BIST_STATUS.fail] 6 bits; 17 R411; reset 0 -/
  bistFail : BitVec 6 := 0
  /-- [cells saved at edge G of an OFFLINE period] records; 17 R402; reset empty -/
  saved : Tab CellSt := []
  /-- [BLOCK_EVENTS] SQC; 19 R444; reset 0 -/
  events : Sqc := {}
  /-- [BLOCK_TJ.tj filtered, in 1/16 C] 18-bit value; 16 R367; reset 0 -/
  tj : Int := 0
  /-- [last 16 conversions, newest first, in 1/16 C] up to 16 values; 16 R367; reset empty -/
  tjHist : List Int := []
  /-- [sensor faulty] 1 bit; 16 R367; reset 0 -/
  sensorFault : Bool := false
  /-- [good conversions running since the fault] count; 16 R367; reset 0 -/
  sensorGood : Nat := 0
  /-- [temperature Tj_w of the working values, 1/16 C] 18-bit value; 16 R370; reset 0 -/
  tjw : Int := 0
  deriving DecidableEq, Repr

/-! ### Time-interval units (08) -/

/-- TIU_STATUS.state (R195). -/
inductive TiuState where
  | idle | precal | ready | running | outOfUse
  deriving DecidableEq, Repr

/-- The configuration of a TIU, as written or as latched at arm (R196). -/
structure TiuCfg where
  /-- [START_SRC] 12 bits; 08 R195; reset 0 -/
  start : Word := 0
  /-- [STOP_SRC] 12 bits; 08 R195; reset 0 -/
  stop : Word := 0
  /-- [TIMEOUT] 18 bits; 08 R195; reset 0x00100 -/
  timeout : Word := 0x100
  /-- [FREQ_CFG.pre] 3 bits; 08 R195; reset 3 -/
  pre : Nat := 3
  /-- [FREQ_CFG.res_lim] 4 bits; 08 R195; reset 5 -/
  resLim : Nat := 5
  /-- [FREQ_CFG.q] 11 bits; 08 R195; reset 1,024 -/
  q : Nat := 1024
  /-- [gate G in force] 36 bits; 08 R195; reset 800,000 -/
  gate : Nat := 800000
  /-- [arm time in force] 54 bits; 08 R195; reset 0 -/
  armTime : BitVec 54 := 0
  /-- [TIU_CTL.mode] 2 bits; 08 R187; reset 0 -/
  mode : Nat := 0
  /-- [TIU_CTL.at_time] 1 bit; 08 R195; reset 0 -/
  atTime : Bool := false
  deriving DecidableEq, Repr

/-- The fourteen result words of a TIU, in the order of offsets 0x10 to 0x1D. -/
structure TiuRes where
  /-- [RES_FLAGS] 18 bits; 08 R195; reset 0 -/
  flags : Word := 0
  /-- [START stamp, coarse and fine] 72 bits; 08 R195; reset 0 -/
  start : BitVec 72 := 0
  /-- [STOP stamp] 72 bits; 08 R195; reset 0 -/
  stop : BitVec 72 := 0
  /-- [IVL words] 72 bits; 08 R195; reset 0 -/
  ivl : BitVec 72 := 0
  /-- [RES_COUNT.k] 11 bits; 08 R195; reset 0 -/
  count : Nat := 0
  deriving DecidableEq, Repr

/-- One time-interval unit. -/
structure TiuSt where
  /-- [configuration registers] record; 08 R195; reset as TiuCfg -/
  cfg : TiuCfg := {}
  /-- [GATE_LO staged] 18 bits; 08 R195; reset 0x03500 -/
  gateLo : Word := 0x3500
  /-- [ARM_LO staged] 18 bits; 08 R195; reset 0 -/
  armLo : Word := 0
  /-- [ARM_MID staged] 18 bits; 08 R195; reset 0 -/
  armMid : Word := 0
  /-- [a gate commit that was not applied is pending] 1 bit; 08 R196; reset 0 -/
  gateBad : Bool := false
  /-- [TIU_STATUS.state less HELD, which the arbiter gives] 3 bits; 08 R195; reset 0 -/
  st : TiuState := .idle
  /-- [TIU_STATUS.cfg_err] 1 bit; 08 R195; reset 0 -/
  cfgErr : Bool := false
  /-- [TIU_STATUS.last] 4 bits; 08 R195; reset 0 -/
  last : Nat := 0
  /-- [configuration latched at arm] record; 08 R196; reset as TiuCfg -/
  run : TiuCfg := {}
  /-- [path delays d_x latched at arm for start and stop, 0.1 ps] values; 08 R180, 16 R373; reset 0 -/
  dly : Int × Int := (0, 0)
  /-- [EARLY_STOP] 18 bits; 08 R195; reset 0 -/
  early : Nat := 0
  /-- [PRECAL_A1] 11 bits; 08 R181; reset 0 -/
  a1 : Nat := 0
  /-- [PRECAL_A2] 11 bits; 08 R181; reset 0 -/
  a2 : Nat := 0
  /-- [PRECAL_B1] 11 bits; 08 R181; reset 0 -/
  b1 : Nat := 0
  /-- [PRECAL_B2] 11 bits; 08 R181; reset 0 -/
  b2 : Nat := 0
  /-- [pre-calibration accepted, READY waits for the arm time] 1 bit; 08 R186 step 3; reset 0 -/
  waitArm : Bool := false
  /-- [edge at which the TIU became READY and its time-out started] count; 08 R186; reset 0 -/
  readyAt : Nat := 0
  /-- [stamps of the present measurement, in 2^-18 CREF cycles, oldest first: edge count and stamp] list; 08 R191; reset empty -/
  stamps : List (Nat × Nat) := []
  /-- [start stamp taken] 72 bits; 08 R186; reset none -/
  sStart : Option (BitVec 72) := none
  /-- [stop stamp taken] 72 bits; 08 R186; reset none -/
  sStop : Option (BitVec 72) := none
  /-- [prescaled edges counted since stamp 0] count; 08 R191; reset 0 -/
  edges : Nat := 0
  /-- [edges towards the next prescaled edge] count; 08 R191; reset 0 -/
  preCnt : Nat := 0
  /-- [a changeover met the measurement] 1 bit; 08 R197; reset 0 -/
  seat : Bool := false
  /-- [consecutive FAULT results] count; 08 R182; reset 0 -/
  faults : Nat := 0
  /-- [tag of the TIU_ARM or FREQ_MEASURE] 9 bits; 08 R198; reset none -/
  tag : Option Nat := none
  /-- [result words] record; 08 R195; reset as TiuRes -/
  res : TiuRes := {}
  deriving DecidableEq, Repr

/-! ### Event inputs and acquisition (09) -/

/-- Settings of an event input in force: a written value comes into force on the next edge (R202). -/
structure EvinForce where
  /-- [comparators and sampler enabled] 1 bit; 09 R202; reset 0 -/
  on : Bool := false
  /-- [threshold of HI, its trim included] 1/64 mV; 09 R200; reset 0 -/
  hiV : Int := 0
  /-- [threshold of LO, its trim included] 1/64 mV; 09 R200; reset 0 -/
  loV : Int := 0
  /-- [half the hysteresis] 1/64 mV; 09 R200; reset 0 -/
  half : Int := 0
  /-- [termination connected] 1 bit; 09 R202; reset 0 -/
  term : Bool := false
  deriving DecidableEq, Repr

/-- One event input. -/
structure EvinSt where
  /-- [differential voltage on the pins] 1/64 mV; 09 R200; reset 0 (DESIGN CHOICE, log 62) -/
  volt : Int := 0
  /-- [what the comparators and the sampler run with] record; 09 R202; reset as EvinForce -/
  force : EvinForce := {}
  /-- [edge on which written settings come into force] count; 09 R202; reset none -/
  applyAt : Option Nat := none
  /-- [HI:LO in the previous sample] 2 bits; 09 R206; reset 0 -/
  smp : Nat := 0
  /-- [EVIN_CTL.store] 1 bit; 09 R204; reset 1 -/
  store : Bool := true
  /-- [EVIN_CTL.term] 1 bit; 09 R204; reset 0 -/
  term : Bool := false
  /-- [EVIN_CTL.hyst] 4 bits; 09 R204; reset 0 -/
  hyst : BitVec 4 := 0
  /-- [EVIN_CTL.en] 1 bit; 09 R204; reset 0 -/
  en : Bool := false
  /-- [THR_HI.code] 10 bits; 09 R204; reset 512 -/
  thrHi : BitVec 10 := 512
  /-- [THR_LO.code] 10 bits; 09 R204; reset 512 -/
  thrLo : BitVec 10 := 512
  /-- [EVIN_STATUS.cfg_err] 1 bit; 09 R204; reset 0 -/
  cfgErr : Bool := false
  /-- [output of the HI comparator, EVIN_STATUS.hi] 1 bit; 09 R204; reset 0 -/
  hi : Bool := false
  /-- [output of the LO comparator, EVIN_STATUS.lo] 1 bit; 09 R204; reset 0 -/
  lo : Bool := false
  /-- [edge from which transitions are sampled, 64 cycles after the enable] count; 02 R53, 09 R206; reset none -/
  settleAt : Option Nat := none
  /-- [input switched from its pins to the block's calibration source] 1 bit; 16 R381; reset 0 -/
  calSrc : Bool := false
  /-- [last stored HI:LO] 2 bits; 09 R219; reset 0 -/
  stored : Nat := 0
  /-- [TRIM_THR_HI.ofs] 8 bits; 09 R204; reset 0 -/
  trimHi : BitVec 8 := 0
  /-- [TRIM_THR_LO.ofs] 8 bits; 09 R204; reset 0 -/
  trimLo : BitVec 8 := 0
  /-- [TRIM_EV_SKEW.skew] 8 bits; 09 R204; reset 0 -/
  trimSkew : BitVec 8 := 0
  deriving DecidableEq, Repr

/-- One trigger condition: its registers and its measurement state (R209, R211). -/
structure Trig where
  /-- [TRIGn_CTL] 18 bits; 09 R211; reset 0 -/
  ctl : Word := 0
  /-- [TRIGn_T1] 18 bits; 09 R211; reset 0 -/
  t1 : Word := 0
  /-- [TRIGn_T2] 18 bits; 09 R211; reset 0 -/
  t2 : Word := 0
  /-- [TRIGn_CTL, T1 and T2 in force] words; 09 R222; reset 0 -/
  cond : Word × Word × Word := (0, 0, 0)
  /-- [edge from which the written registers are in force] count; 09 R222; reset none -/
  fromEdge : Option Nat := none
  /-- [sample at which the pulse, runt, slew or quiet time being measured began] count; 09 R209; reset none -/
  from_ : Option Nat := none
  /-- [which of the two directions is measured: positive runt or rising slew] 1 bit; 09 R209; reset 0 -/
  dir : Bool := false
  deriving DecidableEq, Repr

/-- ACQ_STATUS.state. -/
inductive AcqState where
  | idle | wait | post | rearm | done
  deriving DecidableEq, Repr

/-- One acquisition engine: registers. -/
structure AcqRegs where
  /-- [ACQ_STATUS.state] 3 bits; 09 R221; reset 0 -/
  st : AcqState := .idle
  /-- [ACQ_STATUS.cfg_err] 1 bit; 09 R221; reset 0 -/
  cfgErr : Bool := false
  /-- [ACQ_STATUS.done] 13 bits; 09 R221; reset 0 -/
  done : Nat := 0
  /-- [ACQ_EVENTS] SQC; 09 R221; reset 0 -/
  events : Sqc := {}
  /-- [STRAND_LEN.l] 17 bits; 09 R221; reset 1,024 -/
  l : BitVec 17 := 1024
  /-- [PRE_LEN.p] 17 bits; 09 R221; reset 256 -/
  p : BitVec 17 := 256
  /-- [STRAND_CNT.c] 13 bits; 09 R221; reset 1 -/
  c : BitVec 13 := 1
  /-- [POST_TIME_LO staged] 18 bits; 09 R221; reset 0 -/
  postLo : Word := 0
  /-- [POST_TIME in force] 36 bits; 09 R221; reset 0 -/
  post : Nat := 0
  /-- [MISSED_TRIG] 18 bits; 09 R221; reset 0 -/
  missed : Nat := 0
  /-- [LOST_BEADS] 18 bits; 09 R221; reset 0 -/
  lostBeads : Nat := 0
  /-- [GAP_COUNT] 18 bits; 09 R221; reset 0 -/
  gapCount : Nat := 0
  /-- [conditions TRIG0..TRIG7] records; 09 R211; reset each as Trig -/
  trigs : Tab Trig := []
  deriving DecidableEq, Repr

/-- One acquisition engine: the arm in progress. -/
structure AcqRun where
  /-- [L, P, C and POST_TIME latched at arm] record; 09 R212; reset 0 -/
  lat : Nat × Nat × Nat × Nat := (0, 0, 0, 0)
  /-- [edge A0 of the arm when strand 0 has not opened] count; 09 R215; reset none -/
  a0 : Option Nat := none
  /-- [bank key] 64 bits; 09 R217; reset 0 (DESIGN CHOICE, log 13) -/
  key : BitVec 64 := 0
  /-- [beads of the strand being captured, oldest first; pre-trigger ring in WAIT] list; 09 R213; reset empty -/
  beads : List (BitVec 36) := []
  /-- [pre-trigger beads kept at the trigger] count; 09 R216; reset 0 -/
  pre : Nat := 0
  /-- [banks of those beads, bead by bead] list; 09 R217; reset empty -/
  banks : List Nat := []
  /-- [initial states of the 64 inputs] 2 bits each; 09 R214; reset 0 -/
  init : Tab Nat := []
  /-- [sample of the last timed bead or labelled by the last TIME pair] count; 09 R207; reset none -/
  lastSample : Option Nat := none
  /-- [trigger sample, its stamp words, reason and hit mask] record; 09 R216; reset none -/
  trig : Option (Nat × List Word × Nat × Nat) := none
  /-- [the TRIGGER bead waits for the end of a gap] 1 bit; 09 R219; reset 0 -/
  trigPend : Bool := false
  /-- [edge at which POST ends by POST_TIME] count; 09 R215; reset none -/
  postEnd : Option Nat := none
  /-- [edge of the STRAND_END, for REARM] count; 09 R215; reset 0 -/
  endAt : Nat := 0
  /-- [missed triggers in the preceding REARM] count; 09 R216; reset 0 -/
  missedN : Nat := 0
  /-- [length of the preceding REARM in cycles] count; 09 R216; reset 0 -/
  blind : Nat := 0
  /-- [gap open: sample of the first discarded bead and beads discarded] record; 09 R219; reset none -/
  gap : Option (Nat × Nat) := none
  /-- [places in `beads` of the epoch pairs that it holds] list; 09 R216; reset empty -/
  epochs : List Nat := []
  /-- [comparator changes not yet sampled: sample, input, HI:LO before and after] list; 09 R205; reset empty -/
  changes : List (Nat × Nat × Nat × Nat) := []
  /-- [marks of the present edge, as the low words of their beads] list; 09 R208; reset empty -/
  marks : List Word := []
  /-- [GAPs of cause 2 and 3 due: cause and length] list; 09 R220; reset empty -/
  forced : List (Nat × Nat) := []
  /-- [a GAP has just been written: the sample resynchronises] 1 bit; 09 R219; reset 0 -/
  resync : Bool := false
  /-- [first sample not yet taken] count; 09 R205; reset 0 -/
  next : Nat := 0
  /-- [ACQ_ARM asked for per-strand records] 1 bit; 10 R238; reset 0 -/
  perStrand : Bool := false
  /-- [tag of the ACQ_ARM until A0] 9 bits; 11 R261; reset none -/
  armTag : Option Nat := none
  deriving DecidableEq, Repr

/-- One acquisition engine: memory, read-out and streaming. -/
structure AcqMem where
  /-- [event memory, bead positions of the region] 36 bits each, 262,144; 09 R217; reset 0 -/
  beads : Tab (BitVec 36) := []
  /-- [banks of those positions] 3 bits each; 09 R217; reset 0 -/
  banks : Tab Nat := []
  /-- [merge FIFO, as the banks of its beads, head first] at most 1,024 ordinary beads; 09 R218; reset empty -/
  fifo : List Nat := []
  /-- [beads in each of the eight bank queues] 0..32 each; 09 R218; reset 0 -/
  queues : List Nat := [0, 0, 0, 0, 0, 0, 0, 0]
  /-- [beads that the FIFO has accepted in the present cycle] 0..16 ordinary beads; 09 R218; reset 0 -/
  accepted : Nat := 0
  /-- [strand header table, 18 words per strand] 4,096 x 324 bits; 09 R216; reset 0 -/
  headers : Tab (List Word) := []
  /-- [held acquisition record] record; 05 R141, 10 R239; reset none -/
  held : Option HeldRec := none
  /-- [streaming enabled by ACQ_STREAM] 1 bit; 09 R224; reset 0 -/
  stream : Bool := false
  /-- [strands waiting to be streamed, and words of the present one still to send] list; 09 R224, 15 R358; reset empty -/
  sendQ : List Nat := []
  /-- [words of the strand already sent] count; 15 R358; reset 0 -/
  sent : Nat := 0
  /-- [strands reported lost to the stream] list; 09 R224; reset empty -/
  lostQ : List Nat := []
  deriving DecidableEq, Repr

/-- One acquisition engine. -/
structure AcqSt where
  /-- [registers] record; 09 R221; reset as AcqRegs -/
  regs : AcqRegs := {}
  /-- [arm in progress] record; 09 R215; reset as AcqRun -/
  run : AcqRun := {}
  /-- [memory and read-out] record; 09 R217; reset as AcqMem -/
  mem : AcqMem := {}
  deriving DecidableEq, Repr

/-! ### The mailbox (10) -/

/-- Where an accepted command stands (R232, R236). -/
inductive CmdSt where
  | accepted | waiting | executing
  deriving DecidableEq, Repr

/-- One accepted descriptor, in flight. -/
structure Cmd where
  /-- [tag] 9 bits; 10 R230; reset none -/
  tag : Nat
  /-- [opcode] 9 bits; 10 R230; reset none -/
  opcode : Nat
  /-- [target word] 18 bits; 10 R230; reset none -/
  target : Word
  /-- [fence] 1 bit; 10 R230; reset none -/
  fence : Bool
  /-- [no_wait] 1 bit; 10 R230; reset none -/
  noWait : Bool
  /-- [deadline] 54 bits; 10 R236; reset none -/
  deadline : Option (BitVec 54)
  /-- [operand words] up to 13 words; 10 R230; reset none -/
  args : List Word
  /-- [words of the descriptor, for MBX_SQ_FREE] 5 bits; 10 R227; reset none -/
  len : Nat
  /-- [stage] enumeration; 10 R236; reset accepted -/
  st : CmdSt := .accepted
  /-- [met a hold] 1 bit; 10 R235; reset 0 -/
  held : Bool := false
  /-- [continuation records still to write, then the completion: next seq, records, status, result] record; 10 R239; reset none -/
  out : Option (Nat × List (List Word) × Nat × List Word) := none
  /-- [the descriptor came through the tunnel] 1 bit; 15 R357; reset 0 -/
  tun : Bool := false
  /-- [progress of a command that executes in parts] words; 11; reset empty -/
  work : List Nat := []
  deriving DecidableEq, Repr

/-- The mailbox: queues and registers. -/
structure Mailbox where
  /-- [pending batch] up to 8,192 words; 10 R228; reset empty -/
  batch : List Word := []
  /-- [a word of the pending batch was discarded] 1 bit; 10 R228; reset 0 -/
  batchBad : Bool := false
  /-- [accepted batches not yet parsed] word lists; 10 R229; reset empty -/
  unparsed : List (List Word) := []
  /-- [accepted commands in flight, in acceptance order] list; 10 R231; reset empty -/
  cmds : List Cmd := []
  /-- [completion queue, oldest first] up to 1,024 records of 8 words; 10 R239; reset empty -/
  cq : List (List Word) := []
  /-- [words of the oldest record already popped] 3 bits; 10 R240; reset 0 -/
  popPos : Nat := 0
  /-- [MBX_REPOP0..7] 8 words; 10 R240; reset 0 -/
  repop : List Word := [0, 0, 0, 0, 0, 0, 0, 0]
  /-- [MBX_STATUS] SQC; 10 R227; reset 0 -/
  status : Sqc := {}
  /-- [MBX_DISCARD] 18 bits; 10 R227; reset 0 -/
  discard : Nat := 0
  /-- [MBX_COALESCE.err_now] 1 bit; 10 R241; reset 0 -/
  errNow : Bool := false
  /-- [MBX_COALESCE.thr] 11 bits; 10 R241; reset 1 -/
  thr : Nat := 1
  /-- [MBX_COAL_TIME] 18 bits; 10 R241; reset 0 -/
  coalTime : Word := 0
  /-- [the oldest record has been queued for t microseconds] 1 bit; 10 R241; reset 0 -/
  aged : Bool := false
  /-- [command whose continuation records are being written] 9 bits; 10 R239; reset none -/
  streaming : Option Nat := none
  /-- [MP restart in progress] 1 bit; 10 R243; reset 0 -/
  mpRestart : Bool := false
  deriving DecidableEq, Repr

/-! ### Power, pace, reset and faults (19, 20) -/

/-- READY_STATE.phase (R464). -/
inductive Phase where
  | reset | rom | wipe | xoQual | fwLoad | init | ready | recovery | stopped | lcWipe
  deriving DecidableEq, Repr

/-- Power, reset and start-up. -/
structure Power where
  /-- [power-on reset held: monitors not yet good for 1 ms] 1 bit; 20 R447; reset 1 -/
  porHeld : Bool := true
  /-- [RST_N low] pin; 20 R460; reset 0 (DESIGN CHOICE, log 6: the pin is high) -/
  rstLow : Bool := false
  /-- [reset-cause latch] 3 bits; 20 R459; reset 0 (power-on) -/
  latch : Nat := 0
  /-- [READY_STATE.phase] 4 bits; 20 R464; reset 0 -/
  phase : Phase := .reset
  /-- [READY_STATE.cause] 3 bits; 20 R464; reset 0 -/
  cause : Nat := 0
  /-- [READY_STATE.stop] 3 bits; 20 R464; reset 0 -/
  stop : Nat := 0
  /-- [READY pin] pin; 20 R458; reset 0 -/
  readyPin : Bool := false
  /-- [FRST_N driven high] pin; 14 R319; reset 0 (low) -/
  frstHigh : Bool := false
  /-- [boot ROM running, so FRST_N may be released after 10 us] 1 bit; 14 R319; reset 0 -/
  romRun : Bool := false
  /-- [wipe has ended: host frames served] 1 bit; 20 R463; reset 0 -/
  wiped : Bool := false
  /-- [rails outside their window above brown-out] 9 flags; 19 R438; reset none -/
  railOut : List Nat := []
  /-- [thermal warning in force] 1 bit; 19 R437; reset 0 -/
  thermWarn : Bool := false
  /-- [thermal shutdown in force] 1 bit; 19 R437; reset 0 -/
  thermShut : Bool := false
  /-- [GPIO[15:0] driven asserted by the device] 16 pins; 14 R320; reset 0 -/
  gpio : BitVec 16 := 0
  deriving DecidableEq, Repr

/-- PACE_STATUS.state (R456). -/
inductive PaceState where
  | steady | limitsDown | voltDown | voltUp | confirm | limitsUp | undervolt
  deriving DecidableEq, Repr

/-- The pace sequencer (20 R450 to R456). -/
structure Pace where
  /-- [PACE.level, admission limits in force] 2 bits; 20 R451; reset 2 -/
  limits : Nat := 2
  /-- [PACE_STATUS.target] 2 bits; 20 R456; reset 2 -/
  target : Nat := 2
  /-- [level in force before the transition] 2 bits; 20 R452; reset 2 -/
  level : Nat := 2
  /-- [PACE_STATUS.state] 3 bits; 20 R456; reset 0 -/
  st : PaceState := .steady
  /-- [transition suspended by an undervoltage] enumeration; 20 R453; reset none -/
  resume : Option PaceState := none
  /-- [PACE.pending: a request below P2 awaits the end of self-test] 2 bits; 20 R451; reset none -/
  pendingLevel : Option Nat := none
  /-- [PACE_STATUS.vmon in mV] 10 bits; 20 R456; reset 0 -/
  vmon : Nat := 0
  /-- [VID[2:0] driven level, none in high impedance] pins; 20 R450; reset none -/
  vid : Option Nat := none
  /-- [PACE_CTL.pmb_addr] 7 bits; 20 R456; reset 0x40 (power-on only) -/
  pmbAddr : BitVec 7 := 0x40
  /-- [PACE_CTL.pec] 1 bit; 20 R456; reset 0 (power-on only) -/
  pec : Bool := false
  /-- [PACE_CTL.mode] 1 bit; 20 R456; reset 0 (power-on only) -/
  mode : Bool := false
  /-- [PACE_CTL.mode written during a transition, with what the regulator answers to VOUT_MODE] record; 20 R453, R454; reset none -/
  modeWait : Option (Bool × Option Byte) := none
  /-- [exponent read from VOUT_MODE] 5-bit two's complement; 20 R454; reset 0 -/
  expo : Int := 0
  /-- [VOUT_COMMAND last written, none before] 16 bits; 20 R454; reset none -/
  vout : Option Nat := none
  /-- [PACE_EVENTS] SQC; 20 R456; reset 0 -/
  events : Sqc := {}
  /-- [PACE_ALERT.status] 16 bits; 20 R456; reset 0 -/
  alert : BitVec 16 := 0
  /-- [tag of the PACE_SET in progress] 9 bits; 20 R452; reset none -/
  tag : Option Nat := none
  /-- [the transition raises the level for self-test] 1 bit; 17 R399; reset 0 -/
  forTest : Bool := false
  deriving DecidableEq, Repr

/-- The fault FIFO, log ring and mirror (R440, R441). -/
structure FaultSt where
  /-- [fault FIFO, oldest first] 32 records of 8 words; 19 R441; reset empty -/
  fifo : List (List Word) := []
  /-- [records not stored for lack of room] 18 bits; 19 R441; reset 0 -/
  dropped : Nat := 0
  /-- [log ring, oldest first] 256 records of 8 words; 19 R441; reset empty -/
  ring : List (List Word) := []
  /-- [next entry number] 18 bits, wraps; 19 R440; reset 0 -/
  entry : BitVec 18 := 0
  /-- [records not yet mirrored to flash, oldest first] records; 19 R441; reset empty -/
  toMirror : List (List Word) := []
  /-- [FAULT_SUMMARY.mirror] 1 bit; 19 R441; reset 0 -/
  mirrorBad : Bool := false
  /-- [mirror write position] 13 bits; 19 R441; reset 0 (kept by every reset: it belongs to the flash) -/
  mirrorPos : Nat := 0
  /-- [third deadlock of one segment: FAULT_SUMMARY.chip by R434] 1 bit; 19 R434; reset 0 -/
  deadlockChip : Bool := false
  /-- [lead-region edges of the last deadlocks of each segment, key segment*16+unit, newest first] up to 2 counts; 19 R434; reset none -/
  deadlocks : Tab (List Nat) := []
  /-- [lead-region edges of the last MP restarts, newest first] up to 3 counts; 19 R433; reset none -/
  restarts : List Nat := []
  /-- [entries logged since reset, as FAULT_LOG_READ res1] 18 bits, saturating; 11 R267; reset 0 -/
  logged : Nat := 0
  /-- [calibration store fault in force (R389)] 1 bit; 16 R389; reset 0 -/
  calStore : Bool := false
  /-- [LOCKET check failure in force (R415)] 1 bit; 18 R415; reset 0 -/
  locketBad : Bool := false
  /-- [uncorrectable memory words known, as (memory, address key)] list; 19 R435; reset none -/
  badWords : List (Nat × Nat) := []
  /-- [words already logged by the scrub until rewritten] list; 19 R435; reset none -/
  eccLogged : List (Nat × Nat) := []
  deriving DecidableEq, Repr

/-! ### Host control (12, 13) -/

/-- CLASP (R296). -/
inductive ClaspSt where
  | shut | opened | locked
  deriving DecidableEq, Repr

/-- Host control registers that chapter 13 owns. -/
structure HostCtl where
  /-- [IRQ_ENABLE.en] 6 bits; 13 R312; reset 0x01 -/
  irqEnable : BitVec 6 := 1
  /-- [HOST_EVENTS] SQC; 13 R312; reset 0 -/
  events : Sqc := {}
  /-- [HOST_PIN_CFG.irq_pp] 1 bit; 13 R312; reset 0 -/
  irqPp : Bool := false
  /-- [HOST_PIN_CFG written since reset] 1 bit; 13 R301; reset 0 -/
  pinWritten : Bool := false
  /-- [WO_VIOLATION.addr] 18 bits; 13 R312; reset 0 -/
  woAddr : BitVec 18 := 0
  /-- [CLASP state] 2 bits; 13 R296; reset SHUT -/
  clasp : ClaspSt := .shut
  /-- [CLASP_FAIL.consec] 5 bits; 13 R298; reset 0 -/
  consec : Nat := 0
  /-- [snapshot latches of the host port, by address of the word] 18 bits each; 13 R294; reset 0 -/
  snapHost : Tab Word := []
  /-- [snapshot latches of firmware, by address of the word] 18 bits each; 13 R294; reset 0 -/
  snapFw : Tab Word := []
  /-- [registers whose parity mismatch the scrubber has reported, by address, with the value they hold] 18 bits each; 13 R303; reset none -/
  scrubbed : List (Nat × Word) := []
  deriving DecidableEq, Repr

/-! ### Calibration (16) -/

/-- Values of one item-point and the trace of R391. -/
structure CalVal where
  /-- [values] as R363; 16 R391; reset empty -/
  vals : List Int := []
  /-- [trace] 3 bits; 16 R391; reset 0 -/
  trace : Nat := 0
  deriving DecidableEq, Repr

/-- A set: item-points keyed code * 2^21 + unit * 2^5 + point, in the order of R391. -/
abbrev CalSet := Tab CalVal

/-- One bank of the calibration store (R386). -/
structure CalBank where
  /-- [FACTORY area readable and valid] 1 bit; 16 R388; reset 1 (kept by reset) -/
  facOk : Bool := true
  /-- [USER area] set; 16 R386; reset empty (kept by reset) -/
  user : CalSet := []
  /-- [USER area's CRC-32 and signature hold] 1 bit; 16 R388; reset 0 (kept by reset) -/
  userOk : Bool := false
  /-- [sequence number of the USER area] 36 bits; 16 R365; reset 0 (kept by reset) -/
  seq : Nat := 0
  /-- [refin field of the USER record in Hz] 32 bits; 16 R390; reset 0 (kept by reset) -/
  refin : Nat := 0
  /-- [pointer record copy: bank and sequence number, none when invalid] record; 16 R386; reset none (kept by reset) -/
  ptr : Option (Nat × Nat) := none
  deriving DecidableEq, Repr

/-- A unit of a CAL_RUN: 0 TIU, 1 EVIN, 2 channel cell, 3 spare, with its number. -/
structure CalUnit where
  /-- [kind of the unit] 2 bits; 16 R377; reset none -/
  kind : Nat
  /-- [unit number] 9 bits; 16 R377; reset none -/
  unit : Nat
  deriving DecidableEq, Repr

/-- One CAL_RUN in progress (R377). -/
structure CalRun where
  /-- [tag] 9 bits; 11 R262; reset none -/
  tag : Nat
  /-- [item mask] bits; 11 R262; reset none -/
  items : Word
  /-- [point] 3 bits; 11 R262; reset none -/
  point : Nat
  /-- [units still to do, per block in the order of R377, the granted one first] lists; 16 R377; reset empty -/
  todo : List (Nat × List CalUnit)
  /-- [units granted now, block] list; 16 R377; reset empty -/
  granted : List Nat := []
  /-- [items that entered, that were UNSTABLE, and that the pin check refused] counts; 11 R262; reset 0 -/
  counts : Nat × Nat × Nat := (0, 0, 0)
  /-- [units whose measurement waits for a seating or return to end: block, measured] list; 16 R378; reset empty -/
  done : List Nat := []
  /-- [interrupted: a unit ended early] status; 16 R385; reset none -/
  early : Option Nat := none
  deriving DecidableEq, Repr

/-- Calibration: store, pending set, runs and the bringing into force. -/
structure CalSt where
  /-- [bank 0] record; 16 R386; reset as CalBank -/
  bank0 : CalBank := {}
  /-- [bank 1] record; 16 R386; reset as CalBank -/
  bank1 : CalBank := {}
  /-- [FACTORY set, the same in both banks; an unlisted item-point has its nominal value (log 14)] set; 16 R364; reset empty (kept) -/
  factory : CalSet := []
  /-- [36-bit set counter] 36 bits; 16 R365; reset 0 (kept by reset) -/
  counter : Nat := 0
  /-- [USER set in force] set; 16 R366; reset empty -/
  user : CalSet := []
  /-- [bank of the set in force] 1 bit; 16 R387; reset 0 -/
  bank : Nat := 0
  /-- [sequence number of the set in force] 36 bits; 16 R387; reset 0 -/
  seq : Nat := 0
  /-- [FACTORY set found valid at start-up: CAL_STATUS res3] 1 bit; 16 R389; reset 0 -/
  facOk : Bool := false
  /-- [FACTORY sequence number] 18 bits; 11 R262; reset 1 (kept by reset: DESIGN CHOICE, log 14) -/
  facSeq : Word := 1
  /-- [values loaded into the cells since reset] 1 bit; 03 R83; reset 0 -/
  loaded : Bool := false
  /-- [USER set before the last commit, in force in event inputs until their application edge] set; 16 R373; reset empty -/
  prev : CalSet := []
  /-- [cells that have yet to take the set, with the USER set that each still has] list; 16 R371; reset empty -/
  deferred : List (Nat × CalSet) := []
  /-- [application edges still to come: region, edge, and the commit's immediate flag or none for a change of TH64 mode]
  list; 16 R372, R373, 22 R498; reset empty -/
  applyAt : List (Nat × Nat × Option Bool) := []
  /-- [pending set; none when there is none] set; 16 R387; reset none -/
  pend : Option CalSet := none
  /-- [REFIN_FREQ at the last REFIN-traced measurement entered] Hz; 16 R390; reset 0 -/
  pendRefin : Nat := 0
  /-- [CAL_RUNs in progress, in acceptance order] list; 16 R377; reset empty -/
  runs : List CalRun := []
  /-- [FACTORY record in the flash calibration copy, its layout there not given] bytes; 14 R335; reset empty (kept by reset) -/
  copyFac : List Byte := []
  /-- [USER record in the flash calibration copy] bytes; 14 R335; reset empty (kept by reset) -/
  copyUser : List Byte := []
  /-- [CAL_COMMIT being written: tag, immediate, new set, bank, sequence number] record; 16 R387; reset none -/
  commit : Option (Nat × Bool × CalSet × Nat × Nat) := none
  deriving DecidableEq, Repr

/-! ### Self-test and repair (17) -/

/-- The last outcome of one test on one target (R404). -/
structure TestRes where
  /-- [outcome: 0 never run, 1 PASS, 2 FAIL, 3 INCOMPLETE] 2 bits; 17 R404; reset 0 -/
  out : Nat := 0
  /-- [checkpoints passed] 18 bits; 17 R404; reset 0 -/
  passed : Nat := 0
  /-- [checkpoints failed] 18 bits; 17 R404; reset 0 -/
  failed : Nat := 0
  /-- [count applied] 36 bits; 17 R404; reset 0 -/
  count : Nat := 0
  /-- [signature] 36 bits; 17 R404; reset 0 -/
  sig : BitVec 36 := 0
  /-- [the run added soft memory repairs] 1 bit; 17 R404; reset 0 -/
  soft : Bool := false
  /-- [from a run that started before the cell's last fault record] 1 bit; 17 R404; reset 0 -/
  stale : Bool := false
  deriving DecidableEq, Repr

/-- What a self-test slot covers (R398). -/
inductive SlotKind where
  | online (n : Nat)
  | block (B : Nat)
  | region (r : Nat)
  deriving DecidableEq, Repr

/-- Stages of a BIST_RUN period. -/
inductive BistStage where
  | waitSlot | waitPace | waitGrant | testing | restoring
  deriving DecidableEq, Repr

/-- One BIST_RUN in progress. -/
structure BistRun where
  /-- [tag] 9 bits; 11 R263; reset none -/
  tag : Nat
  /-- [tests asked for, bits 0..5] 6 bits; 17 R395; reset none -/
  tests : BitVec 6
  /-- [periods still to run, the present one first] list; 17 R401; reset none -/
  periods : List SlotKind
  /-- [stage of the present period] enumeration; 17 R400, R402; reset waitSlot -/
  stage : BistStage := .waitSlot
  /-- [the spare is seated for the test (step 2, not 2X)] 1 bit; 17 R400; reset 0 -/
  seated : Bool := false
  /-- [tests passed, tests failed, tests incomplete so far] 6 bits each; 11 R263; reset 0 -/
  res : BitVec 6 × BitVec 6 × BitVec 6 := (0, 0, 0)
  /-- [duration so far in 10 us] count; 11 R263; reset 0 -/
  dur : Nat := 0
  /-- [cells that have faulted since the tests of the present period began] list; 17 R404; reset empty -/
  faulted : List Nat := []
  /-- [cut short with this status] status; 17 R405; reset none -/
  cut : Option Nat := none
  deriving DecidableEq, Repr

/-- One soft memory repair (R407). -/
structure MemRepair where
  /-- [region] 2 bits; 17 R408; reset none -/
  region : Nat
  /-- [memory] 4 bits; 17 R408; reset none -/
  mem : Nat
  /-- [row 0 or column 1] 1 bit; 17 R408; reset none -/
  rc : Nat
  /-- [spare row or column] 2 bits; 17 R408; reset none -/
  spare : Nat
  /-- [address] 13 bits; 17 R408; reset none -/
  addr : Nat
  deriving DecidableEq, Repr

/-- The self-test controller. -/
structure BistSt where
  /-- [results, keyed scope * 2^16 + unit * 8 + test] records; 17 R404; reset empty (never run) -/
  results : Tab TestRes := []
  /-- [BIST_RUNs in progress, in order of request] list; 17 R398; reset empty -/
  runs : List BistRun := []
  /-- [pace held at P2 or above, STC_GRANT.pace_hold] 1 bit; 17 R399; reset 0 -/
  paceHold : Bool := false
  /-- [soft memory repairs] list; 17 R407; reset empty -/
  soft : List MemRepair := []
  /-- [antifuse bank] 128 entries of 32 bits; 17 R408; reset empty entries (fuse: DESIGN CHOICE, log 4) -/
  fuse : Tab (BitVec 32) := []
  /-- [STC_FUSE_ADDR.entry] 7 bits; 17 R412; reset 0 -/
  fuseAddr : BitVec 7 := 0
  /-- [REPAIR_BURN in progress: tag, entries still to burn, cell-map block] record; 17 R409; reset none -/
  burn : Option (Nat × List (BitVec 32) × Option Nat) := none
  deriving DecidableEq, Repr

/-! ### Host serial port (12) -/

/-- The host port: HOST_CFG, HOST_STATUS and the frame bookkeeping. -/
structure HostPort where
  /-- [HOST_CFG.strict] 1 bit; 12 R272; reset 0 -/
  strict : Bool := false
  /-- [HOST_CFG.lanes] 1 bit; 12 R272; reset 0 -/
  lanes : Bool := false
  /-- [HOST_CFG.lat] 8 bits; 12 R272; reset 16 -/
  lat : BitVec 8 := 16
  /-- [HOST_CFG.wlen] 6 bits; 12 R272; reset 18 -/
  wlen : BitVec 6 := 18
  /-- [HOST_CFG values written in the present frame, in force at its release: strict, lanes, lat, wlen] record; 12 R271; reset none -/
  next : Option (Bool × Bool × BitVec 8 × BitVec 6) := none
  /-- [alive value expected next] 4 bits; 12 R279; reset 0 -/
  alive : BitVec 4 := 0
  /-- [HOST_STATUS.any_alive] 1 bit; 12 R272; reset 1 -/
  anyAlive : Bool := true
  /-- [HOST_STATUS.last_rej] 3 bits; 12 R272; reset 7 -/
  lastRej : Nat := 7
  /-- [HOST_STATUS.underrun] 1 bit; 12 R272; reset 0 -/
  underrun : Bool := false
  /-- [outcome of the preceding non-empty frame] 3 bits; 12 R276; reset 7 -/
  prev : Nat := 7
  /-- [prev_ign] 1 bit; 12 R276; reset 0 -/
  ign : Bool := false
  /-- [prev_busy] 1 bit; 12 R276; reset 0 -/
  busy : Bool := false
  /-- [prev_denied] 1 bit; 12 R276; reset 0 -/
  denied : Bool := false
  /-- [prev_fault] 1 bit; 12 R276; reset 0 -/
  fault : Bool := false
  /-- [consecutive empty frames] 0..15; 12 R288; reset 0 -/
  empties : Nat := 0
  /-- [bits driven on HSDO in the last frame, position 0 first] bit string; 12 R275; reset empty -/
  hsdo : List Bool := []
  deriving DecidableEq, Repr

/-! ### Flash port and boot (14) -/

/-- A program of the execution window that waits its turn: flash address and bytes within one page. -/
structure FlashPage where
  /-- [flash address] 32 bits; 14 R322; reset none -/
  addr : Nat
  /-- [bytes of the page] up to 256 bytes; 14 R322; reset none -/
  bytes : List Byte
  deriving DecidableEq, Repr

/-- The flash port and the flash devices on its selects. -/
structure FlashSt where
  /-- [FLASH_CFG.dummy] 5 bits; 14 R325; reset 16 -/
  dummy : BitVec 5 := 16
  /-- [FLASH_CFG.frst] 1 bit; 14 R325; reset 0 -/
  frst : Bool := false
  /-- [FLASH_CFG.clk_src] 1 bit; 14 R325; reset 0 -/
  clkSrc : Bool := false
  /-- [region whose CREF/4 clocks the port while FLASH_CFG.clk_src is set] 2 bits; 14 R318; reset none -/
  clkReg : Option Nat := none
  /-- [FLASH_CFG.div] 3 bits; 14 R325; reset 1 -/
  div : BitVec 3 := 1
  /-- [FLASH_CFG.mode] 2 bits; 14 R325; reset 0 -/
  mode : BitVec 2 := 0
  /-- [FLASH_CFG value held until the access in progress ends] 18 bits; 14 R318; reset none -/
  cfgNext : Option Word := none
  /-- [FLASH_STATUS.clk_fb] 1 bit; 14 R325; reset 0 -/
  clkFb : Bool := false
  /-- [FLASH_STATUS.poll_to] 1 bit; 14 R325; reset 0 -/
  pollTo : Bool := false
  /-- [FLASH_STATUS.sel_err] 1 bit; 14 R325; reset 0 -/
  selErr : Bool := false
  /-- [FLASH_STATUS.wp_err] 1 bit; 14 R325; reset 0 -/
  wpErr : Bool := false
  /-- [FLASH_STATUS.fifo_ovf] 1 bit; 14 R325; reset 0 -/
  fifoOvf : Bool := false
  /-- [FLASH_SEL.sel] 4 bits; 14 R325; reset 0 -/
  sel : BitVec 4 := 0
  /-- [selects in force while an access or poll runs] 4 bits; 14 R320; reset none -/
  selHeld : Option (BitVec 4) := none
  /-- [FLASH_WIN.page] 8 bits; 14 R325; reset 0 -/
  win : BitVec 8 := 0
  /-- [FLASH_WP_LO.sector] 18 bits; 14 R325; reset 0x3FFFF -/
  wpLo : Word := 0x3FFFF
  /-- [FLASH_WP_LO written since reset] 1 bit; 13 R301; reset 0 -/
  wpLoW : Bool := false
  /-- [FLASH_WP_HI.sector] 18 bits; 14 R325; reset 0 -/
  wpHi : Word := 0
  /-- [FLASH_WP_HI written since reset] 1 bit; 13 R301; reset 0 -/
  wpHiW : Bool := false
  /-- [FLASH_POLL.t] 18 bits; 14 R325; reset 0x04E20 -/
  poll : Word := 0x4E20
  /-- [FLASH_CMD less go] 17 bits; 14 R325; reset 0 -/
  cmd : Word := 0
  /-- [FLASH_ADDR_LO] 18 bits; 14 R325; reset 0 -/
  addrLo : Word := 0
  /-- [FLASH_ADDR_HI.a_hi] 14 bits; 14 R325; reset 0 -/
  addrHi : BitVec 14 := 0
  /-- [FLASH_LEN.n] 9 bits; 14 R325; reset 1 -/
  len : BitVec 9 := 1
  /-- [FLASH_DATA FIFO] up to 256 bytes; 14 R325; reset empty -/
  fifo : List Byte := []
  /-- [WIP poll in progress: of the sequencer (1) or of a window program (0)] 1 bit; 14 R322, R326; reset none -/
  polling : Option Bool := none
  /-- [window programs that wait for the poll] list; 14 R322; reset empty -/
  queue : List FlashPage := []
  /-- [selects to which nothing is sent until FLASH_CFG is written] 4 flags; 14 R323; reset 0 -/
  dead : BitVec 4 := 0
  /-- [bytes returned by the last window read; none after a bus error] byte; 14 R321; reset none -/
  busData : Option Byte := none
  /-- [a window access ended in a bus error to the MP] 1 bit; 14 R320, R323; reset 0 -/
  busErr : Bool := false
  /-- [contents of the flash on select g, key g * 2^32 + address; an unlisted byte reads 0xFF (log 7)] bytes; 14 R327; reset erased (kept by every reset: DESIGN CHOICE, log 7) -/
  mem : Tab Byte := []
  deriving DecidableEq, Repr

/-- What the boot ROM and firmware hold about images (14 R328 to R338). -/
structure BootSt where
  /-- [configuration record in use: flags] 8 bits; 14 R328; reset 0 -/
  flags : Byte := 0
  /-- [configuration record in use: dummy] 8 bits; 14 R328; reset 0 -/
  dummy : Byte := 0
  /-- [configuration record in use: region sources] 8 bits; 14 R328; reset 0 -/
  src : Byte := 0
  /-- [declared XO frequency in kHz, as the configuration record holds it] 32 bits; 02 R37, 14 R328; reset 50,000 -/
  xoKhz : Nat := 50000
  /-- [region sources of the configuration record that firmware has still to select: region, source] list; 02 R43; reset empty -/
  want : List (Nat × Src) := []
  /-- [slots the ROM tries, in order] slots A 0 and B 1; 14 R333; reset empty -/
  order : List Nat := []
  /-- [running image slot] 1 bit; 14 R333; reset none -/
  slot : Option Nat := none
  /-- [SHA-256 of the running image body] 256 bits; 18 R425; reset 0 -/
  digest : BitVec 256 := 0
  /-- [the running image is an unconfirmed trial] 1 bit; 14 R333; reset 0 -/
  trial : Bool := false
  /-- [FW_VERSION] 18 bits; 13 R309; reset 0 -/
  version : Word := 0
  /-- [firmware update begun: image length; none otherwise] bytes; 14 R337; reset none -/
  upd : Option Nat := none
  /-- [bytes of the update accepted so far] count; 11 R267; reset 0 -/
  got : Nat := 0
  /-- [bytes staged and not yet programmed] up to 4,096 bytes; 14 R337; reset empty -/
  buf : List Byte := []
  deriving DecidableEq, Repr

/-! ### LOCKET and sessions (18) -/

/-- What LOCKET holds through every reset (R413). -/
structure Locket where
  /-- [device private key, never read] 256 bits; 18 R413; reset LOCKET, 0 (DESIGN CHOICE, log 5) -/
  priv : BitVec 256 := 0
  /-- [device public key, x then y] 512 bits; 18 R413; reset LOCKET, 0 (DESIGN CHOICE, log 5) -/
  pub : BitVec 512 := 0
  /-- [device certificate, DER] up to 1,024 bytes; 18 R413; reset LOCKET, empty (DESIGN CHOICE, log 5) -/
  cert : List Byte := []
  /-- [serial number] 72 bits; 18 R413; reset LOCKET, 0 (DESIGN CHOICE, log 5) -/
  serial : BitVec 72 := 0
  /-- [lot] 36 bits; 18 R413; reset LOCKET, 0 (DESIGN CHOICE, log 5) -/
  lot : BitVec 36 := 0
  /-- [wafer] 8 bits; 18 R413; reset LOCKET, 0 (DESIGN CHOICE, log 5) -/
  wafer : Byte := 0
  /-- [die x] 8 bits; 18 R413; reset LOCKET, 0 (DESIGN CHOICE, log 5) -/
  dieX : Byte := 0
  /-- [die y] 8 bits; 18 R413; reset LOCKET, 0 (DESIGN CHOICE, log 5) -/
  dieY : Byte := 0
  /-- [LIFECYCLE.state] 3 bits; 18 R416; reset LOCKET, 2 FIELD (DESIGN CHOICE, log 5) -/
  lc : Nat := 2
  /-- [LIFECYCLE.wipe_pending] 1 bit; 18 R416; reset LOCKET, 0 (DESIGN CHOICE, log 5) -/
  wipe : Bool := false
  /-- [owner public key slot] 512 bits or empty; 18 R413; reset LOCKET, empty (DESIGN CHOICE, log 5) -/
  owner : Option (BitVec 512) := none
  /-- [PIN hash and salt; LIFECYCLE.pin_set is its presence] 256 + 128 bits; 18 R420; reset LOCKET, empty (DESIGN CHOICE, log 5) -/
  pin : Option (BitVec 256 × BitVec 128) := none
  /-- [consecutive-failure count] 4 bits; 18 R420; reset LOCKET, 0 (DESIGN CHOICE, log 5) -/
  fails : Nat := 0
  /-- [protection table, Observer row] 32 bits; 18 R423; reset LOCKET, 0x20005201 (default of R423) -/
  prot0 : BitVec 32 := 0x20005201
  /-- [protection table, Operator row] 32 bits; 18 R423; reset LOCKET, 0x381FFFFF (default of R423) -/
  prot1 : BitVec 32 := 0x381FFFFF
  /-- [protection table, Owner row] 32 bits; 18 R423; reset LOCKET, 0xFFFFFFFF (default of R423) -/
  prot2 : BitVec 32 := 0xFFFFFFFF
  /-- [number of an item whose stored CRC-32 does not check, none when all check (model of the CRC-32s)] number; 18 R415; reset LOCKET, none (DESIGN CHOICE, log 5) -/
  badItem : Option Nat := none
  /-- [minimum firmware security epoch] 32 bits; 18 R413; reset LOCKET, 0 (DESIGN CHOICE, log 5) -/
  minEpoch : BitVec 32 := 0
  /-- [lifetime faults at cell, block, region and chip level] 4 x 32 bits; 18 R425; reset LOCKET, 0 (DESIGN CHOICE, log 5) -/
  faults : Nat × Nat × Nat × Nat := (0, 0, 0, 0)
  /-- [lifetime hours] 32 bits; 18 R425; reset LOCKET, 0 (DESIGN CHOICE, log 5) -/
  hours : Nat := 0
  deriving DecidableEq, Repr

/-- Sessions and the security commands in progress. -/
structure SecSt where
  /-- [session level of the host port: 0 Observer, 1 Operator, 2 Owner, 3 Vendor] 2 bits; 18 R419; reset 0 -/
  host : Nat := 0
  /-- [session level of the tunnel] 2 bits; 11 R266; reset 0 -/
  tunnel : Nat := 0
  /-- [challenge outstanding: its level and 32 bytes] record; 18 R421; reset none -/
  chal : Option (Nat × BitVec 256) := none
  /-- [signature words of SESSION_OPEN steps 1 and 2 staged] up to 24 words; 11 R254; reset empty -/
  sig : List Word := []
  /-- [eight consecutive wrong PINs: Operator requests are locked out] 1 bit; 18 R420; reset 0 -/
  locked : Bool := false
  /-- [SESSION_OPEN whose wrong PIN delays its completion] tag; 18 R420; reset none -/
  pinTag : Option Nat := none
  /-- [staged words of OWNER_TRANSFER, and the next part] words; 11 R254; reset empty, 0 -/
  ownStage : List Word × Nat := ([], 0)
  /-- [wipe in progress: tag of its command, none when a start-up repeats it; new owner key of a transfer] record; 18 R429; reset none -/
  wiping : Option (Option Nat × Option (BitVec 512)) := none
  deriving DecidableEq, Repr

/-! ### Plawen link and tree (15) -/

/-- PL_STATUS.state. -/
inductive PortState where
  | off | los | locking | ident | measure | run
  deriving DecidableEq, Repr

/-- A block or frame handed to a port's transmitter (R339). -/
inductive LinkBlock where
  | time (x : Nat) (t1 : BitVec 54) (ddn : Word)
  | epoch (value tl : BitVec 54)
  | event (m : Nat) (edge10 : BitVec 10)
  | join (boundary : BitVec 54)
  | ident (serial3 : Word) (depth path : Nat)
  | tunnel (path : Nat) (up : Bool) (words : List Word)
  | credit (n : Nat)
  | stream (path r strand : Nat) (lost : Bool) (words : List Word)
  deriving DecidableEq, Repr

/-- One Plawen port, 0 UP and 1..4 DN0..DN3. -/
structure PortSt where
  /-- [PL_CTL.en] 1 bit; 15 R362; reset 1 -/
  en : Bool := true
  /-- [PL_CTL.up_mode, UP window only] 2 bits; 15 R362; reset 0 -/
  upMode : Nat := 0
  /-- [PL_STATUS.state] 3 bits; 15 R362; reset 0 (OFF) -/
  st : PortState := .off
  /-- [training stopped at step 2] 1 bit; 15 R341; reset 0 -/
  stopped : Bool := false
  /-- [PL_STATUS.evt_long] 1 bit; 15 R362; reset 0 -/
  evtLong : Bool := false
  /-- [PL_EVENTS] SQC; 15 R362; reset 0 -/
  events : Sqc := {}
  /-- [PL_ASYM_EXT, DN windows] 18 bits; 15 R362; reset 0 -/
  asymExt : Word := 0
  /-- [PL_ONEWAY] 18 bits; 15 R362; reset 0 -/
  oneway : Word := 0
  /-- [PL_ASYM_INT] 18 bits; 15 R362; reset 0 -/
  asymInt : Word := 0
  /-- [PL_CRC_ERR] 18 bits, saturating; 15 R362; reset 0 -/
  crcErr : Nat := 0
  /-- [PL_RETRAINS] 18 bits, saturating; 15 R362; reset 0 -/
  retrains : Nat := 0
  /-- [PL_PARTNER] 18 bits; 15 R362; reset 0 -/
  partner : Word := 0
  /-- [SERIAL3 the partner sent in its IDENT block] 18 bits; 15 R341; reset 0 -/
  ident : Word := 0
  /-- [lead-region edges of the last invalid sync headers, newest first] up to 15 counts; 15 R342; reset empty -/
  badHdr : List Nat := []
  /-- [number of the next time exchange] count; 15 R346; reset 0 -/
  xnum : Nat := 0
  /-- [t1 of the last exchange sent] 54 bits; 15 R347; reset 0 -/
  t1 : BitVec 54 := 0
  /-- [credits held as sender] count; 15 R359; reset 0 -/
  credits : Nat := 0
  /-- [blocks and frames handed to the transmitter, in the order of R340, until they have left] list; 15 R340; reset empty -/
  tx : List LinkBlock := []
  /-- [line blocks already sent of the frame under way, key its priority] counts; 15 R340; reset 0 -/
  part : Tab Nat := []
  /-- [line blocks due since the last one left, in 1/128 of a block of 6.4 ns] 0..127; 15 R340; reset 0 -/
  phase : Nat := 0
  deriving DecidableEq, Repr

/-- An event in the fabric that this device has still to register (R354). -/
structure FabEvent where
  /-- [mark number] 8 bits; 15 R354; reset none -/
  m : Nat
  /-- [emission edge M as coarse time] 54 bits; 15 R354; reset none -/
  at_ : BitVec 54
  /-- [delivery edge M + 160, counted in edges of the region that named M] count; 15 R354; reset none -/
  due : Nat
  /-- [that region] 2 bits; 15 R354; reset none -/
  r : Nat
  /-- [emitted by this device] 1 bit; 15 R354, R360; reset none -/
  own : Bool
  deriving DecidableEq, Repr

/-- A tunnelled command in flight at the manager (R357). -/
structure Tunnel where
  /-- [tag of TREE_TUNNEL] 9 bits; 15 R357; reset none -/
  tag : Nat
  /-- [path of the worker] 15 bits; 15 R357; reset none -/
  path : Nat
  /-- [continuation and completion words returned so far] words; 11 R265; reset empty -/
  got : List Word := []
  deriving DecidableEq, Repr

/-- The tree registers of the UP window and the fabric's state. -/
structure TreeSt where
  /-- [TREE_CTL.join_en] 1 bit; 15 R362; reset 1 -/
  joinEn : Bool := true
  /-- [TREE_CTL.evt_en] 1 bit; 15 R362; reset 1 -/
  evtEn : Bool := true
  /-- [depth and ports that the parent assigned, as TREE_STATE.path] 8 bits; 15 R343; reset 0 -/
  path : Nat := 0
  /-- [TREE_STATE.state of a worker: 1 TRAINING, 2 JOINED, 3 ALIGNED] 2 bits; 15 R362; reset 3 -/
  st : Nat := 3
  /-- [ALIGN_ERR in 0.1 ps] 18-bit two's complement, saturating; 15 R362; reset 0 -/
  alignErr : Int := 0
  /-- [offsets of the last 16 exchanges, newest first, 0.1 ps] up to 16 values; 15 R347; reset empty -/
  theta : List Int := []
  /-- [the parent reported ALIGNED] 1 bit; 15 R349; reset 0 -/
  parentAligned : Bool := false
  /-- [EVT_LATE] 18 bits, saturating; 15 R362; reset 0 -/
  evtLate : Nat := 0
  /-- [FWD_MARK0..3.mark] 4 x 8 bits; 15 R362; reset 248 + r -/
  fwd : List Nat := [248, 249, 250, 251]
  /-- [join boundary announced by the parent] 54 bits; 15 R352; reset none -/
  joinAt : Option (BitVec 54) := none
  /-- [events still to register on M + 160] list; 15 R354; reset empty -/
  fab : List FabEvent := []
  /-- [events of devices below that went up towards the manager, kept until M + 160 so that equal ones merge] list; 15 R354; reset empty -/
  passed : List FabEvent := []
  /-- [events due while the UP link was down, to be counted in EVT_LATE on rejoin] count; 15 R360; reset 0 -/
  missed : Nat := 0
  /-- [the previous EPOCH block, so that its second sending is not forwarded again] record; 15 R339; reset none -/
  lastEpoch : Option (BitVec 54 × BitVec 54) := none
  /-- [tunnels in flight] list; 15 R357; reset empty -/
  tunnels : List Tunnel := []
  /-- [tunnelled descriptors that wait for room in the submission queue] list; 15 R357; reset empty -/
  inbox : List (List Word) := []
  /-- [stream packets waiting to be forwarded to UP: path, region, strand, lost, words] list; 15 R358; reset empty -/
  packets : List (Nat × Nat × Nat × Bool × List Word) := []
  deriving DecidableEq, Repr

/-! ### Pins (21) -/

/-- Pins and the test access port. -/
structure Pins where
  /-- [TEV_P/N differential levels] 8 pins; 21 R472; reset 0 -/
  tev : BitVec 8 := 0
  /-- [TEV receivers and terminations on] 1 bit; 21 R472; reset 0 -/
  tevOn : Bool := false
  /-- [edge on which the pulse of each MARKO pin ends, with its region, key the pin] counts; 05 R140, 21 R473; reset none -/
  marko : Tab (Nat × Nat) := []
  /-- [JTAG instruction register] 8 bits; 21 R489; reset 0x02 IDCODE (TAP reset only: power-on and TRST_N) -/
  jtag : Byte := 0x02
  deriving DecidableEq, Repr

/-! ### The whole device -/

/-- Fuses and identity (00 R4, 13 R309, 17 R408). -/
structure Fuses where
  /-- [ID_VARIANT] 18 bits; 00 R4; reset fuse, 0x1FFFF (MQ256-X packaged: DESIGN CHOICE, log 4) -/
  variant : BitVec 18 := 0x1FFFF
  /-- [ID_STEPPING] 18 bits; 13 R309; reset fuse, 0x00011 (B1: DESIGN CHOICE, log 4) -/
  stepping : BitVec 18 := 0x00011
  /-- [REPLACEMENT_CLASS] 18 bits; 13 R309, 22 R494; reset fuse, 0x00410 (DESIGN CHOICE, log 4) -/
  replClass : BitVec 18 := 0x00410
  deriving DecidableEq, Repr

structure State where
  /-- [commands waiting, first in first out (model)] queue; reset empty -/
  pending : List Instr := []
  /-- [free-value counter (model), log 8] count; reset 0 (DESIGN CHOICE, log 8) -/
  free : Nat := 0
  fuses : Fuses := {}
  pwr : Power := {}
  pace : Pace := {}
  ref : RefChip := {}
  /-- [regions 0..3] -/
  regions : Tab RegionSt := []
  rmem : Tab RegionMem := []
  /-- [blocks 4r+b, 0..15] -/
  blocks : Tab BlockSt := []
  /-- [physical cells 0..271] -/
  cells : Tab CellSt := []
  /-- [TIUs 0..63] -/
  tius : Tab TiuSt := []
  /-- [event inputs 0..255] -/
  evins : Tab EvinSt := []
  /-- [acquisition engines 0..3] -/
  acqs : Tab AcqSt := []
  /-- [profile memory, word w of profile p of channel n at n*1920 + p*10 + w] 18 bits each; 04 R90; reset 0 -/
  profiles : Tab Word := []
  /-- [hop-table memory, word a of region r at r*32768 + a] 18 bits each; 05 R118; reset 0 -/
  hopTab : Tab Word := []
  mbx : Mailbox := {}
  flt : FaultSt := {}
  hc : HostCtl := {}
  cal : CalSt := {}
  bist : BistSt := {}
  hp : HostPort := {}
  fl : FlashSt := {}
  boot : BootSt := {}
  lk : Locket := {}
  sec : SecSt := {}
  /-- [Plawen ports 0 UP, 1..4 DN0..DN3] -/
  ports : Tab PortSt := []
  tree : TreeSt := {}
  pins : Pins := {}
  /-- [events registered or about to register on the event paths: region, WAITE class, index, edge R] list; 05 R130 (model); reset empty -/
  evRegs : List (Nat × Nat × Nat × Nat) := []
  deriving DecidableEq, Repr

/-- Reasons for which a step could stop with a fault. None is raised: every access of the model is to
storage that exists, an absent or reserved address reads zero and ignores writes (R5, R305). -/
inductive Fault where
  /-- Raised by nothing; kept so that the type is inhabited. Safe. -/
  | unreachable
  deriving DecidableEq, Repr

/-- Reasons for which a command is refused. -/
inductive Refusal where
  /-- Raised by Dispatch.lean for a command that has no meaning yet, named by its mnemonic. Safe. -/
  | notModelled (mnemonic : String)
  deriving DecidableEq, Repr

/-- The machine right after reset: the chip is held in power-on reset with every register at the reset
value of its rule (R10, R461), every memory zero-filled, and nothing waiting. -/
def State.reset : State := {}

end Sys2Proof.Machine
end

