-- ==== Sys2Proof/Machine/Operands.lean ====
section
/-! DEFINITION. Operand forms: fields of words, unit numbering (R13 to R16), presence in the variant
(R4, R5), the descriptor's fields (R230) and the hop engine's instruction word (R122). -/
namespace Sys2Proof.Machine
open Sys2Proof

/-- The number held in bits lo + n - 1 .. lo of a word. -/
def fld (w : Word) (lo n : Nat) : Nat := w.toNat / 2 ^ lo % 2 ^ n

/-- Bit k of a word. -/
def bitOf (w : Word) (k : Nat) : Bool := w.getLsbD k

/-- A native word from a number, modulo 2^18. -/
def wd (n : Nat) : Word := BitVec.ofNat 18 n

/-- 1 for true, 0 for false. -/
def b2n (b : Bool) : Nat := if b then 1 else 0

/-- A two's-complement field of n bits read as an integer. -/
def sgn (v n : Nat) : Int := if v % 2 ^ n < 2 ^ (n - 1) then (v % 2 ^ n : Nat) else (v % 2 ^ n : Nat) - 2 ^ n

/-- The n-bit two's-complement pattern of an integer, as a number. -/
def unsgn (v : Int) (n : Nat) : Nat := (v % (2 ^ n : Nat)).toNat

/-- The number formed by words given lowest first. -/
def ofWords : List Word → Nat
  | [] => 0
  | w :: ws => w.toNat + 2 ^ 18 * ofWords ws

/-- Addition that keeps a counter at its maximum (R439). -/
def satAdd (max a b : Nat) : Nat := if a + b < max then a + b else max

/-! Unit numbering -/

/-- Region of a physical cell (R13, R15). -/
def cellRegion (p : Nat) : Nat := if p < 256 then p / 64 else (p - 256) / 4

/-- Block index 4r + b of a physical cell. -/
def cellBlock (p : Nat) : Nat := if p < 256 then p / 16 else p - 256

/-- Cell index within its block: 0..15, and 16 for the spare (R15). -/
def cellIdx (p : Nat) : Nat := if p < 256 then p % 16 else 16

/-- The spare of block B (R15). -/
def spareOf (B : Nat) : Nat := 256 + B

/-- Channel cell c of block B. -/
def chanOf (B c : Nat) : Nat := 16 * B + c

/-- Region of a TIU 16r + 4b + t. -/
def tiuRegion (t : Nat) : Nat := t / 16

/-- Block index of a TIU. -/
def tiuBlock (t : Nat) : Nat := t / 4

/-! Register windows (R304, R310) -/

/-- First address of region r. -/
def regionBase (r : Nat) : Nat := 0x20000 + 0x8000 * r

/-- First address of block B. -/
def blockBase (B : Nat) : Nat := regionBase (B / 4) + 0x1000 * (B % 4)

/-- First address of the window of a physical cell. -/
def cellBase (p : Nat) : Nat := blockBase (cellBlock p) + 0x40 * cellIdx p

/-- First address of the window of a TIU. -/
def tiuBase (t : Nat) : Nat := blockBase (t / 4) + 0x800 + 0x40 * (t % 4)

/-- Base address of the window of event input i (R204). -/
def evinBase (i : Nat) : Nat := regionBase (i / 64) + 0x6000 + 16 * (i % 64)

/-! Presence in the variant (R4) -/

def regionPresent (s : State) (r : Nat) : Bool := decide (r < 4) && s.fuses.variant.getLsbD (13 + r)
def acqPresent (s : State) (r : Nat) : Bool := regionPresent s r && s.fuses.variant.getLsbD (9 + r)
def tiuPresent (s : State) (t : Nat) : Bool :=
  decide (t < 64) && regionPresent s (tiuRegion t) && s.fuses.variant.getLsbD (5 + t % 4)
def portPresent (s : State) (i : Nat) : Bool := decide (i < 5) && s.fuses.variant.getLsbD i
def cellPresent (s : State) (p : Nat) : Bool := decide (p < 272) && regionPresent s (cellRegion p)
def blockPresent (s : State) (B : Nat) : Bool := decide (B < 16) && regionPresent s (B / 4)

/-- The present regions, in order. -/
def presentRegions (s : State) : List Nat := [0, 1, 2, 3].filter (regionPresent s)

/-! Targets (R16, R230) -/

/-- Scope of a target word. -/
def tgtScope (w : Word) : Nat := fld w 15 3

/-- Index of a target word. -/
def tgtIndex (w : Word) : Nat := fld w 0 15

/-- Word 1 that names a unit (R230). -/
def unitWord (scope index : Nat) : Word := wd (scope * 2 ^ 15 + index)

/-! Engine instructions (R122) -/

/-- Opcode of a hop-table word, bits 17..13. -/
def engOpc (w : Word) : Nat := fld w 13 5

/-- Operand of a hop-table word, bits 12..0. -/
def engArg (w : Word) : Nat := fld w 0 13

/-- EXT words an instruction may carry (R122). -/
def extAllowed (opc : Nat) : Nat :=
  if opc = 0x04 then 2 else if opc = 0x05 then 3
  else if opc = 0x06 ∨ opc = 0x07 ∨ opc = 0x09 ∨ opc = 0x0B ∨ opc = 0x0D ∨ opc = 0x0E ∨ opc = 0x0F then 1 else 0

end Sys2Proof.Machine
end

