-- ==== Sys2Proof/Machine/Ops.lean ====
section
/-! DEFINITION. The operations every family shares: tables, status registers, unit access, system time,
fault records, completion records, and the free-value counter. -/
namespace Sys2Proof.Machine
open Sys2Proof

/-! ### Tables -/

/-- The entry of a table at k; an unlisted entry reads as the default. -/
def tabGet {α : Type} (d : α) : Tab α → Nat → α
  | [], _ => d
  | (k', v) :: t, k => if k' = k then v else tabGet d t k

/-- The table with an entry put at its place by key, over one that stands there. -/
def tabIns {α : Type} : Tab α → Nat → α → Tab α
  | [], k, v => [(k, v)]
  | (k', v') :: t, k, v =>
    if k < k' then (k, v) :: (k', v') :: t
    else if k = k' then (k, v) :: t
    else (k', v') :: tabIns t k v

/-- The table with entry k set, in canonical form: keys rising, no entry equal to the default. -/
def tabSet {α : Type} [DecidableEq α] (d : α) (t : Tab α) (k : Nat) (v : α) : Tab α :=
  if v = d then t.filter (fun e => decide (e.1 ≠ k)) else tabIns t k v

/-- The table without the entries whose key satisfies f: they read as the default again. -/
def tabDrop {α : Type} (f : Nat → Bool) (t : Tab α) : Tab α := t.filter (fun e => ! f e.1)

/-- The table with f applied to every listed entry, in canonical form. -/
def tabMap {α : Type} [DecidableEq α] (d : α) (f : Nat → α → α) (t : Tab α) : Tab α :=
  (t.map (fun e => (e.1, f e.1 e.2))).filter (fun e => decide (e.2 ≠ d))

/-- Canonical form of a table: keys strictly rising, no entry equal to the default. -/
abbrev tabWf {α : Type} [DecidableEq α] (d : α) (t : Tab α) : Prop :=
  t.Pairwise (fun a b => a.1 < b.1) ∧ ∀ e ∈ t, e.2 ≠ d

/-- A list of words stored at consecutive keys from k. -/
def tabPut (t : Tab Word) (k : Nat) : List Word → Tab Word
  | [] => t
  | w :: ws => tabPut (tabSet 0 t k w) (k + 1) ws

/-- n consecutive words from key k. -/
def tabWords (t : Tab Word) (k n : Nat) : List Word := (List.range n).map (fun i => tabGet 0 t (k + i))

/-! ### Unit access -/

def State.region (s : State) (r : Nat) : RegionSt := tabGet {} s.regions r
def State.updRegion (s : State) (r : Nat) (f : RegionSt → RegionSt) : State :=
  { s with regions := tabSet {} s.regions r (f (s.region r)) }
def State.mem (s : State) (r : Nat) : RegionMem := tabGet {} s.rmem r
def State.updMem (s : State) (r : Nat) (f : RegionMem → RegionMem) : State :=
  { s with rmem := tabSet {} s.rmem r (f (s.mem r)) }
def State.block (s : State) (B : Nat) : BlockSt := tabGet {} s.blocks B
def State.updBlock (s : State) (B : Nat) (f : BlockSt → BlockSt) : State :=
  { s with blocks := tabSet {} s.blocks B (f (s.block B)) }
def State.cell (s : State) (p : Nat) : CellSt := tabGet {} s.cells p
def State.updCell (s : State) (p : Nat) (f : CellSt → CellSt) : State :=
  { s with cells := tabSet {} s.cells p (f (s.cell p)) }
def State.tiu (s : State) (t : Nat) : TiuSt := tabGet {} s.tius t
def State.updTiu (s : State) (t : Nat) (f : TiuSt → TiuSt) : State :=
  { s with tius := tabSet {} s.tius t (f (s.tiu t)) }
def State.evin (s : State) (i : Nat) : EvinSt := tabGet {} s.evins i
def State.updEvin (s : State) (i : Nat) (f : EvinSt → EvinSt) : State :=
  { s with evins := tabSet {} s.evins i (f (s.evin i)) }
def State.acq (s : State) (r : Nat) : AcqSt := tabGet {} s.acqs r
def State.updAcq (s : State) (r : Nat) (f : AcqSt → AcqSt) : State :=
  { s with acqs := tabSet {} s.acqs r (f (s.acq r)) }

/-- Advances the counter behind the free values. -/
def State.tick (s : State) : State := { s with free := s.free + 1 }

/-- Applies f for every element of a list, in order. -/
def forAll {α : Type} (l : List α) (f : State → α → State) (s : State) : State := l.foldl f s

/-! ### Sequence-cleared status (R299, R300) -/

/-- The occurrences of one instant: their bits set, seq advanced once, the count since the last read advanced to at most 64. -/
def Sqc.post (q : Sqc) (bits : BitVec 12) : Sqc :=
  { q with seq := q.seq + 1, ev := q.ev ||| bits, count := if q.count < 64 then q.count + 1 else 64 }

/-- Event bit k occurs. -/
def Sqc.postBit (q : Sqc) (k : Nat) : Sqc := q.post (1#12 <<< k)

/-- The word a read returns. -/
def Sqc.word (q : Sqc) : Word := q.seq ++ q.ev

/-- A read of the register word: the read mark is set and the count restarts. -/
def Sqc.read (q : Sqc) : Sqc := { q with readMark := true, count := 0 }

/-- A write-back: clears the masked events when the sequence matches and the register is not refusing; the flag tells a refusal. -/
def Sqc.writeBack (q : Sqc) (v : Word) : Sqc × Bool :=
  if v.extractLsb' 12 6 = q.seq ∧ q.count < 64 then
    ({ q with ev := q.ev &&& ~~~(v.extractLsb' 0 12) }, true)
  else (q, false)

def State.postRef (s : State) (r k : Nat) : State :=
  s.updRegion r (fun x => { x with refEvents := x.refEvents.postBit k })
def State.postRegion (s : State) (r k : Nat) : State :=
  s.updRegion r (fun x => { x with regionEvents := x.regionEvents.postBit k })
def State.postBlock (s : State) (B k : Nat) : State :=
  s.updBlock B (fun x => { x with events := x.events.postBit k })
/-- A counter of cell p has gone on from state s to t: COUNTER_SAT is posted where it saturates (R439, R444). -/
def State.cellSat (s t : State) (p : Nat) (f : CellSt → Nat) : State :=
  if f (s.cell p) < 0x3FFFF ∧ f (t.cell p) = 0x3FFFF then t.postBlock (cellBlock p) 8 else t
/-- Region r is in TH64 mode, as the checks of commands take it (R498). -/
def State.th64On (s : State) (r : Nat) : Bool := bitOf (s.mem r).th64 16
def State.postHost (s : State) (k : Nat) : State := { s with hc.events := s.hc.events.postBit k }
def State.postMbx (s : State) (k : Nat) : State := { s with mbx.status := s.mbx.status.postBit k }
def State.postPace (s : State) (k : Nat) : State := { s with pace.events := s.pace.events.postBit k }
def State.postAcq (s : State) (r k : Nat) : State :=
  s.updAcq r (fun x => { x with regs.events := x.regs.events.postBit k })

/-- The snapshot latches of the n words from address a hold zeros again, and their registers have fresh parity: a reset of
their scope (R294, R303). -/
def clearSnaps (s : State) (a n : Nat) : State :=
  let f := fun k => decide (a ≤ k) && decide (k < a + n)
  { s with
    hc.snapHost := tabDrop f s.hc.snapHost, hc.snapFw := tabDrop f s.hc.snapFw,
    hc.scrubbed := s.hc.scrubbed.filter (fun x => ! f x.1) }

/-- A write to the register at address a computes its parity afresh, so a later mismatch is reported again (R303). -/
def State.parityFresh (s : State) (a : Nat) : State :=
  { s with hc.scrubbed := s.hc.scrubbed.filter (fun x => decide (x.1 ≠ a)) }

/-! ### System time (R56, R57) -/

/-- A time C is reached at T when (T - C) mod 2^54 < 2^53 (R57). -/
def reached (now c : BitVec 54) : Bool := decide ((now - c).toNat < 2 ^ 53)

/-- Coarse time of a region at CREF edge e (R56). -/
def timeAt (g : RegionSt) (e : Nat) : BitVec 54 := g.time + BitVec.ofNat 54 e - BitVec.ofNat 54 g.edge

/-- The first edge at or after the present one on which the coarse time is c, when c is not yet reached. -/
def edgeOf (g : RegionSt) (c : BitVec 54) : Nat := g.edge + (c - g.time).toNat

/-- The 64-bit anchor count of a region (R99). -/
def anchor (g : RegionSt) : Nat := g.anchorHi.toNat * 2 ^ 54 + g.time.toNat

/-- The lowest-numbered present region that is not in reset. -/
def leadRegion (s : State) : Option Nat := (presentRegions s).find? (fun r => ! (s.region r).inReset)

/-- Time stamp words: coarse high, middle, low and fine (R56). -/
def stampWords (c : BitVec 54) (fine : Word) : List Word :=
  [c.extractLsb' 36 18, c.extractLsb' 18 18, c.extractLsb' 0 18, fine]

/-- Stamp of the present edge of a region. -/
def nowStamp (s : State) (r : Nat) : List Word := stampWords (s.region r).time 0

/-- Stamp for chip-level records: the lowest-numbered running region, zero when none runs (R440). -/
def chipStamp (s : State) : List Word :=
  match leadRegion s with
  | some r => nowStamp s r
  | none => [0, 0, 0, 0]

/-! ### Fault records (R440, R441) -/

/-- Firmware runs, so it moves records from the FIFO into the ring and mirrors them. -/
def mpRuns (s : State) : Bool :=
  ! s.mbx.mpRestart && (decide (s.pwr.phase = .init) || decide (s.pwr.phase = .ready))

/-- The ring with records appended, the oldest overwritten beyond 256. -/
def ringAdd (ring rs : List (List Word)) : List (List Word) :=
  (ring ++ rs).drop ((ring ++ rs).length - 256)

/-- Firmware moves the FIFO into the log ring and queues the records for the mirror. -/
def drainFifo (s : State) : State :=
  { s with
    flt.ring := ringAdd s.flt.ring s.flt.fifo, flt.logged := satAdd 0x3FFFF s.flt.logged s.flt.fifo.length,
    flt.toMirror := s.flt.toMirror ++ s.flt.fifo, flt.fifo := [] }

/-- The lifetime counter of a level advances (R425). -/
def countFault (c : Nat × Nat × Nat × Nat) (level : Nat) : Nat × Nat × Nat × Nat :=
  let up := satAdd 0xFFFFFFFF
  if level = 0 then (up c.1 1, c.2) else if level = 1 then (c.1, up c.2.1 1, c.2.2)
  else if level = 2 then (c.1, c.2.1, up c.2.2.1 1, c.2.2.2) else (c.1, c.2.1, c.2.2.1, up c.2.2.2 1)

/-- One fault record (R440): level, cause, action and qualifier, unit word, detail, stamped by `st`. -/
def faultRecord (entry : BitVec 18) (level cause action qual : Nat) (unit : Word) (st : List Word) (detail : Word) : List Word :=
  wd (2 ^ 17 + level * 2 ^ 15 + cause * 2 ^ 8 + action * 16 + qual) :: unit :: st ++ [detail, entry]

/-- Hardware writes a record into the FIFO, or counts it when the FIFO is full; running firmware moves it on (R441). -/
def pushFault (s : State) (level cause action qual : Nat) (unit : Word) (st : List Word) (detail : Word) : State :=
  let s1 : State :=
    if s.flt.fifo.length < 32 then
      { s with flt.fifo := s.flt.fifo ++ [faultRecord s.flt.entry level cause action qual unit st detail],
               flt.entry := s.flt.entry + 1, lk.faults := countFault s.lk.faults level }
    else { s with flt.dropped := satAdd 0x3FFFF s.flt.dropped 1 }
  if mpRuns s1 then drainFifo s1 else s1

/-- Record of a fault in a cell. -/
def faultCell (s : State) (p cause action qual : Nat) (detail : Word) : State :=
  pushFault s 0 cause action qual (unitWord 3 p) (nowStamp s (cellRegion p)) detail

/-- Record of a fault of block B, with the block event it posts. -/
def faultBlock (s : State) (B cause action qual : Nat) (detail : Word) (evBit : Nat) : State :=
  (pushFault s 1 cause action qual (unitWord 2 B) (nowStamp s (B / 4)) detail).postBlock B evBit

/-- Record of a fault of region r, with the region event it posts. -/
def faultRegion (s : State) (r cause action qual : Nat) (detail : Word) (evBit : Nat) : State :=
  (pushFault s 2 cause action qual (unitWord 1 r) (nowStamp s r) detail).postRegion r evBit

/-- Record of a chip fault. -/
def faultChip (s : State) (cause action qual : Nat) (detail : Word) : State :=
  pushFault s 3 cause action qual 0 (chipStamp s) detail

/-! ### Completion records (R237 to R240) -/

/-- Status codes (R245). -/
abbrev OK : Nat := 0
abbrev DEFERRED : Nat := 1
abbrev BUSY : Nat := 2
abbrev DENIED : Nat := 3
abbrev BADARG : Nat := 4
abbrev BADTARGET : Nat := 5
abbrev TIMEOUT : Nat := 6
abbrev ABORTED : Nat := 7
abbrev FAULT : Nat := 8
abbrev INCOMPLETE : Nat := 9
abbrev UNSTABLE : Nat := 10
abbrev PRECOND : Nat := 11
abbrev ABSENT : Nat := 12

/-- A list of exactly n words: cut, or filled with zeros. -/
def padTo (n : Nat) (ws : List Word) : List Word := (ws ++ List.replicate n 0).take n

/-- A command completion record (R238 kind 0). -/
def cmdRecord (c : Cmd) (status : Nat) (dup : Bool) (res : List Word) : List Word :=
  [wd (2 ^ 17 + status * 2 ^ 9 + c.tag), c.target,
   wd (c.opcode * 2 ^ 9 + b2n dup * 2 ^ 8 + b2n c.held * 2 ^ 7 + b2n c.deadline.isSome * 2 ^ 6 + min res.length 5)]
  ++ padTo 5 res

/-- A continuation record (R237, R238 kind 3). -/
def contRecord (tag seq : Nat) (data : List Word) : List Word :=
  wd (2 ^ 17 + 3 * 2 ^ 15 + (seq % 64 / 16) * 2 ^ 13 + (seq % 16) * 2 ^ 9 + tag) :: padTo 7 data

/-- The accepted command that holds a tag. -/
def findCmd (s : State) (tag : Nat) : Option Cmd := s.mbx.cmds.find? (fun c => c.tag == tag)

/-- A RESET of that scope and unit is in progress (R462). -/
def resetOn (s : State) (scope unit : Nat) : Bool :=
  s.mbx.cmds.any (fun c => decide (c.opcode = 0x002) && decide (c.st = .executing) && decide (c.target = unitWord scope unit))

/-- A write of the host port into a region window: only an Owner or Vendor session makes it (R286). -/
def ownerWrite (s : State) (f : State → State) : State := if s.sec.host < 2 then { s with hp.denied := true } else f s

/-- A write of the host port to the chip control register at address a (R286, R303, R314). -/
def chipWrite (s : State) (a : Nat) (f : State → State) : State := ownerWrite s fun s => f (s.parityFresh a)

/-- Replaces the command of that tag. -/
def setCmd (s : State) (tag : Nat) (f : Cmd → Cmd) : State :=
  { s with mbx.cmds := s.mbx.cmds.map (fun c => if c.tag = tag then f c else c) }

/-- Records the queue has room for beyond the open reservations (R239). -/
def cqFree (s : State) : Nat := 1024 - s.mbx.cq.length - s.mbx.cmds.length

/-- Appends a record to the completion queue. -/
def cqPush (s : State) (rec_ : List Word) : State := { s with mbx.cq := s.mbx.cq ++ [rec_] }

/-- The status a command reports: OK becomes DEFERRED when the command met a hold (R235). -/
def finalStatus (c : Cmd) (status : Nat) : Nat := if c.held = true ∧ status = OK then DEFERRED else status

/-- Position of a block in a transmitter's order (R340). -/
def LinkBlock.prio : LinkBlock → Nat
  | .time .. => 0 | .epoch .. => 1 | .event .. => 2 | .join .. => 3 | .ident .. => 3
  | .tunnel .. => 4 | .credit .. => 5 | .stream .. => 6

/-- A block joins a transmitter's queue behind those of its priority and above (R340). -/
def txAdd (b : LinkBlock) : List LinkBlock → List LinkBlock
  | [] => [b]
  | x :: xs => if b.prio < x.prio then b :: x :: xs else x :: txAdd b xs

/-- Line blocks of 64 bits that a queued item takes: a frame has its two delimiters and its words, a stream group of 32
words nine blocks (R339, R358). -/
def LinkBlock.blocks : LinkBlock → Nat
  | .tunnel _ _ ws => 2 + (18 * ws.length + 63) / 64
  | .stream _ _ _ _ ws => 2 + 9 * ((ws.length + 31) / 32)
  | _ => 1

/-- A block leaves: that of the first item in the order of priority, which is done with its last block (R340). -/
def PortSt.sendOne (p : PortSt) : PortSt :=
  match p.tx with
  | [] => p
  | b :: bs =>
    let n := tabGet 0 p.part b.prio + 1
    if b.blocks ≤ n then { p with tx := bs, part := tabSet 0 p.part b.prio 0 } else { p with part := tabSet 0 p.part b.prio n }

/-- The transmitter over one CREF cycle of 1.25 ns: a block takes 6.4 ns, so 25/128 of one passes (R340). -/
def PortSt.launch (p : PortSt) : PortSt :=
  if p.phase + 25 < 128 then { p with phase := p.phase + 25 } else { p with phase := p.phase + 25 - 128 }.sendOne

def State.port (s : State) (i : Nat) : PortSt := tabGet {} s.ports i
def State.updPort (s : State) (i : Nat) (f : PortSt → PortSt) : State :=
  { s with ports := tabSet {} s.ports i (f (s.port i)) }

/-- Hands a block to the transmitter of a port. -/
def sendBlock (s : State) (i : Nat) (b : LinkBlock) : State := s.updPort i (fun p => { p with tx := txAdd b p.tx })

/-- A record of a command goes to the completion queue, or up the tunnel that the command came through (R357). -/
def recordOut (s : State) (tun : Bool) (rec_ : List Word) : State :=
  if tun then sendBlock s 0 (.tunnel s.tree.path true rec_) else cqPush s rec_

/-- Writes the completion record of a command and takes the command out of execution. -/
def complete (s : State) (tag status : Nat) (res : List Word) : State :=
  match findCmd s tag with
  | none => s
  | some c =>
    let s1 : State := { s with mbx.cmds := s.mbx.cmds.filter (fun x => x.tag != tag),
                               mbx.streaming := if s.mbx.streaming = some tag then none else s.mbx.streaming }
    recordOut s1 c.tun (cmdRecord c (finalStatus c status) false res)

/-- Writes continuation records while there is room; answers the next sequence number and what is left. -/
def pumpGo (tun : Bool) (tag : Nat) : Nat → List (List Word) → State → Nat × List (List Word) × State
  | n, [], s => (n, [], s)
  | n, d :: ds, s =>
    if tun = true ∨ 0 < cqFree s then pumpGo tun tag (n + 1) ds (recordOut s tun (contRecord tag n d)) else (n, d :: ds, s)

/-- Writes the continuation records of a command as far as the queue has room, then its completion (R239). -/
def pump (s : State) (tag : Nat) : State :=
  match findCmd s tag with
  | none => s
  | some c =>
    match c.out with
    | none => s
    | some (n, ds, status, res) =>
      if s.mbx.streaming = none ∨ s.mbx.streaming = some tag then
        match pumpGo c.tun tag n ds s with
        | (_, [], s1) => complete s1 tag status res
        | (n1, ds1, s1) =>
          setCmd { s1 with mbx.streaming := some tag } tag (fun c => { c with out := some (n1, ds1, status, res) })
      else s

/-- Cuts words into the seven-word data of continuation records. -/
def chunks7 : Nat → List Word → List (List Word)
  | 0, _ => []
  | _ + 1, [] => []
  | n + 1, w :: ws => (w :: ws).take 7 :: chunks7 n ((w :: ws).drop 7)

/-- Ends a command with continuation data followed by its completion. -/
def completeWith (s : State) (tag status : Nat) (data res : List Word) : State :=
  if data = [] then complete s tag status res
  else pump (setCmd s tag (fun c => { c with out := some (0, chunks7 data.length data, status, res), st := .executing })) tag

/-- An engine or acquisition record (R238 kinds 1 and 2). -/
def untaggedRecord (kind status : Nat) (target : Word) (cause lost low : Nat) (w3 : Word) (stamp : List Word) : List Word :=
  [wd (2 ^ 17 + kind * 2 ^ 15 + status * 2 ^ 9), target, wd (cause * 2 ^ 14 + lost * 2 ^ 8 + low), w3] ++ stamp

/-- The record with its lost count filled in, saturating at 63 (R141). -/
def withLost (rec_ : List Word) (lost : Nat) : List Word :=
  match rec_ with
  | w0 :: w1 :: w2 :: rest => w0 :: w1 :: wd (w2.toNat + min lost 63 * 2 ^ 8) :: rest
  | _ => rec_

/-- The mailbox can take an untagged record now. -/
def cqAccepts (s : State) : Bool := decide (0 < cqFree s) && ! s.mbx.mpRestart

/-- What becomes of an untagged record: posted, held, or counted by the held one (R141, R239). -/
def postUntagged (s : State) (held : Option HeldRec) (rec_ : List Word) : State × Option HeldRec :=
  match held with
  | some h => (s, some { h with lost := satAdd 63 h.lost 1 })
  | none =>
    if cqAccepts s then (cqPush s rec_, none)
    else (if 0 < cqFree s then s else s.postMbx 5, some { words := rec_ })

end Sys2Proof.Machine
end

