-- ==== Sys2Proof/Machine/Anchor.lean ====
section
/-! DEFINITION. Frequency and phase in exact arithmetic: the anchor rule (R100), continuity (R103), the
falling and rising edges it gives (R79, R109), and the limits on committed values (R72, R79, R80). Times
are CREF cycles of the region's anchor count. -/
namespace Sys2Proof.Machine
open Sys2Proof

/-- f_DCO / f_CREF: N + F/2^36 or N + K/M (R71). -/
def ratio (f : Freq) : Rat :=
  (f.n.toNat : Rat) + (if f.mode then (f.k.toNat : Rat) / (f.m.toNat : Rat) else (f.f.toNat : Rat) / (2 ^ 36 : Nat))

/-- The output frequency in periods per CREF cycle (R100). -/
def rho (f : Freq) (d l : Nat) : Rat := ratio f / ((d * l : Nat) : Rat)

/-- A 36-bit phase as a fraction of the output period. -/
def turns (ofs : BitVec 36) : Rat := (ofs.toNat : Rat) / (2 ^ 36 : Nat)

/-- The fractional part, in [0, 1). -/
def fract (x : Rat) : Rat := x - (x.floor : Rat)

/-- The phase wrapped into (-1/2, 1/2]. -/
def wrapHalf (x : Rat) : Rat := if fract x ≤ 1 / 2 then fract x else fract x - 1

/-- Count of the anchor rule at time a: an integer k exactly at A_k (R100). -/
def phaseAt (rho phi delta a : Rat) : Rat := a * rho - phi - delta

/-- The first rising edge A_k at or after time t (R100). -/
def firstAnchor (rho phi delta t : Rat) : Rat := (((phaseAt rho phi delta t).ceil : Rat) + phi + delta) / rho

/-- The first falling edge strictly after time t: half a period behind a rising edge (R78). -/
def firstFall (rho phi delta t : Rat) : Rat :=
  ((((phaseAt rho phi delta t - 1 / 2).floor + 1 : Int) : Rat) + 1 / 2 + phi + delta) / rho

/-- Delta that leaves the output phase `ph` unchanged at time a under new rho and phi (R103). -/
def contDelta (rho phi ph a : Rat) : Rat := fract (a * rho - phi - ph)

/-- rho of the values in force. -/
def CellVals.rho (v : CellVals) : Rat := Machine.rho v.freq v.d.toNat v.l.toNat

/-- rho of what the dividers divide by now. -/
def CellSt.rhoNow (c : CellSt) : Rat := Machine.rho c.vals.freq c.out.dNow.toNat c.out.lNow.toNat

/-- rho, phi and Delta of the waveform that runs: while a re-timing waits for its falling edge, those from before it
(R109); otherwise the present ones. -/
def CellSt.running (c : CellSt) : Rat × Rat × Rat := c.out.run.getD (c.rhoNow, turns c.vals.phi, c.vals.delta)

/-- The running output phase at time a. -/
def CellSt.phaseNow (c : CellSt) (a : Rat) : Rat := phaseAt c.running.1 c.running.2.1 c.running.2.2 a

/-- The first falling output edge after time a: of an output held low, the one behind its first rise (R79, R166). -/
def CellSt.nextFall (c : CellSt) (a : Rat) : Rat :=
  if c.out.heldLow then c.out.riseAt.getD a + 1 / (2 * c.vals.rho)
  else firstFall c.running.1 c.running.2.1 c.running.2.2 a

/-! ### Limits on committed values -/

/-- A frequency value that a commit accepts (R72). -/
def freqOk (f : Freq) : Bool :=
  decide (10 ≤ f.n.toNat) && decide (f.n.toNat ≤ 20)
  && (if f.mode then decide (2 ≤ f.m.toNat) && decide (f.k.toNat < f.m.toNat)
        && (decide (f.n.toNat ≠ 20) || decide (f.k.toNat = 0))
      else decide (f.n.toNat ≠ 20) || decide (f.f.toNat = 0))

/-- A divider pair that a commit accepts (R79). -/
def divOk (d l : Nat) : Bool := decide (2 ≤ d) && decide (d ≤ 4096) && decide (1 ≤ l)

/-- f_out at 1 GHz or above: 800 MHz x ratio / (D L) (R80). -/
def aboveLvds (f : Freq) (d l : Nat) : Bool := decide (5 * ((d * l : Nat) : Rat) ≤ 4 * ratio f)

/-- Two frequency values give the same frequency in force: mode, N and the words of that mode (R73, R107). -/
def sameFreq (a b : Freq) : Bool :=
  decide (a.mode = b.mode) && decide (a.n = b.n)
  && (if a.mode then decide (a.k = b.k) && decide (a.m = b.m) else decide (a.f = b.f))

end Sys2Proof.Machine
end

