-- ==== Sys2Proof/Machine/Flags.lean ====
section
/-! DEFINITION. Every status and flag the device computes from its state: lock states (R155), CELL_STATUS
(R82), the TOUT state (R165), FAULT_SUMMARY and FAULT_N (R442, R443). -/
namespace Sys2Proof.Machine
open Sys2Proof

/-- Cell index of the channel that this cell's block serves from its spare. -/
def seatedIn (s : State) (p : Nat) : Option Nat := (s.block (cellBlock p)).seated

/-- The physical cell in service for channel n (R13, R17). -/
def inService (s : State) (n : Nat) : Nat :=
  if seatedIn s n = some (cellIdx n) then spareOf (cellBlock n) else n

/-- The channel a physical cell drives, if any (R19). -/
def channelOf (s : State) (p : Nat) : Option Nat :=
  if p < 256 then (if seatedIn s p = some (cellIdx p) then none else some p)
  else (seatedIn s p).map (chanOf (cellBlock p))

/-- The channel of a channel cell, or of a spare that serves one or is being seated (R19, R112). -/
def chanName (s : State) (p : Nat) : Nat :=
  if p < 256 then p
  else match (s.block (cellBlock p)).seating with
    | some q => chanOf (cellBlock p) q.c
    | none => match seatedIn s p with
      | some c => chanOf (cellBlock p) c
      | none => p

/-- The other cell that mirrors this one while a seating or return is in progress (R113). -/
def mirrorOf (s : State) (p : Nat) : Option Nat :=
  match (s.block (cellBlock p)).seating with
  | none => none
  | some q =>
    if p = chanOf (cellBlock p) q.c then some (spareOf (cellBlock p))
    else if p = spareOf (cellBlock p) then some (chanOf (cellBlock p) q.c) else none

/-- The cell is the incoming one of a seating or return before its changeover (R114 steps 1 to 4). -/
def incoming (s : State) (p : Nat) : Bool :=
  match (s.block (cellBlock p)).seating with
  | none => false
  | some q => decide (q.step = .acquiring) && decide (p = if q.ret then chanOf (cellBlock p) q.c else spareOf (cellBlock p))

/-- A cell and its mirror. -/
def bothCells (s : State) (p : Nat) : List Nat :=
  match mirrorOf s p with
  | none => [p]
  | some q => [p, q]

/-- The channel has lost its last usable cell (R26). -/
def chanLost (s : State) (n : Nat) : Bool := (s.block (cellBlock n)).lost.contains (cellIdx n)

/-- HOLD is in force: CELL_CTL.hold or the loss-hold latch (R155). -/
def CellSt.inHold (c : CellSt) : Bool := c.cfg.ctl.hold || c.loop.lossHold

/-- The output is muted by CELL_CTL.mute, by the loss-mute latch or by R26 (R155). -/
def outMuted (s : State) (p : Nat) : Bool :=
  (s.cell p).cfg.ctl.mute || (s.cell p).loop.lossMute || (decide (p < 256) && chanLost s p)

/-- CELL_STATUS.lock_state codes. -/
inductive LockState where
  | disabled | acquiring | locked | hold | muted
  deriving DecidableEq, Repr

/-- The first entry of R155 that applies. -/
def lockState (s : State) (p : Nat) : LockState :=
  if (s.cell p).cfg.ctl.en = false then .disabled
  else if (s.cell p).inHold then .hold
  else if (s.cell p).loop.locked = false then .acquiring
  else if outMuted s p then .muted else .locked

def LockState.code : LockState → Nat
  | .disabled => 0 | .acquiring => 1 | .locked => 2 | .hold => 3 | .muted => 4

/-- CELL_STATUS.in_service: this physical cell drives a TOUT pin now. -/
def cellInService (s : State) (p : Nat) : Bool := (channelOf s p).isSome

/-- CELL_STATUS.replaced. -/
def cellReplaced (s : State) (p : Nat) : Bool := decide (p < 256) && ! (channelOf s p).isSome

/-- CELL_STATUS.seat_for. -/
def cellSeatFor (s : State) (p : Nat) : Nat := if p < 256 then 0 else (seatedIn s p).getD 0

/-- CELL_STATUS (R82). -/
def cellStatus (s : State) (p : Nat) : Word :=
  wd ((lockState s p).code * 2 ^ 15 + b2n (s.cell p).loop.refRelock * 2 ^ 14 + b2n (s.cell p).loop.gear * 2 ^ 13
    + b2n (s.cell p).vals.slewing * 2 ^ 12 + b2n (s.cell p).loop.searching * 2 ^ 11 + b2n (s.cell p).loop.cfgErr * 2 ^ 10
    + b2n (s.cell p).loop.rail * 2 ^ 9 + b2n (s.cell p).loop.bandOvf * 2 ^ 8 + b2n (s.cell p).loop.drvFault * 2 ^ 7
    + b2n (s.cell p).loop.parErr * 2 ^ 6 + b2n (cellInService s p) * 2 ^ 5 + b2n (cellReplaced s p) * 2 ^ 4
    + cellSeatFor s p)

/-- The states of a TOUT pair (R165). -/
inductive Tout where
  | off | lost | disabled | muted | active
  deriving DecidableEq, Repr

/-- What R165 asks of a physical cell's output, its channel being lost only for a channel cell (R164). -/
def cellWant (s : State) (p : Nat) : Tout :=
  if regionPresent s (cellRegion p) = false ∨ (s.region (cellRegion p)).inReset = true then .off
  else if p < 256 ∧ chanLost s p = true then .lost
  else if (s.cell p).cfg.ctl.en = false ∨ (s.cell p).cfg.ctl.outEn = false then .disabled
  else if (s.cell p).cfg.ctl.mute = true ∨ (s.cell p).loop.lossMute = true ∨ (s.cell p).out.muteHop = true
       ∨ (s.cell p).loop.bandChosen = false then .muted
  else .active

/-- The state of TOUT pair n: that of the cell in service (R165). -/
def toutWant (s : State) (n : Nat) : Tout := if chanLost s n ∧ regionPresent s (cellRegion n) = true
    ∧ (s.region (cellRegion n)).inReset = false then .lost else cellWant s (inService s n)

/-- Output period in CREF cycles, of the present dividers. -/
def CellSt.period (c : CellSt) : Rat := 1 / c.rhoNow

/-! ### Summaries -/

/-- The JTAG instructions that take pins from their function (R489, R490). -/
def pinsTaken (code : Byte) : Bool := [0x00, 0x03, 0x04, 0x05, 0x06].contains code.toNat

/-- A region present in the variant is held by R438. -/
def supplyHeld (s : State) : Bool := (presentRegions s).any (fun r => decide ((s.region r).run = .supplyHold))

/-- FAULT_SUMMARY.region bit of region r (R442). -/
def regionSummary (s : State) (r : Nat) : Bool :=
  decide ((s.region r).regionEvents.ev ≠ 0) || [0, 1, 2, 3].any (fun b => decide ((s.block (4 * r + b)).events.ev ≠ 0))

/-- A cell holds rail, band_ovf, drv_fault or par_err. -/
def cellFlagged (c : CellSt) : Bool := c.loop.rail || c.loop.bandOvf || c.loop.drvFault || c.loop.parErr

/-- A block has a lost channel: the chip is DEGRADED (R26). -/
def degraded (s : State) : Bool := s.blocks.any (fun e => ! e.2.lost.isEmpty)

/-- FAULT_SUMMARY (R442). -/
def faultSummary (s : State) : Word :=
  wd (b2n (degraded s) * 2 ^ 17 + b2n s.pwr.thermShut * 2 ^ 16 + b2n s.pwr.thermWarn * 2 ^ 15
    + b2n (! s.pwr.railOut.isEmpty || supplyHeld s) * 2 ^ 14
    + b2n (s.flt.calStore || s.flt.locketBad || s.flt.deadlockChip) * 2 ^ 13
    + b2n (regionSummary s 3) * 2 ^ 12 + b2n (regionSummary s 2) * 2 ^ 11
    + b2n (regionSummary s 1) * 2 ^ 10 + b2n (regionSummary s 0) * 2 ^ 9
    + b2n (s.cells.any (fun e => cellFlagged e.2)) * 2 ^ 8 + b2n s.flt.mirrorBad * 2 ^ 7)

/-- FAULT_N is asserted: FAULT_SUMMARY bits 17, 16, 14, 13 or 12 to 9, from the end of the wipe on (R443, R457). -/
def faultPin (s : State) : Bool :=
  s.pwr.wiped && (bitOf (faultSummary s) 17 || bitOf (faultSummary s) 16 || bitOf (faultSummary s) 14
    || bitOf (faultSummary s) 13 || decide (fld (faultSummary s) 9 4 ≠ 0))

/-- A record whose status is neither OK nor DEFERRED is present (R241). -/
def errPresent (s : State) : Bool :=
  s.mbx.cq.any (fun rec_ => match rec_ with
    | w :: _ => decide (fld w 15 2 ≠ 3) && decide (2 ≤ fld w 9 4)
    | [] => false)

/-- The mailbox interrupt condition (R241). -/
def mbxIrq (s : State) : Bool :=
  decide (s.mbx.thr ≤ s.mbx.cq.length) || (decide (s.mbx.coalTime = 0) && decide (0 < s.mbx.cq.length))
  || (s.mbx.aged && decide (0 < s.mbx.cq.length)) || (s.mbx.errNow && errPresent s)

/-- IRQ_STATUS (R312). -/
def irqStatus (s : State) : Word :=
  wd (b2n s.pwr.thermWarn * 2 ^ 5
    + b2n ((presentRegions s).any (fun r => decide ((s.acq r).regs.events.ev ≠ 0))) * 2 ^ 4
    + b2n ((presentRegions s).any (fun r => decide ((s.region r).refEvents.ev ≠ 0))) * 2 ^ 3
    + b2n (decide (s.hc.events.ev ≠ 0)) * 2 ^ 2 + b2n (decide (faultSummary s ≠ 0)) * 2 + b2n (mbxIrq s))

/-- IRQ_N is asserted (R313). -/
def irqPin (s : State) : Bool := s.pwr.wiped && decide ((irqStatus s).extractLsb' 0 6 &&& s.hc.irqEnable ≠ 0)

end Sys2Proof.Machine
end

