-- ==== Sys2Proof/Machine/CalModel.lean ====
section
/-! DEFINITION. Calibration values as functions of the sets and of temperature: completion (R366),
interpolation (R369), the band model and K_DCO between knots (R363), the hint correction (R96), and the
loading of working values into cells and event inputs (R83, R204, R374). Temperatures are in 1/16 C. -/
namespace Sys2Proof.Machine
open Sys2Proof

/-- Nearest integer, ties away from zero (R369). -/
def roundQ (x : Rat) : Int := if 0 ≤ x then (x + 1 / 2).floor else -((-x + 1 / 2).floor)

/-- Key of an item-point: sorted by code, unit, point (R391); point 31 is point-free. -/
def calKey (code unit point : Nat) : Nat := code * 2 ^ 21 + unit * 2 ^ 5 + point

/-- Codes without temperature dependence (R363). -/
def pointFree (code : Nat) : Bool := decide (code = 0x0A) || decide (0x20 ≤ code)

/-- Number of values of an item (R363). -/
def calCount (code : Nat) : Nat :=
  if code = 0x01 ∨ code = 0x02 then 8 else if code = 0x05 ∨ code = 0x06 ∨ code = 0x0A then 16
  else if code = 0x10 then 3 else if code = 0x18 then 2 else 1

/-- The eight knot bands of codes 0x01 and 0x02. -/
def knots : List Nat := [0, 18, 36, 54, 73, 91, 109, 127]

/-- Binary search for the integer 256th root of x, n bits to go. -/
def root256 (x : Nat) : Nat → Nat → Nat
  | 0, r => r
  | n + 1, r => if (r + 2 ^ n) ^ 256 ≤ x then root256 x n (r + 2 ^ n) else root256 x n r

/-- Nominal centre of band b in Hz: 8.0 GHz x 2^((b + 0.5)/128), cut to whole Hz (R62). -/
def bandCentre (b : Nat) : Nat := root256 ((8000000000) ^ 256 * 2 ^ (2 * b + 1)) 34 0

/-- Nominal K_DCO of a band in 1/16 Hz per LSB: 61 ppb of the centre (R62). -/
def nominalK (b : Nat) : Int := roundQ ((bandCentre b : Rat) * 976 / 1000000000)

/-- The nominal values of an item, which an unlisted FACTORY item-point has (log 14). -/
def nominal (code : Nat) : List Int :=
  if code = 0x02 then knots.map nominalK else List.replicate (calCount code) 0

/-- The FACTORY values of an item-point. -/
def facVal (fac : CalSet) (code unit point : Nat) : List Int :=
  if tabGet {} fac (calKey code unit point) = {} then nominal code else (tabGet {} fac (calKey code unit point)).vals

/-- The USER values of an item-point, when the set holds it. -/
def userVal (user : CalSet) (code unit point : Nat) : Option (List Int) :=
  if tabGet {} user (calKey code unit point) = {} then none else some (tabGet {} user (calKey code unit point)).vals

/-- Distance between points. -/
def ptDist (a b : Nat) : Nat := (a - b) + (b - a)

/-- The USER point of an item nearest to i, the lower one on a tie (R366). -/
def nearestPoint (user : CalSet) (code unit i : Nat) : Option Nat :=
  ([0, 1, 2, 3, 4].filter (fun j => (userVal user code unit j).isSome)).foldl
    (fun best j => match best with
      | none => some j
      | some k => if ptDist i j < ptDist i k then some j else some k) none

/-- The completed values of an item at a point (R366, R389). -/
def completed (fac user : CalSet) (facOk : Bool) (code unit i : Nat) : List Int :=
  match userVal user code unit i with
  | some v => v
  | none =>
    match nearestPoint user code unit i with
    | none => if facOk then facVal fac code unit i else nominal code
    | some j =>
      let u := (userVal user code unit j).getD []
      if facOk then
        (facVal fac code unit i).mapIdx (fun q f => f + (u.getD q 0 - (facVal fac code unit j).getD q 0))
      else u

/-- The values of an item at block temperature t (1/16 C), each rounded to its LSB (R369). -/
def workVals (fac user : CalSet) (facOk : Bool) (code unit : Nat) (t : Int) : List Int :=
  if pointFree code then
    match userVal user code unit 31 with
    | some v => v
    | none => if facOk then facVal fac code unit 31 else nominal code
  else if t ≤ 320 then completed fac user facOk code unit 0
  else if 1600 ≤ t then completed fac user facOk code unit 4
  else
    let i := ((t - 320) / 320).toNat
    let a := completed fac user facOk code unit i
    let b := completed fac user facOk code unit (i + 1)
    a.mapIdx (fun q v => roundQ (Int.cast v + Int.cast (b.getD q 0 - v) * Int.cast (t - 320 - 320 * i) / 320))

/-- Linear interpolation in band index between the eight knots (R363). -/
def knotInterp (vals : List Int) (b : Nat) : Rat :=
  let i := (knots.filter (fun k => decide (k ≤ b))).length - 1
  if 7 ≤ i then ((vals.getD 7 0 : Int) : Rat)
  else ((vals.getD i 0 : Int) : Rat)
    + ((vals.getD (i + 1) 0 - vals.getD i 0 : Int) : Rat) * ((b - knots.getD i 0 : Nat) : Rat)
      / ((knots.getD (i + 1) 0 - knots.getD i 0 : Nat) : Rat)

/-- A cell has yet to take the set of the last commit (R371). -/
def isDeferred (s : State) (p : Nat) : Bool := s.cal.deferred.any (fun d => decide (d.1 = p))

/-- The USER set in force for a cell: the one it still has while it is deferred (R371). -/
def cellUser (s : State) (p : Nat) : CalSet :=
  match s.cal.deferred.find? (fun d => decide (d.1 = p)) with
  | some d => d.2
  | none => s.cal.user

/-- The cell is deferred no longer. -/
def undefer (s : State) (p : Nat) : State := { s with cal.deferred := s.cal.deferred.filter (fun d => decide (d.1 ≠ p)) }

/-- Calibrated frequency of a band of a cell at temperature t, in Hz (R63, code 0x01: 4 ppm of the centre). -/
def bandFreq (s : State) (p b : Nat) (t : Int) : Rat :=
  (bandCentre b : Rat) * (1 + knotInterp (workVals s.cal.factory (cellUser s p) s.cal.facOk 0x01 p t) b * 4 / 1000000)

/-- Working K_DCO of a band, in Hz per LSB (R63). -/
def workK (s : State) (p b : Nat) : Rat :=
  (if (s.cell p).trim.kdco = [] then (nominalK b : Rat) else knotInterp (s.cell p).trim.kdco b) / 16

/-- The temperature-corrected hint code: word 8 less (frequency now - frequency at the hint) / K_DCO (R96). -/
def hintCode (s : State) (p b : Nat) (hintTj : Nat) (fine : Word) : Int :=
  (fine.toNat : Int) - roundQ ((bandFreq s p b (s.block (cellBlock p)).tj - bandFreq s p b (64 * hintTj)) / workK s p b)

/-- The hint of a profile's words 7 and 8 as a cell can use it (R96). -/
def profileHint (s : State) (p : Nat) (w7 w8 : Word) : Option (BitVec 7 × BitVec 18) :=
  if bitOf w7 17 = true ∧ 0x01000 ≤ hintCode s p (fld w7 8 7) (fld w7 3 5) w8 ∧ hintCode s p (fld w7 8 7) (fld w7 3 5) w8 ≤ 0x3EFFF then
    some (BitVec.ofNat 7 (fld w7 8 7), wd (hintCode s p (fld w7 8 7) (fld w7 3 5) w8).toNat)
  else none

/-- The bands tried for a target: the calibrated frequency nearest to it (R64, R502). -/
def bestBand (s : State) (p : Nat) (target : Rat) (t : Int) : Nat :=
  (List.range 128).foldl (fun best b =>
    if (if bandFreq s p b t ≤ target then target - bandFreq s p b t else bandFreq s p b t - target)
       < (if bandFreq s p best t ≤ target then target - bandFreq s p best t else bandFreq s p best t - target)
    then b else best) 0

/-- The hint an incoming cell computes from its own calibrated band model and K_DCO (R112, R383, R502). -/
def computedHint (s : State) (p : Nat) (f : Freq) : BitVec 7 × BitVec 18 :=
  let t := (s.block (cellBlock p)).tj
  let b := bestBand s p (ratio f * 800000000) t
  let c := roundQ ((ratio f * 800000000 - bandFreq s p b t) / workK s p b) + 0x20000
  (BitVec.ofNat 7 b, wd (if c < 0 then 0 else if 0x3FFFF < c then 0x3FFFF else c.toNat))

/-- A two's-complement register field from a working value. -/
def trimField (w : Nat) (vals : List Int) : BitVec w := BitVec.ofInt w (vals.getD 0 0)

/-- The working trims of a cell from the set in force at its block's Tj_w (R83, R112, R369, R389). -/
def workTrim (s : State) (p : Nat) (user : CalSet) : CellTrim :=
  let t := (s.block (cellBlock p)).tjw
  let v := fun code unit => workVals s.cal.factory user s.cal.facOk code unit t
  let old := (s.cell p).trim
  if s.cal.facOk = false ∧ user = [] then { old with kdco := knots.map nominalK }
  else
    { old with
      tdc := 0x20000 + trimField 18 (v 0x03 p), dtc := 0x20000 + trimField 18 (v 0x04 p),
      skew := if p < 256 then trimField 12 (v 0x07 p)
        else match channelOf s p with
          | some n => trimField 12 (v 0x09 n)
          | none => match (s.block (cellBlock p)).seating with
            | some q => if q.ret then old.skew else trimField 12 (v 0x09 (chanOf (cellBlock p) q.c))
            | none => old.skew,
      duty := trimField 8 (v 0x08 p), kdco := v 0x02 p, bandModel := v 0x01 p,
      dtcInl := v 0x05 p, phInl := v 0x06 p,
      elem := if bitOf (s.mem (cellRegion p)).th64 17 then v 0x0A p else [] }

/-- A gain changed by 1 % or more (R374). -/
def movedOnePercent (a b : Int) : Bool := decide (a.natAbs ≤ 100 * (b - a).natAbs)

/-- The move of a cell to working values of a set, on one edge (R374, R375): a gain that moves by 1 % or more restarts
lock counting as a reference relock does, with no relock of the region. -/
def loadCellFrom (s : State) (p : Nat) (user : CalSet) : State :=
  let old := (s.cell p).trim
  let new := workTrim s p user
  let now := (s.region (cellRegion p)).edge
  let big := movedOnePercent old.tdc.toNat new.tdc.toNat || movedOnePercent old.dtc.toNat new.dtc.toNat
    || (decide (old.kdco ≠ []) && (List.range 8).any (fun i => movedOnePercent (old.kdco.getD i 0) (new.kdco.getD i 0)))
  s.updCell p (fun c =>
    let relock := big && c.loop.locked && c.cfg.ctl.en && ! c.inHold
    { c with
      trim := new,
      loop.inCnt := if big then 0 else c.loop.inCnt, loop.outCnt := if big then 0 else c.loop.outCnt,
      loop.locked := c.loop.locked && ! relock, loop.refRelock := c.loop.refRelock || relock,
      loop.gear := if relock then decide (c.cfg.gearTime ≠ 0) else c.loop.gear,
      loop.gearEnd := if relock then now + 4 * c.cfg.gearTime.toNat else c.loop.gearEnd,
      loop.relockFrom := if relock then now else c.loop.relockFrom, loop.hintUse := if relock then .none else c.loop.hintUse,
      loop.acq := if relock then .relock else c.loop.acq })

/-- The move of a cell to the set in force, ending any deferral (R371, R375). -/
def loadCell (s : State) (p : Nat) : State :=
  loadCellFrom (undefer s p) p s.cal.user

/-- The move of an event input to the set in force (R373, R204). -/
def loadEvin (s : State) (i : Nat) : State :=
  if s.cal.facOk = false ∧ s.cal.user = [] then s
  else
    let t := (s.block (i / 16)).tjw
    let v := fun code => workVals s.cal.factory s.cal.user s.cal.facOk code i t
    s.updEvin i (fun e => { e with trimHi := BitVec.ofInt 8 ((v 0x18).getD 0 0), trimLo := BitVec.ofInt 8 ((v 0x18).getD 1 0),
                                   trimSkew := trimField 8 (v 0x19), applyAt := some ((s.region (i / 64)).edge + 1) })

/-- Path delay d_x of a TIU source in 0.1 ps: 0 loopback, 1 comparator of an input, 2 TEV. The delays of code 0x10 stand at
the temperature of the last tracking update, and the trim in TRIM_EV_SKEW enters that of a comparator (R180, R203, R370). -/
def tiuPath (s : State) (t kind input : Nat) : Int :=
  (workVals s.cal.factory s.cal.user s.cal.facOk 0x10 t (s.block (tiuBlock t)).tjw).getD kind 0
  + (if kind = 1 then 10 * (s.evin input).trimSkew.toInt else 0)

end Sys2Proof.Machine
end

