-- ==== Sys2Proof/Machine/Loop.lean ====
section
/-! DEFINITION. One CREF cycle of a cell loop: modulator and multi-modulus divider (R67, R68), DTC (R69), TDC (R70), loop
filter (R75 to R77), phase split of the output domain (R147), the counts of the lock detector (R151), and the bounds
that an acquisition is held to (R97, R111). -/
namespace Sys2Proof.Machine
open Sys2Proof

/-! ### Modulator and divider (R67, R68) -/

/-- Period of the programmed DCO frequency in ps: CREF is 1,250 ps (R69). -/
def dcoPeriod (f : Freq) : Rat := 1250 / ratio f

/-- Modulus of the accumulators, and what the first one adds (R67). -/
def Freq.modulus (f : Freq) : Nat := if f.mode then f.m.toNat else 2 ^ 36
def Freq.addend (f : Freq) : Nat := if f.mode then f.k.toNat else f.f.toNat

/-- One CREF cycle of the modulator (R67): three accumulators in a row, y_k = c1 + (c2 - c2') + (c3 - 2 c3' + c3''), and
the error e_k of the third one's residue (R69). With a zero fraction y_k is 0 and e_k stays 0, so the DTC code is fixed
(R68). A residue left by another modulus is taken modulo the present one (log 49). -/
def Mash.cycle (a : Mash) (f : Freq) : Mash :=
  if f.addend = 0 then { a with y := 0, mmd := f.n.toNat, e := 0 }
  else
    let m := f.modulus
    let s1 := a.acc1 % m + f.addend
    let s2 := a.acc2 % m + s1 % m
    let s3 := a.acc3 % m + s2 % m
    let y : Int := (s1 / m : Nat) + ((s2 / m : Nat) - (a.c2 : Int)) + ((s3 / m : Nat) - 2 * (a.c3.1 : Int) + (a.c3.2 : Int))
    { a with
      acc1 := s1 % m, acc2 := s2 % m, acc3 := s3 % m, c2 := s2 / m, c3 := (s3 / m, a.c3.1), q := (a.acc3 % m, a.q.1),
      y := y, mmd := f.n.toNat + y,
      e := (((s3 % m : Nat) : Int) - 2 * ((a.acc3 % m : Nat) : Int) + (a.q.1 : Int) : Int) / (m : Rat) }

/-! ### DTC and TDC (R69, R70) -/

/-- Codes per ps of the DTC: 2.0 scaled by TRIM_DTC / 2^17 (R69). -/
def CellTrim.gDtc (t : CellTrim) : Rat := 2 * (t.dtc.toNat : Rat) / (2 ^ 17 : Nat)

/-- Correction in ps that a 16-point INL table gives at a point of its range, in the table's 0.05 ps (R69, R147, R363). -/
def inlAt (table : List Int) (point : Nat) : Rat := ((table.getD point 0 : Int) : Rat) / 20

/-- The DTC code of a delay tau in ps: rounded, and corrected through the INL table's segment (R69). -/
def dtcCode (t : CellTrim) (tau : Rat) : Nat :=
  let c0 := (roundQ (tau * t.gDtc)).toNat
  min 1023 (roundQ ((tau - inlAt t.dtcInl (min 15 (c0 / 64))) * t.gDtc)).toNat

/-- The DTC code of the present cycle: tau_k = (e_k + 2) T_DCO (R69). -/
def CellSt.dtcNow (c : CellSt) (e : Rat) : Nat := dtcCode c.trim ((e + 2) * dcoPeriod c.vals.freq)

/-- The TDC's result for a time in ps between MMD edge and delayed CREF edge: in 0.5 ps scaled by TRIM_TDC / 2^17 over
128 LSB, and beyond that with whole DCO periods from the coarse counter (R70). -/
def tdcCode (t : CellTrim) (period time : Rat) : Int :=
  let gain : Rat := 2 * (t.tdc.toNat : Rat) / (2 ^ 17 : Nat)
  let fine := roundQ (time * gain)
  if -128 ≤ fine ∧ fine ≤ 128 then fine
  else
    let n := roundQ (time / period)
    roundQ ((n : Int) * period * 2) + roundQ ((time - (n : Int) * period) * gain)

/-- PHERR saturates at 131,071 LSB either way (R70). -/
def satErr (e : Int) : Int := if 131071 < e then 131071 else if e < -131071 then -131071 else e

/-- A reported PHERR word as the saturated number. -/
def errOf (w : Word) : Int := satErr (sgn w.toNat 18)

/-! ### Loop filter (R75 to R77) -/

/-- Proportional and integral gain of a preset (R75). -/
def loopGain (preset : BitVec 3) : Rat × Rat :=
  match preset.toNat with
  | 0 => (7854 / 10000000, 3084 / 10000000000)
  | 1 => (1178 / 1000000, 6940 / 10000000000)
  | 2 => (1963 / 1000000, 1928 / 1000000000)
  | 3 => (3142 / 1000000, 4935 / 1000000000)
  | 4 => (5498 / 1000000, 1511 / 100000000)
  | 5 => (9425 / 1000000, 4441 / 100000000)
  | 6 => (1571 / 100000, 1234 / 10000000)
  | _ => (3142 / 100000, 4935 / 10000000)

/-- The gains in use: four and sixteen times the preset's while the gear is engaged (R77). -/
def CellSt.gains (c : CellSt) : Rat × Rat :=
  if c.loop.gear then (4 * (loopGain c.cfg.bw).1, 16 * (loopGain c.cfg.bw).2) else loopGain c.cfg.bw

/-- A fine code kept within its rails. -/
def clampFine (x : Int) : BitVec 18 := if x < 0 then 0 else if 0x3FFFF < x then 0x3FFFF else wd x.toNat

/-- Fine LSB per unit of filter output, one DCO period per CREF cycle: f_CREF over the working K_DCO (R63, R75). -/
def lsbPerUnit (k : Rat) : Rat := 800000000 / k

/-- One cycle of the filter on an error in TDC LSB (R75): the integrator moves unless the capacitor bank switches (R108
step 5), and the output, divided by K_DCO, drives the fine code; a running band search moves neither (R64). -/
def CellSt.filter (c : CellSt) (k : Rat) (err : Int) : CellSt :=
  if c.loop.searching then c
  else
    let x := (err : Rat) / 2 / dcoPeriod c.vals.freq
    let i := if c.loop.bandSwitch then c.loop.integ else c.loop.integ + c.gains.2 * x
    { c with
      loop.integ := i,
      loop.fine := clampFine ((c.loop.base.toNat : Int) + roundQ ((c.gains.1 * x + i) * lsbPerUnit k)) }

/-- The loop sits at a fine code: the integrator holds what drives the code there (R502). -/
def CellSt.settleAt (c : CellSt) (k : Rat) (fine : BitVec 18) : CellSt :=
  { c with
    loop.fine := fine, loop.integ := (((fine.toNat : Int) - (c.loop.base.toNat : Int) : Int) : Rat) / lsbPerUnit k }

/-- The loop starts from a fine code, with an empty integrator. -/
def CellLoop.startAt (l : CellLoop) (fine : BitVec 18) : CellLoop := { l with fine := fine, base := fine, integ := 0 }

/-! ### Lock detector counts (R151) -/

/-- One comparison: PHERR, and the counts of consecutive cycles in and out of range. A cycle in a band search or a band
switch does not count towards lock (R152). -/
def CellSt.compare (c : CellSt) (now : Nat) (err : Int) : CellSt :=
  let e := satErr err
  { c with
    loop.pherr := BitVec.ofInt 18 e, loop.cmpAt := some now,
    loop.inCnt := if e.natAbs < c.cfg.thr.toNat ∧ c.loop.searching = false ∧ c.loop.bandSwitch = false
      then satAdd 0x3FFFF c.loop.inCnt 1 else 0,
    loop.outCnt := if 2 * c.cfg.thr.toNat < e.natAbs then satAdd 0x3FFFF c.loop.outCnt 1 else 0 }

/-- The fine code of a cycle joins the history that HOLD's mean is taken over (R156), and the learn average (R98). -/
def CellSt.keepFine (c : CellSt) : CellSt :=
  { c with
    loop.fineHist := (c.loop.fine :: c.loop.fineHist).take 260,
    hop.learnSum := if c.hop.learnRun ∧ c.hop.learnN < 1024 then c.hop.learnSum + c.loop.fine.toNat else c.hop.learnSum,
    hop.learnN := if c.hop.learnRun ∧ c.hop.learnN < 1024 then c.hop.learnN + 1 else c.hop.learnN }

/-- Mean of up to 256 fine codes, the newest `skip` left out; the code in use when there is no history (R156). -/
def CellSt.meanFine (c : CellSt) (skip : Nat) : BitVec 18 :=
  let l := (c.loop.fineHist.drop skip).take 256
  if l = [] then c.loop.fine else wd (roundQ (((l.map (fun x => x.toNat)).sum : Nat) / (l.length : Rat))).toNat

/-- The learn average (R98). -/
def CellSt.learnAvg (c : CellSt) : Word :=
  if c.hop.learnN = 0 then c.loop.fine else wd (roundQ ((c.hop.learnSum : Rat) / (c.hop.learnN : Rat))).toNat

/-- What a cell's loop does on one CREF cycle with a phase error `own` in fs of its own: modulator and divider, DTC,
TDC, detector and filter (R67 to R70, R75, R151). -/
def CellSt.loopCycle (c : CellSt) (k : Rat) (now : Nat) (own : Int) : CellSt :=
  let m := c.loop.mash.cycle c.vals.freq
  let d := c.dtcNow m.e
  let t := (own : Rat) / 1000 + ((m.e + 2) * dcoPeriod c.vals.freq - (d : Rat) / c.trim.gDtc)
  let err := tdcCode c.trim (dcoPeriod c.vals.freq) t
  (({ c with loop.mash := { m with dtc := d } }.compare now err).filter k (satErr err)).keepFine

/-! ### Bounds of an acquisition (R97, R111), in CREF cycles -/

/-- Bound with a usable hint, on the same band or on another (R111). -/
def hintBound (preset : BitVec 3) (same : Bool) : Nat :=
  match preset.toNat with
  | 0 => if same then 3200 else 4320
  | 1 => if same then 2080 else 3200
  | 2 => if same then 1280 else 2400
  | 3 => if same then 800 else 1920
  | _ => if same then 480 else 1600

/-- Bound without a usable hint (R111). -/
def noHintBound (preset : BitVec 3) : Nat :=
  match preset.toNat with
  | 0 => 35200 | 1 => 34400 | 2 => 33600 | 3 => 32800 | _ => 32000

/-- Stale-hint bound: twice the other-band bound plus the no-hint bound (R97). -/
def staleBound (preset : BitVec 3) : Nat := 2 * hintBound preset false + noHintBound preset

/-- Cycles of the lock count (R152): 256 where fault recovery seats the spare or forces a return (R115, R116). -/
def CellSt.lockCycles (c : CellSt) : Nat := if c.loop.fast then 256 else 2 ^ c.cfg.cntK.toNat

/-- The edge of R108 step 8. -/
def CellSt.acqLimit (c : CellSt) : Nat := c.loop.acqFrom + staleBound c.cfg.bw + c.lockCycles

/-- The edge on which a hint in use is stale (R97). -/
def CellSt.hintLimit (c : CellSt) : Nat := c.loop.acqFrom + 2 * hintBound c.cfg.bw (decide (c.loop.hintUse = .sameBand))

/-- The edge on which a reference relock has failed: 40 us plus the lock count (R45). -/
def CellSt.relockLimit (c : CellSt) : Nat := c.loop.relockFrom + 32000 + c.lockCycles

/-- The gear period that an edge starts (R77). -/
def CellSt.gearOn (c : CellSt) (now : Nat) : CellSt :=
  { c with loop.gear := decide (c.cfg.gearTime ≠ 0), loop.gearEnd := now + 4 * c.cfg.gearTime.toNat }

/-! ### Phase split of the output domain (R147) -/

/-- An offset phi as phi x D x L DCO periods: whole periods for the dividers' preset, and the remainder rounded to 1/1024
period, corrected through the phase INL table. -/
def CellSt.presetPhase (c : CellSt) : CellSt :=
  let x := turns c.vals.phi * ((c.vals.d.toNat * c.vals.l.toNat : Nat) : Rat)
  let corr := inlAt c.trim.phInl (fract x * 16).floor.toNat * 1024 / dcoPeriod c.vals.freq
  let n := roundQ (x * 1024 - corr) % ((c.vals.d.toNat * c.vals.l.toNat * 1024 : Nat) : Int)
  { c with out.preset := n.toNat / 1024, out.interp := n.toNat % 1024 }

end Sys2Proof.Machine
end

