-- ==== Sys2Proof/Machine/CellOps.lean ====
section
/-! DEFINITION. What can happen to a synthesis cell: acquisition, hops, divider and phase changes, HOLD,
enable and disable, and the driver behind TOUT (chapters 03, 04, 06). Every operation is one CREF edge. -/
namespace Sys2Proof.Machine
open Sys2Proof

/-- The present CREF edge of a cell's region. -/
def nowEdge (s : State) (p : Nat) : Nat := (s.region (cellRegion p)).edge

/-- The present anchor count of a cell's region (R99). -/
def nowA (s : State) (p : Nat) : Rat := (anchor (s.region (cellRegion p)) : Nat)

/-! ### The engine's stop, and the wait for lock -/

/-- A transition that abandons any wait, prepared action and pending extension (R142). -/
def Engine.halt (e : Engine) (st : EngSt) : Engine :=
  { e with st := st, wait := .none, prep := none, prepFrom := none, ext := 0, extN := 0 }

/-- The wait of a HOPL ends: the next instruction is due on the fourth edge after (R133). -/
def Engine.lockEnded (e : Engine) (now : Nat) : Engine :=
  if e.st = .waiting ∧ e.wait = .lock then { e with wait := .edge (now + 4), s := now + 4, noAdv := 0 } else e

/-! ### The driver (R80, R165, R166) -/

/-- A held lvds change takes effect while the output is disabled or muted (R80). -/
def CellSt.applyLvds (c : CellSt) : CellSt := if c.out.drv = .toggling then c else { c with out.lvdsNow := c.cfg.lvds }

/-- The driver is put at the muted level, out of whatever state but off (enable, disable, a lost channel). -/
def CellSt.toMuted (c : CellSt) : CellSt :=
  if c.out.drv = .off then c else { c with out.drv := .muted, out.muteAtFall := none }.applyLvds

/-- A toggling driver goes to the muted level at once (loss-mute); a disabled one stays disabled (R165). -/
def CellSt.muteNow (c : CellSt) : CellSt :=
  if c.out.drv = .toggling then c.toMuted else { c with out.muteAtFall := none }

/-- The muted level is asked for at the first falling edge after anchor count a (R166). -/
def CellSt.muteFall (c : CellSt) (a : Rat) : CellSt :=
  if c.out.drv = .toggling then { c with out.muteAtFall := some (c.nextFall a) } else c

/-- Half an output period in CREF cycles. -/
def CellSt.halfPeriod (c : CellSt) : Rat := c.period / 2

/-- The mute sources have ended: ACTIVE from the first anchored edge at or after time t, and not before any later time
that an earlier trigger named, if the driver is muted. -/
def CellSt.activeFrom (c : CellSt) (t : Rat) : CellSt :=
  if c.out.drv = .muted then
    { c with out.activeAfter := some (match c.out.activeAfter with
        | some u => if u ≤ t then t else u
        | none => t) }
  else { c with out.muteAtFall := none }

/-! ### Acquisition (R64, R77, R108, R153) -/

/-- Starts an acquisition on edge `now`: the verdict becomes ACQUIRING, the gear engages, the bounds count afresh, and
the band is chosen by the hint or by a full band search. `choose` marks the band choice of an enable (R165). -/
def CellSt.acquire (c : CellSt) (now : Nat) (cause : AcqCause) (hint : Option (BitVec 7 × BitVec 18)) (choose : Bool) : CellSt :=
  let c1 := { c with
    loop.locked := false, loop.inCnt := 0, loop.outCnt := 0, loop.acq := cause, loop.acqFrom := now }.gearOn now
  match hint with
  | some (b, f) =>
    { c1 with
      loop := { c1.loop.startAt f with
        band := b, searching := false, bandSwitch := decide (b ≠ c.loop.band),
        hintUse := if b = c.loop.band then .sameBand else .otherBand,
        bandChosen := if choose then decide (b = c.loop.band) else c.loop.bandChosen } }
  | none =>
    { c1 with
      loop := { c1.loop.startAt c.loop.fine with
        searching := true, bandSwitch := false, hintUse := .none,
        bandChosen := if choose then false else c.loop.bandChosen } }

/-- The hint latch, when CELL_CTL.hint_en lets a host commit or an enable use it (R64, R82). -/
def CellSt.latchHint (c : CellSt) : Option (BitVec 7 × BitVec 18) :=
  if c.cfg.ctl.hintEn = true ∧ c.loop.hintValid = true then some (c.loop.hintBand, c.loop.hintFine) else none

/-! ### Changes of the output (R79, R103, R109, R110) -/

/-- A change acts at once: the dividers take the values, and nothing waits. -/
def CellOut.atOnce (o : CellOut) (d : BitVec 13) (l : BitVec 18) : CellOut :=
  { o with dNow := d, lNow := l, pend := .none, fallAt := none, run := none }

/-- A change waits for the first falling edge of the running waveform after anchor count a. -/
def CellSt.waitFall (c : CellSt) (a : Rat) (wait : OutPend) : CellOut :=
  { c.out with pend := wait, fallAt := some (c.nextFall a), run := some c.running }

/-- The output moves to new values at anchor count a: `ph` is the running output phase there. A change made
while the output is held low continues the hold; otherwise a phase-anchored change runs on when D·L is
unchanged and the phase differs by at most 1/64, and re-times at the next falling edge when not; a
phase-continuous change keeps the phase. `zero` clears Delta (hops and enables). -/
def CellSt.moveOut (c : CellSt) (a ph : Rat) (f : Freq) (d : BitVec 13) (l : BitVec 18) (phi : BitVec 36) (cont zero : Bool) (wait : OutPend) : CellSt :=
  let r := Machine.rho f d.toNat l.toNat
  let fi := turns phi
  let dl0 := if zero then 0 else c.vals.delta
  let v := { c.vals with freq := f, d := d, l := l, phi := phi }
  let same := decide (d.toNat * l.toNat = c.out.dNow.toNat * c.out.lNow.toNat)
  if c.out.heldLow = true then
    let o := { c.out.atOnce d l with holdTo := a + 1 / (2 * r) }
    if cont then
      { c with
        vals := { v with delta := fract (a * r + 1 / 2 - fi) },
        out := { o with riseAt := some (a + 1 / (2 * r)) } }
    else
      { c with
        vals := { v with delta := dl0 },
        out := { o with riseAt := some (firstAnchor r fi dl0 (a + 1 / (2 * r))) } }
  else if cont then
    if same then
      { c with
        vals := { v with delta := contDelta r fi ph a },
        out := c.out.atOnce d l }
    else
      { c with
        vals := { v with delta := contDelta (Machine.rho f c.out.dNow.toNat c.out.lNow.toNat) fi ph a },
        out := { c.waitFall a .divCont with run := none } }
  else if same = true ∧ wrapHalf (phaseAt r fi dl0 a - ph) ≤ 1 / 64 ∧ -(1 / 64) ≤ wrapHalf (phaseAt r fi dl0 a - ph) then
    { c with
      vals := { v with delta := dl0 },
      out := c.out.atOnce d l }
  else
    { c with
      vals := { v with delta := dl0 },
      out := c.waitFall a wait }

/-- The values of a disabled cell take effect in its dividers at once. -/
def CellSt.settleDiv (c : CellSt) : CellSt :=
  { c with out := { c.out.atOnce c.vals.d c.vals.l with heldLow := false, riseAt := none } }.presetPhase

/-- A divider commit in force (R79): nothing moves at the output when D·L is unchanged. -/
def CellSt.moveDiv (c : CellSt) (a : Rat) (d : BitVec 13) (l : BitVec 18) (cont : Bool) : CellSt :=
  if d.toNat * l.toNat = c.vals.d.toNat * c.vals.l.toNat ∧ c.out.pend = .none then
    { c with vals.d := d, vals.l := l, out.dNow := d, out.lNow := l }.presetPhase
  else if c.out.drv = .off ∨ c.cfg.ctl.en = false then { c with vals.d := d, vals.l := l }.settleDiv
  else if c.out.heldLow = true then (c.moveOut a (c.phaseNow a) c.vals.freq d l c.vals.phi cont false .divAnchored).presetPhase
  else
    { c with
      vals.d := d, vals.l := l,
      out := c.waitFall a (if cont then .divCont else .divAnchored) }.presetPhase

/-! ### Phase commits (R148 to R150) -/

/-- Rising or falling direction and magnitude of a slew step: phi moves by s towards the target, the shorter way round (R148). -/
def slewStep (phi ofs : BitVec 36) (rate : BitVec 4) : BitVec 36 :=
  let d := ofs - phi
  let st := 2 ^ (33 - rate.toNat)
  if d.toNat ≤ 2 ^ 35 then (if d.toNat ≤ st then ofs else phi + BitVec.ofNat 36 st)
  else (if (phi - ofs).toNat ≤ st then ofs else phi - BitVec.ofNat 36 st)

/-- The output takes a new phi as a step at anchor count a (R149): dividers and interpolator are preset to it, and the
edges that a hold, a re-timing or a mute waits for are those of the new phi. -/
def CellSt.stepPhase (c : CellSt) (a : Rat) (phi : BitVec 36) : CellSt :=
  let c1 := { c with vals.phi := phi, out.run := c.out.run.map (fun (x : Rat × Rat × Rat) => (x.1, turns phi, x.2.2)) }.presetPhase
  { c1 with
    out.riseAt := c.out.riseAt.map (fun _ => firstAnchor c1.vals.rho (turns phi) c1.vals.delta c.out.holdTo),
    out.fallAt := c.out.fallAt.map (fun _ => c1.nextFall a),
    out.muteAtFall := c.out.muteAtFall.map (fun _ => c1.nextFall a) }

/-- A committed PHASE_OFS: stepped on this edge, or the target of a slew that moves at each rising output edge from
the first on (R148, R149). A disabled cell has no output edges to slew on and takes phi at once (log 50). -/
def CellSt.phaseCommit (c : CellSt) (a : Rat) (ofs : BitVec 36) : CellSt :=
  if c.cfg.step = true ∨ c.cfg.ctl.en = false then
    { (c.stepPhase a ofs) with vals.ofs := ofs, vals.slewing := false, out.slewAt := none }
  else if c.vals.phi = ofs then { c with vals.ofs := ofs, vals.slewing := false, out.slewAt := none }
  else
    { c with
      vals.ofs := ofs, vals.slewing := true,
      out.slewAt := if c.vals.slewing then c.out.slewAt
        else some (firstAnchor c.running.1 c.running.2.1 c.running.2.2 a) }

/-- One output period of a slew (R148): phi moves by s, and the period ends later or earlier by as much. -/
def CellSt.slewPeriod (c : CellSt) : CellSt :=
  let n := slewStep c.vals.phi c.vals.ofs c.cfg.rate
  let t := c.out.slewAt.getD 0
  let c1 := c.stepPhase t n
  { c1 with
    vals.slewing := decide (n ≠ c.vals.ofs),
    out.slewAt := if n = c.vals.ofs then none else some (t + (1 + wrapHalf (turns n - turns c.vals.phi)) / c.rhoNow) }

/-! ### One action of an edge, and a host write of the same edge (R20, R74, R144) -/

/-- What an action of an edge is about to change is kept, for a host write of the same edge. -/
def CellSt.keepUndo (c : CellSt) (now : Nat) (act : EdgeAct) : CellSt :=
  { c with hop.undo := some { edge := now, act := act, vals := c.vals, loop := c.loop, out := c.out, ctl := c.cfg.ctl, bw := c.cfg.bw } }

/-- The record of an action of that kind on the present edge. -/
def CellSt.undoOf (c : CellSt) (now : Nat) (act : EdgeAct) : Option EdgeUndo :=
  c.hop.undo.filter (fun u => decide (u.edge = now) && decide (u.act = act))

/-- The action of the present edge gives way to a host write (R144): the cell is as before it. -/
def CellSt.undone (c : CellSt) (now : Nat) (act : EdgeAct) : CellSt :=
  match c.undoOf now act with
  | none => c
  | some u => { c with
      vals := u.vals, loop := u.loop, out := u.out, cfg.ctl := u.ctl, cfg.bw := u.bw,
      hop.undo := none, hop.learn := none, hop.learnRun := false }

/-- A host write of staged words: they also stand in what an action of the edge would give way to. -/
def CellSt.stage (c : CellSt) (f : CellVals → CellVals) : CellSt :=
  { c with vals := f c.vals, hop.undo := c.hop.undo.map (fun u => { u with vals := f u.vals }) }

/-- The staged words that a host commit takes: those from before a hop of the same edge (R74). -/
def CellSt.staged (c : CellSt) (now : Nat) : CellVals :=
  match c.hop.undo.filter (fun u => decide (u.edge = now)) with
  | some u => u.vals
  | none => c.vals

/-! ### Hop boundaries and hops -/

/-- A cell that a new set awaits takes it at a hop boundary (R371), unless an application edge of R372 is to come. -/
def hopBoundary (s : State) (p : Nat) : State :=
  if isDeferred s p && ! s.cal.applyAt.any (fun x => decide (x.1 = cellRegion p) && decide (x.2.2 = some true)) then loadCell s p else s

/-- Running output phase at a leave-HOLD edge: a free value, since the output ran without the anchor (R156). -/
def freePhase (s : State) : Rat := ((Config.runningPhase s.free % 1000 : Nat) : Rat) / 1000

/-- The words of a profile as values: frequency, D, L, PHASE_OFS (R91). The words of the other mode keep theirs (R74). -/
def profFreq (old : Freq) (w : List Word) : Freq :=
  let w0 := w.getD 0 0
  let w1 := w.getD 1 0
  let w2 := w.getD 2 0
  if bitOf w0 17 then { old with mode := true, n := BitVec.ofNat 5 (fld w0 0 5), k := w1, m := w2 }
  else { old with mode := false, n := BitVec.ofNat 5 (fld w0 0 5), f := w2 ++ w1 }
def profD (w : List Word) : BitVec 13 := (w.getD 3 0).extractLsb' 0 13
def profL (w : List Word) : BitVec 18 := w.getD 4 0
def profOfs (w : List Word) : BitVec 36 := w.getD 6 0 ++ w.getD 5 0
def profCont (w : List Word) : Bool := bitOf (w.getD 0 0) 16
def profLearn (w : List Word) : Bool := bitOf (w.getD 0 0) 15
def profMuteHop (w : List Word) : Bool := bitOf (w.getD 3 0) 17
def profBw (w : List Word) : BitVec 3 := (w.getD 7 0).extractLsb' 0 3

/-- A null hop: phase-anchored, to the values in force, with Delta zero and the cell LOCKED (R107). -/
def CellSt.nullHop (c : CellSt) (w : List Word) : Bool :=
  ! profCont w && sameFreq c.vals.freq (profFreq c.vals.freq w) && decide (c.vals.d = profD w) && decide (c.vals.l = profL w)
  && decide (c.vals.ofs = profOfs w) && decide (c.vals.phi = profOfs w) && decide (c.vals.delta = 0)
  && c.loop.locked && c.cfg.ctl.en && ! c.inHold

/-- A profile's words into the staged and in-force words, with PROFILE_ACTIVE and LOOP_BW (R74, R108 step 3). -/
def CellSt.loadProfile (c : CellSt) (idx : Nat) (w : List Word) : CellSt :=
  let f := profFreq c.vals.freq w
  { c with
    vals.freq := f,
    vals.stF := if f.mode then c.vals.stF else f.f,
    vals.stK := if f.mode then f.k else c.vals.stK,
    vals.stM := if f.mode then f.m else c.vals.stM,
    vals.stD := profD w, vals.d := profD w, vals.l := profL w,
    vals.stPhLo := w.getD 5 0, vals.ofs := profOfs w, vals.phi := profOfs w, vals.slewing := false,
    vals.modified := false, vals.profValid := true, vals.profIdx := BitVec.ofNat 8 idx,
    cfg.bw := profBw w, out.slewAt := none }

/-- What a profile hop leaves of the words that the host commits or writes on the same edge (R20, R74): a committed
frequency, divider or phase, and the loop bandwidth. -/
def CellSt.hostKept (c h : CellSt) (now : Nat) : CellSt :=
  let k := fun (e : Option Nat) => decide (e = some now)
  let v := h.vals
  let v1 := if k c.hop.hostFcwAt then { v with freq := c.vals.freq, stF := c.vals.stF, stK := c.vals.stK, stM := c.vals.stM } else v
  let v2 := if k c.hop.hostDivAt then { v1 with d := c.vals.d, l := c.vals.l, stD := c.vals.stD } else v1
  let v3 := if k c.hop.hostPhaseAt then
    { v2 with ofs := c.vals.ofs, phi := c.vals.phi, slewing := c.vals.slewing, stPhLo := c.vals.stPhLo } else v2
  { h with vals := v3, cfg.bw := if k c.hop.hostBwAt then c.cfg.bw else h.cfg.bw,
           out.slewAt := if k c.hop.hostPhaseAt then c.out.slewAt else h.out.slewAt }

/-- The values that a profile hop brings into force on an edge. -/
def CellSt.hopVals (c : CellSt) (now idx : Nat) (w : List Word) : CellSt := c.hostKept (c.loadProfile idx w) now

/-- The learn bookkeeping of a hop that takes effect (R98); CAL-side hints of a spare are not learned. -/
def CellHop.learnFor (h : CellHop) (p idx : Nat) (w : List Word) (hint : Option (BitVec 18)) : CellHop :=
  { h with
    learn := if profLearn w = true ∧ p < 256 then some (idx, w) else none,
    learnHint := hint, learnRun := false, learnSum := 0, learnN := 0 }

/-- Edge E of a profile hop in one physical cell (R106 to R110). A null hop overwrites uncommitted staging (R74). A
mute_hop in force stays until LOCKED though a later hop carries none (log 51). -/
def hopInCell (s : State) (p idx : Nat) (w : List Word) : State :=
  let c := s.cell p
  let now := nowEdge s p
  let a := nowA s p
  if c.cfg.ctl.en = false then
    s.updCell p (fun c => { c.hopVals now idx w with
      vals.delta := if profCont w then c.vals.delta else 0, hop := { c.hop.learnFor p idx w none with pendMute := profMuteHop w } }.settleDiv)
  else if c.inHold = true then
    s.updCell p (fun c => { c.hopVals now idx w with
      hop := { c.hop.learnFor p idx w none with stored := true, storedCont := profCont w, pendMute := profMuteHop w } })
  else if c.nullHop w = true then
    s.updCell p (fun c => c.hopVals now idx w)
  else
    let s1 := hopBoundary s p
    let hint := profileHint s1 p (w.getD 7 0) (w.getD 8 0)
    s1.updCell p (fun c =>
      let h := c.hopVals now idx w
      let c1 := c.moveOut a (c.phaseNow a) h.vals.freq h.vals.d h.vals.l h.vals.phi (profCont w) true .hopRetime
      let c2 := ({ c1 with vals := { h.vals with delta := c1.vals.delta }, cfg := h.cfg, out.slewAt := h.out.slewAt }.acquire
        now .hop hint false).presetPhase
      let c3 := { c2 with
        hop := c2.hop.learnFor p idx w (hint.map (fun h => h.2)),
        out.muteHop := profMuteHop w || c.out.muteHop }
      if profMuteHop w = true then
        (if c1.out.heldLow = true then c3.muteNow
         else { c3 with out.muteAtFall := if c3.out.drv = .toggling then some (c.nextFall a) else c3.out.muteAtFall })
      else c3)

/-- A host commit of the frequency that changes it, in one physical cell (R73, R85). -/
def freqHop (s : State) (p : Nat) (f : Freq) : State :=
  let c := s.cell p
  let a := nowA s p
  if c.cfg.ctl.en = false then s.updCell p (fun c => { c with vals.freq := f })
  else if c.inHold = true then
    s.updCell p (fun c => { c with vals.freq := f, hop.stored := true, hop.storedCont := c.cfg.ctl.cont })
  else
    (hopBoundary s p).updCell p (fun c =>
      let c1 := c.moveOut a (c.phaseNow a) f c.vals.d c.vals.l c.vals.phi c.cfg.ctl.cont true .hopRetime
      { c1.acquire (nowEdge s p) .hop c.latchHint false with hop.learn := none, hop.learnRun := false }.presetPhase)

/-! ### Enable, disable and HOLD (R85, R156, R159) -/

/-- The gate-open edge of an enable. The mute_hop of a profile loaded while the cell was disabled mutes TOUT until
LOCKED (R109, R166). -/
def enableCell (s : State) (p : Nat) : State :=
  let s1 := hopBoundary s p
  let now := nowEdge s p
  s1.updCell p (fun c =>
    let c0 := { c with
      cfg.ctl.en := true, vals.delta := 0,
      loop.rail := false, loop.bandOvf := false, loop.drvFault := false, loop.parErr := false,
      loop.lossMute := false, loop.lossMuteC := false, loop.lossHold := false, loop.fineHist := [],
      out.muteHop := c.hop.pendMute, hop.pendMute := false, out.disableAt := none }.settleDiv
    let c1 :=
      if c0.cfg.ctl.hold then
        let h := (c0.latchHint).getD (c0.loop.band, 0x20000)
        { c0 with
          loop := { c0.loop.startAt h.2 with
            locked := false, inCnt := 0, outCnt := 0, acq := .none, searching := false,
            bandSwitch := false, bandChosen := true, band := h.1 } }
      else c0.acquire now .enable c0.latchHint true
    if c1.cfg.ctl.outEn = true then
      let c2 := { c1.toMuted with out.activeAfter := none }
      if c2.loop.bandChosen then c2.activeFrom (nowA s p + c2.halfPeriod) else c2
    else c1)

/-- CELL_CTL.en 1 to 0 (R85, R166): loop and engine stop, any hop is abandoned. -/
def disableCell (s : State) (p : Nat) : State :=
  s.updCell p (fun c =>
    let c1 := { c with
      cfg.ctl.en := false,
      loop.locked := false, loop.inCnt := 0, loop.outCnt := 0, loop.acq := .none, loop.gear := false,
      loop.searching := false, loop.bandSwitch := false, loop.refRelock := false, loop.hintUse := .none,
      hop.eng := none, hop.learn := none, hop.learnRun := false, hop.stored := false, hop.pendMute := false,
      vals.phi := c.vals.ofs, vals.slewing := false,
      out.muteHop := false, out.activeAfter := none, out.slewAt := none,
      eng := c.eng.halt .stopped }.settleDiv
    if c.out.drv = .muted ∨ c.out.drv = .toggling then { c1.toMuted with out.disableAt := some (nowEdge s p + 16) } else c1)

/-- Entry of HOLD: the DCO code is frozen at `fine`, the band is kept (R156). A learn average under way is discarded (R98). -/
def CellSt.freeze (c : CellSt) (fine : BitVec 18) : CellSt :=
  { c with
    loop := { c.loop.startAt fine with
      locked := false, inCnt := 0, outCnt := 0, acq := .none, gear := false,
      searching := false, bandSwitch := false, hintUse := .none, fineHist := [] },
    hop.learnRun := false, hop.learn := if c.hop.learnRun then none else c.hop.learn }

/-- The edge on which HOLD is left: the timeline of R108 from step 3 (R156), with the mute_hop of a stored hop. -/
def leaveHold (s : State) (p : Nat) : State :=
  let s1 := hopBoundary s p
  (s1.updCell p (fun c =>
    let r := c.vals.rho
    let a := nowA s p
    let ph := freePhase s
    let dl := if c.hop.stored then (if c.hop.storedCont then contDelta r (turns c.vals.phi) ph a else 0) else c.vals.delta
    let mute := c.hop.stored && c.hop.pendMute
    let c1 := { c with
      vals.delta := dl, hop.stored := false, hop.storedCont := false, hop.pendMute := false,
      out.muteHop := c.out.muteHop || mute }
    let c2 := c1.moveOut a ph c.vals.freq c.vals.d c.vals.l c.vals.phi false false .hopRetime
    let c3 := (c2.acquire (nowEdge s p) .leaveHold (some (c.loop.band, c.loop.fine)) false).presetPhase
    if mute = true ∧ c3.out.drv = .toggling then { c3 with out.muteAtFall := some (c.nextFall a) } else c3)).tick

/-! ### Lock declared -/

/-- The verdict becomes LOCKED (R152): HOPL resumes once its own hop is in force (R133), mute_hop and a cause-C
loss-mute are released, learn averaging starts (R98). -/
def CellSt.lockUp (c : CellSt) (now : Nat) (a : Rat) : CellSt :=
  let run := (decide (c.loop.acq = .hop) || decide (c.loop.acq = .enable) || decide (c.loop.acq = .leaveHold)) && c.hop.learn.isSome
  let c1 := { c with
    loop.locked := true, loop.inCnt := 0, loop.outCnt := 0,
    loop.refRelock := false, loop.lossMute := c.loop.lossMute && ! c.loop.lossMuteC, loop.lossMuteC := false,
    loop.acq := .none, loop.hintUse := .none,
    hop.learnRun := run, hop.learnSum := 0, hop.learnN := 0,
    out.muteHop := false, eng := if c.hop.eng.isSome then c.eng else c.eng.lockEnded now }
  if (c.out.muteHop = true ∨ c.loop.lossMuteC = true) ∧ c1.cfg.ctl.mute = false ∧ c1.loop.lossMute = false
  then c1.activeFrom a else c1

end Sys2Proof.Machine
end

