-- ==== Sys2Proof/Machine/PaceOps.lean ====
section
/-! DEFINITION. Transitions of the pace sequencer (R450 to R455). -/
namespace Sys2Proof.Machine
open Sys2Proof

/-- VDD_CORE of a level in mV (R450). -/
def paceMv (level : Nat) : Nat := 620 + 80 * level

/-- VOUT_COMMAND of a level: round(V x 2^-exponent) (R454). -/
def voutOf (expo : Int) (level : Nat) : Nat := (roundQ ((paceMv level : Rat) / 1000 * (if 0 ≤ expo then 1 / (2 ^ expo.toNat : Nat) else (2 ^ (-expo).toNat : Nat)))).toNat

/-- VID, and in PMBus mode VOUT_COMMAND, driven to a level (R450, R454). -/
def Pace.drive (p : Pace) (level : Nat) : Pace :=
  { p with vid := some level, vout := if p.mode then some (voutOf p.expo level) else p.vout }

/-- Steps U1 or D1 of a transition to a target level (R452). -/
def Pace.begin (p : Pace) (target : Nat) : Pace :=
  if p.level < target then { p.drive target with target := target, st := .confirm }
  else if target < p.level then { p with target := target, limits := if p.st = .undervolt then 0 else target, st := .limitsDown }
  else { p with target := target }

/-- PACE_CTL.mode takes a value (R454): in PMBus mode the sequencer reads VOUT_MODE, accepts only ULINEAR16, and writes
VOUT_COMMAND for the level in force; a NACK, PEC error or other format leaves VID control and is an error. `voutMode` is
what the regulator answers, none for a NACK or a PEC error. -/
def Pace.setMode (p : Pace) (mode : Bool) (voutMode : Option Byte) : Pace :=
  match mode, voutMode with
  | true, some v =>
    if v.toNat / 32 = 0 then { p with mode := true, expo := sgn v.toNat 5, vout := some (voutOf (sgn v.toNat 5) p.level) }
    else { p with mode := false, events := p.events.postBit 3 }
  | true, none => { p with mode := false, events := p.events.postBit 3 }
  | false, _ => { p with mode := false }

/-- A mode write that waited for the transition applies now (R453). -/
def Pace.settle (p : Pace) : Pace :=
  match p.modeWait with
  | some (m, v) => { p with modeWait := none }.setMode m v
  | none => p

/-- Some slot is held: the pace stays at P2 or above (R399). -/
def slotHeld (s : State) : Bool := s.bist.runs.any (fun r => decide (r.stage ≠ .waitSlot))

/-- The level last requested takes over once no slot is held (R399, R255). -/
def paceRelease (s : State) : State :=
  if slotHeld s then s
  else
    let s1 : State := { s with bist.paceHold := false }
    match s.pace.pendingLevel with
    | none => s1
    | some l => if s.pace.st = .steady then { s1 with pace := { s1.pace with pendingLevel := none }.begin l } else s1

end Sys2Proof.Machine
end

