-- ==== Sys2Proof/Machine/Maint.lean ====
section
/-! DEFINITION. How a CAL_RUN or a BIST_RUN ends, in part or whole, for the block that releases or takes away
its resources (R22, R377, R385, R398, R400, R404, R405). -/
namespace Sys2Proof.Machine
open Sys2Proof

/-! ### CAL_RUN -/

/-- A run with nothing left to measure completes (R262). -/
def calFinish (s : State) (r : CalRun) : State :=
  let st := match r.early with
    | some e => e
    | none => if 0 < r.counts.2.1 then UNSTABLE else if 0 < r.counts.2.2 then PRECOND else OK
  complete { s with cal.runs := s.cal.runs.filter (fun x => x.tag != r.tag) } r.tag st
    [wd r.counts.1, wd r.counts.2.1, wd r.counts.2.2]

/-- The run that holds a grant in block B. -/
def calRunOf (s : State) (B : Nat) : Option CalRun := s.cal.runs.find? (fun r => r.granted.contains B)

/-- The unit a run has been granted in block B. -/
def calUnitOf (r : CalRun) (B : Nat) : Option CalUnit := (r.todo.find? (fun x => x.1 == B)).bind (fun x => x.2.head?)

/-- The unit in progress in block B ends: the next becomes due, and with `early` the run stops taking new
units (R22, R385). -/
def calUnitEnd (s : State) (B : Nat) (early : Option Nat) : State :=
  match calRunOf s B with
  | none => s
  | some r =>
    let todo := r.todo.map (fun x => if x.1 = B then (x.1, x.2.drop 1) else x)
    let todo1 := if early.isSome then
        todo.map (fun x => if (r.granted.erase B).contains x.1 then (x.1, x.2.take 1) else (x.1, []))
      else todo
    let r1 := { r with
      todo := todo1, granted := r.granted.erase B, done := r.done.erase B,
      early := if early.isSome then early else r.early }
    let s1 : State := { s with cal.runs := s.cal.runs.map (fun x => if x.tag = r.tag then r1 else x) }
    let more := r1.todo.any (fun x => decide (x.1 = B) && ! x.2.isEmpty)
    let s1a := match calUnitOf r B with
      | some u => if u.kind = 1 then s1.updEvin u.unit (fun e => { e with
          calSrc := false, settleAt := if e.en then some ((s.region (B / 4)).edge + 64) else none }) else s1
      | none => s1
    let s2 := s1a.updBlock B (fun b => { b with
      tiuHeld := [], waiting := if more then b.waiting ++ [(.cal, r.tag)] else b.waiting.filter (fun w => decide (w ≠ (.cal, r.tag))) })
    if r1.granted = [] ∧ r1.todo.all (fun x => x.2.isEmpty) then calFinish s2 r1 else s2

/-! ### Repair maps -/

/-- SOFT_MAP (R411). -/
def softMapWord (s : State) (B : Nat) : Word :=
  let b := s.block B
  wd (b2n b.softMap.isSome * 2 ^ 17 + b.softMap.getD 0 * 2 ^ 13 + b2n b.fusedMap.isSome * 2 ^ 12 + b.fusedMap.getD 0 * 2 ^ 8)

/-! ### BIST_RUN -/

/-- Key of a test result: scope, unit and test (R404). -/
def resKey (scope unit test : Nat) : Nat := scope * 2 ^ 16 + unit * 8 + test

/-- Records the outcome of a test on a target. -/
def putResult (s : State) (scope unit test : Nat) (r : TestRes) : State :=
  { s with bist.results := tabSet {} s.bist.results (resKey scope unit test) r }

def getResult (s : State) (scope unit test : Nat) : TestRes := tabGet {} s.bist.results (resKey scope unit test)

/-- The tests of a mask, in ascending bit order. -/
def testsOf (m : BitVec 6) : List Nat := (List.range 6).filter (fun k => m.getLsbD k)

/-- Target of a period as scope and unit. -/
def SlotKind.target : SlotKind → Nat × Nat
  | .online n => (3, n)
  | .block B => (2, B)
  | .region r => (1, r)

/-- The tests of a mask record INCOMPLETE on a period's target (R404, R405). -/
def recordIncomplete (s : State) (k : SlotKind) (m : BitVec 6) : State :=
  forAll (testsOf m) (fun s t => putResult s k.target.1 k.target.2 t { out := 3 }) s

/-- Ends a BIST_RUN: the slot is released and the command completes, with the status it was cut short with if any (R263). -/
def bistEnd (s : State) (r : BistRun) (status : Nat) : State :=
  let s1 : State := { s with bist.runs := s.bist.runs.filter (fun x => x.tag != r.tag) }
  complete (paceRelease s1) r.tag (r.cut.getD status)
    [wd r.res.1.toNat, wd r.res.2.1.toNat, wd r.res.2.2.toNat, wd r.dur]

/-- Status of a BIST_RUN from its three test masks (R263). -/
def bistStatusOf (res : BitVec 6 × BitVec 6 × BitVec 6) : Nat :=
  if res.2.1 ≠ 0 then FAULT else if res.2.2 ≠ 0 then INCOMPLETE else OK

/-- The ONLINE run in progress in block B. -/
def onlineRunOf (s : State) (B : Nat) : Option BistRun :=
  s.bist.runs.find? (fun r => match r.periods with
    | .online n :: _ => decide (cellBlock n = B) && (decide (r.stage = .testing) || decide (r.stage = .restoring))
    | _ => false)

/-- Shows the idle state of the test in BIST_STATUS. -/
def bistIdle (s : State) (B : Nat) : State := s.updBlock B (fun b => { b with bistState := 0, bistTest := 7 })

/-- The ONLINE test of block B is taken away: its tests record INCOMPLETE (R22, R405). -/
def onlineStop (s : State) (B status : Nat) : State :=
  match onlineRunOf s B with
  | none => s
  | some r =>
    match r.periods with
    | k :: _ =>
      let left := r.tests &&& ~~~(r.res.1 ||| r.res.2.1)
      bistEnd (bistIdle (recordIncomplete s k left) B) { r with res := (r.res.1, r.res.2.1, left) } status
    | [] => s

/-- The REPAIR_APPLY that waits for a changeover of block B completes (R263). -/
def repairEnd (s : State) (B status : Nat) : State :=
  match s.mbx.cmds.find? (fun c => decide (c.opcode = 0x072) && decide (c.st = .executing) && decide (tgtIndex c.target = B)) with
  | none => s
  | some c => complete s c.tag status [softMapWord s B]

/-- The maintenance that holds the spare of block B ends with a status (R22, R117). -/
def maintStop (s : State) (B status : Nat) : State :=
  let s1 := match (s.block B).holder with
    | some .cal => calUnitEnd s B (some status)
    | some .online => onlineStop s B status
    | some .map => repairEnd s B status
    | _ => s
  s1.updBlock B (fun b => { b with holder := none, holdCell := none })

/-- A return has ended a maintenance in the ordinary way: the unit or test is done and its resources are released. -/
def maintDone (s : State) (B : Nat) : State :=
  let s1 := match (s.block B).holder with
    | some .cal => calUnitEnd s B none
    | some .online =>
      match onlineRunOf s B with
      | some r => bistEnd (bistIdle s B) r (bistStatusOf r.res)
      | none => s
    | some .map => repairEnd s B OK
    | _ => s
  s1.updBlock B (fun b => { b with
    holder := if b.seated.isSome then some .map else none, holdCell := none })

/-- A cell has faulted: its results, and those of any run on it under way, no longer count as passed since the fault (R404). -/
def staleResults (s : State) (p : Nat) : State :=
  forAll [1, 2, 3] (fun s t =>
    if getResult s 3 p t = {} then s else putResult s 3 p t { getResult s 3 p t with stale := true })
    { s with bist.runs := s.bist.runs.map (fun r => if r.stage = .testing then { r with faulted := p :: r.faulted } else r) }

end Sys2Proof.Machine
end

