-- ==== Sys2Proof/Machine/BlockOps.lean ====
section
/-! DEFINITION. Seating, return, cell and spare faults, loss of lock and reference relock: the block level of
chapters 01, 04, 06 and 19. -/
namespace Sys2Proof.Machine
open Sys2Proof

/-! ### Commands that wait for lock (R504) -/

/-- Ends every wait for lock on a cell with a status; the result is that of the command's entry (R257). -/
def endLockTags (s : State) (p status : Nat) : State :=
  let tags := (s.cell p).hop.lockTags
  forAll tags (fun s t => complete s t.1 status (match t.2 with
      | some res => res
      | none => [wd (b2n (s.cell p).cfg.ctl.en + 2 * b2n (s.cell p).cfg.ctl.outEn + 4 * b2n (s.cell p).cfg.ctl.mute
          + 8 * b2n (s.cell p).cfg.ctl.hold + 16 * b2n (s.cell p).cfg.ctl.cont + 32 * b2n (s.cell p).cfg.ctl.hintEn),
          cellStatus s p]))
    (s.updCell p (fun c => { c with hop.lockTags := [] }))

/-- Ends the waits of HOP commands only: a later hop supersedes them, or their acquisition timed out (R504). -/
def endHopTags (s : State) (p status : Nat) : State :=
  let tags := (s.cell p).hop.lockTags.filter (fun t => t.2.isSome)
  forAll tags (fun s t => complete s t.1 status (t.2.getD []))
    (s.updCell p (fun c => { c with hop.lockTags := c.hop.lockTags.filter (fun t => t.2.isNone) }))

/-- An engine record of the channel a cell serves, posted or held in that cell (R141, R238). -/
def engRecord (s : State) (p cause status value edge : Nat) : State :=
  let g := s.region (cellRegion p)
  let rec_ := untaggedRecord 1 status (unitWord 3 (chanName s p)) cause 0 (value / 2 ^ 18 % 2 ^ 8) (wd (value % 2 ^ 18))
    (stampWords (timeAt g edge) 0)
  let r := postUntagged s (s.cell p).eng.held rec_
  r.1.updCell p (fun c => { c with eng.held := r.2 })

/-! ### Seating and return (R112 to R117) -/

/-- Registers that a host wrote directly while X was replaced keep X's own value at the return (R18, R112). -/
def keepOwn (x m : CellSt) (own : List Nat) : CellSt :=
  let h := fun o => own.contains o
  { m with
    vals.freq := if h 0x06 then x.vals.freq else m.vals.freq,
    vals.stF := (if h 0x03 then x.vals.stF.extractLsb' 18 18 else m.vals.stF.extractLsb' 18 18)
      ++ (if h 0x02 then x.vals.stF.extractLsb' 0 18 else m.vals.stF.extractLsb' 0 18),
    vals.stK := if h 0x04 then x.vals.stK else m.vals.stK,
    vals.stM := if h 0x05 then x.vals.stM else m.vals.stM,
    vals.stD := if h 0x08 then x.vals.stD else m.vals.stD,
    vals.d := if h 0x09 then x.vals.d else m.vals.d,
    vals.l := if h 0x09 then x.vals.l else m.vals.l,
    vals.stPhLo := if h 0x0C then x.vals.stPhLo else m.vals.stPhLo,
    vals.ofs := if h 0x0D then x.vals.ofs else m.vals.ofs,
    vals.phi := if h 0x0D then x.vals.phi else m.vals.phi,
    cfg.ctl := if h 0x00 then x.cfg.ctl else m.cfg.ctl,
    cfg.lvds := if h 0x0A then x.cfg.lvds else m.cfg.lvds,
    cfg.swing := if h 0x0A then x.cfg.swing else m.cfg.swing,
    cfg.step := if h 0x0B then x.cfg.step else m.cfg.step,
    cfg.rate := if h 0x0B then x.cfg.rate else m.cfg.rate,
    cfg.bw := if h 0x0E then x.cfg.bw else m.cfg.bw,
    cfg.gearTime := if h 0x0F then x.cfg.gearTime else m.cfg.gearTime,
    cfg.thr := if h 0x10 then x.cfg.thr else m.cfg.thr,
    cfg.cntK := if h 0x11 then x.cfg.cntK else m.cfg.cntK,
    cfg.action := if h 0x12 then x.cfg.action else m.cfg.action,
    cfg.lateHalt := if h 0x16 then x.cfg.lateHalt else m.cfg.lateHalt }

/-- Step 1 of R114, R115 or R116: the state moves into the incoming cell, which loads its own working values
and acquires with its computed hint, isolated from TOUT; mirroring starts (R113). The spare is enabled anew, so its
fault bits clear (R82); X keeps its own at a return (R112). A stored hop moves with the channel's values. -/
def startSeat (s : State) (B : Nat) (q : Seating) : State :=
  let x := chanOf B q.c
  let sp := spareOf B
  let src := s.cell (if q.ret then sp else x)
  let dst := if q.ret then x else sp
  let fast := decide (q.req = .fault) || q.forcedFor.isSome
  let s1 := s.updBlock B (fun b => { b with seating := some q })
  let s2 := s1.updCell dst (fun c =>
    let m := { c with vals := src.vals, cfg := src.cfg }
    let m1 := if q.ret then keepOwn c m c.own else m
    { m1 with
      loop.fast := fast,
      loop.rail := q.ret && c.loop.rail, loop.bandOvf := q.ret && c.loop.bandOvf,
      loop.drvFault := q.ret && c.loop.drvFault, loop.parErr := q.ret && c.loop.parErr,
      hop.stored := src.hop.stored, hop.storedCont := src.hop.storedCont, hop.pendMute := src.hop.pendMute,
      loop.lossMute := if q.ret then c.loop.lossMute else false,
      loop.lossHold := if q.ret then c.loop.lossHold else false,
      out := { src.out with drv := c.out.drv, muteAtFall := none, disableAt := none, activeAfter := none } })
  let s3 := loadCell s2 dst
  s3.updCell dst (fun c => c.acquire (nowEdge s dst) .seating (some (computedHint s3 dst c.vals.freq)) true)

/-- Seating or return of channel cell c for a requester. -/
def seat (s : State) (B c : Nat) (req : Requester) (ret : Bool) (forced : Option Nat) (from_ : Nat) : State :=
  startSeat s B { c := c, req := req, ret := ret, forcedFor := forced, from_ := from_ }

/-- The engine with its pending wait, and the moving phi of a slew, move to the incoming cell; the outgoing engine stops
(R112, R133, R146, R150). -/
def moveEngine (s : State) (src dst : Nat) : State :=
  let e := (s.cell src).eng
  let now := nowEdge s dst
  (s.updCell dst (fun c => { c with
      eng := if c.loop.locked && (s.cell src).hop.eng.isNone then e.lockEnded now else e,
      vals.phi := (s.cell src).vals.phi, vals.slewing := (s.cell src).vals.slewing, out.slewAt := (s.cell src).out.slewAt,
      hop := { c.hop with eng := (s.cell src).hop.eng, host := (s.cell src).hop.host, lockTags := (s.cell src).hop.lockTags,
                          phaseTag := (s.cell src).hop.phaseTag } })).updCell src
    (fun c => { c with
      eng := { e.halt .stopped with held := none },
      hop := { c.hop with eng := none, host := none, lockTags := [], phaseTag := none, learn := none, learnRun := false } })

/-- The spare is released: its engine stopped, the cell disabled and isolated (R116). -/
def releaseSpare (s : State) (B : Nat) : State :=
  s.updCell (spareOf B) (fun c => { c with
    cfg.ctl.en := false, loop.locked := false, loop.acq := .none, loop.searching := false, loop.gear := false,
    loop.bandSwitch := false, loop.refRelock := false, loop.fast := false, eng := { c.eng.halt .stopped with pc := 0 }, hop := {},
    out.drv := if c.out.drv = .off then .off else .disabled,
    out.muteAtFall := none, out.activeAfter := none, out.disableAt := none, out.slewAt := none })

/-- The driver a cell shows when the selector takes it (R114 step 5, R115). -/
def driverFor (w : Tout) : Drv :=
  match w with
  | .off => .off | .lost => .muted | .disabled => .disabled | .muted => .muted | .active => .toggling

/-- The last usable cell of a channel is gone (R26): LOST, with the waits for lock ended (R504). -/
def loseChannel (s : State) (B c : Nat) : State :=
  let s1 := faultBlock s B 0x11 5 0 (wd c) 2
  let s2 := s1.updBlock B (fun b => { b with
    lost := if b.lost.contains c then b.lost else b.lost ++ [c],
    seated := if b.seated = some c then none else b.seated })
  let s3 := s2.updCell (chanOf B c) (fun x => { x.toMuted with out.disableAt := none, out.activeAfter := none })
  endLockTags (endLockTags s3 (chanOf B c) FAULT) (spareOf B) FAULT

/-- Fault recovery asks for the spare (R115): it is seated when free; a channel under maintenance is returned
first (R22); with no usable spare the channel is lost (R26). -/
def recoverCell (s : State) (B c e : Nat) : State :=
  let b := s.block B
  match b.seating with
  | some q =>
    if q.c = c then
      if q.ret then
        -- R117: X faults before C during its return
        let s1 := maintStop s B INCOMPLETE
        let s2 := s1.updBlock B (fun b => { b with seating := none, why := .fault, holder := some .fault, recover := none })
        let s3 := if q.step = .changed then moveEngine s2 (chanOf B c) (spareOf B) else s2
        match b.recover with
        | some (m, _) => loseChannel s3 B m
        | none => s3
      else if q.req = .fault then s
      else
        let s1 := maintStop s B INCOMPLETE
        (s1.updBlock B (fun b => { b with seating := some { q with req := .fault, from_ := e }, holder := some .fault })).updCell
          (spareOf B) (fun x => { x with loop.fast := decide (q.step = .acquiring) })
    else if q.req = .fault ∧ q.ret = false ∧ q.step = .acquiring ∧ q.from_ = e ∧ c < q.c then
      -- R445: both faulted on this edge, and the lower index takes the spare
      loseChannel (seat (releaseSpare (s.updBlock B (fun b => { b with seating := none })) B) B c .fault false none e) B q.c
    else if b.recover.any (fun x => decide (x.2 = e) && decide (c < x.1)) = true then
      loseChannel (s.updBlock B (fun b => { b with recover := some (c, e), seating := some { q with forcedFor := some c } })) B
        ((b.recover.map (fun x => x.1)).getD 0)
    else if q.req = .fault ∨ q.req = .map ∨ b.recover.isSome = true ∨ (b.seated.isSome = true ∧ b.why ≠ .maintenance) then loseChannel s B c
    else if q.ret = false ∧ q.step = .acquiring then
      let s1 := maintStop s B INCOMPLETE
      let s2 := releaseSpare (s1.updBlock B (fun b => { b with seating := none, holder := some .fault })) B
      seat s2 B c .fault false none e
    else
      -- a return goes on as a forced one, with the fixed lock count (R116); a seating past C is returned after its switch
      let s1 := (maintStop s B INCOMPLETE).updBlock B (fun b => { b with
        recover := some (c, e), seating := some { q with forcedFor := some c }, holder := some .fault })
      if q.ret = true ∧ q.step = .acquiring then s1.updCell (chanOf B q.c) (fun x => { x with loop.fast := true }) else s1
  | none =>
    match b.seated with
    | some c' =>
      if c' = c then
        if b.why = .maintenance then
          (maintStop s B INCOMPLETE).updBlock B (fun b => { b with why := .fault, holder := some .fault })
        else s
      else if b.why = .maintenance then
        let s1 := maintStop s B INCOMPLETE
        let s2 := s1.updBlock B (fun b => { b with recover := some (c, e), holder := some .fault })
        seat s2 B c' .fault true (some c) e
      else loseChannel s B c
    | none =>
      if b.spareFaulty then loseChannel s B c
      else seat ((maintStop s B INCOMPLETE).updBlock B (fun b => { b with holder := some .fault })) B c .fault false none e

/-- A cell fault of a channel cell (R25, R26): counted, its results stale, and fault recovery started; within an
OFFLINE period it is applied at the end of the period (R445). -/
def channelFault (s : State) (p : Nat) : State :=
  let B := cellBlock p
  let c := cellIdx p
  let s1 := (staleResults s p).updBlock B (fun b => { b with failed := if b.failed.contains c then b.failed else b.failed ++ [c] })
  let s2 := s1.postBlock B 0
  if (s2.block B).offline || (s2.mem (B / 4)).offline then s2
  else if (s2.block B).lost.contains c then s2 else recoverCell s2 B c (nowEdge s p)

/-- A failed channel that waits for the spare to be returned gets no cell: the spare is faulty (R26). -/
def loseWaiting (s : State) (B : Nat) : State :=
  match (s.block B).recover with
  | none => s
  | some (m, _) => loseChannel (s.updBlock B (fun b => { b with recover := none })) B m

/-- A fault of the spare (R26, R411, R117): marked faulty; a channel it serves is lost, or returned when the
spare served for maintenance. -/
def spareFault (s : State) (B : Nat) : State :=
  let b := s.block B
  let served := match b.seated with
    | some c => c
    | none => 15
  let s1 := faultBlock s B 0x12 (if b.seated.isSome then (if b.why = .maintenance then 1 else 5) else 0) 0 (wd served) 3
  let s2 := staleResults (s1.updBlock B (fun b => { b with spareFaulty := true })) (spareOf B)
  if b.offline || (s.mem (B / 4)).offline then s2
  else
    match b.seating with
    | some q =>
      if q.ret then loseWaiting s2 B
      else
        let s3 := (loseWaiting s2 B).updBlock B (fun b => { b with seating := none })
        let s4 := releaseSpare (if q.step = .changed then moveEngine s3 (spareOf B) (chanOf B q.c) else s3) B
        if q.req = .fault then loseChannel (s4.updBlock B (fun b => { b with holder := none })) B q.c else maintStop s4 B FAULT
    | none =>
      match b.seated with
      | some c =>
        if b.why = .maintenance then
          seat (maintStop s2 B INCOMPLETE) B c .fault true none (s.region (B / 4)).edge
        else loseChannel (s2.updBlock B (fun b => { b with holder := none })) B c
      | none => maintStop s2 B FAULT

/-- A cell fault of any physical cell. -/
def cellFault (s : State) (p : Nat) : State := if p < 256 then channelFault s p else spareFault s (cellBlock p)

/-- The incoming cell did not lock in time (R117). -/
def seatTimeout (s : State) (B : Nat) : State :=
  match (s.block B).seating with
  | none => s
  | some q =>
    if q.ret then
      let x := chanOf B q.c
      let v := (s.cell x).vals
      channelFault (faultCell s x 0x02 1 0 (if v.modified then 0xFF else wd v.profIdx.toNat)) x
    else spareFault s B

/-! ### Loss of lock (R158 to R160) -/

/-- The causes of R158 that are losses of lock. -/
inductive LossCause where
  | a | b | c | d
  deriving DecidableEq, Repr

/-- Fault-record action of LOCK_ACTION (R440). -/
def actionCode (a : BitVec 2) : Nat := if a = 0 then 1 else if a = 1 then 2 else 3

/-- A loss of lock takes effect (R158): the verdict is ACQUIRING, the lock-lost flag is set, the record posted,
LOCK_ACTION applied, and the cell fault counted where the table says so. `mean` is the frozen code (R156). -/
def loseLock (s : State) (p : Nat) (cause : LossCause) (rec_ : Nat) (detail : Word) (mean : BitVec 18) : State :=
  let c := s.cell p
  let act := c.cfg.action
  let again := decide (act = 1) && c.loop.lossMute || decide (act = 2) && c.loop.lossHold
  let s1 := s.updCell p (fun c => { c with
    loop.locked := false, loop.inCnt := 0, loop.outCnt := 0, loop.acq := .loss, loop.hintUse := .none,
    hop.learnRun := false, hop.learn := none, eng.lockLost := true })
  let s2 := faultCell s1 p rec_ (actionCode act) 0 detail
  if again then s2
  else
    let s3 := s2.updCell p (fun c =>
      if act = 1 then { c with loop.lossMute := true, loop.lossMuteC := decide (cause = LossCause.c) }.muteNow
      else if act = 2 then { c.freeze mean with loop.lossHold := true }
      else c)
    if (cause = .a ∧ act = 1) ∨ cause = .b ∨ cause = .d then cellFault s3 p else s3

/-- A cause-E fault: mute whatever the action, no lock-lost flag, always a cell fault (R158). -/
def causeE (s : State) (p rec_ : Nat) (detail : Word) : State :=
  cellFault ((faultCell s p rec_ 2 0 detail).updCell p (fun c => { c with loop.lossMute := true, loop.lossMuteC := false }.muteNow)) p

/-! ### Reference relock (R45) -/

/-- Cells of a region, spares included. -/
def regionCells (r : Nat) : List Nat :=
  (List.range 64).map (fun i => 64 * r + i) ++ (List.range 4).map (fun b => 256 + 4 * r + b)

/-- An enabled cell whose detector runs: it takes part in a reference relock. -/
def relocks (s : State) (p : Nat) : Bool := (s.cell p).cfg.ctl.en && ! (s.cell p).inHold

/-- relock_pending stays set while an enabled cell has still to relock. -/
def relockCheck (s : State) (r : Nat) : State :=
  s.updRegion r (fun g => { g with
    relockPending := g.relockPending && (regionCells r).any (fun p => relocks s p && (s.cell p).loop.refRelock) })

/-- Every enabled cell of the region restarts lock counting from its present code. -/
def relockStart (s : State) (r : Nat) : State :=
  let now := (s.region r).edge
  let s1 := forAll ((regionCells r).filter (relocks s)) (fun s p => s.updCell p (fun c => { c.gearOn now with
    loop.refRelock := true, loop.relockFrom := now,
    loop.acq := if c.loop.locked then .relock else c.loop.acq,
    loop.locked := false, loop.inCnt := 0, loop.outCnt := 0, hop.learnRun := false })) s
  s1.updRegion r (fun g => { g with relockPending := (regionCells r).any (relocks s) })

end Sys2Proof.Machine
end

