-- ==== Sys2Proof/Machine/Cell.lean ====
section
/-! DEFINITION. The rows of the synthesis cell (chapters 03, 04, 06): register writes of the cell window and
the events of its loop and output. `p` is a physical cell. -/
namespace Sys2Proof.Machine
open Sys2Proof

/-- The outcome of every command of this block: a next state. -/
abbrev Out := Host.Outcome State Fault Refusal

/-- A cell window that can be written now: present, its region not in reset, and not a held spare or a cell under
maintenance (R5, R54, R84, R114 step 6). -/
inductive Reach where
  | ok | absent | gated | busy
  deriving DecidableEq, Repr

/-- A RESET holds a cell forced off: of its block, or of the channel that it serves (R54, R462). -/
def cellForced (s : State) (p : Nat) : Bool :=
  resetOn s 2 (cellBlock p) || (channelOf s p).any (fun n => resetOn s 3 n)

/-- Whether a direct write reaches a cell's window. -/
def cellReach (s : State) (p : Nat) : Reach :=
  if cellPresent s p = false then .absent
  else if (s.region (cellRegion p)).inReset = true ∨ cellForced s p = true then .gated
  else
    let b := s.block (cellBlock p)
    if 256 ≤ p then (if b.seated = none ∧ (b.holder ≠ none ∨ b.seating ≠ none) then .busy else .ok)
    else if b.seated = some (cellIdx p) ∧ b.why = .maintenance ∧ b.holdCell = some (cellIdx p) ∧ b.seating = none then .busy
    else .ok

/-- A direct write into the window of a cell that its spare replaces keeps that register at the return (R18). -/
def markOwn (s : State) (p off : Nat) : State :=
  if p < 256 ∧ (s.block (cellBlock p)).seated = some (cellIdx p) then
    s.updCell p (fun c => { c with own := if c.own.contains off then c.own else c.own ++ [off] })
  else s

/-! ### CELL_CTL -/

/-- CELL_CTL from the six bits of a word (R82). -/
def ctlOf (v : Word) : CellCtl :=
  { en := bitOf v 0, outEn := bitOf v 1, mute := bitOf v 2, hold := bitOf v 3, cont := bitOf v 4, hintEn := bitOf v 5 }

/-- CELL_CTL as a word. -/
def CellCtl.word (c : CellCtl) : Word :=
  wd (b2n c.en + 2 * b2n c.outEn + 4 * b2n c.mute + 8 * b2n c.hold + 16 * b2n c.cont + 32 * b2n c.hintEn)

/-- out_en, mute and hold take new values on one edge (R157, R159, R166); those of a disabled cell only stand in the
register. `releases` tells that the write releases a loss-hold: a host write with hold = 0, or SETO writing hold to 0. -/
def setOutBits (s : State) (p : Nat) (outEn mute hold releases : Bool) : State :=
  let c := s.cell p
  let was := c.inHold
  let now := nowEdge s p
  let a := nowA s p
  let s1 := s.updCell p (fun c => { c with
    cfg.ctl.outEn := outEn, cfg.ctl.mute := mute, cfg.ctl.hold := hold,
    loop.lossHold := if releases then false else c.loop.lossHold })
  if c.cfg.ctl.en = false then s1
  else
    let s2 := s1.updCell p (fun c' =>
      let d := if c.cfg.ctl.outEn = false ∧ outEn = true then
          (let m := { c'.toMuted with out.disableAt := none, out.activeAfter := none }
           if m.loop.bandChosen then m.activeFrom (a + 16) else m)
        else if c.cfg.ctl.outEn = true ∧ outEn = false then
          (if c'.out.drv = .toggling then c'.muteFall a
           else if c'.out.drv = .muted then { c' with out.disableAt := some (now + 16), out.activeAfter := none } else c')
        else c'
      if c.cfg.ctl.mute = false ∧ mute = true then { d.muteFall a with out.activeAfter := none }
      else if c.cfg.ctl.mute = true ∧ mute = false ∧ d.loop.lossMute = false ∧ d.out.muteHop = false ∧ outEn = true then
        d.activeFrom (a + 2)
      else d)
    if was = false ∧ (s2.cell p).inHold = true then
      s2.updCell p (fun c' => c'.freeze (if c.loop.locked then c.meanFine 0 else c.loop.fine))
    else if was = true ∧ (s2.cell p).inHold = false then leaveHold s2 p else s2

/-- A slew that has reached its target ends the wait of a PHASE_SET with wait (R148, R257). -/
def slewDone (s : State) (p : Nat) : State :=
  match (s.cell p).hop.phaseTag with
  | none => s
  | some t =>
    complete (s.updCell p (fun c => { c with hop.phaseTag := none })) t OK
      [(s.cell p).vals.ofs.extractLsb' 18 18, (s.cell p).vals.ofs.extractLsb' 0 18]

/-- Whatever has ended a slew ends the wait of a PHASE_SET with wait. -/
def phaseCheck (s : State) (p : Nat) : State := if (s.cell p).vals.slewing then s else slewDone s p

/-- A write of CELL_CTL (R85, R156, R157, R159, R166): it prevails over a SETO of the same edge (R144); in SCRAPPED every
cell stays disabled (R417). -/
def writeCellCtl (s : State) (p : Nat) (v : Word) : State :=
  let n := if s.lk.lc = 4 then { ctlOf v with en := false } else ctlOf v
  let now := nowEdge s p
  let s1 := s.updCell p (fun c => { c.undone now .seto with
    cfg.ctl.cont := n.cont, cfg.ctl.hintEn := n.hintEn, hop.hostCtlAt := some now })
  if (s.cell p).cfg.ctl.en = true then
    if n.en = true then setOutBits s1 p n.outEn n.mute n.hold (! n.hold)
    else
      let s2 := disableCell (s1.updCell p (fun c => { c with
        cfg.ctl.outEn := n.outEn, cfg.ctl.mute := n.mute, cfg.ctl.hold := n.hold,
        loop.lossHold := if n.hold then c.loop.lossHold else false })) p
      phaseCheck (relockCheck (endLockTags s2 p INCOMPLETE) (cellRegion p)) p
  else
    let s2 := setOutBits s1 p n.outEn n.mute n.hold (! n.hold)
    if n.en = true then enableCell s2 p else s2

/-! ### Commits -/

/-- cfg_err after a refused or an accepted refusable write (R82). -/
def setCfgErr (s : State) (p : Nat) (e : Bool) : State := s.updCell p (fun c => { c with loop.cfgErr := e })

/-- The frequency that a write of FCW_INT commits from staged words (R72). -/
def fcwOf (old : Freq) (st : CellVals) (v : Word) : Freq :=
  if bitOf v 17 then { old with mode := true, n := BitVec.ofNat 5 (fld v 0 5), k := st.stK, m := st.stM }
  else { old with mode := false, n := BitVec.ofNat 5 (fld v 0 5), f := st.stF }

/-- A write of FCW_INT (R72, R73, R80): it prevails over a hop of the same edge (R74, R144). -/
def writeFcw (s : State) (p : Nat) (v : Word) : State :=
  let now := nowEdge s p
  let c := (s.cell p).undone now .engHop
  let st := (s.cell p).staged now
  let f := fcwOf c.vals.freq st v
  if freqOk f = false ∨ (c.cfg.lvds = true ∧ aboveLvds f c.vals.d.toNat c.vals.l.toNat = true) then setCfgErr s p true
  else
    let s1 := s.updCell p (fun c => { c.undone now .engHop with
      loop.cfgErr := false, vals.modified := true, vals.stF := st.stF, vals.stK := st.stK, vals.stM := st.stM,
      hop.hostHopAt := some now, hop.hostFcwAt := some now })
    if sameFreq c.vals.freq f then s1 else endHopTags (freqHop s1 p f) p INCOMPLETE

/-- A write of LOW_DIV (R79): it prevails over a hop of the same edge (R20, R144). -/
def writeLowDiv (s : State) (p : Nat) (v : Word) : State :=
  let now := nowEdge s p
  let st := (s.cell p).staged now
  if divOk st.stD.toNat v.toNat = false then setCfgErr s p true
  else s.updCell p (fun c =>
    let c1 := c.undone now .engHop
    { c1.moveDiv (nowA s p) st.stD v c1.cfg.ctl.cont with
      vals.stD := st.stD, loop.cfgErr := false, vals.modified := true, hop.hostHopAt := some now, hop.hostDivAt := some now })

/-- A write of PHASE_HI (R148, R149): it prevails over a PHS or a hop's phase of the same edge (R20, R144). -/
def writePhaseHi (s : State) (p : Nat) (v : Word) : State :=
  let now := nowEdge s p
  let st := (s.cell p).staged now
  phaseCheck (s.updCell p (fun c => { (c.undone now .phs).phaseCommit (nowA s p) (v ++ st.stPhLo) with
    vals.stPhLo := st.stPhLo, vals.modified := true, loop.cfgErr := false, hop.hostPhaseAt := some now })) p

/-- A write of OUT_CFG (R80). -/
def writeOutCfg (s : State) (p : Nat) (v : Word) : State :=
  let c := s.cell p
  if 12 < fld v 0 4 ∨ (bitOf v 4 = true ∧ aboveLvds c.vals.freq c.vals.d.toNat c.vals.l.toNat = true) then setCfgErr s p true
  else s.updCell p (fun c => { c with cfg.swing := v.extractLsb' 0 4, cfg.lvds := bitOf v 4, loop.cfgErr := false }.applyLvds)

/-- A write of LOOP_BW (R76): the integrator keeps its value. -/
def writeLoopBw (s : State) (p : Nat) (v : Word) : State :=
  s.updCell p (fun c => { c with cfg.bw := v.extractLsb' 0 3, hop.hostBwAt := some (nowEdge s p) })

/-- A write of LOCK_THR restarts both counts; 0 is refused (R82, R85). -/
def writeLockThr (s : State) (p : Nat) (v : Word) : State :=
  if fld v 0 8 = 0 then setCfgErr s p true
  else s.updCell p (fun c => { c with cfg.thr := v.extractLsb' 0 8, loop.inCnt := 0, loop.outCnt := 0, loop.cfgErr := false })

/-- A write of LOCK_CNT restarts both counts; k outside 4..16 is refused (R82, R85). -/
def writeLockCnt (s : State) (p : Nat) (v : Word) : State :=
  if fld v 0 5 < 4 ∨ 16 < fld v 0 5 then setCfgErr s p true
  else s.updCell p (fun c => { c with cfg.cntK := v.extractLsb' 0 5, loop.inCnt := 0, loop.outCnt := 0, loop.cfgErr := false })

/-- A write of LOCK_ACTION; 3 is refused (R82, R85). -/
def writeLockAction (s : State) (p : Nat) (v : Word) : State :=
  if fld v 0 2 = 3 then setCfgErr s p true
  else s.updCell p (fun c => { c with cfg.action := v.extractLsb' 0 2, loop.cfgErr := false })

/-- Window registers whose writes can be refused (R82). -/
def cellRefusable (o : Nat) : Bool := [0x06, 0x09, 0x0A, 0x10, 0x11, 0x12, 0x17].contains o

/-- Window registers that move with the channel at a seating, less the engine's (R112). -/
def movesWithChannel (o : Nat) : Bool :=
  decide (o = 0x00) || (decide (0x02 ≤ o) && decide (o ≤ 0x06)) || (decide (0x08 ≤ o) && decide (o ≤ 0x12))

/-- The spare that mirrors a write into the window of channel cell p while the spare is being seated for it (R113): until
the switch that window is the channel's. During a return the window of X names X alone (R18). -/
def windowMirror (s : State) (p : Nat) : Option Nat :=
  match (s.block (cellBlock p)).seating with
  | none => none
  | some q => if p < 256 ∧ q.ret = false ∧ q.c = cellIdx p then some (spareOf (cellBlock p)) else none

/-- A write of a window register and its mirror; a refused write keeps no register for the return (R18, R72). The flag
tells a refusal. -/
def windowWrite (s : State) (p off : Nat) (f : State → Nat → State) : State × Bool :=
  let s1 := f s p
  if cellRefusable off && (s1.cell p).loop.cfgErr then (s1, true)
  else
    let s2 := markOwn s1 p off
    match windowMirror s p with
    | none => (s2, false)
    | some q =>
      (if movesWithChannel off then f s2 q
       else if off = 0x16 then s2.updCell q (fun c => { c with cfg.lateHalt := (s2.cell p).cfg.lateHalt }) else s2, false)

/-- A direct write of a window register: in a cell it reaches, and otherwise ignored, with BUSY or FAULT for the host
port's reply (R54, R84); a refusal is reported there too (R282). -/
def directWrite (s : State) (p off : Nat) (f : State → Nat → State) : State := ownerWrite s fun s =>
  match cellReach s p with
  | .ok =>
    let x := windowWrite (s.parityFresh (cellBase p + off)) p off f
    if x.2 then { x.1 with hp.ign := true } else x.1
  | .busy => { s with hp.busy := true }
  | .gated => { s with hp.fault := true }
  | .absent => s

/-! ### Partitions and their words (R119, R121, R435) -/

/-- Partition length of a channel in words (R119). -/
def partWords (s : State) (n : Nat) : Nat := 64 * tabGet 8 (s.mem (cellRegion n)).partLen (n % 64)

/-- First word of a channel's partition within its region (R119). -/
def partBase (s : State) (n : Nat) : Nat :=
  64 * ((List.range (n % 64)).map (fun i => tabGet 8 (s.mem (cellRegion n)).partLen i)).sum

/-- Key in hop-table memory of the word at offset `pc` of the partition that cell p executes from. -/
def hopKey (s : State) (p pc : Nat) : Nat := cellRegion p * 32768 + partBase s (chanName s p) + pc

/-- The hop-table word at an offset of the partition. -/
def hopWord (s : State) (p pc : Nat) : Word := tabGet 0 s.hopTab (hopKey s p pc)

/-- Length of the partition that cell p executes from: a spare that serves nobody has none (R19). -/
def engLen (s : State) (p : Nat) : Nat := if chanName s p < 256 then partWords s (chanName s p) else 0

/-- Words rewritten are correct again (R435). -/
def clearBad (s : State) (mem lo hi : Nat) : State :=
  { s with
    flt.badWords := s.flt.badWords.filter (fun b => ! (decide (b.1 = mem) && decide (lo ≤ b.2) && decide (b.2 < hi))),
    flt.eccLogged := s.flt.eccLogged.filter (fun b => ! (decide (b.1 = mem) && decide (lo ≤ b.2) && decide (b.2 < hi))) }

/-- The engine is RUNNING or WAITING. -/
def Engine.active (e : Engine) : Bool := decide (e.st = .running) || decide (e.st = .waiting)

/-! ### The rows: register writes -/

/-- CELL_CTL_EN_SET (R85): a write of CELL_CTL with en = 1. -/
def execCellCtlEnSet (p : Nat) (v : Word) (s : State) : Out := .next (directWrite s p 0x00 (fun s q => writeCellCtl s q (v ||| 1)))

/-- CELL_CTL_EN_CLEAR (R85): a write of CELL_CTL with en = 0. -/
def execCellCtlEnClear (p : Nat) (v : Word) (s : State) : Out := .next (directWrite s p 0x00 (fun s q => writeCellCtl s q (v &&& ~~~1)))

/-- CELL_CTL_OUT_EN_SET (R166): a write of CELL_CTL with out_en = 1. -/
def execCellCtlOutEnSet (p : Nat) (v : Word) (s : State) : Out := .next (directWrite s p 0x00 (fun s q => writeCellCtl s q (v ||| 2)))

/-- CELL_CTL_OUT_EN_CLEAR (R166): a write of CELL_CTL with out_en = 0. -/
def execCellCtlOutEnClear (p : Nat) (v : Word) (s : State) : Out := .next (directWrite s p 0x00 (fun s q => writeCellCtl s q (v &&& ~~~2)))

/-- CELL_CTL_MUTE_SET (R166): a write of CELL_CTL with mute = 1. -/
def execCellCtlMuteSet (p : Nat) (v : Word) (s : State) : Out := .next (directWrite s p 0x00 (fun s q => writeCellCtl s q (v ||| 4)))

/-- CELL_CTL_MUTE_CLEAR (R166): a write of CELL_CTL with mute = 0. -/
def execCellCtlMuteClear (p : Nat) (v : Word) (s : State) : Out := .next (directWrite s p 0x00 (fun s q => writeCellCtl s q (v &&& ~~~4)))

/-- CELL_CTL_HOLD_SET (R157): a write of CELL_CTL with hold = 1. -/
def execCellCtlHoldSet (p : Nat) (v : Word) (s : State) : Out := .next (directWrite s p 0x00 (fun s q => writeCellCtl s q (v ||| 8)))

/-- CELL_CTL_HOLD_CLEAR (R156): a write of CELL_CTL with hold = 0. -/
def execCellCtlHoldClear (p : Nat) (v : Word) (s : State) : Out := .next (directWrite s p 0x00 (fun s q => writeCellCtl s q (v &&& ~~~8)))

/-- FCW_INT_COMMIT (R72, R73). -/
def execFcwIntCommit (p : Nat) (v : Word) (s : State) : Out := .next (directWrite s p 0x06 (fun s q => writeFcw s q v))

/-- LOW_DIV_COMMIT (R79). -/
def execLowDivCommit (p : Nat) (v : Word) (s : State) : Out := .next (directWrite s p 0x09 (fun s q => writeLowDiv s q v))

/-- PHASE_HI_COMMIT (R148, R149). -/
def execPhaseHiCommit (p : Nat) (v : Word) (s : State) : Out := .next (directWrite s p 0x0D (fun s q => writePhaseHi s q v))

/-- OUT_CFG_WRITE (R80). -/
def execOutCfgWrite (p : Nat) (v : Word) (s : State) : Out := .next (directWrite s p 0x0A (fun s q => writeOutCfg s q v))

/-- LOOP_BW_WRITE (R76). -/
def execLoopBwWrite (p : Nat) (v : Word) (s : State) : Out := .next (directWrite s p 0x0E (fun s q => writeLoopBw s q v))

/-- LOCK_THR_WRITE (R85). -/
def execLockThrWrite (p : Nat) (v : Word) (s : State) : Out := .next (directWrite s p 0x10 (fun s q => writeLockThr s q v))

/-- LOCK_CNT_WRITE (R85). -/
def execLockCntWrite (p : Nat) (v : Word) (s : State) : Out := .next (directWrite s p 0x11 (fun s q => writeLockCnt s q v))

/-! ### The rows: events of the loop -/

/-- The edge on which the band choice of an enable is complete lets the output start half a period later (R166). -/
def bandChosen (s : State) (p : Nat) : State :=
  s.updCell p (fun c =>
    if c.loop.bandChosen then c
    else
      let c1 := { c with loop.bandChosen := true }
      if c1.cfg.ctl.mute = false ∧ c1.loop.lossMute = false ∧ c1.out.muteHop = false ∧ c1.cfg.ctl.outEn = true
      then c1.activeFrom (nowA s p + c1.halfPeriod) else c1)

/-- BAND_SEARCH_END (R64, R66): the band found, or a band overflow. -/
def execBandSearchEnd (p : Nat) (found : Bool) (band : BitVec 7) (fine : Word) (s : State) : Out :=
  if (s.cell p).cfg.ctl.en = true ∧ (s.cell p).loop.searching = true then
    if found then
      .next (bandChosen (s.updCell p (fun c => { c with
        loop := { c.loop.startAt fine with searching := false, band := band, inCnt := 0, outCnt := 0 } })) p)
    else
      let s1 := s.updCell p (fun c => { c with
        loop := { c.loop.startAt fine with searching := false, band := band, bandOvf := true } })
      if (s.cell p).loop.refRelock = true then .next (bandChosen s1 p)
      else .next (bandChosen (loseLock s1 p .d 0x04 (wd band.toNat) fine) p)
  else .next s

/-- BAND_SWITCH_SETTLED (R108 step 5). -/
def execBandSwitchSettled (p : Nat) (s : State) : Out :=
  if (s.cell p).loop.bandSwitch = true then
    .next (bandChosen (s.updCell p (fun c => { c with loop.bandSwitch := false, loop.inCnt := 0, loop.outCnt := 0 })) p)
  else .next s

/-- The gear period ends on its edge, E + 4 t; the integrator stays (R77). -/
def gearEnd (s : State) (p : Nat) : State :=
  if (s.cell p).loop.gear = true ∧ (s.cell p).loop.gearEnd ≤ nowEdge s p then s.updCell p (fun c => { c with loop.gear := false }) else s

/-- GEAR_PERIOD_END (R77). -/
def execGearPeriodEnd (p : Nat) (s : State) : Out := .next (gearEnd s p)

/-- A rising output edge of a slew: phi moves once, when the edge has come (R148). -/
def slewPeriod (s : State) (p : Nat) : State :=
  if (s.cell p).vals.slewing = true ∧ (s.cell p).out.slewAt.all (fun t => decide (t ≤ nowA s p)) = true then
    let s1 := s.updCell p CellSt.slewPeriod
    if (s1.cell p).vals.slewing = true then s1 else slewDone s1 p
  else s

/-- SLEW_PERIOD (R148). -/
def execSlewPeriod (p : Nat) (s : State) : Out := .next (slewPeriod s p)

/-- The falling edge at which a change of the output acts: presets for the new values and, unless the change is
phase-continuous, a hold to the first A_k at least half a new period later (R79, R109). -/
def CellSt.atFall (c : CellSt) (cont : Bool) : CellSt :=
  let f := c.out.fallAt.getD 0
  let r := c.vals.rho
  if cont then
    { c with
      vals.delta := contDelta r (turns c.vals.phi) (1 / 2) f,
      out := c.out.atOnce c.vals.d c.vals.l }.presetPhase
  else
    { c with
      out := { c.out.atOnce c.vals.d c.vals.l with
        heldLow := true, holdTo := f + 1 / (2 * r),
        riseAt := some (firstAnchor r (turns c.vals.phi) c.vals.delta (f + 1 / (2 * r))) } }.presetPhase

/-- The falling edge that a change waits for has come. -/
def fallCome (s : State) (p : Nat) : Bool := (s.cell p).out.fallAt.any (fun t => decide (t ≤ nowA s p))

/-- A pending divider change acts at its falling edge (R79). -/
def dividerChange (s : State) (p : Nat) : State :=
  match (s.cell p).out.pend with
  | .divAnchored => if fallCome s p then s.updCell p (fun c => c.atFall false) else s
  | .divCont => if fallCome s p then s.updCell p (fun c => c.atFall true) else s
  | _ => s

/-- DIVIDER_CHANGEOVER (R79). -/
def execDividerChangeover (p : Nat) (s : State) : Out := .next (dividerChange s p)

/-- A hop's re-timing acts at its falling edge (R109). -/
def hopRetime (s : State) (p : Nat) : State :=
  if (s.cell p).out.pend = .hopRetime ∧ fallCome s p = true then s.updCell p (fun c => c.atFall false) else s

/-- HOP_RETIME (R109). -/
def execHopRetime (p : Nat) (s : State) : Out := .next (hopRetime s p)

/-- The hold of a re-timing ends at its first anchored edge (R79, R109). -/
def retimeRise (s : State) (p : Nat) : State :=
  if (s.cell p).out.heldLow = true ∧ (s.cell p).out.riseAt.all (fun t => decide (t ≤ nowA s p)) = true then
    s.updCell p (fun c => { c with out.heldLow := false, out.riseAt := none })
  else s

/-- RETIME_FIRST_RISE (R109). -/
def execRetimeFirstRise (p : Nat) (s : State) : Out := .next (retimeRise s p)

/-- The driver goes to the muted level at the falling edge, and to disabled 16 cycles later when out_en is 0 (R166). In
HOLD the output runs without the anchor (R156), so its falling edge is the one that the row reports. -/
def muteAtFall (s : State) (p : Nat) (reported : Bool) : State :=
  match (s.cell p).out.muteAtFall with
  | none => s
  | some t =>
    if t ≤ nowA s p ∨ (reported = true ∧ (s.cell p).inHold = true) then
      s.updCell p (fun c => { c.toMuted with
        out.disableAt := if c.cfg.ctl.outEn then none else some (nowEdge s p + 16) })
    else s

/-- TOUT_MUTE_AT_FALL (R166). -/
def execToutMuteAtFall (p : Nat) (s : State) : Out := .next (muteAtFall s p true)

/-- The first anchored edge at or after a time of the anchor count has come. -/
def anchorCome (c : CellSt) (t a : Rat) : Bool := decide (firstAnchor c.vals.rho (turns c.vals.phi) c.vals.delta t ≤ a)

/-- ACTIVE from the first A_k after the delay, once R165 asks for it (R166); free-running edges in HOLD have no A_k. -/
def toutActive (s : State) (p : Nat) : State :=
  match (s.cell p).out.activeAfter with
  | none => s
  | some t =>
    if ((if (s.cell p).inHold then decide (t ≤ nowA s p) else anchorCome (s.cell p) t (nowA s p)) = true)
       ∧ cellWant s p = .active ∧ (s.cell p).out.drv = .muted then
      s.updCell p (fun c => { c with out.drv := .toggling, out.activeAfter := none })
    else s

/-- TOUT_ACTIVE_AT_ANCHOR (R166). -/
def execToutActiveAtAnchor (p : Nat) (s : State) : Out := .next (toutActive s p)

/-- The driver is disabled 16 cycles after the muted level (R166); that of a lost channel stays muted (R164). -/
def toutDisable (s : State) (p : Nat) : State :=
  match (s.cell p).out.disableAt with
  | none => s
  | some e =>
    if e ≤ nowEdge s p ∧ ((s.cell p).cfg.ctl.en = false ∨ (s.cell p).cfg.ctl.outEn = false) ∧ ¬ (p < 256 ∧ chanLost s p = true) then
      s.updCell p (fun c => { c with out.drv := .disabled, out.disableAt := none }.applyLvds)
    else s

/-- TOUT_DISABLE_DELAY (R166). -/
def execToutDisableDelay (p : Nat) (s : State) : Out := .next (toutDisable s p)

/-- The count is complete: the cell is LOCKED, and the commands that wait for it are answered (R152, R504). -/
def lockNow (s : State) (p : Nat) : State :=
  let s1 := s.updCell p (fun c => c.lockUp (nowEdge s p) (nowA s p))
  relockCheck (if channelOf s p = none then s1 else endLockTags s1 p OK) (cellRegion p)

/-- The working K_DCO of the band in use (R63). -/
def kNow (s : State) (p : Nat) : Rat := workK s p (s.cell p).loop.band.toNat

/-- LOCK_DECLARED (R152): the comparison of the edge, with the reported PHERR, is the 2^k-th in range in a row; the loop has
settled at the fine code reported. -/
def execLockDeclared (p : Nat) (fine pherr : Word) (s : State) : Out :=
  let c := s.cell p
  if c.cfg.ctl.en = true ∧ c.inHold = false ∧ c.loop.locked = false ∧ c.loop.searching = false ∧ c.loop.bandSwitch = false
     ∧ (errOf pherr).natAbs < c.cfg.thr.toNat ∧ c.lockCycles ≤ c.loop.inCnt + 1 then
    .next (lockNow (s.updCell p (fun c => (({ c.settleAt (kNow s p) fine with
      loop.pherr := BitVec.ofInt 18 (errOf pherr), loop.cmpAt := some (nowEdge s p) } : CellSt).keepFine))) p)
  else .next s

/-- LOCK_LOSS (R153, R158 cause A): the comparison of the edge is the fourth in a row out of range. The mean of R156 ends
before the first of them. -/
def execLockLoss (p : Nat) (pherr : Word) (s : State) : Out :=
  let c := s.cell p
  if c.cfg.ctl.en = true ∧ c.inHold = false ∧ c.loop.locked = true
     ∧ 2 * c.cfg.thr.toNat < (errOf pherr).natAbs ∧ 4 ≤ c.loop.outCnt + 1 then
    .next (loseLock (s.updCell p (fun c => { c with
      loop.pherr := BitVec.ofInt 18 (errOf pherr), loop.cmpAt := some (nowEdge s p) })) p .a 0x01
      (BitVec.ofInt 18 (errOf pherr)) (c.meanFine 3))
  else .next s

/-- The hint is abandoned and the full band search runs from this edge (R97). -/
def CellSt.dropHint (c : CellSt) : CellSt :=
  { c with
    loop.hintUse := .none, loop.searching := true, loop.bandSwitch := false, loop.inCnt := 0, loop.outCnt := 0,
    loop.hintMiss := satAdd 0x3FFFF c.loop.hintMiss 1, hop.learnHint := none }

/-- Cell p abandons its hint; HINT_MISS may saturate (R97, R439). -/
def hintDropped (s : State) (p : Nat) : State := s.cellSat (s.updCell p CellSt.dropHint) p (fun c => c.loop.hintMiss)

/-- The consequences of the fine code that an edge leaves: a rail is latched, a locked cell loses lock there, and one that
acquires on a hint abandons it near a rail (R153, R97, R158). `mean` is the code frozen under loss-hold (R156). -/
def railCheck (s : State) (p : Nat) (mean : BitVec 18) : State :=
  let c := s.cell p
  let fine := c.loop.fine
  let atRail := decide (fine = 0) || decide (fine = 0x3FFFF)
  let s1 := if atRail then s.updCell p (fun c => { c with loop.rail := true }) else s
  if c.loop.locked = true then
    if atRail then
      let s2 := loseLock s1 p .a 0x01 c.loop.pherr mean
      if c.cfg.action = 0 then s2.updCell p (fun c => { c with loop.searching := true }) else s2
    else s1
  else if c.loop.hintUse ≠ .none ∧ (fine.toNat ≤ 0x400 ∨ 0x3FFFF - 0x400 ≤ fine.toNat) then hintDropped s1 p
  else s1

/-- FINE_CODE_RAIL (R153, R97, R158): the loop has driven the fine code to the one reported. -/
def execFineCodeRail (p : Nat) (fine : Word) (s : State) : Out :=
  let c := s.cell p
  if c.cfg.ctl.en = false ∨ c.inHold = true then .next s
  else .next (railCheck (s.updCell p (fun c => c.settleAt (kNow s p) fine)) p (c.meanFine 0))

/-- A failed reference relock (R45, R158 cause C): reported as a region event, never a cell fault (R27). An acquisition that
the relock met ends with it. -/
def relockFailed (s : State) (p : Nat) : State :=
  let c := s.cell p
  let ends := decide (c.loop.acq = .hop) || decide (c.loop.acq = .enable) || decide (c.loop.acq = .leaveHold)
  let s1 := if c.loop.acq = .hop then endHopTags s p FAULT else s
  let s2 := s1.updCell p (fun c => { c with
    loop.refRelock := false, eng := if ends then c.eng.lockEnded (nowEdge s p) else c.eng })
  relockCheck (loseLock s2 p .c 0x03 0 c.loop.fine) (cellRegion p)

/-- R108 step 8 on its edge (R158 cause B; cause C during a reference relock, R160). The incoming cell of a seating is
held to R117 instead. -/
def acqTimeout (s : State) (p : Nat) : State :=
  let c := s.cell p
  if c.cfg.ctl.en = true ∧ c.inHold = false ∧ c.loop.locked = false ∧ incoming s p = false
     ∧ (c.loop.acq = .hop ∨ c.loop.acq = .enable ∨ c.loop.acq = .leaveHold) ∧ c.acqLimit ≤ nowEdge s p then
    if c.loop.refRelock then relockFailed s p
    else
      let s1 := if c.loop.acq = .hop then endHopTags s p FAULT else s
      let s2 := s1.updCell p (fun c => { c with eng := c.eng.lockEnded (nowEdge s p) })
      loseLock s2 p .b 0x02 (if c.loop.acq = .hop ∧ c.vals.modified = false then wd c.vals.profIdx.toNat else 0xFF) c.loop.fine
  else s

/-- ACQ_TIMEOUT (R108 step 8). -/
def execAcqTimeout (p : Nat) (s : State) : Out := .next (acqTimeout s p)

/-- A reference relock fails 40 us and the lock count after its start (R45). -/
def relockTimeout (s : State) (p : Nat) : State :=
  let c := s.cell p
  if c.cfg.ctl.en = true ∧ c.inHold = false ∧ c.loop.refRelock = true ∧ c.relockLimit ≤ nowEdge s p then relockFailed s p else s

/-- RELOCK_FAIL (R45). -/
def execRelockFail (p : Nat) (s : State) : Out := .next (relockTimeout s p)

/-- A hint is stale when LOCKED is not reached within twice the with-hint bound (R97). -/
def hintStale (s : State) (p : Nat) : State :=
  let c := s.cell p
  if c.cfg.ctl.en = true ∧ c.inHold = false ∧ c.loop.locked = false ∧ c.loop.hintUse ≠ .none ∧ c.loop.searching = false
     ∧ c.hintLimit ≤ nowEdge s p then hintDropped s p
  else s

/-- HINT_STALE (R97). -/
def execHintStale (p : Nat) (s : State) : Out := .next (hintStale s p)

/-- One CREF cycle of the loop of a cell that no comparison has been made for on this edge; what the TDC finds of the
loop's own phase error is a free value (R70, R502). The verdict follows the counts (R152, R153). -/
def loopEdge (s : State) (p : Nat) : State :=
  let c := s.cell p
  if c.cfg.ctl.en = true ∧ c.inHold = false ∧ c.loop.cmpAt ≠ some (nowEdge s p) then
    let s1 := (s.updCell p (fun c => c.loopCycle (kNow s p) (nowEdge s p) (Config.phaseError s.free))).tick
    let c1 := s1.cell p
    if c1.loop.locked = false ∧ c1.loop.searching = false ∧ c1.loop.bandSwitch = false ∧ c1.lockCycles ≤ c1.loop.inCnt then lockNow s1 p
    else if c1.loop.locked = true ∧ 4 ≤ c1.loop.outCnt then loseLock s1 p .a 0x01 c1.loop.pherr (c1.meanFine 4)
    else railCheck s1 p (c1.meanFine 1)
  else s

/-- DRV_FAULT (R162, R158 cause E). -/
def execDrvFault (p : Nat) (legs : BitVec 2) (s : State) : Out :=
  if (s.cell p).out.drv = .toggling ∨ (s.cell p).out.drv = .muted then
    if (s.cell p).loop.drvFault = true then .next s
    else .next (causeE (s.updCell p (fun c => { c with loop.drvFault := true })) p 0x05 (wd legs.toNat))
  else .next s

/-! ### Profiles and hops (R90 to R98, R104 to R110) -/

/-- Key of word 0 of profile idx of channel n in profile memory. -/
def profKey (n idx : Nat) : Nat := n * 1920 + idx * 10

/-- Rotation of an 18-bit word left. -/
def rotl (w : Word) (k : Nat) : Word := w.rotateLeft k

/-- The check word of nine words stored as profile p of channel n (R92). -/
def checkWord (n p : Nat) (w : List Word) : Word :=
  ((List.range 9).foldl (fun a i => a ^^^ rotl (w.getD i 0) i) 0) ^^^ wd (256 * n + p) ^^^ 0x15555

/-- The ten words of a profile row. -/
def profRow (s : State) (n idx : Nat) : List Word := tabWords s.profiles (profKey n idx) 10

/-- A word of the row is uncorrectable (memory code 9, R408, R435). -/
def profBad (s : State) (n idx : Nat) : Bool :=
  s.flt.badWords.any (fun b => decide (b.1 = 9) && decide (profKey n idx ≤ b.2) && decide (b.2 < profKey n idx + 10))

/-- Fetches and checks a profile for a cell (R95). -/
def fetch (s : State) (p n idx : Nat) : FetchRes :=
  let w := profRow s n idx
  if profBad s n idx then .uncorr
  else if bitOf (w.getD 0 0) 14 = false then .invalid
  else if checkWord n idx w ≠ w.getD 9 0 then .badCheck
  else if (s.cell p).cfg.lvds = true ∧ aboveLvds (profFreq (s.cell p).vals.freq w) (profD w).toNat (profL w).toNat = true then .lvds
  else .ok

/-- HOP status of a refused fetch (R95). -/
def FetchRes.status : FetchRes → Nat
  | .ok => OK | .uncorr => FAULT | .invalid => PRECOND | .badCheck => FAULT | .lvds => BADARG

/-- Words that a region holds of a memory, by its code in R408: event banks share the positions of the event memory. -/
def memSize (mem : Nat) : Nat := if mem < 8 then 262144 else if mem = 8 then 4096 else if mem = 9 then 122880 else 32768

/-- An uncorrectable word met on a read: counted, and logged once until rewritten (R435). -/
def meetUncorr (s : State) (mem addr r : Nat) : State :=
  let s1 := s.updRegion r (fun g => { g with eccUncorr := if g.eccUncorr = 0x3FFFF then g.eccUncorr else g.eccUncorr + 1 })
  let s1' := if (s.region r).eccUncorr = 0x3FFFE then s1.postRegion r 8 else s1
  if s.flt.eccLogged.contains (mem, addr) then s1'
  else faultRegion { s1' with flt.eccLogged := s1'.flt.eccLogged ++ [(mem, addr)] } r 0x24 1 mem (wd (addr % memSize mem)) 4

/-- A single-bit error is corrected, written back, counted and recorded (R435). -/
def corrected (s : State) (r mem addr : Nat) : State :=
  let g := s.region r
  let s1 := s.updRegion r (fun g => { g with eccCorr := if g.eccCorr = 0x3FFFF then g.eccCorr else g.eccCorr + 1 })
  let s2 := if g.eccCorr = 0x3FFFE then s1.postRegion r 8 else s1
  faultRegion s2 r 0x23 13 mem (wd addr) 3

/-- A single-bit error met in the first word of a profile row read is corrected (R435). -/
def softProfile (s : State) (n idx : Nat) (soft : Bool) : State :=
  if soft then corrected s (cellRegion n) 9 (profKey n idx % memSize 9) else s

/-- A profile row with an uncorrectable word is read (R435). -/
def meetProfile (s : State) (n idx : Nat) : State :=
  match s.flt.badWords.find? (fun b => decide (b.1 = 9) && decide (profKey n idx ≤ b.2) && decide (b.2 < profKey n idx + 10)) with
  | some b => meetUncorr s 9 b.2 (cellRegion n)
  | none => meetUncorr s 9 (profKey n idx) (cellRegion n)

/-- A fetch that fails: cfg_err is set, an uncorrectable word is met (R95, R435). -/
def refuseHop (s : State) (p n idx : Nat) (res : FetchRes) : State :=
  let s1 := setCfgErr s p true
  if res = .uncorr then meetProfile s1 n idx else s1

/-- The fault path of an engine (R145): FAULT, ENG_PC at the chain's first word, and a record. -/
def engFault (s : State) (p : Nat) (bit : Bool) (status : Nat) : State :=
  let e := (s.cell p).eng
  let s1 := s.updCell p (fun c => { c with
    eng := { c.eng.halt .fault with fault := c.eng.fault || bit, pc := if 0 < c.eng.extN then c.eng.chain else c.eng.pc } })
  engRecord s1 p 3 status 0 e.s

/-- The refused-hop path of an engine (R145). -/
def engRefused (s : State) (p : Nat) (res : FetchRes) : State :=
  match res with
  | .ok => s
  | .uncorr => engFault s p true FAULT
  | .badCheck => engFault s p true FAULT
  | .invalid => engFault s p false PRECOND
  | .lvds => engFault s p false BADARG

/-! ### Preparation of the next action (R126) -/

/-- The prepared path from an offset on: words are issued in program order up to the action's, loops resolved by their
counters, JMP followed, BRL not branching, waits ending by their event. It ends at an action, a HALT, a word that faults
or cannot be read, or with the fuel. -/
def prepWalk (s : State) (p : Nat) : Nat → Nat → Nat → Tab Nat → Tab Nat → List (Nat × Word) → Prep
  | 0, _, _, _, _, acc => { words := acc }
  | n + 1, pc, ext, ctr, st, acc =>
    if engLen s p ≤ pc ∨ s.flt.badWords.contains (10, hopKey s p pc) = true then { words := acc }
    else
      let w := hopWord s p pc
      let o := engOpc w
      let v := ext * 2 ^ 13 + engArg w
      let acc1 := if acc.any (fun x => x.1 == pc) then acc else (pc, w) :: acc
      if o = 0x1F then prepWalk s p n (pc + 1) v ctr st acc1
      else if o = 0x02 ∨ o = 0x03 then { words := acc1, hop := if v % 256 < 192 then some (pc, v % 256) else none }
      else if o = 0x00 ∨ (0x08 ≤ o ∧ o ≤ 0x0A) ∨ 0x10 ≤ o then { words := acc1 }
      else if o = 0x0B then prepWalk s p n (pc + 1) 0 (tabSet 0 ctr (v % 4) (v / 4 % 2 ^ 24)) (tabSet 0 st (v % 4) (pc + 1)) acc1
      else if o = 0x0C then
        prepWalk s p n (if 1 < tabGet 0 ctr (v % 4) then tabGet 0 st (v % 4) else pc + 1) 0
          (tabSet 0 ctr (v % 4) (tabGet 0 ctr (v % 4) - 1)) st acc1
      else if o = 0x0D then prepWalk s p n v 0 ctr st acc1
      else prepWalk s p n (pc + 1) 0 ctr st acc1

/-- Preparation of the next action begins on the present edge: at a start, on the edge of an action, on a departure from
the prepared path (R126, R131). The words of the path are read at once (log 52). -/
def prepare (s : State) (p : Nat) : State :=
  let e := (s.cell p).eng
  s.updCell p (fun c => { c with
    eng.prep := some (prepWalk s p 4096 e.pc 0 e.ctr e.ctrStart []), eng.prepFrom := some (nowEdge s p) })

/-- The word at ENG_PC: as prepared, or else as it stands in the hop table (R121). -/
def curWord (s : State) (p : Nat) : Word :=
  let pc := (s.cell p).eng.pc
  match (s.cell p).eng.prep.bind (fun x => x.words.find? (fun w => w.1 == pc)) with
  | some w => w.2
  | none => hopWord s p pc

/-- The word at ENG_PC has been issued by the preparation. -/
def curPrepared (s : State) (p : Nat) : Bool :=
  (s.cell p).eng.prep.any (fun x => x.words.any (fun w => w.1 == (s.cell p).eng.pc))

/-- The profile fetch that the engine's preparation waits for (R126): none when there is none, or it has been made. -/
def engFetch (s : State) (p : Nat) : Option (Nat × Nat) :=
  if (s.cell p).eng.active = true then
    (s.cell p).eng.prep.bind (fun x => if x.fetched.isSome then none else x.hop)
  else none

/-- The fetch of a host HOP is complete (R95, R104). -/
def hostFetched (s : State) (p : Nat) (h : HopReq) : State :=
  let n := chanName s p
  let res := fetch s p n h.idx
  if res = .ok then
    let g := s.region (cellRegion p)
    match h.at_ with
    | none => s.updCell p (fun c => { c with
        hop.host := some { h with words := profRow s n h.idx, due := some (g.edge + 1) } })
    | some t =>
      if reached g.time t then
        complete (s.updCell p (fun c => { c with hop.host := none })) (h.tag.getD 0) TIMEOUT []
      else s.updCell p (fun c => { c with
        hop.host := some { h with words := profRow s n h.idx, due := some (edgeOf g t) } })
  else
    complete ((refuseHop s p n h.idx res).updCell p (fun c => { c with hop.host := none })) (h.tag.getD 0) res.status []

/-- The fetch of the engine's prepared hop is complete: what it found is kept with the action, and a refusal takes its
fault path on the action's S (R126, R137, R145; log 53). -/
def engFetched (s : State) (p idx : Nat) : State :=
  let n := chanName s p
  let res := fetch s p n idx
  let s1 := s.updCell p (fun c => { c with
    eng.prep := c.eng.prep.map (fun x => { x with fetched := some (res, profRow s n idx) }) })
  if res = .ok then s1 else refuseHop s1 p n idx res

/-- PROFILE_FETCH_COMPLETE (R94, R95, R104, R108 step 1): the words of a host HOP, or of the engine's next hop, are
fetched and checked; `soft` is a single-bit error met in the first word, corrected on this read (R435). -/
def execProfileFetchComplete (p : Nat) (soft : Bool) (s : State) : Out :=
  match (s.cell p).hop.host.filter (fun h => h.due.isNone) with
  | some h => .next (hostFetched (softProfile s (chanName s p) h.idx soft) p h)
  | none =>
    match engFetch s p with
    | none => .next s
    | some (_, idx) => .next (engFetched (softProfile s (chanName s p) idx soft) p idx)

/-- The values of a hop come into force in the cell and in its mirror (R113), and waiting commands are answered
(R257, R504). A host hop prevails over an engine hop of the same edge that came first (R105). -/
def hopNow (s : State) (p : Nat) (h : HopReq) : State :=
  let now := nowEdge s p
  let act := if h.tag.isSome then EdgeAct.hostHop else .engHop
  let s0 := forAll (bothCells s p) (fun s q => s.updCell q (fun c => if h.tag.isSome then c.undone now .engHop else c)) s
  let null := (s0.cell p).nullHop h.words
  let s1 := endHopTags s0 p INCOMPLETE
  let s2 := phaseCheck (forAll (bothCells s p) (fun s q =>
    hopInCell (s.updCell q (fun c => c.keepUndo now act)) q h.idx h.words) s1) p
  match h.tag with
  | none => s2
  | some t =>
    let res := [(s.region (cellRegion p)).time.extractLsb' 36 18, (s.region (cellRegion p)).time.extractLsb' 18 18,
                (s.region (cellRegion p)).time.extractLsb' 0 18, cellStatus s2 p]
    if h.waitLock = true then
      if (channelOf s p).any (fun n => chanLost s n) then complete s2 t FAULT res
      else if null = true then complete s2 t OK res
      else s2.updCell p (fun c => { c with hop.lockTags := c.hop.lockTags ++ [(t, some res)] })
    else complete s2 t OK res

/-- A hop is due on the present edge (R33, R104). -/
def hopDue (s : State) (p : Nat) (h : HopReq) : Bool := decide (h.due = some (nowEdge s p))

/-- A host write of the present edge prevails over an engine action of it (R20, R144). -/
def hostBeats (s : State) (p : Nat) (host : Option Nat) : Bool := decide (host = some (nowEdge s p))

/-- A HOPL on a hop that finds the cell LOCKED, as a null hop does, continues on E + 4 (R133). -/
def hopLocked (s : State) (p : Nat) : State :=
  if (s.cell p).loop.locked then s.updCell p (fun c => { c with eng := c.eng.lockEnded (nowEdge s p) }) else s

/-- The hops due on the present edge (R104 to R108): a host hop and an engine hop resolve for the host (R105);
an engine hop that meets a host commit on its edge counts as executed without effect (R144). -/
def hopEdge (s : State) (p : Nat) : State :=
  let c := s.cell p
  let hostDue := c.hop.host.filter (hopDue s p)
  let engDue := c.hop.eng.filter (hopDue s p)
  match hostDue, engDue with
  | some h, _ =>
    let s1 := hopNow (s.updCell p (fun c => { c with hop.host := none, hop.eng := if engDue.isSome then none else c.hop.eng })) p h
    hopLocked (s1.updCell p (fun c => { c with hop.hostHopAt := some (nowEdge s p) })) p
  | none, some h =>
    let s1 := s.updCell p (fun c => { c with hop.eng := none })
    hopLocked (if hostBeats s p c.hop.hostHopAt then s1 else hopNow s1 p h) p
  | none, none => s

/-- HOP_EFFECT_EDGE (R104 to R108). -/
def execHopEffectEdge (p : Nat) (s : State) : Out := .next (hopEdge s p)

/-- The averaging of 1,024 cycles has ended (R98): the hint words of the hopped-to profile are rewritten, unless a
discard case applies. A Tj outside the 0..124 C that hint_tj can say is written as the nearest it can (log 54). -/
def learnDone (s : State) (p : Nat) : State :=
  let c := s.cell p
  match c.hop.learn with
  | none => s
  | some (idx, w) =>
    if c.hop.learnRun = false ∨ c.hop.learnN < 1024 then s
    else
      let avg := c.learnAvg
      let s1 := s.updCell p (fun c => { c with hop.learn := none, hop.learnRun := false })
      let row := profRow s p idx
      let fresh := match c.hop.learnHint with
        | some h => decide ((h.toNat - avg.toNat) + (avg.toNat - h.toNat) ≤ 0x40)
        | none => false
      if c.loop.locked = false ∨ 256 ≤ p ∨ channelOf s p = none ∨ row.take 7 ≠ w.take 7 ∨ fresh = true then s1
      else
        let tj := (s.block (cellBlock p)).tj
        let q := roundQ ((tj : Rat) / 64)
        let hintTj := if q < 0 then 0 else if 31 < q then 31 else q.toNat
        let w7 := wd (2 ^ 17 + c.loop.band.toNat * 2 ^ 8 + hintTj * 2 ^ 3 + fld (row.getD 7 0) 0 3)
        let row9 := row.take 7 ++ [w7, avg]
        { clearBad s1 9 (profKey p idx + 7) (profKey p idx + 10) with
          profiles := tabPut s1.profiles (profKey p idx) (row9 ++ [checkWord p idx row9]) }

/-- LEARN_WRITEBACK (R98). -/
def execLearnWriteback (p : Nat) (s : State) : Out := .next (learnDone s p)

end Sys2Proof.Machine
end

