-- ==== Sys2Proof/Machine/TiuOps.lean ====
section
/-! DEFINITION. What can happen to a time-interval unit (chapter 08). Stamps are numbers of 2^-18 CREF cycles
modulo 2^72 (R56). -/
namespace Sys2Proof.Machine
open Sys2Proof

/-- A TIU held by calibration, self-test or an OFFLINE period (R198, R235). -/
def tiuHeld (s : State) (t : Nat) : Bool :=
  (s.block (tiuBlock t)).tiuHeld.contains (t % 4) || (s.block (tiuBlock t)).offline || (s.mem (tiuRegion t)).offline

/-- A measurement is in progress (R186). -/
def TiuSt.busy (t : TiuSt) : Bool := decide (t.st = .precal) || decide (t.st = .ready) || decide (t.st = .running)

def TiuState.code : TiuState → Nat
  | .idle => 0 | .precal => 1 | .ready => 2 | .running => 3 | .outOfUse => 5

/-- TIU_STATUS (R195). -/
def tiuStatus (s : State) (t : Nat) : Word :=
  let x := s.tiu t
  wd ((if tiuHeld s t then 4 else x.st.code) * 2 ^ 15 + b2n x.cfgErr * 2 ^ 14 + x.last * 2 ^ 10)

/-- A source word that START_SRC and STOP_SRC accept (R183, R195). -/
def srcOk (w : Word) : Bool :=
  decide (fld w 8 3 ≤ 5) && (decide (2 < fld w 8 3) || decide (fld w 0 8 ≤ 15)) && (decide (fld w 8 3 ≠ 3) || decide (fld w 0 8 ≤ 7))

/-- A source is exact: a mark (R184). -/
def srcExact (w : Word) : Bool := decide (4 ≤ fld w 8 3)

/-- Two source words name the same source and edge; a mark has no edge (R183, R185). -/
def sameSource (a b : Word) : Bool := decide (fld a 0 11 = fld b 0 11) && (srcExact a || decide (bitOf a 11 = bitOf b 11))

/-- A source of a unit of block B delivers edges: a channel whose TOUT toggles, an enabled input on its pins, TEV pins that
are not off, and any mark (R185, R202). -/
def srcLive (s : State) (B : Nat) (w : Word) : Bool :=
  if srcExact w then true
  else if fld w 8 3 = 0 then
    decide ((s.cell (inService s (16 * B + fld w 0 8 % 16))).out.drv = .toggling)
  else if fld w 8 3 = 3 then s.pins.tevOn
  else (s.evin (16 * B + fld w 0 8 % 16)).en && ! (s.evin (16 * B + fld w 0 8 % 16)).calSrc

/-- Calibrated path delay of a source of TIU t, in 0.1 ps (R180). -/
def srcDelay (s : State) (t : Nat) (w : Word) : Int :=
  if srcExact w then 0
  else if fld w 8 3 = 0 then tiuPath s t 0 0
  else if fld w 8 3 = 3 then tiuPath s t 2 0
  else tiuPath s t 1 (16 * tiuBlock t + fld w 0 8 % 16)

/-- FREQ_CFG values that are accepted (R195). -/
def freqCfgOk (w : Word) : Bool := decide (fld w 15 3 ≤ 6) && decide (3 ≤ fld w 0 11) && decide (fld w 0 11 ≤ 1024)

/-- A gate that a commit applies (R195). -/
def gateOk (g : Nat) : Bool := decide (800 ≤ g) && decide (g ≤ 8000000000)

/-- FREQ_CFG in a configuration. -/
def TiuCfg.setFreq (c : TiuCfg) (w : Word) : TiuCfg := { c with pre := fld w 15 3, resLim := fld w 11 4, q := fld w 0 11 }

/-- The arm is accepted (R196). -/
def TiuSt.canArm (x : TiuSt) : Bool := ! x.gateBad && (decide (x.cfg.mode ≠ 2) || decide (200 ≤ x.cfg.gate / (x.cfg.q - 1)))

/-! ### Stamps (R179, R180) -/

/-- Vernier codes accepted for one interpolator: step and offset within R182. -/
def precalOk (n1 n2 : Nat) : Bool :=
  decide (568 + n1 ≤ n2) && decide (n2 ≤ 694 + n1)
  && (let o : Rat := 1250 * ((n1 : Rat) / ((n2 : Rat) - (n1 : Rat)) - 1); decide (-50 ≤ o) && decide (o ≤ 200))

/-- The stamp of an analogue edge: ref - t - d with t = n s - o, rounded to the fine LSB. -/
def stampOf (ref : BitVec 54) (code n1 n2 : Nat) (d : Int) : BitVec 72 :=
  let t : Rat := 1 + ((code : Rat) - (n1 : Rat)) / ((n2 : Rat) - (n1 : Rat))
  BitVec.ofInt 72 ((ref.toNat : Int) * 2 ^ 18 - roundQ ((t + (d : Rat) / 12500) * (2 ^ 18 : Nat)))

/-- The stamp of an exact source (R184). -/
def exactStamp (ref : BitVec 54) : BitVec 72 := ref ++ (0 : BitVec 18)

/-! ### Results (R189 to R193) -/

/-- Largest r' below r + 2^n with r'^2 not above x. -/
def isqrtGo (x : Nat) : Nat → Nat → Nat
  | 0, r => r
  | n + 1, r => if (r + 2 ^ n) * (r + 2 ^ n) ≤ x then isqrtGo x n (r + 2 ^ n) else isqrtGo x n r

/-- Sum of a list of rationals. -/
def sumQ (l : List Rat) : Rat := l.foldl (· + ·) 0

/-- A nonnegative rational rounded to nearest and saturated. -/
def satRound (x : Rat) (max : Nat) : Nat := if roundQ x < 0 then 0 else if (roundQ x).toNat < max then (roundQ x).toNat else max

/-- Frequency in 2^-18 Hz, residual in fs, and the mean squared residual in fs², by least squares (R192). -/
def regress (p : Nat) (stamps : List (Nat × Nat)) : Nat × Nat × Rat :=
  match stamps with
  | [] => (0, 0, 0)
  | (_, z) :: _ =>
    let k : Rat := (stamps.length : Nat)
    let c := stamps.map (fun x => ((x.1 : Nat) : Rat))
    let t := stamps.map (fun x => (((x.2 + 2 ^ 72 - z) % 2 ^ 72 : Nat) : Rat))
    let mc := sumQ c / k
    let mt := sumQ t / k
    let sxx := sumQ (c.map (fun x => (x - mc) * (x - mc)))
    let sxy := sumQ ((c.zip t).map (fun x => (x.1 - mc) * (x.2 - mt)))
    let b := sxy / sxx
    let rr := (sumQ ((c.zip t).map (fun x => ((x.2 - mt) - b * (x.1 - mc)) * ((x.2 - mt) - b * (x.1 - mc))))) / (k - 2)
    let fs2 := rr * (1250000 / (2 ^ 18 : Nat)) * (1250000 / (2 ^ 18 : Nat))
    let f := if b ≤ 0 then 2 ^ 54 - 1 else satRound ((p : Rat) * 800000000 * (2 ^ 36 : Nat) / b) (2 ^ 54 - 1)
    let r4 := isqrtGo (4 * fs2).floor.toNat 64 0
    (f, min ((r4 + 1) / 2) 0x3FFFF, fs2)

/-- RES_FLAGS (R195). -/
def resFlags (status mode : Nat) (start stop sign sub early seat ovr : Bool) : Word :=
  wd (status * 2 ^ 14 + mode * 2 ^ 12 + b2n start * 2 ^ 11 + b2n stop * 2 ^ 10 + b2n sign * 2 ^ 9 + b2n sub * 2 ^ 8
    + b2n early * 2 ^ 7 + b2n seat * 2 ^ 6 + b2n ovr * 2 ^ 5)

/-- The larger pre-calibrated step of the interpolators that took part, in 2^-18 cycles (R184, R190). -/
def TiuSt.stepMax (x : TiuSt) : Rat :=
  let a : Rat := if srcExact x.run.start then 0 else (2 ^ 18 : Nat) / ((x.a2 : Rat) - (x.a1 : Rat))
  let b : Rat := if srcExact x.run.stop then 0 else (2 ^ 18 : Nat) / ((x.b2 : Rat) - (x.b1 : Rat))
  if a < b then b else a

/-- The result of an ORDERED or SIGNED measurement with the stamps it has (R186, R189, R190). -/
def TiuSt.interval (x : TiuSt) (status : Nat) : TiuRes :=
  let d := x.sStop.getD 0 - x.sStart.getD 0
  let neg := decide (2 ^ 71 ≤ d.toNat)
  let mag := if neg then (x.sStart.getD 0 - x.sStop.getD 0) else d
  let both := x.sStart.isSome && x.sStop.isSome
  let sub := both && decide (((mag.toNat : Nat) : Rat) < x.stepMax)
  { flags := resFlags status x.run.mode x.sStart.isSome x.sStop.isSome (both && neg && ! sub && decide (x.run.mode = 1)) sub
      (decide (x.early ≠ 0)) x.seat false,
    start := x.sStart.getD 0, stop := x.sStop.getD 0,
    ivl := if both = true ∧ sub = false then mag else 0,
    count := b2n x.sStart.isSome + b2n x.sStop.isSome }

/-- The result of a FREQ measurement over the stamps taken (R192, R193). -/
def TiuSt.freqRes (x : TiuSt) (status : Nat) (ovr : Bool) : TiuRes :=
  let k := x.stamps.length
  let g := if 3 ≤ k then regress (2 ^ x.run.pre) x.stamps else (0, 0, 0)
  { flags := resFlags status 2 (decide (0 < k)) (decide (x.run.q ≤ k)) false false false x.seat ovr,
    start := BitVec.ofNat 72 ((x.stamps.head?.map (fun a => a.2)).getD 0),
    stop := BitVec.ofNat 72 ((x.stamps.getLast?.map (fun a => a.2)).getD 0),
    ivl := BitVec.ofNat 54 g.1 ++ wd g.2.1, count := k }

/-- The result of a measurement that ends with a status. -/
def TiuSt.result (x : TiuSt) (status : Nat) : TiuRes :=
  if x.run.mode = 2 then x.freqRes status (decide (status = UNSTABLE)) else x.interval status

/-- The four words of a 72-bit value, high word first. -/
def words72 (v : BitVec 72) : List Word := [v.extractLsb' 54 18, v.extractLsb' 36 18, v.extractLsb' 18 18, v.extractLsb' 0 18]

/-- res0 to res4 of a TIU result (R260). -/
def TiuRes.words (r : TiuRes) : List Word := r.flags :: words72 r.ivl

/-- The stream of a stamped result (R260). -/
def stampStream (s : State) (t : Nat) : List Word :=
  let r := (s.tiu t).res
  words72 r.start ++ [wd (s.tiu t).early, wd r.count, tiuStatus s t] ++ words72 r.stop ++ [0, 0, 0]

/-- Completes a command with the last result of a TIU, stamped or not. -/
def tiuAnswer (s : State) (t tag status : Nat) (stamps : Bool) : State :=
  if stamps then completeWith s tag status (stampStream s t) (s.tiu t).res.words else complete s tag status (s.tiu t).res.words

/-- The command asked for stamps: op0 bit 16 of TIU_ARM, FREQ_MEASURE and TIU_READ. -/
def wantsStamps (s : State) (tag : Nat) : Bool :=
  match findCmd s tag with
  | none => false
  | some c => bitOf (c.args.getD 0 0) 16

/-- A measurement ends with a status: the result words are replaced as one item, the completion is posted, and a
second consecutive FAULT takes the TIU out of use (R182, R186). -/
def tiuEnd (s : State) (t status : Nat) : State :=
  let x := s.tiu t
  let n := if status = FAULT then x.faults + 1 else 0
  let s1 := s.updTiu t (fun x => { x with
    res := x.result status, last := status, st := if 2 ≤ n then .outOfUse else .idle, faults := n, tag := none,
    sStart := none, sStop := none, stamps := [], waitArm := false, seat := false })
  let s2 := if 2 ≤ n then faultBlock s1 (tiuBlock t) 0x13 6 0 (wd (t % 4)) 4 else s1
  match x.tag with
  | none => s2
  | some tag => tiuAnswer s2 t tag status (wantsStamps s2 tag)

/-- Ends a measurement in progress; nothing otherwise. -/
def tiuStop (s : State) (t status : Nat) : State := if (s.tiu t).busy then tiuEnd s t status else s

/-! ### Arm, pre-calibration and edges (R186 to R191) -/

/-- Step 1: the configuration and path delays are latched, the counters cleared (R186, R196). -/
def tiuStart (s : State) (t : Nat) (tag : Option Nat) : State :=
  let d := (srcDelay s t (s.tiu t).cfg.start, srcDelay s t (s.tiu t).cfg.stop)
  s.updTiu t (fun x => { x with
    st := .precal, run := x.cfg, dly := d, early := 0, waitArm := false, stamps := [], sStart := none, sStop := none,
    edges := 0, preCnt := 0, seat := false, tag := tag, cfgErr := false })

/-- READY on the present edge (R186 step 4). -/
def tiuReady (s : State) (t : Nat) : State :=
  s.updTiu t (fun x => { x with st := .ready, waitArm := false, readyAt := (s.region (tiuRegion t)).edge })

/-- The stamp of an edge in an interpolator: A converts starts and even FREQ stamps, B the others. -/
def TiuSt.convert (x : TiuSt) (b : Bool) (src : Word) (d : Int) (ref : BitVec 54) (code : Nat) : BitVec 72 :=
  if srcExact src then exactStamp ref else if b then stampOf ref code x.b1 x.b2 d else stampOf ref code x.a1 x.a2 d

/-- One start edge of an ORDERED or SIGNED measurement. -/
def TiuSt.startEdge (x : TiuSt) (ref : BitVec 54) (code : Nat) : TiuSt :=
  if x.sStart.isSome then x
  else { x with sStart := some (x.convert false x.run.start x.dly.1 ref code), st := .running }

/-- One stop edge: early in ORDERED mode before a start (R188). -/
def TiuSt.stopEdge (x : TiuSt) (ref : BitVec 54) (code : Nat) : TiuSt :=
  if x.sStop.isSome then x
  else if x.run.mode = 0 ∧ x.sStart = none then { x with early := satAdd 0x3FFFF x.early 1 }
  else { x with sStop := some (x.convert true x.run.stop x.dly.2 ref code), st := .running }

/-- Scheduled edge S_i less t0, in 2^-18 cycles, from t0 itself (R191). -/
def schedAfter (t0 g q i : Nat) : Nat := ((t0 + 2 ^ 18 - 1) / 2 ^ 18 + i * g / (q - 1)) * 2 ^ 18 - t0

/-- The number of the stamp that the next FREQ edge takes, its interpolator, and the stamp itself (R191). -/
def TiuSt.freqStamp (x : TiuSt) (ref : BitVec 54) (code : Nat) : Nat :=
  (x.convert (decide (x.stamps.length % 2 = 1)) x.run.start x.dly.1 ref code).toNat

/-- The next FREQ edge passes the prescaler and is converted: the first, or one at or after S_i, behind stamp i - 1 and after
the dead time of its interpolator (R191). -/
def TiuSt.freqTakes (x : TiuSt) (st : Nat) : Bool :=
  decide (2 ^ x.run.pre ≤ x.preCnt + 1) &&
  match x.stamps with
  | [] => true
  | (_, t0) :: _ =>
    let i := x.stamps.length
    let rel := fun v => (v + 2 ^ 72 - t0) % 2 ^ 72
    let dead := if 2 ≤ i then rel ((x.stamps.getD (i - 2) (0, 0)).2) + Config.tiuDead else 0
    decide (i < x.run.q) && decide (schedAfter t0 x.run.gate x.run.q i ≤ rel st)
      && decide (rel ((x.stamps.getD (i - 1) (0, 0)).2) < rel st) && decide (dead ≤ rel st)

/-- One edge of the measured signal in FREQ mode (R191). -/
def TiuSt.freqEdge (x : TiuSt) (ref : BitVec 54) (code : Nat) : TiuSt :=
  if x.preCnt + 1 < 2 ^ x.run.pre then { x with preCnt := x.preCnt + 1 }
  else
    let n := if x.stamps.isEmpty then 0 else x.edges + 1
    { x with
      preCnt := 0, edges := n, st := .running,
      stamps := if x.freqTakes (x.freqStamp ref code) then x.stamps ++ [(n, x.freqStamp ref code)] else x.stamps }

/-- An edge of a source whose reference edge is the present one reaches a TIU that watches its sources; a conversion without
coincidence ends the measurement with FAULT (R182). An edge of a pin lies between two CREF cycles and one before its
reference edge (R179), so the first that is seen after READY has its reference edge two cycles on (R186 step 4). Whether an
edge without coincidence was due is judged by the longest lag, code n2 (log 60). -/
def tiuEdge (s : State) (t : Nat) (stop : Bool) (code : Nat) : State :=
  let x := s.tiu t
  let ref := (s.region (tiuRegion t)).time
  let early := decide ((s.region (tiuRegion t)).edge < x.readyAt + 2)
  if x.st ≠ .ready ∧ x.st ≠ .running then s
  else
    let stop1 := if x.run.mode ≠ 2 ∧ sameSource x.run.start x.run.stop = true then x.sStart.isSome else stop
    let src := if stop1 then x.run.stop else x.run.start
    if srcLive s (tiuBlock t) src = false ∨ (early = true ∧ srcExact src = false) then s
    else if x.run.mode = 2 then
      let n2 := if x.stamps.length % 2 = 1 then x.b2 else x.a2
      if stop then s
      else if 1600 < code ∧ srcExact src = false ∧ x.freqTakes (x.freqStamp ref n2) = true then tiuEnd s t FAULT
      else s.updTiu t (fun x => x.freqEdge ref (if 1600 < code then n2 else code))
    else
      let used := if stop1 then x.sStop.isNone && ! (decide (x.run.mode = 0) && x.sStart.isNone) else x.sStart.isNone
      if used = true ∧ srcExact src = false ∧ 1600 < code then tiuEnd s t FAULT
      else if stop1 then
        let s1 := s.updTiu t (fun x => x.stopEdge ref code)
        if x.early < 0x3FFFF ∧ (s1.tiu t).early = 0x3FFFF then s1.postBlock (tiuBlock t) 8 else s1
      else s.updTiu t (fun x => x.startEdge ref code)

/-- All edges of the mode are taken (R186 step 6). -/
def TiuSt.full (x : TiuSt) : Bool :=
  if x.run.mode = 2 then decide (x.run.q ≤ x.stamps.length) else x.sStart.isSome && x.sStop.isSome

/-- Status of a full measurement (R193). -/
def TiuSt.fullStatus (x : TiuSt) : Nat :=
  if x.run.mode = 2 then
    (if (regress (2 ^ x.run.pre) x.stamps).2.2 ≤ ((1000 * 2 ^ x.run.resLim : Nat) : Rat) * ((1000 * 2 ^ x.run.resLim : Nat) : Rat)
     then OK else UNSTABLE)
  else OK

/-- A mark registers in region r on the present edge: TIUs that watch it take it, one that watches it as both start and stop
only as one of them (R184, R185). -/
def tiuMark (s : State) (r cls m : Nat) : State :=
  let w := fun (x : Word) => decide (fld x 8 3 = cls) && decide (fld x 0 8 = m)
  forAll ((s.tius.map (fun e => e.1)).filter (fun t => decide (tiuRegion t = r)))
    (fun s t =>
      let x := (s.tiu t).run
      if w x.start then tiuEdge s t false 0 else if w x.stop then tiuEdge s t true 0 else s) s

/-! ### The block's queue of requests (R21) -/

/-- The calibration TIUs of a block, as offsets: 2 and 3, or 0 and 1 where those are absent (R377). -/
def calTius (s : State) (B : Nat) : List Nat := if tiuPresent s (4 * B + 2) then [2, 3] else [0, 1]

/-- The run of a waiting ONLINE or OFFLINE request. -/
def bistRunOf (s : State) (tag : Nat) : Option BistRun := s.bist.runs.find? (fun r => r.tag == tag)

/-- The unit that a waiting CAL_RUN asks block B for. -/
def calAsk (s : State) (B tag : Nat) : Option CalUnit :=
  (s.cal.runs.find? (fun r => r.tag == tag)).bind (fun r => if r.granted.contains B then none else calUnitOf r B)

/-- What a waiting request takes: TIUs by their offset, and the spare as 4 (R21, R377, R402). -/
def needs (s : State) (B : Nat) (w : Requester × Nat) : List Nat :=
  match w.1 with
  | .cal =>
    match calAsk s B w.2 with
    | none => []
    | some u => if u.kind = 0 then [u.unit % 4] else if u.kind = 1 then calTius s B else 4 :: calTius s B
  | .online => if (bistRunOf s w.2).isSome then [4] else []
  | .offline => if (bistRunOf s w.2).isSome then [0, 1, 2, 3, 4] else []
  | .host =>
    match findCmd s w.2 with
    | none => []
    | some c => [tgtIndex c.target % 4]
  | _ => [4]

/-- A request may not be served: an earlier one waits for something that it takes (R21). -/
def overtakes (s : State) (B : Nat) (w : Requester × Nat) : Bool :=
  ((s.block B).waiting.takeWhile (fun v => decide (v ≠ w))).any (fun v => (needs s B v).any (fun x => (needs s B w).contains x))

end Sys2Proof.Machine
end

