-- ==== Sys2Proof/Machine/EvOps.lean ====
section
/-! DEFINITION. The event paths: registration of marks, TEV crossings and triggers for WAITE and the TIUs (R130,
R184), and the tree event fabric as far as one device sends into it (R354, R356). -/
namespace Sys2Proof.Machine
open Sys2Proof

/-- A waiting WAITE takes an event that registers on edge R (R130, R131). -/
def Engine.takeEvent (e : Engine) (cls idx r : Nat) : Engine :=
  match e.wait with
  | .event c i tmo =>
    if e.st = .waiting ∧ c = cls ∧ i = idx ∧ e.s ≤ r ∧ (match tmo with
        | none => true
        | some t => decide (r < t)) = true
    then { e with wait := .edge (r + 16), s := r + 16, noAdv := 0 } else e
  | _ => e

/-- An event registers in region r on its edge R, which has come: engines and TIUs take it. -/
def deliver (s : State) (r cls idx e : Nat) : State :=
  let s1 := forAll ((s.cells.map (fun x => x.1)).filter (fun p => decide (cellRegion p = r) && decide ((s.cell p).eng.st = .waiting)))
    (fun s p => s.updCell p (fun c => { c with eng := c.eng.takeEvent cls idx e })) s
  if cls ≤ 1 then tiuMark s1 r (cls + 4) idx else s1

/-- An event that registers in region r on edge R: at once when the edge has come, else when it comes. The same event
registers once on an edge, however many emit it (R130). -/
def register (s : State) (r cls idx e : Nat) : State :=
  if s.evRegs.contains (r, cls, idx, e) then s else
  let s1 : State := { s with evRegs := s.evRegs ++ [(r, cls, idx, e)] }
  if e ≤ (s.region r).edge then deliver s1 r cls idx e else s1

/-- The events due on the present edge of region r register; those long past are forgotten. -/
def deliverDue (s : State) (r : Nat) : State :=
  let now := (s.region r).edge
  forAll (s.evRegs.filter (fun x => decide (x.1 = r) && decide (x.2.2.2 = now)))
    (fun s x => deliver s r x.2.1 x.2.2.1 now)
    { s with evRegs := s.evRegs.filter (fun x => decide (x.1 ≠ r) || decide (now ≤ x.2.2.2 + 4096)) }

/-- The edge of region q that falls with edge e of region r: the regions' edges pass together (log entry 1). -/
def sameEdge (s : State) (r q e : Nat) : Nat := (s.region q).edge + e - (s.region r).edge

/-! ### The tree event fabric (R354) -/

/-- The UP port is in RUN with up_mode PARENT: the device is a worker (R343). -/
def isWorker (s : State) : Bool := portPresent s 0 && decide ((s.port 0).st = .run) && decide ((s.port 0).upMode = 0)

/-- At least one DN port is in RUN (R343). -/
def isManager (s : State) : Bool := ! isWorker s && [1, 2, 3, 4].any (fun i => portPresent s i && decide ((s.port i).st = .run))

/-- TREE_STATE.state (R349). -/
def treeState (s : State) : Nat := if isWorker s then s.tree.st else if decide ((s.port 0).upMode = 0) &&
  (decide ((s.port 0).st = .locking) || decide ((s.port 0).st = .ident) || decide ((s.port 0).st = .measure)) then 1 else 3

/-- DN ports in RUN. -/
def runDn (s : State) : List Nat := [1, 2, 3, 4].filter (fun i => portPresent s i && decide ((s.port i).st = .run))

/-- Sends an event block on every DN port in RUN. -/
def eventDown (s : State) (m : Nat) (c : BitVec 54) : State :=
  forAll (runDn s) (fun s i => sendBlock s i (.event m (c.extractLsb' 0 10))) s

/-- An event of this mark number and edge M has been met here already: equal events merge (R354). -/
def fabKnown (s : State) (m : Nat) (c : BitVec 54) : Bool :=
  (s.tree.fab ++ s.tree.passed).any (fun x => decide (x.m = m) && decide (x.at_ = c))

/-- An event enters the fabric at edge M of region r: kept for M + 160, and sent to the manager or, by the manager,
to every device below (R354). -/
def fabricEmit (s : State) (r m e : Nat) : State :=
  let c := timeAt (s.region r) e
  let keep : State := { s with tree.fab := s.tree.fab ++ [{ m := m, at_ := c, due := e + 160, r := r, own := true }] }
  if s.tree.fab.any (fun x => decide (x.m = m) && decide (x.at_ = c)) then s
  else if fabKnown s m c = true ∨ s.tree.evtEn = false then keep
  else if isWorker s then (if 2 ≤ s.tree.st then sendBlock keep 0 (.event m (c.extractLsb' 0 10)) else keep)
  else eventDown keep m c

/-- A mark on the device event bus: M in its own region, and M + 8, or one later where no root is shared, in the
others (R130 class 0). -/
def busEmit (s : State) (r m e : Nat) (shared : Nat → Bool) : State :=
  (forAll ((presentRegions s).filter (fun q => ! (s.region q).inReset)) (fun s q =>
    if q = r then register s r 0 m e
    else register s q 0 m (sameEdge s r q e + 8 + (if shared q then 0 else b2n (Config.laterEdge (s.free + q))))) s).tick

end Sys2Proof.Machine
end

