-- ==== Sys2Proof/Machine/AcqOps.lean ====
section
/-! DEFINITION. What can happen to an acquisition engine (chapter 09): beads, strands, gaps and triggers. A sample is
8 x CREF edge + slot. -/
namespace Sys2Proof.Machine
open Sys2Proof

/-- Armed: from the arm until DONE (R212, R215). -/
def AcqSt.armed (a : AcqSt) : Bool :=
  a.run.a0.isSome || decide (a.regs.st = .wait) || decide (a.regs.st = .post) || decide (a.regs.st = .rearm)

/-- Beads are being stored. -/
def AcqSt.storing (a : AcqSt) : Bool := decide (a.regs.st = .wait) || decide (a.regs.st = .post)

/-- A bead of a type with its bits [32:18] and [17:0]. -/
def beadOf (typ : Nat) (hi15 : BitVec 15) (low : Word) : BitVec 36 := BitVec.ofNat 3 typ ++ hi15 ++ low

/-- A TIME_HI, TIME_LO pair that labels slot j of the edge with coarse time c (R207). -/
def timePair (c : BitVec 54) (slot : Nat) : List (BitVec 36) :=
  [BitVec.ofNat 3 1 ++ c.extractLsb' 21 33,
   BitVec.ofNat 3 2 ++ c.extractLsb' 0 21 ++ BitVec.ofNat 3 slot ++ (0 : BitVec 9)]

/-- A CHANGE bead's low word. -/
def changeLow (i : Nat) (hi lo : Bool) : Word := wd (i * 2 ^ 12 + b2n hi * 2 ^ 11 + b2n lo * 2 ^ 10)

/-- The oldest bead of the ring leaves it: a CHANGE updates the initial states (R214). -/
def dropOldest (init : Tab Nat) (b : BitVec 36) : Tab Nat :=
  if b.extractLsb' 33 3 = 0 then tabSet 0 init (b.extractLsb' 12 6).toNat (b.extractLsb' 10 2).toNat else init

/-- A bead enters the pre-trigger ring of P positions, or the strand, with its bank (R213, R214). -/
def AcqRun.push (x : AcqRun) (ring : Bool) (bank : Nat) (b : BitVec 36) : AcqRun :=
  let l := x.beads ++ [b]
  if ring = true ∧ x.lat.2.1 < l.length then
    { x with
      beads := l.drop 1, banks := (x.banks ++ [bank]).drop 1, init := dropOldest x.init (l.headD 0),
      epochs := (x.epochs.filter (fun k => decide (0 < k))).map (fun k => k - 1) }
  else { x with beads := l, banks := x.banks ++ [bank] }

/-- n beads fit with a position left for STRAND_END (R213). -/
def AcqRun.fits (x : AcqRun) (ring : Bool) (n : Nat) : Bool := ring || decide (x.beads.length + n + 1 ≤ x.lat.1)

/-! ### The merge FIFO and the bank queues (R217, R218) -/

/-- n ordinary beads can enter the merge FIFO: 16 a cycle, 1,024 in all (R218). -/
def AcqSt.room (a : AcqSt) (n : Nat) : Bool := decide (a.mem.accepted + n ≤ 16) && decide (a.mem.fifo.length + n ≤ 1024)

/-- The FIFO has room for the beads that follow a gap, in a cycle that still accepts beads (R219; log 63). -/
def AcqSt.room72 (a : AcqSt) : Bool := decide (a.mem.accepted < 16) && decide (a.mem.fifo.length + 72 ≤ 1024)

/-- A bead of an input or strand index at a sample enters the FIFO and the ring or strand. The beads that close a gap or end
a strand have their room and do not count among the 16 of the cycle (log 63). -/
def AcqSt.enter (a : AcqSt) (ring counted : Bool) (idx sample : Nat) (b : BitVec 36) : AcqSt :=
  let k := Config.bankHash a.run.key idx sample % 8
  { a with run := a.run.push ring k b, mem.fifo := a.mem.fifo ++ [k], mem.accepted := a.mem.accepted + b2n counted }

/-- The beads at the head of the FIFO move into the queues of their banks, in strand order, while those have room (R218). -/
def drainBanks : List Nat → List Nat → List Nat × List Nat
  | [], q => ([], q)
  | b :: f, q => if q.getD b 0 < 32 then drainBanks f (q.set b (q.getD b 0 + 1)) else (b :: f, q)

/-- The end of a CREF cycle in the event memory: on every second edge each bank stores the bead at the head of its queue,
then the FIFO drains (R218). -/
def AcqMem.cycle (m : AcqMem) (edge : Nat) : AcqMem :=
  let q := if edge % 2 = 0 then m.queues.map (fun n => n - 1) else m.queues
  { m with fifo := (drainBanks m.fifo q).1, queues := (drainBanks m.fifo q).2, accepted := 0 }

/-! ### Timed beads (R207, R208) -/

/-- A TIME pair labelling a sample. -/
def AcqSt.pair (a : AcqSt) (ring counted : Bool) (c : BitVec 54) (sample : Nat) : AcqSt :=
  let t := (timePair c (sample % 8)).foldl (fun a b => a.enter ring counted a.regs.done sample b) a
  { t with run.lastSample := some sample }

/-- The delta of a timed bead at a sample; none when a TIME pair must come first (R208). The first timed bead of a strand
counts from no bead of it: its delta is a free value and no pair precedes it, however long ago the last bead was (R207;
log 64). -/
def AcqRun.deltaAt (x : AcqRun) (free sample : Nat) : Option (BitVec 15) :=
  match x.lastSample with
  | none => some (Config.beadDelta free)
  | some l => if sample - l ≤ 32767 then some (BitVec.ofNat 15 (sample - l)) else none

/-- A timed bead with the delta that it has, or with the pair that it needs. -/
def AcqSt.timed (a : AcqSt) (ring counted : Bool) (c : BitVec 54) (d : Option (BitVec 15)) (idx sample typ : Nat) (low : Word) : AcqSt :=
  let a1 := if d.isNone then a.pair ring counted c sample else a
  { a1.enter ring counted idx sample (beadOf typ (d.getD 0) low) with run.lastSample := some sample }

/-! ### Records and the end of a strand (R215, R216) -/

/-- An acquisition record (R238 kind 2), posted or held (R141). -/
def acqRecord (s : State) (r cause edge : Nat) : State :=
  let rec_ := untaggedRecord 2 0 (unitWord 5 r) cause 0 0 (wd (s.acq r).regs.done) (stampWords (timeAt (s.region r) edge) 0)
  let q := postUntagged s (s.acq r).mem.held rec_
  q.1.updAcq r (fun a => { a with mem.held := q.2 })

/-- A counter of the acquisition window advances; on reaching its maximum it posts COUNTER_SAT (R221, R439). -/
def acqCount (s : State) (r : Nat) (get : AcqRegs → Nat) (set : AcqRegs → Nat → AcqRegs) (n : Nat) : State :=
  let old := get (s.acq r).regs
  let new := satAdd 0x3FFFF old n
  let s1 := s.updAcq r (fun a => { a with regs := set a.regs new })
  if old < 0x3FFFF ∧ new = 0x3FFFF then s1.postAcq r 4 else s1

/-- The open gap is over: the beads that it discarded are counted (R221). -/
def dropGap (s : State) (r : Nat) : State :=
  match (s.acq r).run.gap with
  | none => s
  | some (_, n) =>
    acqCount (s.updAcq r (fun a => { a with run.gap := none })) r (fun g => g.lostBeads) (fun g n => { g with lostBeads := n }) n

/-- State DONE: gate closed, ARM_DONE and its record (R215 step 7D). -/
def acqDone (s : State) (r : Nat) : State :=
  let s1 := ((dropGap s r).updAcq r (fun a => { a with
    regs.st := .done, run.a0 := none, run.beads := [], run.banks := [], run.trig := none, run.trigPend := false, run.postEnd := none,
    run.changes := [], run.marks := [], run.forced := [], run.resync := false })).postAcq r 1
  acqRecord s1 r 0 (s.region r).edge

/-- GAP beads that a strand holds, and the beads lost in it by their counts (R216). -/
def gapsIn (l : List (BitVec 36)) : Nat × Nat :=
  let g := l.filter (fun b => decide (b.extractLsb' 33 3 = 3))
  (g.length, (g.map (fun b => (b.extractLsb' 0 16).toNat)).sum)

/-- The 18 header words of a completed strand (R216). -/
def headerOf (x : AcqRun) (cause written : Nat) (first : Bool) : List Word :=
  let t := x.trig.getD (0, [0, 0, 0, 0], 0, 0)
  let gaps := gapsIn x.beads
  t.2.1 ++
  [wd (2 ^ 17 + b2n (decide (x.pre < x.lat.2.1)) * 2 ^ 16 + b2n (decide (0 < x.missedN)) * 2 ^ 15 + b2n (decide (0 < gaps.1)) * 2 ^ 14
     + b2n (! x.epochs.isEmpty) * 2 ^ 13 + t.2.2.1 * 2 ^ 10 + t.2.2.2 * 2 ^ 2 + cause),
   wd x.pre, wd written, wd (min gaps.2 0x3FFFF), wd (min gaps.1 511 * 2 ^ 9 + min x.missedN 511),
   wd (if first then 0 else x.blind)]
  ++ (List.range 8).map (fun k => wd (((List.range 8).map (fun q => tabGet 0 x.init (8 * k + q) * 2 ^ (2 * q))).sum))

/-- Values into consecutive positions of event memory. -/
def putBeads {α : Type} [DecidableEq α] (d : α) (t : Tab α) (k : Nat) : List α → Tab α
  | [] => t
  | b :: bs => putBeads d (tabSet d t k b) (k + 1) bs

/-- A GAP bead and the TIME pair that follows it; the sample resynchronises (R219, R220). -/
def gapGroup (s : State) (r cause len lost sample : Nat) : State :=
  let ring := decide ((s.acq r).regs.st = .wait)
  let low := wd (cause * 2 ^ 16 + min lost 65535)
  let s1 := (s.updAcq r (fun a =>
    { (a.enter ring false a.regs.done sample (beadOf 3 (BitVec.ofNat 15 (min len 32767)) low)).pair ring false
        (timeAt (s.region r) (sample / 8)) sample with run.resync := true })).postAcq r 2
  acqCount s1 r (fun g => g.gapCount) (fun g n => { g with gapCount := n }) 1

/-- The TRIGGER bead that waited for the end of a gap, with delta 0 (R219). -/
def lateTrigger (s : State) (r sample : Nat) : State :=
  if (s.acq r).run.trigPend then
    let t := (s.acq r).run.trig.getD (0, [], 0, 0)
    s.updAcq r (fun a =>
      { a.enter false false a.regs.done sample (beadOf 5 0 (wd (t.2.2.1 * 2 ^ 15 + t.2.2.2 * 2 ^ 7))) with run.trigPend := false })
  else s

/-- An open gap ends at a sample: GAP, TIME pair and the TRIGGER bead that waited (R219); nothing of them where they leave no
position for STRAND_END (R213). -/
def gapEnd (s : State) (r sample : Nat) : State :=
  match (s.acq r).run.gap with
  | none => s
  | some (f, n) =>
    let a := s.acq r
    if a.run.fits (decide (a.regs.st = .wait)) (3 + b2n a.run.trigPend) then
      lateTrigger (gapGroup (dropGap s r) r 0 (sample - f) n sample) r sample
    else dropGap s r

/-- STRAND_END of a cause at a sample, behind the pair that it needs; with no position left for one its delta is a free
value. -/
def endBead (s : State) (r cause sample : Nat) : State :=
  let a := s.acq r
  let d := match a.run.deltaAt s.free sample with
    | some d => some d
    | none => if a.run.fits false 2 then none else some (Config.beadDelta s.free)
  (s.updAcq r (fun a => a.timed false false (timeAt (s.region r) (sample / 8)) d a.regs.done sample 6 (wd (cause * 2 ^ 16)))).tick

/-- The strand goes to event memory and its header is completed: STRAND_DONE, and the strand is streamed (R215 step 6, R216,
R224). What was uncorrectable there is rewritten. -/
def closeStrand (s : State) (r cause : Nat) : State :=
  let x := (s.acq r).run
  let k := (s.acq r).regs.done
  let lo := k * x.lat.1
  let inside := fun p => decide (lo ≤ p) && decide (p < lo + x.lat.1)
  let gone := fun (w : Nat × Nat) =>
    (decide (w.1 < 8) && decide (r * 262144 + lo ≤ w.2) && decide (w.2 < r * 262144 + lo + x.beads.length))
      || (decide (w.1 = 8) && decide (w.2 = r * 4096 + k))
  ({ s with flt.badWords := s.flt.badWords.filter (fun w => ! gone w) }.updAcq r (fun a => { a with
    mem.beads := putBeads 0 (tabDrop inside a.mem.beads) lo x.beads,
    mem.banks := putBeads 0 (tabDrop inside a.mem.banks) lo x.banks,
    mem.headers := tabSet [] a.mem.headers k (headerOf x cause x.beads.length (decide (k = 0))),
    mem.sendQ := if a.mem.stream then a.mem.sendQ ++ [k] else a.mem.sendQ,
    regs.done := k + 1,
    run := { x with beads := [], banks := [], epochs := [], pre := 0, lastSample := none, trig := none, trigPend := false,
                    postEnd := none, endAt := (s.region r).edge, missedN := 0, gap := none, resync := false } })).postAcq r 0

/-- A strand ends with a cause at a sample, an open gap first; the engine goes to REARM or DONE (R215 steps 6 and 7). -/
def strandEnd (s : State) (r cause sample : Nat) (stop : Bool) : State :=
  let s1 := closeStrand (endBead (gapEnd s r sample) r cause sample) r cause
  let s2 := if (s.acq r).run.perStrand then acqRecord s1 r 1 (sample / 8) else s1
  if stop = true ∨ (s.acq r).run.lat.2.2.1 ≤ (s1.acq r).regs.done then acqDone s2 r
  else s2.updAcq r (fun a => { a with regs.st := .rearm })

/-- In POST, a strand whose only free position is that of STRAND_END ends with cause 0, in the sample of its last bead (R215
step 6; log 65). -/
def strandFull (s : State) (r sample : Nat) : State :=
  let a := s.acq r
  if a.regs.st = .post ∧ a.run.gap = none ∧ a.run.lat.1 ≤ a.run.beads.length + 1 then strandEnd s r 0 sample false else s

/-- One timed bead formed at a sample: stored; counted while a gap is open; the first of a gap where the FIFO has no room; and
the end of a strand that has no position for it (R213, R218, R219). `counted` is an ordinary bead. -/
def acqBead (s : State) (r typ idx : Nat) (low : Word) (sample : Nat) (counted : Bool) : State :=
  let a := s.acq r
  let ring := decide (a.regs.st = .wait)
  if a.storing = false then s
  else
    match a.run.gap with
    | some (f, n) => s.updAcq r (fun a => { a with run.gap := some (f, n + 1) })
    | none =>
      let d := a.run.deltaAt s.free sample
      let n := if d.isSome then 1 else 3
      if a.run.fits ring n = false then strandEnd s r 0 sample false
      else if counted = true ∧ a.room n = false then s.updAcq r (fun a => { a with run.gap := some (sample, 1) })
      else strandFull (s.updAcq r (fun a => a.timed ring counted (timeAt (s.region r) (sample / 8)) d idx sample typ low)).tick r sample

/-- The first sample that has not been taken. -/
def nextSample (s : State) (r : Nat) : Nat := max (8 * (s.region r).edge) (s.acq r).run.next

/-- A TIME pair at an epoch tick, in the new time (R60, R208). -/
def acqEpoch (s : State) (r : Nat) : State :=
  let a := s.acq r
  let ring := decide (a.regs.st = .wait)
  let sample := 8 * (s.region r).edge
  if a.storing = false then s
  else
    match a.run.gap with
    | some (f, n) => s.updAcq r (fun a => { a with run.gap := some (f, n + 2) })
    | none =>
      if a.run.fits ring 2 = false then strandEnd s r 0 sample false
      else if a.room 2 = false then s.updAcq r (fun a => { a with run.gap := some (sample, 2) })
      else
        let s1 := s.updAcq r (fun a =>
          let t := a.pair ring true (s.region r).time sample
          { t with run.epochs := t.run.epochs ++ if 2 ≤ t.run.beads.length then [t.run.beads.length - 2] else [] })
        strandFull s1 r sample

/-- A GAP of cause 2 or 3 is due in the next sample (R220). -/
def forcedGap (s : State) (r cause len : Nat) : State :=
  if (s.acq r).storing then s.updAcq r (fun a => { a with run.forced := a.run.forced ++ [(cause, len)] }) else s

/-- The gap bookkeeping of a sample: an open gap closes once the FIFO has room for 72 beads, and GAPs that are due are
written, or counted among the discarded beads (R219, R220). -/
def gapWork (s : State) (r sample : Nat) : State :=
  let s1 := if (s.acq r).storing = true ∧ (s.acq r).run.gap.isSome = true ∧ (s.acq r).room72 = true then
      (if (s.acq r).run.fits (decide ((s.acq r).regs.st = .wait)) (3 + b2n (s.acq r).run.trigPend)
       then strandFull (gapEnd s r sample) r sample else strandEnd s r 0 sample false)
    else s
  let one := fun (s : State) (g : Nat × Nat) =>
    let a := s.acq r
    if a.storing = false then s
    else
      match a.run.gap with
      | some (f, n) => s.updAcq r (fun a => { a with run.gap := some (f, n + 1) })
      | none =>
        if a.run.fits (decide (a.regs.st = .wait)) 3 = false then strandEnd s r 0 sample false
        else if 1024 < a.mem.fifo.length + 72 then s.updAcq r (fun a => { a with run.gap := some (sample, 1) })
        else strandFull (gapGroup s r g.1 g.2 0 sample) r sample
  (forAll (s.acq r).run.forced one s1).updAcq r (fun a => { a with run.forced := [] })

/-! ### The comparators (R200, R202) -/

/-- HI:LO of the comparators of an input. -/
def EvinSt.out (e : EvinSt) : Nat := 2 * b2n e.hi + b2n e.lo

/-- The settings of an input as its registers give them, thresholds and trims in 1/64 mV (R200). -/
def EvinSt.settings (e : EvinSt) : EvinForce :=
  { on := e.en, term := e.term, half := 128 * e.hyst.toNat,
    hiV := 75 * e.thrHi.toNat - 38400 + 16 * e.trimHi.toInt, loV := 75 * e.thrLo.toNat - 38400 + 16 * e.trimLo.toInt }

/-- A comparator: it rises above its threshold plus half the hysteresis, and falls below its threshold less that (R200). -/
def compared (v thr half : Int) (was : Bool) : Bool := if thr + half < v then true else if v < thr - half then false else was

/-- The comparators of input n at the present voltage; those of a disabled input are 0. -/
def EvinSt.sense (e : EvinSt) (n : Nat) : EvinSt :=
  { e with
    hi := e.force.on && compared e.volt (e.force.hiV + Config.evinOffset n true) e.force.half e.hi,
    lo := e.force.on && compared e.volt (e.force.loV + Config.evinOffset n false) e.force.half e.lo }

/-- Input n changes, and with it its comparators, before a sample; an armed engine takes the change with that sample (R205). -/
def senseInput (s : State) (n sample : Nat) (f : EvinSt → EvinSt) : State :=
  let e := s.evin n
  let e1 := (f e).sense n
  let s1 := s.updEvin n (fun _ => e1)
  if (s.acq (n / 64)).armed = true ∧ e.out ≠ e1.out then
    s1.updAcq (n / 64) (fun a => { a with run.changes := a.run.changes ++ [(max sample a.run.next, n % 64, e.out, e1.out)] })
  else s1

/-- The written settings of input n whose edge has come are in force from slot 0 of it (R202). -/
def evinApply (s : State) (n : Nat) : State :=
  match (s.evin n).applyAt with
  | none => s
  | some e =>
    if e ≤ (s.region (n / 64)).edge then
      senseInput s n (8 * (s.region (n / 64)).edge) (fun x => { x with force := x.settings, applyAt := none })
    else s

/-- The input is enabled and on its pins: a switched input behaves as disabled (R206, R381). -/
def EvinSt.live (e : EvinSt) : Bool := e.en && ! e.calSrc

/-! ### Inputs as the sampler sees them (R205, R206) -/

/-- HI:LO of input i of a region in a sample, by the changes that wait for the sampler. -/
def AcqRun.valueAt (x : AcqRun) (i now sample : Nat) : Nat :=
  match (x.changes.filter (fun c => c.2.1 == i && decide (c.1 ≤ sample))).getLast? with
  | some c => c.2.2.2
  | none =>
    match x.changes.find? (fun c => c.2.1 == i) with
    | some c => c.2.2.1
    | none => now

/-- HI:LO of input n in a sample: 0 for an input that is disabled, switched off its pins or within 64 cycles of its enable;
that of the previous sample while its block is under OFFLINE test (R53, R206, R220, R381). -/
def shown (s : State) (n sample : Nat) : Nat :=
  let e := s.evin n
  if (s.block (n / 16)).offline || (s.mem (n / 64)).offline then e.smp
  else if e.force.on = false ∨ e.calSrc = true ∨ e.settleAt.any (fun a => decide (sample < 8 * a)) = true then 0
  else (s.acq (n / 64)).run.valueAt (n % 64) e.out sample

/-- The CHANGE bead of input n at a sample, which its last stored state follows (R206, R219). -/
def changeBead (s : State) (n sample : Nat) (counted : Bool) : State :=
  let v := (s.evin n).smp
  let s1 := acqBead s (n / 64) 0 (n % 64) (changeLow (n % 64) (decide (2 ≤ v)) (decide (v % 2 = 1))) sample counted
  if (s1.acq (n / 64)).run.gap.isSome then s1 else s1.updEvin n (fun e => { e with stored := v })

/-! ### Triggers (R209, R210) -/

/-- Fields of TRIGn_CTL and the times, of the registers in force (R211, R222). -/
def Trig.typ (t : Trig) : Nat := fld t.cond.1 14 3
def Trig.sub (t : Trig) : Nat := fld t.cond.1 12 2
def Trig.en (t : Trig) : Bool := bitOf t.cond.1 17
def Trig.input (t : Trig) : Nat := fld t.cond.1 0 6
def Trig.unit (t : Trig) : Nat := if bitOf t.cond.1 9 then 256 else 1
def Trig.t1s (t : Trig) : Nat := t.cond.2.1.toNat * t.unit
def Trig.t2s (t : Trig) : Nat := t.cond.2.2.toNat * t.unit

/-- The measurement state starts afresh at a sample: only a quiet time runs from there (R209). -/
def Trig.restart (t : Trig) (sample : Nat) : Trig :=
  { t with from_ := if t.typ = 3 then some sample else none, dir := false }

/-- The written registers whose edge has come by a sample are in force, and the measurement starts afresh there (R209,
R222). -/
def Trig.inForce (t : Trig) (sample : Nat) : Trig :=
  match t.fromEdge with
  | none => t
  | some e => if 8 * e ≤ sample then ({ t with cond := (t.ctl, t.t1, t.t2), fromEdge := none } : Trig).restart (8 * e) else t

/-- PULSE width test (R209). -/
def Trig.widthOk (t : Trig) (w : Nat) : Bool :=
  if t.sub = 0 then decide (w < t.t1s) else if t.sub = 1 then decide (t.t1s < w)
  else if t.sub = 2 then decide (t.t1s ≤ w) && decide (w ≤ t.t2s) else decide (w < t.t1s) || decide (t.t2s < w)

/-- One change of the watched input: the condition afterwards, and whether it is met in this sample (R209). TIMEOUT sub codes 2
and 3, which R211 accepts and R209 gives no meaning, act as 1 (log 66). -/
def Trig.step (t : Trig) (sample : Nat) (hi0 lo0 hi lo : Bool) : Trig × Bool :=
  let v0 := if bitOf t.cond.1 11 then lo0 else hi0
  let v := if bitOf t.cond.1 11 then lo else hi
  let hiUp := ! hi0 && hi
  let hiDn := hi0 && ! hi
  let loUp := ! lo0 && lo
  let loDn := lo0 && ! lo
  if t.typ = 0 then
    (t, (decide (t.sub ≠ 1) && ! v0 && v) || (decide (t.sub ≠ 0) && v0 && ! v))
  else if t.typ = 1 then
    let up := if bitOf t.cond.1 10 then v0 && ! v else ! v0 && v
    let dn := if bitOf t.cond.1 10 then ! v0 && v else v0 && ! v
    if up then ({ t with from_ := some sample }, false)
    else if dn then ({ t with from_ := none }, match t.from_ with
      | some f => t.widthOk (sample - f)
      | none => false)
    else (t, false)
  else if t.typ = 2 then
    match t.from_ with
    | some _ =>
      if t.dir then
        (if hiUp then ({ t with from_ := none }, false) else if loDn then ({ t with from_ := none }, true) else (t, false))
      else (if loDn then ({ t with from_ := none }, false) else if hiUp then ({ t with from_ := none }, true) else (t, false))
    | none =>
      if loUp = true ∧ hi = false ∧ t.sub ≠ 1 then ({ t with from_ := some sample, dir := true }, false)
      else if hiDn = true ∧ lo = true ∧ t.sub ≠ 0 then ({ t with from_ := some sample, dir := false }, false)
      else (t, false)
  else if t.typ = 3 then
    (if (if t.sub = 0 then decide (v0 ≠ v) else decide (hi0 ≠ hi) || decide (lo0 ≠ lo)) then ({ t with from_ := some sample }, false) else (t, false))
  else
    let rising := decide (t.sub ≤ 1)
    let first := if rising then loUp else hiDn
    let second := if rising then hiUp else loDn
    let back := if rising then loDn else hiUp
    let test := fun w => if t.sub % 2 = 0 then decide (t.t1s < w) else decide (w < t.t1s)
    let f := if first then some sample else t.from_
    if second then ({ t with from_ := none }, match f with
      | some f => test (sample - f)
      | none => false)
    else if back then ({ t with from_ := none }, false)
    else ({ t with from_ := f }, false)

/-- A quiet time, or the time limit of a runt, has run out at a sample (R209). -/
def Trig.due (t : Trig) (sample : Nat) : Bool :=
  t.en && (match t.from_ with
    | none => false
    | some f => (decide (t.typ = 3) || (decide (t.typ = 2) && decide (0 < t.t1s))) && decide (f + t.t1s ≤ sample))

/-- The condition after it was met by time. -/
def Trig.expired (t : Trig) (sample : Nat) : Trig := if t.typ = 3 then { t with from_ := some sample } else { t with from_ := none }

def AcqSt.trig (a : AcqSt) (n : Nat) : Trig := tabGet {} a.regs.trigs n

def setTrig (s : State) (r n : Nat) (t : Trig) : State :=
  s.updAcq r (fun a => { a with regs.trigs := tabSet {} a.regs.trigs n t })

/-- A trigger event of a hit mask at a sample (R210, R215): WAITE class 4, the fabric, and the strand it opens, whose TRIGGER
bead waits where the FIFO has no room for it or a gap is open (R219). -/
def trigEvent (s : State) (r hits sample : Nat) : State :=
  if hits = 0 then s
  else
    let met := (List.range 8).filter (fun n => decide (hits / 2 ^ n % 2 = 1))
    let e := sample / 8 + 25
    let s1 := register (forAll met (fun s n => register s r 4 n e) s) r 4 8 e
    let s2 := if met.any (fun n => bitOf ((s.acq r).trig n).cond.1 8) then fabricEmit s1 r (s.tree.fwd.getD r 0) e else s1
    let a := s2.acq r
    if a.regs.st = .wait then
      let reason := met.headD 0
      let c := timeAt (s2.region r) (sample / 8)
      let d := a.run.deltaAt s2.free sample
      let x := { a.run with
        pre := a.run.beads.length, trig := some (sample, stampWords c (wd (sample % 8 * 0x8000)), reason, hits),
        postEnd := if a.run.lat.2.2.2 = 0 then none else some (sample / 8 + a.run.lat.2.2.2) }
      let s3 := s2.updAcq r (fun a => { a with regs.st := .post, run := x })
      if a.run.gap.isSome then s3.updAcq r (fun a => { a with run.trigPend := true })
      else if a.room (if d.isSome then 1 else 3) = false then
        s3.updAcq r (fun a => { a with run.trigPend := true, run.gap := some (sample, 0) })
      else (s3.updAcq r (fun a => a.timed false true c d a.regs.done sample 5 (wd (reason * 2 ^ 15 + hits * 2 ^ 7)))).tick
    else if a.regs.st = .rearm then
      (acqCount (s2.updAcq r (fun a => { a with run.missedN := satAdd 511 a.run.missedN 1 })) r
        (fun g => g.missed) (fun g n => { g with missed := n }) 1).postAcq r 3
    else s2

/-! ### One sample (R205, R206, R209, R210, R219) -/

/-- POST_TIME has run out by a sample: the strand ends there with cause 1 (R215 step 6). -/
def postOver (s : State) (r sample : Nat) : State :=
  match (s.acq r).run.postEnd, (s.acq r).run.trig with
  | some _, some t =>
    if (s.acq r).regs.st = .post ∧ t.1 + 8 * (s.acq r).run.lat.2.2.2 ≤ sample then
      strandEnd s r 1 (t.1 + 8 * (s.acq r).run.lat.2.2.2) false
    else s
  | _, _ => s

/-- Condition n in a sample in which the inputs go from `was` to `now`: a change of its input, or its time (R209). -/
def trigSample (s : State) (r n sample : Nat) (was now : List Nat) : State × Nat :=
  let t := ((s.acq r).trig n).inForce sample
  let a := was.getD t.input 0
  let b := now.getD t.input 0
  if t.en then
    let q := if a ≠ b then t.step sample (decide (2 ≤ a)) (decide (a % 2 = 1)) (decide (2 ≤ b)) (decide (b % 2 = 1)) else (t, false)
    if q.1.due sample then (setTrig s r n (q.1.expired sample), 2 ^ n) else (setTrig s r n q.1, b2n q.2 * 2 ^ n)
  else (setTrig s r n t, 0)

/-- One sample of an armed engine: the trigger event of the conditions met, behind it the marks of slot 0 and the CHANGE
beads in ascending input order, or those that resynchronise after a GAP. The first sample of an arm only shows the states
(R209). -/
def oneSample (s : State) (r sample : Nat) : State :=
  let s1 := postOver s r sample
  let now := (List.range 64).map (fun i => shown s1 (64 * r + i) sample)
  let was := if (s1.acq r).run.next = 0 then now else (List.range 64).map (fun i => (s1.evin (64 * r + i)).smp)
  let m := (List.range 8).foldl (fun (acc : State × Nat) n =>
    let q := trigSample acc.1 r n sample was now
    (q.1, acc.2 + q.2)) (s1, 0)
  let s2 := forAll (List.range 64) (fun s i =>
    if (s.evin (64 * r + i)).smp = now.getD i 0 then s else s.updEvin (64 * r + i) (fun e => { e with smp := now.getD i 0 })) m.1
  let s3 := trigEvent (gapWork s2 r sample) r m.2 sample
  let s4 := (forAll (s3.acq r).run.marks (fun s low => acqBead s r 4 (s.acq r).regs.done low sample true) s3).updAcq r
    (fun a => { a with run.marks := [] })
  let sync := (s4.acq r).run.resync
  let bead := fun (s : State) (i : Nat) =>
    let e := s.evin (64 * r + i)
    if e.store = true ∧ (if sync then e.force.on = true ∧ e.calSrc = false ∧ e.smp ≠ e.stored else was.getD i 0 ≠ now.getD i 0) then
      changeBead s (64 * r + i) sample (! sync)
    else s
  (forAll (List.range 64) bead s4).updAcq r (fun a => { a with run.next := sample + 1, run.resync := false })

/-- The samples of the present cycle up to a sample, which is not taken itself. -/
def runTo (s : State) (r sample : Nat) : State :=
  forAll ((List.range 8).map (fun j => 8 * (s.region r).edge + j)) (fun s x =>
    if (s.acq r).armed = true ∧ (s.acq r).run.next ≤ x ∧ x < sample then oneSample s r x else s) s

/-- A mark of an engine of the region, for the sample of slot 0 of the present edge (R208). -/
def acqMark (s : State) (r : Nat) (low : Word) : State :=
  if (s.acq r).storing then s.updAcq r (fun a => { a with run.marks := a.run.marks ++ [low] }) else s

/-- The end of a cycle: the samples not yet taken, and one cycle of the event memory (R205, R218). -/
def acqCycle (s : State) (r : Nat) : State :=
  let e := (s.region r).edge
  let s1 := runTo s r (8 * e + 8)
  let m := (s1.acq r).mem
  if m.fifo = [] ∧ m.accepted = 0 ∧ m.queues.all (fun n => n == 0) = true ∧ (s1.acq r).run.changes = [] then s1
  else s1.updAcq r (fun a => { a with
    mem := a.mem.cycle e, run.changes := a.run.changes.filter (fun c => decide (8 * e + 8 ≤ c.1)) })

/-! ### Arm and stop (R212, R215) -/

/-- The checks of R212 on L, P and C. -/
def armOk (l p c : Nat) : Bool :=
  decide (64 ≤ l) && decide (l ≤ 65536) && decide (p + 16 ≤ l) && decide (1 ≤ c) && decide (c ≤ 4096) && decide (c * l ≤ 262144)

/-- Step 1 of an arm: headers invalidated, counters cleared, a new bank key, strands not yet streamed reported as
lost (R215, R217, R224); conditions start afresh (R209). -/
def acqArm (s : State) (r : Nat) (l p c post : Nat) (per : Bool) (tag : Option Nat) : State :=
  let e := (s.region r).edge
  (s.updAcq r (fun a => { a with
    regs := { a.regs with
      cfgErr := false, done := 0, missed := 0, lostBeads := 0, gapCount := 0, st := .idle,
      trigs := a.regs.trigs.map (fun t => (t.1, (t.2.inForce (8 * e)).restart (8 * e))) },
    run := { lat := (l, p, c, post), a0 := some (e + 8), key := Config.random64 s.free, perStrand := per, armTag := tag },
    mem.headers := [], mem.lostQ := a.mem.lostQ ++ a.mem.sendQ, mem.sendQ := [], mem.sent := 0 })).tick

/-- A strand opens in WAIT with the inputs' present states (R214). -/
def strandOpen (s : State) (r : Nat) : State :=
  let x := nextSample s r
  let ins := (List.range 64).map (fun i => (i, shown s (64 * r + i) x))
  let s1 := forAll ins (fun s v => s.updEvin (64 * r + v.1) (fun e => { e with stored := v.2 })) s
  s1.updAcq r (fun a => { a with
    regs.st := .wait,
    run := { a.run with beads := [], banks := [], epochs := [], pre := 0, lastSample := none,
                        init := ins.foldl (fun t v => tabSet 0 t v.1 v.2) [] } })

/-- The edge A0 of an arm: strand 0 opens and ACQ_ARM completes with its time (R215 step 2). -/
def acqStart (s : State) (r : Nat) : State :=
  match (s.acq r).run.a0 with
  | none => s
  | some e =>
    if e ≤ (s.region r).edge then
      let c := timeAt (s.region r) e
      let s1 := strandOpen (s.updAcq r (fun a => { a with run.a0 := none })) r
      match (s.acq r).run.armTag with
      | none => s1
      | some t => complete (s1.updAcq r (fun a => { a with run.armTag := none })) t OK
          [c.extractLsb' 36 18, c.extractLsb' 18 18, c.extractLsb' 0 18]
    else s

/-- The end of a REARM: the next strand opens (R215 step 7). -/
def acqReopen (s : State) (r : Nat) : State :=
  if (s.acq r).regs.st = .rearm then
    strandOpen (s.updAcq r (fun a => { a with run.blind := (s.region r).edge - a.run.endAt })) r
  else s

/-- ACQ_STOP in any state (R215). -/
def acqStop (s : State) (r : Nat) : State :=
  let a := s.acq r
  if a.armed = false then s
  else if a.regs.st = .post then strandEnd s r 2 (nextSample s r) true
  else
    match a.run.armTag with
    | none => acqDone s r
    | some t => complete (acqDone (s.updAcq r (fun a => { a with run.armTag := none })) r) t INCOMPLETE []

/-- What is due on the present edge of an acquisition engine: A0, the end of a REARM at its bound of 320 cycles, the settling
of its inputs, and the cycle's samples (R206, R215). -/
def settleAcq (s : State) (r : Nat) : State :=
  let now := (s.region r).edge
  let s1 := acqStart s r
  let s2 := if (s1.acq r).run.endAt + 320 ≤ now then acqReopen s1 r else s1
  let s3 := acqCycle s2 r
  forAll ((s3.evins.filter (fun e => decide (e.1 / 64 = r) && e.2.settleAt.any (fun a => decide (a ≤ now)))).map (fun e => e.1))
    (fun s n => s.updEvin n (fun e => { e with settleAt := none })) s3

end Sys2Proof.Machine
end

