-- ==== Sys2Proof/Machine/RefOps.lean ====
section
/-! DEFINITION. What can happen to a region's reference: qualification, changes of source, holdover, borrowing,
shared roots, and loads of system time (chapter 02). -/
namespace Sys2Proof.Machine
open Sys2Proof

def Src.code : Src → Nat
  | .xo => 0 | .refin => 1 | .uplink => 2 | .neighbour => 3

def Src.ofCode (n : Nat) : Src := if n = 0 then .xo else if n = 1 then .refin else if n = 2 then .uplink else .neighbour

def Rrp.code : Rrp → Nat
  | .off => 0 | .acquiring => 1 | .locked => 2 | .holdover => 3 | .holdoverLong => 4 | .switching => 5

/-- The region whose CREF is NEIGHBOUR for region r. -/
def nbr (r : Nat) : Nat := (r + 1) % 4

/-- A source is qualified for a region (R38 to R40, R43). -/
def srcQual (s : State) (r : Nat) : Src → Bool
  | .xo => s.ref.xoQual
  | .refin => decide (s.ref.refinState = 3)
  | .uplink => decide (s.ref.upState = 3)
  | .neighbour => regionPresent s (nbr r) && decide ((s.region (nbr r)).rrp = .locked)
      && decide ((s.region (nbr r)).active ≠ .neighbour)

/-- In holdover. -/
def Rrp.held (x : Rrp) : Bool := decide (x = .holdover) || decide (x = .holdoverLong)

/-- The root of a region: none and its number when it is its own (in holdover, or in a change made from it), else the
source it traces to (R56). -/
def rootOf (s : State) : Nat → Nat → Option Src × Nat
  | 0, r => (some (s.region r).active, 0)
  | n + 1, r =>
    let g := s.region r
    if g.rrp.held || (decide (g.rrp = .switching) && g.change.any (fun c => c.afterHoldover)) then (none, r)
    else if g.active = .neighbour then rootOf s n (nbr r)
    else (some g.active, 0)

/-- The present regions that are not in reset. -/
def runningRegions (s : State) : List Nat := (presentRegions s).filter (fun r => ! (s.region r).inReset)

/-- Two regions share a source root. -/
def sameRoot (s : State) (r q : Nat) : Bool := decide (rootOf s 4 r = rootOf s 4 q)

/-- All running regions share one root. -/
def oneRoot (s : State) : Bool := (runningRegions s).all (fun r => sameRoot s r ((runningRegions s).headD 0))

/-- The lowest-numbered running region of the group that shares r's root (R503). -/
def groupLead (s : State) (r : Nat) : Nat := ((runningRegions s).filter (sameRoot s r)).headD r

/-- The steering of region r after a move of roots, seen from the state before (R52, R503). Under a common root that has
come back every region but the leader steers to the leader. In a group a region steers to the leader when the two did
not share a root before, or goes on steering; one that takes NEIGHBOUR out of holdover steers to its neighbour (R52;
log 58). -/
def steerOf (s : State) (back : Bool) (r : Nat) : Bool × Nat :=
  let g := s.region r
  let l := groupLead s r
  if g.run ≠ .run then (false, l)
  else if back then (decide (r ≠ l), l)
  else if oneRoot s = false ∧ g.steering = true ∧ g.active = .neighbour ∧ g.steerTo = nbr r then (true, g.steerTo)
  else if r = l then (false, l)
  else (g.steering || decide ((s.region l).root ≠ g.root), l)

/-- The regions part from, or come back to, a common root, or move between roots (R56, R503). -/
def rootsMoved (s : State) : State :=
  let run := runningRegions s
  let was := run.any (fun r => (s.region r).split)
  let one := oneRoot s
  forAll run (fun s' r =>
    let st := steerOf s (one && was) r
    let s1 := s'.updRegion r (fun g => { g with
      split := ! one, root := rootOf s 4 r, steering := st.1, steerTo := st.2,
      timeAligned := if one = false then false else if was then ! st.1 && decide (r = st.2) else g.timeAligned && ! st.1 })
    if one = false ∧ was = false then s1.postRef r 8 else s1) s

/-! ### Requests and changes of source (R43, R44, R46, R50) -/

/-- REF_STATUS (02). -/
def refStatus (s : State) (r : Nat) : Word :=
  let g := s.region r
  wd (g.rrp.code * 2 ^ 15 + g.active.code * 2 ^ 13 + b2n g.borrowed * 2 ^ 12
    + (b2n (srcQual s r .xo) + 2 * b2n (srcQual s r .refin) + 4 * b2n (srcQual s r .uplink) + 8 * b2n (srcQual s r .neighbour)) * 2 ^ 8
    + b2n g.timeAligned * 2 ^ 7 + b2n g.relockPending * 2 ^ 6)

/-- Completes a REF_SELECT or RRP_CONFIG that waits for a change (R256). -/
def refAnswer (s : State) (r : Nat) (tag : Option Nat) (status : Nat) (forced : Bool) : State :=
  match tag with
  | none => s
  | some t =>
    match findCmd s t with
    | none => s
    | some c => complete s t status (if c.opcode = 0x012 then [refStatus s r, wd (b2n forced)] else [wd (b2n forced), refStatus s r])

/-- Step 1 of a change (R44): the RRP holds its code and the multiplexer waits. -/
def changeStart (s : State) (r : Nat) (src : Src) (borrow : Bool) (tag : Option Nat) : State :=
  s.updRegion r (fun g => { g with
    rrp := .switching, borrowWait := 0,
    change := some { target := src, borrow := borrow, tag := tag, afterHoldover := g.rrp.held } })

/-- A borrow whose delay is over starts as soon as NEIGHBOUR is qualified (R50). -/
def borrowTry (s : State) (r : Nat) : State :=
  let g := s.region r
  if g.rrp.held = true ∧ g.borrowEn = true ∧ g.borrowWait = 2 ∧ srcQual s r .neighbour = true then changeStart s r .neighbour true none else s

/-- From READY on, firmware selects the source that the configuration record names for a region, once, when that
source has qualified (R43). -/
def bootTry (s : State) (w : Nat × Src) : State :=
  let g := s.region w.1
  if s.pwr.phase = .ready ∧ s.mbx.mpRestart = false ∧ g.inReset = false ∧ g.change = none
     ∧ (g.rrp = .locked ∨ g.rrp.held = true) ∧ srcQual s w.1 w.2 = true then
    let s1 : State := { s with boot.want := s.boot.want.filter (fun x => decide (x ≠ w)) }
    let s2 := s1.updRegion w.1 (fun g => { g with srcReg := w.2 })
    if g.rrp = .locked ∧ g.active = w.2 then s2 else changeStart s2 w.1 w.2 false none
  else s

/-- What every move of a source or RRP is followed by. -/
def refMoved (s : State) : State :=
  let s1 := forAll (runningRegions s) borrowTry s
  rootsMoved (forAll s1.boot.want bootTry s1)

/-- A selection by the host or by firmware (R43, R46): running no change for the source that feeds the region, refused,
queued, or started. A request refused for want of qualification leaves a pending borrow pending (log 59). -/
def requestSource (s : State) (r : Nat) (src : Src) (tag : Option Nat) : State :=
  let g := s.region r
  if g.change = none ∧ g.rrp = .locked ∧ g.active = src then
    refAnswer (s.updRegion r (fun g => { g with borrowed := g.borrowed && decide (src ≠ .neighbour) })) r tag OK false
  else if srcQual s r src = false then
    match tag with
    | none => s.postRef r 0
    | some _ => refAnswer s r tag PRECOND false
  else
    match g.change with
    | some _ =>
      let old := g.queued.bind (fun q => q.2)
      (refAnswer s r old INCOMPLETE false).updRegion r (fun g => { g with queued := some (src, tag) })
    | none => refMoved (changeStart s r src false tag)

/-- The regions that follow region r as their NEIGHBOUR. -/
def followers (s : State) (r : Nat) : List Nat :=
  (runningRegions s).filter (fun q => decide (nbr q = r) && decide ((s.region q).active = .neighbour))

/-- Entry into holdover with a source lost (R49, R51): SRC_LOSS and HOLDOVER_ENTRY, record 0x20, and the borrow delay. -/
def holdoverEnter (s : State) (r : Nat) (lost : Src) : State :=
  let s1 := s.updRegion r (fun g => { g with
    rrp := .holdover, borrowed := false, borrowWait := if g.borrowDelay = 0 then 2 else 1, steering := false,
    refEvents := g.refEvents.post 0b11 })
  let s2 := faultRegion s1 r 0x20 7 lost.code 0 0
  forAll ((followers s2 r).filter (fun q => decide ((s2.region q).rrp = .locked))) (fun s q => s.postRef q 5) s2

/-- A source is lost: every locked region whose active source it is enters holdover. -/
def sourceLost (s : State) (src : Src) : State :=
  let hit := (runningRegions s).filter (fun r => decide ((s.region r).active = src) && decide ((s.region r).rrp = .locked))
  refMoved (forAll hit (fun s r => holdoverEnter s r src) s)

/-! ### Loads of system time (R58, R60, R61) -/

/-- The output of an enabled cell moves to the anchored edges of a new count (R60, R102). -/
def CellSt.reanchor (c : CellSt) (old new : Nat) : CellSt :=
  let d : Rat := ((new : Nat) : Rat) - ((old : Nat) : Rat)
  let mv := fun (x : Option Rat) => x.map (fun t => t + d)
  { c with
    out.fallAt := mv c.out.fallAt, out.holdTo := c.out.holdTo + d, out.muteAtFall := mv c.out.muteAtFall,
    out.activeAfter := mv c.out.activeAfter,
    out.slewAt := c.out.slewAt.map (fun t => firstAnchor c.vals.rho (turns c.vals.phi) c.vals.delta (t + d)),
    out.riseAt := c.out.riseAt.map (fun _ => firstAnchor c.vals.rho (turns c.vals.phi) c.vals.delta (c.out.holdTo + d)) }

/-- SYNC ends at an epoch load at or after its S (R132), and a WAITT whose time is now reached completes (R60). -/
def Engine.epoch (e : Engine) (edge : Nat) (time : BitVec 54) : Engine :=
  match e.wait with
  | .sync tmo =>
    if e.st = .waiting ∧ e.s ≤ edge ∧ (match tmo with
        | none => true
        | some t => decide (edge < t)) = true
    then { e with wait := .edge (edge + 16), s := edge + 16, noAdv := 0 } else e
  | .time c => if reached time c then { e with st := .running, wait := .none, s := edge, noAdv := 0 } else e
  | _ => e

/-- An epoch tick loads system time and its effects follow on the load edge (R58, R60); EPOCH is posted. -/
def epochRegion (s : State) (r : Nat) (v : BitVec 54) : State :=
  let g := s.region r
  let old := anchor g
  let s1 := s.updRegion r (fun g => { g with time := v, anchorHi := 0, loadAt := some g.edge })
  let cells := (s.cells.map (fun x => x.1)).filter (fun p => decide (cellRegion p = r))
  let s2 := forAll cells (fun s p => s.updCell p (fun c =>
    { (if c.cfg.ctl.en then c.reanchor old v.toNat else c) with eng := c.eng.epoch g.edge v })) s1
  let s3 := forAll ((List.range 16).map (fun t => 16 * r + t)) (fun s t => tiuStop s t INCOMPLETE) s2
  let s4 := (acqEpoch s3 r).postRef r 7
  if g.steering then
    (s4.updRegion r (fun g => { g with steering := false, timeAligned := oneRoot s4 })).postRef r 9
  else s4

/-- An epoch tick on every running region (R58). -/
def epochAll (s : State) (v : BitVec 54) : State := forAll (runningRegions s) (fun s r => epochRegion s r v) s

/-! ### Start-up, and the end of a change -/

/-- The present regions that no hold keeps in reset (R466). -/
def startable (s : State) : List Nat :=
  (presentRegions s).filter (fun r => decide ((s.region r).run ≠ .thermHold) && decide ((s.region r).run ≠ .supplyHold))

/-- The internal tick of start-up: every region loads zero and accepts commands (R58). -/
def startTick (s : State) : State :=
  rootsMoved (forAll (runningRegions s) (fun s r => s.updRegion r (fun g => { g with run := .run, timeAligned := true }))
    (epochAll { s with ref.startTick := true } 0))

/-- The tick comes when every RRP that can start has been LOCKED once (R58). -/
def startCheck (s : State) : State :=
  if s.ref.startTick = false ∧ (startable s).all (fun q => (s.region q).everLocked) = true then startTick s else s

/-- Steps 3 to 4H of a change: the multiplexer has changed over, and the new source is present or not (R44, R50, R52).
A request that waited for it starts then, and is refused if its source is no longer qualified (log 59). -/
def changeEnd (s : State) (r : Nat) (forced present : Bool) : State :=
  match (s.region r).change with
  | none => s
  | some c =>
    let q := (s.region r).queued
    let s1 := s.updRegion r (fun g => { g with change := none, queued := none, active := c.target })
    let s2 :=
      if present then
        let via := c.afterHoldover && decide (c.target = .neighbour)
        let s3 := s1.updRegion r (fun g => { g with
          rrp := .locked, borrowed := c.borrow, everLocked := true, refUnrec := false,
          steering := g.steering || via, steerTo := if via then nbr r else g.steerTo,
          timeAligned := g.timeAligned && ! via })
        let s4 := if c.borrow then faultRegion (s3.postRef r 2) r 0x21 8 0 0 1 else s3
        startCheck (refAnswer s4 r c.tag OK forced)
      else
        refAnswer (holdoverEnter s1 r c.target) r c.tag FAULT forced
    let s5 := match q with
      | none => s2
      | some (src, tag) => requestSource s2 r src tag
    refMoved s5

/-- A forced change (R44 step 2F): REF_FORCED, the TIUs end INCOMPLETE, acquisition writes a GAP of cause 2 and the
cells relock (R45, R197, R220). -/
def refForced (s : State) (r : Nat) : State :=
  let s1 := s.postRef r 3
  let s2 := forAll ((List.range 16).map (fun t => 16 * r + t)) (fun s t => tiuStop s t INCOMPLETE) s1
  forcedGap s2 r 2 0

/-- Two regions of the device with their marks' timing (R130 class 0). -/
def emitBus (s : State) (r m e : Nat) : State := busEmit s r m e (fun q => sameRoot s r q)

/-! ### The XO at start-up (R37, R463 step 4) -/

/-- The XO is started, and qualification begins; a declared frequency outside 40,000 to 60,000 kHz stops start-up. -/
def xoStart (s : State) : State :=
  if 40000 ≤ s.boot.xoKhz ∧ s.boot.xoKhz ≤ 60000 then { s with ref.xoOn := true, pwr.phase := .xoQual }
  else faultChip { s with pwr.phase := .stopped, pwr.stop := 1 } 0x3D 0 0 (wd s.boot.xoKhz)

end Sys2Proof.Machine
end

