-- ==== Sys2Proof/Machine/Mailbox.lean ====
section
/-! DEFINITION. The mailbox (chapter 10): submission, parsing, the checks at dispatch, ordering, holds and
deadlines, and popping; and the form of every Hitan command (chapter 11, R246 to R254). -/
namespace Sys2Proof.Machine
open Sys2Proof

/-! ### Submission (R226 to R231) -/

/-- MBX_SQ_FREE (R227). -/
def sqFree (s : State) : Nat :=
  8192 - s.mbx.batch.length - (s.mbx.unparsed.map List.length).sum
    - ((s.mbx.cmds.filter (fun c => decide (c.st = .accepted))).map (fun c => c.len)).sum

/-- n discarded words are counted; a saturation is posted (R227, R439). -/
def discardWords (s : State) (n : Nat) : State :=
  let s1 : State := { s with mbx.discard := satAdd 0x3FFFF s.mbx.discard n }
  if s.mbx.discard < 0x3FFFF ∧ s1.mbx.discard = 0x3FFFF then s1.postHost 4 else s1

/-- A word reaches MBX_PUSH (R228). -/
def pushWord (s : State) (w : Word) : State :=
  if sqFree s = 0 then (discardWords { s with mbx.batchBad := true } 1).postMbx 1
  else { s with mbx.batch := s.mbx.batch ++ [w] }

/-- A word reaches MBX_DOORBELL (R229). -/
def ringDoorbell (s : State) (w : Word) : State :=
  let n := s.mbx.batch.length
  let s1 : State := { s with mbx.batch := [], mbx.batchBad := false }
  if s.mbx.batch = [] ∧ fld w 0 14 = 0 then s
  else if s.mbx.batchBad = false ∧ fld w 0 14 = n then { s1 with mbx.unparsed := s.mbx.unparsed ++ [s.mbx.batch] }
  else
    let s2 := discardWords s1 n
    if fld w 0 14 = n then s2 else s2.postMbx 2

/-- A tag is in flight until the last word of its record is popped (R231). -/
def tagInFlight (s : State) (tag : Nat) : Bool :=
  s.mbx.cmds.any (fun c => c.tag == tag)
  || s.mbx.cq.any (fun rec_ => match rec_ with
      | w0 :: _ :: w2 :: _ => decide (fld w0 15 2 = 0) && decide (fld w0 0 9 = tag) && ! bitOf w2 8
      | _ => false)

/-- The descriptor is malformed (R229). -/
def malformed (ws : List Word) : Bool :=
  let w2 := ws.getD 2 0
  decide (ws.length < 3) || decide (fld w2 0 5 < 3) || decide (16 < fld w2 0 5) || decide (ws.length < fld w2 0 5)
  || (bitOf w2 15 && decide (fld w2 0 5 < 6))

/-- The command that a descriptor's words spell (R230). -/
def cmdOf (ws : List Word) (tun : Bool) : Cmd :=
  let w2 := ws.getD 2 0
  let dl := bitOf w2 15
  { tag := fld (ws.getD 0 0) 0 9, opcode := fld (ws.getD 0 0) 9 9, target := ws.getD 1 0,
    fence := bitOf w2 17, noWait := bitOf w2 16,
    deadline := if dl then some (ws.getD 3 0 ++ ws.getD 4 0 ++ ws.getD 5 0) else none,
    args := (ws.take (fld w2 0 5)).drop (if dl then 6 else 3),
    len := fld w2 0 5, tun := tun }

/-- The outcome of parsing one descriptor: parsed, with the words left; or a pause for a record's room (R239). -/
inductive Parsed where
  | go (rest : List Word) (s : State)
  | pause

/-- Parses the descriptor at the front of a batch (R229 to R231, R239). -/
def parseOne (s : State) (ws : List Word) (tun : Bool) : Parsed :=
  if cqFree s = 0 then .pause
  else
    let c := cmdOf ws tun
    let bad := malformed ws
    let s1 :=
      if tagInFlight s c.tag then (recordOut s tun (cmdRecord { c with held := false } BADARG true [])).postMbx 4
      else if bad then recordOut s tun (cmdRecord c BADARG false [])
      else { s with mbx.cmds := s.mbx.cmds ++ [c] }
    if bad then .go [] ((discardWords s1 (ws.length - 3)).postMbx 3) else .go (ws.drop c.len) s1

/-- Parses a batch; answers what a pause leaves. The fuel is the number of words. -/
def parseBatch (tun : Bool) : Nat → List Word → State → List Word × State
  | 0, ws, s => (ws, s)
  | _ + 1, [], s => ([], s)
  | n + 1, w :: ws, s =>
    match parseOne s (w :: ws) tun with
    | .go rest s1 => parseBatch tun n rest s1
    | .pause => (w :: ws, s)

/-- Parses the accepted batches in order until one pauses (R229, R239). -/
def parseAll : List (List Word) → State → State
  | [], s => { s with mbx.unparsed := [] }
  | b :: bs, s =>
    match parseBatch false b.length b s with
    | ([], s1) => parseAll bs s1
    | (left, s1) => { s1 with mbx.unparsed := left :: bs }

/-! ### The form of each command (R246 to R252) -/

/-- A valid path below this device (R344). -/
def pathOk (i : Nat) : Bool :=
  decide (i / 256 = 0) && decide (i / 64 % 4 ≠ 0)
  && (decide (2 ≤ i / 64 % 4) || decide (i / 4 % 4 = 0)) && (decide (3 ≤ i / 64 % 4) || decide (i % 4 = 0))

/-- What the reference lists of a command: class, Owner-only, scopes, spares accepted, operand count, and the
bits that its named fields use in operand k. -/
structure Form where
  cls : Option Nat
  owner : Bool := false
  scopes : List Nat
  spare : Bool := false
  count : List Word → Bool
  mask : Nat → Nat

/-- All 18 bits of an operand are used. -/
abbrev full : Nat := 0x3FFFF

def formN (cls : Option Nat) (scopes : List Nat) (n : Nat) (m0 : Nat) : Form :=
  { cls := cls, scopes := scopes, count := fun a => decide (a.length = n), mask := fun k => if k = 0 then m0 else full }

/-- The forms of the system, reference and cell commands (R255 to R257). -/
def formLow (op : Nat) : Option Form :=
  if op = 0x001 then some (formN none [0] 0 full)
  else if op = 0x002 then some (formN (some 2) [0, 1, 2, 3, 4] 0 full)
  else if op = 0x003 then some (formN (some 1) [0] 1 0x3)
  else if op = 0x004 then some (formN (some 0) [0, 1, 2] 0 full)
  else if op = 0x010 then some (formN (some 4) [1] 1 0x3)
  else if op = 0x011 then some { formN (some 4) [0] 1 0x30007 with
    count := fun a => decide (a.length = if bitOf (a.getD 0 0) 17 then 3 else 1) }
  else if op = 0x012 then some (formN (some 4) [1] 1 0x200FF)
  else if op = 0x013 then some (formN (some 0) [0, 1] 0 full)
  else if op = 0x014 then some (formN (some 5) [0] 3 full)
  else if op = 0x020 then some { formN (some 6) [3] 2 full with mask := fun k => if k = 0 then 0x2003F else 0x3F }
  else if op = 0x021 then some (formN (some 8) [3] 10 0x200FF)
  else if op = 0x022 then some (formN (some 9) [3] 1 0xFF)
  else if op = 0x023 then some { formN (some 7) [3] 1 0x300FF with
    count := fun a => decide (a.length = if bitOf (a.getD 0 0) 17 then 4 else 1) }
  else if op = 0x024 then some (formN (some 6) [3] 3 0x3801F)
  else if op = 0x025 then some { formN (some 6) [3] 1 0x2001F with
    count := fun a => decide (a.length = if bitOf (a.getD 0 0) 17 then 3 else 1) }
  else if op = 0x026 then some (formN (some 6) [3] 6 0x1F)
  else if op = 0x027 then some { formN (some 0) [3] 0 full with spare := true }
  else none

/-- The forms of the engine, planning, TIU and acquisition commands (R258 to R261). -/
def formMid (op : Nat) : Option Form :=
  if op = 0x030 then some { formN (some 10) [3] 0 0x7FFF with count := fun a => decide (2 ≤ a.length) && decide (a.length ≤ 13) }
  else if op = 0x031 then some { formN (some 11) [3] 1 0x37FFF with
    count := fun a => decide (a.length = if bitOf (a.getD 0 0) 17 then 4 else 1) }
  else if op = 0x032 then some (formN (some 11) [3] 0 full)
  else if op = 0x033 then some (formN (some 0) [3] 0 full)
  else if op = 0x034 then some { formN (some 10) [1] 9 0x30007 with
    count := fun a => decide (a.length = 9) || (bitOf (a.getD 0 0) 16 && decide (a.length = 1)) }
  else if op = 0x038 then some { formN (some 12) [2] 9 0x1 with
    count := fun a => decide (a.length = if bitOf (a.getD 0 0) 0 then 10 else 9) }
  else if op = 0x040 then some (formN (some 13) [4] 7 0x70)
  else if op = 0x041 then some { formN (some 13) [4] 1 0x30000 with
    count := fun a => decide (a.length = if bitOf (a.getD 0 0) 17 then 4 else 1) }
  else if op = 0x042 then some (formN (some 13) [4] 5 0x10000)
  else if op = 0x043 then some (formN (some 14) [4] 1 0x10000)
  else if op = 0x050 then some { formN (some 15) [3, 2] 3 full with
    count := fun a => decide (a.length = 3) || decide (a.length = 4), mask := fun k => if k = 3 then 0xFFFF else full }
  else if op = 0x051 then some (formN (some 15) [5] 4 0x7)
  else if op = 0x052 then some { formN (some 16) [5] 6 full with mask := fun k => if k = 5 then 1 else full }
  else if op = 0x053 then some (formN (some 16) [5] 0 full)
  else if op = 0x054 then some { formN (some 17) [5] 3 full with
    mask := fun k => if k = 0 then 0xFFF else if k = 1 then 0xFFFF else 0x1FFFF }
  else if op = 0x055 then some (formN (some 17) [5] 1 0x1)
  else none

/-- The forms of the calibration, self-test and security commands (R262 to R264). -/
def formHigh (op : Nat) : Option Form :=
  if op = 0x060 then some (formN (some 18) [0, 1, 2, 3, 4] 1 0x77)
  else if op = 0x061 then some (formN (some 0) [0] 0 full)
  else if op = 0x062 then some (formN (some 19) [0] 1 0x3)
  else if op = 0x063 then some (formN (some 20) [0] 1 0x1)
  else if op = 0x064 then some { formN (some 21) [1] 0 0x20FFF with
    count := fun a => decide (2 ≤ a.length) && decide (a.length ≤ 13), mask := fun k => if k = 0 then 0x20FFF else 0xFFFF }
  else if op = 0x070 then some (formN none [3, 2, 1] 1 0x3F)
  else if op = 0x071 then some (formN none [3, 2, 1] 1 0x7)
  else if op = 0x072 then some (formN (some 22) [2] 1 0x3000F)
  else if op = 0x073 then some { formN (some 23) [0] 1 0x1 with
    owner := true, count := fun a => decide (a.length = if bitOf (a.getD 0 0) 0 then 2 else 1),
    mask := fun k => if k = 0 then 1 else 0xF }
  else if op = 0x080 then some (formN none [0] 0 full)
  else if op = 0x081 then some (formN none [0] 0 full)
  else if op = 0x082 then some { formN none [0] 8 full with mask := fun _ => 0xFFFF }
  else if op = 0x083 then some { formN none [0] 1 0x1F with
    count := fun a => let w := a.getD 0 0
      if fld w 0 2 = 1 then decide (a.length = 3)
      else if fld w 2 3 = 0 then decide (a.length = 1)
      else if fld w 2 3 = 3 then decide (a.length = 9)
      else if fld w 2 3 ≤ 2 then decide (a.length = 13) else true,
    mask := fun k => if k = 0 then 0x1F else 0xFFFF }
  else if op = 0x084 then some (formN none [0] 0 full)
  else if op = 0x085 then some { formN (some 24) [0] 2 full with owner := true, mask := fun _ => 0xFFFF }
  else if op = 0x086 then some { formN (some 25) [0] 3 full with owner := true, mask := fun k => if k = 0 then 3 else 0xFFFF }
  else if op = 0x087 then some (formN (some 0) [0] 1 0x3)
  else if op = 0x088 then some { formN (some 26) [0] 2 0x7 with owner := true }
  else if op = 0x089 then some { formN (some 26) [0] 13 full with
    owner := true, count := fun a => decide (a.length = if fld (a.getD 0 0) 0 2 = 2 then 9 else 13),
    mask := fun k => if k = 0 then 0x3 else 0xFFFF }
  else none

/-- The forms of the tree, diagnostic and firmware commands (R265, R267). -/
def formTop (op : Nat) : Option Form :=
  if op = 0x090 then some (formN (some 27) [0] 0 full)
  else if op = 0x091 then some (formN (some 0) [0, 6] 0 full)
  else if op = 0x092 then some { formN (some 28) [6] 3 full with count := fun a => decide (3 ≤ a.length) && decide (a.length ≤ 13) }
  else if op = 0x0A0 then some { formN (some 29) [0, 3] 2 full with spare := true, mask := fun k => if k = 1 then 0x203FF else full }
  else if op = 0x0A1 then some { formN (some 30) [0, 3] 3 full with
    spare := true, count := fun a => decide (3 ≤ a.length) && decide (a.length ≤ 13), mask := fun k => if k = 1 then 0x20000 else full }
  else if op = 0x0A2 then some { formN (some 29) [3, 2] 0 full with spare := true }
  else if op = 0x0A3 then some (formN (some 29) [0] 2 full)
  else if op = 0x0B0 then some (formN (some 0) [0] 0 full)
  else if op = 0x0B1 then some (formN (some 31) [0] 2 full)
  else if op = 0x0B2 then some { formN (some 31) [0] 3 full with count := fun a => decide (3 ≤ a.length) && decide (a.length ≤ 13) }
  else if op = 0x0B3 then some (formN (some 31) [0] 1 0x1)
  else none

/-- The form of an opcode, when the device decodes it (R246). -/
def formOf (op : Nat) : Option Form :=
  match formLow op with
  | some f => some f
  | none => match formMid op with
    | some f => some f
    | none => match formHigh op with
      | some f => some f
      | none => formTop op

/-! ### The checks at dispatch (R232) -/

/-- The session a command is checked against: the host port's, or the tunnel's (R266). -/
def sessionOf (s : State) (c : Cmd) : Nat := if c.tun then s.sec.tunnel else s.sec.host

/-- The row of the protection table of a session level. -/
def protRow (l : Locket) (level : Nat) : BitVec 32 := if level = 0 then l.prot0 else if level = 1 then l.prot1 else l.prot2

/-- The words a REG_READ or REG_WRITE reaches lie in chip control or a region window (R252). -/
def diagOwner (c : Cmd) : Bool :=
  if c.opcode = 0x0A0 ∨ c.opcode = 0x0A1 then
    let n := if c.opcode = 0x0A0 then fld (c.args.getD 1 0) 0 10 else c.args.length - 2
    decide (tgtScope c.target = 3)
    || decide (0x18000 ≤ (c.args.getD 0 0).toNat + (if bitOf (c.args.getD 1 0) 17 then 0 else n - 1))
  else false

/-- Check 2: the privilege class is permitted (R252, R422). -/
def permitted (s : State) (c : Cmd) (f : Form) : Bool :=
  let l := sessionOf s c
  let cls := if c.opcode = 0x002 ∧ tgtScope c.target = 0 then some 3 else f.cls
  if l = 3 then true
  else if c.opcode = 0x089 ∧ s.lk.lc = 2 ∧ s.lk.owner = none then true
  else
    (match cls with
      | none => true
      | some k => (protRow s.lk l).getLsbD k)
    && (! f.owner || decide (l = 2)) && (! diagOwner c || decide (l = 2))

/-- Check 3: scope and index, and presence in the variant (R5, R16, R17, R249). -/
def targetOk (s : State) (c : Cmd) (f : Form) : Bool :=
  let i := tgtIndex c.target
  let sc := tgtScope c.target
  f.scopes.contains sc
  && (if sc = 0 then decide (i = 0)
      else if sc = 1 then regionPresent s i
      else if sc = 2 then blockPresent s i
      else if sc = 3 then cellPresent s i && (f.spare || decide (i < 256))
      else if sc = 4 then tiuPresent s i
      else if sc = 5 then acqPresent s i
      else if sc = 6 then pathOk i else false)

/-- Check 4: the operand count and the reserved bits of operands (R230, R247); those of word 2 are ignored (R9). -/
def operandsOk (c : Cmd) (f : Form) : Bool :=
  f.count c.args
  && (List.range c.args.length).all (fun k => decide (((c.args.getD k 0).toNat ||| f.mask k) = f.mask k)
      || (decide (c.opcode = 0x034) && decide (1 ≤ k) && bitOf (c.args.getD 0 0) 16))
  && (decide (c.opcode ≠ 0x034) || bitOf (c.args.getD 0 0) 16
      || (c.args.drop 1).all (fun w => decide (w.toNat < 1024)))
  && (decide (c.opcode ≠ 0x050) || decide (c.args.length = if tgtScope c.target = 2 then 4 else 3))

/-- Commands the ROM serves in recovery and while stopped (R334, R465). -/
def romServes (op : Nat) : Bool := [0x001, 0x080, 0x081, 0x0B0, 0x002, 0x0B1, 0x0B2, 0x0B3].contains op

/-- The ROM serves the mailbox. -/
def inRom (s : State) : Bool := decide (s.pwr.phase = .recovery) || decide (s.pwr.phase = .stopped)

/-- Check 5: the life-cycle restrictions of R417, and recovery (R334). -/
def lcAllows (s : State) (op : Nat) : Bool :=
  if inRom s then romServes op
  else if s.lk.lc = 4 then [0x001, 0x080, 0x081, 0x082, 0x083, 0x084, 0x004, 0x0B0, 0x063, 0x0A3, 0x0A0].contains op
  else if s.lk.lc = 0 then ! [0x081, 0x082, 0x063].contains op
  else if s.lk.lc = 3 then ! [0x085, 0x086].contains op
  else true

/-- Region of a target, when the target lies in one. -/
def targetRegion (w : Word) : Option Nat :=
  let i := tgtIndex w
  if tgtScope w = 1 then some i else if tgtScope w = 2 then some (i / 4) else if tgtScope w = 3 then some (cellRegion i)
  else if tgtScope w = 4 then some (tiuRegion i) else if tgtScope w = 5 then some i else none

/-- Block of a target, when the target lies in one. -/
def targetBlock (w : Word) : Option Nat :=
  let i := tgtIndex w
  if tgtScope w = 2 then some i else if tgtScope w = 3 then some (cellBlock i)
  else if tgtScope w = 4 then some (tiuBlock i) else none

/-- Check 6: the region is in reset or has not realigned (R29). RESET is the exception. -/
def regionBusy (s : State) (c : Cmd) : Bool :=
  decide (c.opcode ≠ 0x002)
  && (match targetRegion c.target with
      | none => false
      | some r => decide ((s.region r).run ≠ .run) || (s.region r).inReset)

/-- Commands accepted for a region in TH64 mode (R500). -/
def th64Accepts (op : Nat) : Bool :=
  [0x010, 0x012, 0x013, 0x020, 0x021, 0x022, 0x023, 0x024, 0x025, 0x026, 0x027, 0x033, 0x038, 0x040, 0x041, 0x042,
   0x043, 0x050, 0x060, 0x064, 0x070, 0x071, 0x002, 0x0A0, 0x0A1, 0x0A2].contains op

/-- The target lies in a region in TH64 mode. -/
def th64Target (s : State) (c : Cmd) : Bool :=
  match targetRegion c.target with
  | none => false
  | some r => s.th64On r

/-- The checks of R232 in order; the status of the first that fails. `absent` tells that the target exists and cannot be
reached (R6). -/
def checkReach (s : State) (c : Cmd) (absent : Bool) : Option Nat :=
  match formOf c.opcode with
  | none => some BADARG
  | some f =>
    if inRom s = false ∧ permitted s c f = false then some DENIED
    else if targetOk s c f = false then some BADTARGET
    else if absent then some ABSENT
    else if operandsOk c f = false then some BADARG
    else if lcAllows s c.opcode = false then some PRECOND
    else if regionBusy s c = true then some BUSY
    else if th64Target s c = true ∧ th64Accepts c.opcode = false then some PRECOND
    else none

/-- The checks of R232 for a target of this device, which can always be reached. -/
def dispatchCheck (s : State) (c : Cmd) : Option Nat := checkReach s c false

/-! ### Ordering, holds and deadlines (R233 to R236, R253) -/

/-- Commands that complete within their own dispatch step (R253). -/
def ownStep (op : Nat) : Bool := [0x083, 0x084, 0x085, 0x086, 0x088, 0x089].contains op

/-- The mailbox is served: by firmware from READY on, or by the ROM (R463, R465). -/
def dispatching (s : State) : Bool := ! s.mbx.mpRestart && (decide (s.pwr.phase = .ready) || inRom s)

/-- Commands accepted before the one of this tag. -/
def earlier (s : State) (tag : Nat) : List Cmd := s.mbx.cmds.takeWhile (fun c => c.tag != tag)

/-- The MP may take this command up now: in acceptance order, and not past a command of R253. -/
def mayDispatch (s : State) (c : Cmd) : Bool :=
  dispatching s && decide (c.st ≠ .executing)
  && (earlier s c.tag).all (fun x => decide (x.st ≠ .accepted) && ! ownStep x.opcode)

/-- It waits for a predecessor of its target, or for a fence (R233, R234, R253). -/
def mustWait (s : State) (c : Cmd) : Bool :=
  (earlier s c.tag).any (fun x => decide (x.target = c.target) || x.fence || decide (x.opcode = 0x002))
  || ((c.fence || ownStep c.opcode) && ! (earlier s c.tag).isEmpty)

/-- It meets a hold (R120, R235, R405): an OFFLINE period that covers the target, or a partition in progress. A CAL_RUN or
BIST_RUN waits for the grant of a block under an OFFLINE period of its own, and for a region-wide period like any other. -/
def onHold (s : State) (c : Cmd) : Bool :=
  decide (c.opcode ≠ 0x002)
  && ((match targetRegion c.target with
        | none => false
        | some r => (s.mem r).offline || ((decide (c.opcode = 0x030) || decide (c.opcode = 0x031)) && (s.mem r).partBusy.isSome))
      || (match targetBlock c.target with
        | none => false
        | some B => (s.block B).offline && decide (c.opcode ≠ 0x060) && decide (c.opcode ≠ 0x070)))

/-- The region against whose time a deadline is compared (R236). -/
def deadlineRegion (s : State) (c : Cmd) : Nat := (targetRegion c.target).getD ((presentRegions s).headD 0)

/-- The deadline is reached. -/
def deadlinePassed (s : State) (c : Cmd) : Bool :=
  match c.deadline with
  | none => false
  | some d => reached (s.region (deadlineRegion s c)).time d

/-- A host measurement that ends leaves the queue of its block's arbiter (R21). -/
def unqueue (s : State) (c : Cmd) : State :=
  if c.opcode = 0x041 ∨ c.opcode = 0x042 then
    s.updBlock (tiuBlock (tgtIndex c.target)) (fun b => { b with waiting := b.waiting.filter (fun w => decide (w ≠ (.host, c.tag))) })
  else s

/-- Dispatch of the command of a tag and opcode: refused, waiting, or begun with `body` (R232 to R236). `absent` tells that
its target cannot be reached. -/
def hitanReach (s : State) (tag op : Nat) (absent : Cmd → Bool) (body : State → Cmd → State) : State :=
  match findCmd s tag with
  | none => s
  | some c =>
    if c.opcode ≠ op ∨ mayDispatch s c = false then s
    else
      match (if c.st = .accepted then checkReach s c (absent c) else if regionBusy s c then some BUSY else none) with
      | some st => complete (unqueue s c) tag st []
      | none =>
        if deadlinePassed s c then complete (unqueue s c) tag TIMEOUT []
        else if mustWait s c then setCmd s tag (fun c => { c with st := .waiting })
        else if onHold s c then
          let s1 := setCmd s tag (fun c => { c with st := .waiting, held := true })
          if c.noWait then complete s1 tag BUSY [] else s1
        else body (setCmd s tag (fun c => { c with st := .executing })) c

/-- Dispatch of a command to a target of this device. -/
def hitan (s : State) (tag op : Nat) (body : State → Cmd → State) : State := hitanReach s tag op (fun _ => false) body

/-- A command that waits for a grant of the arbiter stays waiting, or completes BUSY with no_wait (R21, R235). -/
def grantWait (s : State) (c : Cmd) : State :=
  if c.noWait then complete s c.tag BUSY [] else setCmd s c.tag (fun c => { c with st := .waiting })

/-- Operand k of a command. -/
def Cmd.arg (c : Cmd) (k : Nat) : Word := c.args.getD k 0

/-- Unit index of a command's target. -/
def Cmd.unit (c : Cmd) : Nat := tgtIndex c.target

/-- Ends with ABORTED_RESET every command that f selects (R234, R243). -/
def abortCmds (s : State) (f : Cmd → Bool) : State :=
  forAll (s.mbx.cmds.filter f) (fun s c => complete (unqueue s c) c.tag ABORTED []) s

/-! ### The rows -/

/-- MBX_PUSH_WRITE (R228). -/
def execMbxPushWrite (w : Word) (s : State) : Out := .next (if s.pwr.wiped then pushWord s w else s)

/-- MBX_DOORBELL_WRITE (R229). -/
def execMbxDoorbellWrite (w : Word) (s : State) : Out := .next (if s.pwr.wiped then ringDoorbell s w else s)

/-- BATCH_PARSE (R229 to R231). -/
def execBatchParse (s : State) : Out := .next (parseAll s.mbx.unparsed s)

/-- PARSE_RESUME (R239): popping has made room. -/
def execParseResume (s : State) : Out := .next (if 0 < cqFree s then parseAll s.mbx.unparsed s else s)

/-- CONTINUATION_RESUME (R239). -/
def execContinuationResume (tag : Nat) (s : State) : Out := .next (pump s tag)

/-- UNKNOWN_OPCODE (R230, R232 check 1, R246). -/
def execUnknownOpcode (tag : Nat) (s : State) : Out :=
  match findCmd s tag with
  | none => .next s
  | some c =>
    if (formOf c.opcode).isNone = true ∧ mayDispatch s c = true then .next (complete s tag BADARG []) else .next s

/-- DEADLINE_EXPIRY (R236): a command that has not begun completes with TIMEOUT. -/
def execDeadlineExpiry (tag : Nat) (s : State) : Out :=
  match findCmd s tag with
  | none => .next s
  | some c =>
    if s.mbx.mpRestart = false ∧ c.st ≠ .executing ∧ deadlinePassed s c = true then .next (complete (unqueue s c) tag TIMEOUT [])
    else .next s

/-- A read of MBX_POP: the word it returns (R240). -/
def popWord (s : State) : Word :=
  match s.mbx.cq with
  | [] => 0
  | r :: _ => r.getD s.mbx.popPos 0

/-- The effect of a read of MBX_POP: the record leaves at word 7 and loads MBX_REPOP (R240). -/
def popStep (s : State) : State :=
  match s.mbx.cq with
  | [] => s
  | r :: rs =>
    if s.mbx.popPos = 7 then { s with mbx.cq := rs, mbx.popPos := 0, mbx.repop := r, mbx.aged := false }
    else { s with mbx.popPos := s.mbx.popPos + 1 }

/-- MBX_POP_READ (R240). -/
def execMbxPopRead (s : State) : Out := .next (if s.pwr.wiped then popStep s else s)

/-- COALESCE_AGE_EXPIRY (R241). -/
def execCoalesceAgeExpiry (s : State) : Out :=
  .next (if s.mbx.cq ≠ [] ∧ s.mbx.coalTime ≠ 0 then { s with mbx.aged := true } else s)

/-- HELD_RECORD_POST (R141, R239): the queue accepts a held engine or acquisition record. -/
def execHeldRecordPost (acq : Bool) (i : Nat) (s : State) : Out :=
  if acq then
    match (s.acq i).mem.held with
    | none => .next s
    | some h =>
      if cqAccepts s then
        .next ((cqPush s (withLost h.words h.lost)).updAcq i (fun a => { a with mem.held := none }))
      else .next s
  else
    match (s.cell i).eng.held with
    | none => .next s
    | some h =>
      if cqAccepts s then
        .next ((cqPush s (withLost h.words h.lost)).updCell i (fun c => { c with eng.held := none }))
      else .next s

end Sys2Proof.Machine
end

