-- ==== Sys2Proof/Machine/Acq.lean ====
section
/-! DEFINITION. The rows of event inputs, triggers and strand acquisition (chapter 09; 15 R358) and their commands
(R261). `i` is an event input 0..255, `r` a region. -/
namespace Sys2Proof.Machine
open Sys2Proof

/-! ### Event inputs (R200 to R204) -/

/-- Whether a direct write reaches an event input's window: not within an OFFLINE period of its block (R235). -/
def evinReach (s : State) (i : Nat) : Reach :=
  if decide (i < 256) = false ∨ regionPresent s (i / 64) = false then .absent
  else if (s.region (i / 64)).inReset = true ∨ resetOn s 2 (i / 16) = true then .gated else .ok

/-- EVIN_CTL (R204). -/
def evinCtl (e : EvinSt) : Word := wd (b2n e.store * 2 ^ 7 + b2n e.term * 2 ^ 6 + e.hyst.toNat * 4 + b2n e.en)

/-- EVIN_STATUS (R204): a disabled input reads 0 (R202). -/
def evinStatus (e : EvinSt) : Word := wd (b2n e.cfgErr * 4 + b2n (e.live && e.hi) * 2 + b2n (e.live && e.lo))

/-- A write of EVIN_CTL (R202, R206): it comes into force on the next edge; an enable starts the 64 cycles before sampling. -/
def writeEvinCtl (s : State) (i : Nat) (v : Word) : State :=
  let now := (s.region (i / 64)).edge
  s.updEvin i (fun e => { e with
    store := bitOf v 7, term := bitOf v 6, hyst := v.extractLsb' 2 4, en := bitOf v 0, cfgErr := false, applyAt := some (now + 1),
    settleAt := if bitOf v 0 then (if e.en then e.settleAt else some (now + 64)) else none })

/-- A write of THR_HI or THR_LO: refused when THR_LO would exceed THR_HI (R201). -/
def writeThr (s : State) (i : Nat) (hi : Bool) (v : Word) : State :=
  let code := v.extractLsb' 0 10
  let e := s.evin i
  if (if hi then decide (code.toNat < e.thrLo.toNat) else decide (e.thrHi.toNat < code.toNat)) then
    s.updEvin i (fun e => { e with cfgErr := true })
  else s.updEvin i (fun e => { e with
    thrHi := if hi then code else e.thrHi, thrLo := if hi then e.thrLo else code, cfgErr := false,
    applyAt := some ((s.region (i / 64)).edge + 1) })

/-- A write of a trim, reached through an open CLASP (R204). -/
def writeEvinTrim (s : State) (i : Nat) (f : EvinSt → EvinSt) : State :=
  s.updEvin i (fun e => { f e with cfgErr := false, applyAt := some ((s.region (i / 64)).edge + 1) })

/-- A write of a word of an event input's window (R204). -/
def writeEvin (s : State) (i off : Nat) (v : Word) : State :=
  if off = 0x0 then writeEvinCtl s i v
  else if off = 0x1 then writeThr s i true v
  else if off = 0x2 then writeThr s i false v
  else if off = 0x8 then writeEvinTrim s i (fun e => { e with trimHi := v.extractLsb' 0 8 })
  else if off = 0x9 then writeEvinTrim s i (fun e => { e with trimLo := v.extractLsb' 0 8 })
  else if off = 0xA then writeEvinTrim s i (fun e => { e with trimSkew := v.extractLsb' 0 8 })
  else s

/-- A direct write into an event input's window: where it reaches the input; else it is ignored, and the host port's reply
carries the reason (R54, R204, R282). -/
def evinWrite (s : State) (i off : Nat) (v : Word) : State := ownerWrite s fun s =>
  match evinReach s i with
  | .ok =>
    let x := writeEvin (s.parityFresh (evinBase i + off)) i off v
    if (decide (off = 1) || decide (off = 2)) && (x.evin i).cfgErr then { x with hp.ign := true } else x
  | .busy => { s with hp.busy := true }
  | .gated => { s with hp.fault := true }
  | .absent => s

/-- EVIN_CTL_WRITE (R202). -/
def execEvinCtlWrite (i : Nat) (v : Word) (s : State) : Out := .next (evinWrite s i 0x0 v)

/-- THRESHOLD_WRITE (R201, R202). -/
def execThresholdWrite (i : Nat) (hi : Bool) (v : Word) (s : State) : Out := .next (evinWrite s i (if hi then 0x1 else 0x2) v)

/-- EVIN_ENABLE_SETTLE (R53, R206): 64 cycles after the enable the input's state enters the samples. -/
def execEvinEnableSettle (i : Nat) (s : State) : Out :=
  .next (if (s.evin i).settleAt.any (fun a => decide (a ≤ (s.region (i / 64)).edge)) then
    s.updEvin i (fun x => { x with settleAt := none }) else s)

/-- EVIN_COMPARATOR_CHANGE (R200, R205, R206, R210): before a slot of the present cycle the voltages of inputs of a region
change, in 1/64 mV, and their comparators with them, which are off while the region is in reset (R457). An armed engine
takes the samples of a cycle in their order, at the latest when the cycle ends (log 67). -/
def execEvinComparatorChange (r slot : Nat) (chg : List (Nat × Int)) (s : State) : Out :=
  if regionPresent s r = true ∧ (s.region r).inReset = false then
    .next (forAll (chg.filter (fun (c : Nat × Int) => decide (c.1 < 64))) (fun s c =>
      senseInput s (64 * r + c.1) (8 * (s.region r).edge + slot % 8) (fun e => { e with volt := c.2 })) s)
  else if regionPresent s r then
    .next (forAll (chg.filter (fun (c : Nat × Int) => decide (c.1 < 64))) (fun s c =>
      s.updEvin (64 * r + c.1) (fun e => { e with volt := c.2 })) s)
  else .next s

/-! ### Triggers (R209 to R211) -/

/-- TRIGGER_QUIET_TIME (R209): a quiet time reaches T1, or a runt's time limit passes; the cycle's samples are taken up to
that one. -/
def execTriggerQuietTime (r slot n : Nat) (s : State) : Out :=
  let sample := 8 * (s.region r).edge + slot % 8
  if (s.acq r).armed = true ∧ (s.acq r).run.next ≤ sample ∧ ((s.acq r).trig (n % 8)).due sample = true then
    .next (runTo s r (sample + 1))
  else .next s

/-- Values of TRIGn_CTL, T1 and T2 that a write of TRIGn_CTL accepts (R211). -/
def trigOk (ctl t1 t2 : Word) : Bool :=
  decide (fld ctl 14 3 < 5)
  && (decide (fld ctl 12 2 ≠ 3) || (decide (fld ctl 14 3 ≠ 0) && decide (fld ctl 14 3 ≠ 2)))
  && (! bitOf ctl 17 || ((decide (t1 ≠ 0) || decide (fld ctl 14 3 = 0) || decide (fld ctl 14 3 = 2))
       && (decide (fld ctl 14 3 ≠ 1) || decide (fld ctl 12 2 < 2) || decide (t1.toNat < t2.toNat))))

/-- A write of word k of condition n, in force from the next edge, where its measurement restarts (R209, R211, R222). -/
def writeTrig (s : State) (r n k : Nat) (v : Word) : State :=
  let t : Trig := { (s.acq r).trig n with fromEdge := some ((s.region r).edge + 1) }
  let t1 : Trig := if k = 0 then { t with ctl := v &&& 0x3FF3F } else if k = 1 then { t with t1 := v } else { t with t2 := v }
  if k = 3 then s
  else if k = 0 ∧ trigOk v t.t1 t.t2 = false then s.updAcq r (fun a => { a with regs.cfgErr := true })
  else (setTrig s r n t1).updAcq r (fun a => { a with regs.cfgErr := false })

/-! ### Acquisition registers (R221) -/

/-- Whether a direct write reaches the acquisition window of a region. -/
def acqReach (s : State) (r : Nat) : Reach :=
  if acqPresent s r = false then .absent
  else if (s.region r).inReset = true then .gated else .ok

/-- A write of ACQ_CTL (R212, R215). -/
def writeAcqCtl (s : State) (r : Nat) (v : Word) : State :=
  let a := s.acq r
  if a.armed then (if bitOf v 2 then acqStop s r else s)
  else if bitOf v 0 then
    (if armOk a.regs.l.toNat a.regs.p.toNat a.regs.c.toNat then
      acqArm s r a.regs.l.toNat a.regs.p.toNat a.regs.c.toNat a.regs.post false none
     else s.updAcq r (fun a => { a with regs.cfgErr := true }))
  else s

/-- A write of a word of the acquisition window (R221). -/
def writeAcq (s : State) (r off : Nat) (v : Word) : State :=
  if off = 0x00 then writeAcqCtl s r v
  else if off = 0x03 then s.updAcq r (fun a => { a with regs.l := v.extractLsb' 0 17 })
  else if off = 0x04 then s.updAcq r (fun a => { a with regs.p := v.extractLsb' 0 17 })
  else if off = 0x05 then s.updAcq r (fun a => { a with regs.c := v.extractLsb' 0 13 })
  else if off = 0x06 then s.updAcq r (fun a => { a with regs.postLo := v })
  else if off = 0x07 then s.updAcq r (fun a => { a with regs.post := (v ++ a.regs.postLo).toNat })
  else if 0x10 ≤ off ∧ off < 0x30 then writeTrig s r ((off - 0x10) / 4) (off % 4) v
  else s

/-- A write of the acquisition window is refused (R211, R212). -/
def acqRefused (s : State) (r o : Nat) (v : Word) : Bool :=
  let a := s.acq r
  let t := a.trig ((o - 0x10) / 4)
  if o = 0x00 then ! a.armed && bitOf v 0 && ! armOk a.regs.l.toNat a.regs.p.toNat a.regs.c.toNat
  else decide (0x10 ≤ o) && decide (o < 0x30) && decide (o % 4 = 0) && ! trigOk v t.t1 t.t2

/-- A direct write into the acquisition window: where it reaches the engine; else it is ignored, and the host port's reply
carries the reason (R54, R221, R282). -/
def acqWrite (s : State) (r off : Nat) (v : Word) : State := ownerWrite s fun s =>
  match acqReach s r with
  | .ok =>
    let x := writeAcq (s.parityFresh (regionBase r + 0x5000 + off)) r off v
    if acqRefused s r off v then { x with hp.ign := true } else x
  | .busy => { s with hp.busy := true }
  | .gated => { s with hp.fault := true }
  | .absent => s

def AcqState.code : AcqState → Nat
  | .idle => 0 | .wait => 1 | .post => 2 | .rearm => 3 | .done => 4

/-- ACQ_STATUS (R221). -/
def acqStatus (a : AcqSt) : Word :=
  wd (a.regs.st.code * 2 ^ 15 + b2n a.regs.cfgErr * 2 ^ 14 + b2n a.run.gap.isSome * 2 ^ 13 + a.regs.done)

/-- TRIG_REGISTER_WRITE (R209, R211): a write at offset `off` of the acquisition window, 0x10 to 0x2F. -/
def execTrigRegisterWrite (r off : Nat) (v : Word) (s : State) : Out :=
  .next (if 0x10 ≤ off ∧ off < 0x30 then acqWrite s r off v else s)

/-- ACQ_CTL_ARM (R212, R215 step 1): a write of ACQ_CTL with arm = 1. -/
def execAcqCtlArm (r : Nat) (v : Word) (s : State) : Out := .next (acqWrite s r 0x00 (v ||| 1))

/-- ACQ_CTL_STOP (R215): a write of ACQ_CTL with stop = 1. -/
def execAcqCtlStop (r : Nat) (s : State) : Out := .next (acqWrite s r 0x00 4)

/-- ACQ_START_EDGE (R215 step 2): edge A0. -/
def execAcqStartEdge (r : Nat) (s : State) : Out := .next (acqStart s r)

/-- POST_TIME_EXPIRY (R215 step 6): the cycle's samples are taken up to that on which POST_TIME runs out. -/
def execPostTimeExpiry (r : Nat) (s : State) : Out :=
  match (s.acq r).run.postEnd, (s.acq r).run.trig with
  | some e, some t =>
    if (s.acq r).regs.st = .post ∧ e ≤ (s.region r).edge then
      let x := t.1 + 8 * (s.acq r).run.lat.2.2.2
      .next (postOver (runTo s r x) r x)
    else .next s
  | _, _ => .next s

/-- REARM_END (R215 step 7): the next strand opens in WAIT. -/
def execRearmEnd (r : Nat) (s : State) : Out := .next (acqReopen s r)

/-- GAP_CLOSE (R219): the FIFO has room for 72 beads; the cycle's samples are taken up to the one on which the gap closes. -/
def execGapClose (r slot : Nat) (s : State) : Out :=
  let sample := 8 * (s.region r).edge + slot % 8
  if (s.acq r).storing = true ∧ (s.acq r).run.gap.isSome = true ∧ (s.acq r).run.next ≤ sample ∧ (s.acq r).room72 = true then
    .next (runTo s r (sample + 1))
  else .next s

/-! ### Read-out (R223, R224, R358) -/

/-- An uncorrectable word of the event memory, in the bank that holds the bead of its position (R217, R435). -/
def beadWord (s : State) (r : Nat) (b : Nat × Nat) : Bool :=
  decide (b.1 < 8) && decide (b.2 / 262144 = r) && decide (tabGet 0 (s.acq r).mem.banks (b.2 % 262144) = b.1)

/-- An event-memory position holds an uncorrectable word. -/
def beadBad (s : State) (r pos : Nat) : Bool := s.flt.badWords.any (fun b => beadWord s r b && decide (b.2 % 262144 = pos))

/-- The bead that replaces an uncorrectable one (R220 cause 1). -/
abbrev eccBead : BitVec 36 := beadOf 3 0 (wd (2 ^ 16 + 1))

/-- Beads from position p of a strand on, n of them: FILL behind the last written one, a GAP bead of cause 1 at an
uncorrectable position (R220, R223). -/
def readBeads (s : State) (r base written p n : Nat) : List (BitVec 36) :=
  (List.range n).map (fun k =>
    if written ≤ p + k then beadOf 7 0 0
    else if beadBad s r (base + p + k) then eccBead
    else tabGet 0 (s.acq r).mem.beads (base + p + k))

/-- The uncorrectable positions of a range are met: ACQ_EVENTS.ECC and the fault log (R25, R220). -/
def meetBeads (s : State) (r base written p n : Nat) : State :=
  forAll (s.flt.badWords.filter (fun b => beadWord s r b && decide (base + p ≤ b.2 % 262144)
      && decide (b.2 % 262144 < base + min (p + n) written)))
    (fun s b => (meetUncorr s b.1 b.2 r).postAcq r 5) s

/-- Two words of a bead, high word first. -/
def beadWords (b : BitVec 36) : List Word := [b.extractLsb' 18 18, b.extractLsb' 0 18]

/-- The header of a completed strand. -/
def strandHeader (s : State) (r strand : Nat) : List Word := padTo 18 (tabGet [] (s.acq r).mem.headers strand)

/-- The header of a strand is uncorrectable (R212, R435). -/
def headerBad (s : State) (r strand : Nat) : Bool := s.flt.badWords.contains (8, r * 4096 + strand)

/-- The header words as read out: GAP beads of cause 1 stand for an uncorrectable header (R220, R435; log 68). -/
def readHeader (s : State) (r strand : Nat) : List Word :=
  if headerBad s r strand then (List.replicate 9 eccBead).flatMap beadWords else strandHeader s r strand

/-- An uncorrectable header is met: ACQ_EVENTS.ECC and the fault log (R25, R435). -/
def meetHeader (s : State) (r strand : Nat) : State :=
  if headerBad s r strand then (meetUncorr s 8 (r * 4096 + strand) r).postAcq r 5 else s

/-- The first words of a path from UP: this device's own path (R344). -/
def ownPath (s : State) : Nat := s.tree.path

/-- Event k of a Plawen port occurs. -/
def State.postPort (s : State) (i k : Nat) : State := s.updPort i (fun p => { p with events := p.events.postBit k })

/-- The packet in turn: those of other devices first in the order they came, else the first strand of the lowest
region; a packet under way goes on (R358). -/
def streamTurn (s : State) (r : Nat) : Bool :=
  [0, 1, 2, 3].all (fun q => decide (q = r) || decide ((s.acq q).mem.sent = 0))

/-- STREAM_PACKET_SEND (R224, R358, R359): one credit's 64 blocks of the strand in turn go out on the UP port; the
last of them completes the packet. Without a credit the packet waits and CREDIT_STALL is posted. -/
def execStreamPacketSend (r : Nat) (s : State) : Out :=
  let m := (s.acq r).mem
  if (s.port 0).st ≠ .run ∨ streamTurn s r = false ∨ (m.lostQ = [] ∧ (m.sendQ = [] ∨ m.stream = false)) then .next s
  else if (s.port 0).credits = 0 then .next (s.postPort 0 5)
  else
    let s1 := s.updPort 0 (fun p => { p with credits := p.credits - 1 })
    match m.lostQ, m.sendQ with
    | l :: ls, _ =>
      .next (sendBlock (s1.updAcq r (fun a => { a with mem.lostQ := ls })) 0 (.stream (ownPath s) r l true []))
    | [], [] => .next s
    | [], k :: ks =>
      let h := strandHeader s r k
      let w := (h.getD 6 0).toNat
      let base := k * (s.acq r).run.lat.1
      let words := 18 + 2 * w
      if 2 + 9 * ((words + 31) / 32) ≤ m.sent + 64 then
        let s2 := meetBeads (meetHeader (s1.updAcq r (fun a => { a with mem.sendQ := ks, mem.sent := 0 })) r k) r base w 0 w
        .next (sendBlock s2 0 (.stream (ownPath s) r k false (readHeader s r k ++ (readBeads s r base w 0 w).flatMap beadWords)))
      else .next (s1.updAcq r (fun a => { a with mem.sent := a.mem.sent + 64 }))

/-! ### Commands (R261) -/

/-- The inputs an EVIN_CONFIG names, lowest first. -/
def evinNamed (c : Cmd) : List Nat :=
  if tgtScope c.target = 3 then [c.unit]
  else ((List.range 16).filter (fun k => bitOf (c.arg 3) k)).map (fun k => 16 * c.unit + k)

/-- EVIN_CONFIG (R201, R202, R261): atomic over the inputs named. -/
def execEvinConfig (tag : Nat) (s : State) : Out :=
  .next (hitan s tag 0x050 (fun s c =>
    let ins := evinNamed c
    if ins = [] ∨ (c.arg 0 &&& 0x3FF02) ≠ 0 ∨ (c.arg 1 &&& 0x3FC00) ≠ 0 ∨ (c.arg 2 &&& 0x3FC00) ≠ 0
       ∨ (c.arg 1).toNat < (c.arg 2).toNat then complete s tag BADARG []
    else
      let s1 := forAll ins (fun s i => writeEvinCtl (s.updEvin i (fun e => { e with
        thrHi := (c.arg 1).extractLsb' 0 10, thrLo := (c.arg 2).extractLsb' 0 10 })) i (c.arg 0)) s
      complete s1 tag OK [evinStatus (s1.evin (ins.headD 0))]))

/-- TRIG_CONFIG (R211, R222, R261). -/
def execTrigConfig (tag : Nat) (s : State) : Out :=
  .next (hitan s tag 0x051 (fun s c =>
    let n := fld (c.arg 0) 0 3
    if trigOk (c.arg 1) (c.arg 2) (c.arg 3) = false then complete s tag BADARG []
    else
      let t : Trig := { (s.acq c.unit).trig n with
        ctl := c.arg 1 &&& 0x3FF3F, t1 := c.arg 2, t2 := c.arg 3, fromEdge := some ((s.region c.unit).edge + 1) }
      complete ((setTrig s c.unit n t).updAcq c.unit
        (fun a => { a with regs.cfgErr := false })) tag OK []))

/-- ACQ_ARM (R212, R215, R261): completes on A0. -/
def execAcqArm (tag : Nat) (s : State) : Out :=
  .next (hitan s tag 0x052 (fun s c =>
    let l := (c.arg 0).toNat
    let p := (c.arg 1).toNat
    let n := (c.arg 2).toNat
    if armOk l p n = false then complete s tag BADARG []
    else if (s.acq c.unit).armed then complete s tag PRECOND []
    else
      let post := (c.arg 3 ++ c.arg 4).toNat
      let s1 := s.updAcq c.unit (fun a => { a with
        regs.l := (c.arg 0).extractLsb' 0 17, regs.p := (c.arg 1).extractLsb' 0 17, regs.c := (c.arg 2).extractLsb' 0 13,
        regs.postLo := c.arg 4, regs.post := post })
      acqArm s1 c.unit l p n post (bitOf (c.arg 5) 0) (some tag)))

/-- ACQ_STOP (R215, R261). -/
def execAcqStop (tag : Nat) (s : State) : Out :=
  .next (hitan s tag 0x053 (fun s c =>
    let s1 := acqStop s c.unit
    complete s1 tag OK [wd (s1.acq c.unit).regs.done]))

/-- ACQ_READ (R220, R222, R223, R261); `soft` is a single-bit error met in the first bead read (R435). -/
def execAcqRead (tag : Nat) (soft : Bool) (s : State) : Out :=
  .next (hitan s tag 0x054 (fun s c =>
    let r := c.unit
    let a := s.acq r
    let k := fld (c.arg 0) 0 12
    let p := (c.arg 1).toNat
    let n := (c.arg 2).toNat
    if a.storing = true ∧ k = a.regs.done then complete s tag PRECOND []
    else if a.regs.done ≤ k ∨ n = 0 ∨ 65536 < n ∨ a.run.lat.1 < p + n then complete s tag BADARG []
    else
      let h := strandHeader s r k
      let w := (h.getD 6 0).toNat
      let base := k * a.run.lat.1
      let s0 := if soft then corrected s r (tabGet 0 a.mem.banks (base + p)) (base + p) else s
      let s1 := meetBeads (meetHeader s0 r k) r base w p n
      let data := readHeader s r k ++ (readBeads s r base w p n).flatMap beadWords
      completeWith s1 tag OK data [wd data.length, h.getD 6 0]))

/-- ACQ_STREAM (R224, R261). -/
def execAcqStream (tag : Nat) (s : State) : Out :=
  .next (hitan s tag 0x055 (fun s c =>
    let on := bitOf (c.arg 0) 0
    if on = true ∧ (portPresent s 0 = false ∨ (s.port 0).st ≠ .run) then complete s tag PRECOND []
    else complete (s.updAcq c.unit (fun a => { a with mem.stream := on })) tag OK [wd (b2n on)]))

end Sys2Proof.Machine
end

