-- ==== Sys2Proof/Machine/Block.lean ====
section
/-! DEFINITION. The block arbiter and the rows of seating and return (R21, R112 to R117, R163, R164). `b` is a block
index 0..15. -/
namespace Sys2Proof.Machine
open Sys2Proof

/-! ### Resources (R21, R377) -/

/-- An OFFLINE period covers the block. -/
def blockOffline (s : State) (B : Nat) : Bool := (s.block B).offline || (s.mem (B / 4)).offline

/-- The spare is free: no holder, not seated, no seating or return under way. -/
def spareFree (s : State) (B : Nat) : Bool :=
  let b := s.block B
  decide (b.holder = none) && decide (b.seated = none) && decide (b.seating = none) && decide (b.recover = none) && ! blockOffline s B

/-- A TIU that nobody holds and that does not measure. -/
def tiuFree (s : State) (t : Nat) : Bool := ! tiuHeld s t && ! (s.tiu t).busy

/-- Both calibration TIUs are free. -/
def calTiusFree (s : State) (B : Nat) : Bool := (calTius s B).all (fun t => tiuFree s (4 * B + t))

/-- The seated spare serves a channel by fault recovery or by a repair map, or is on its way to (R376, R405). -/
def spareServes (s : State) (B : Nat) : Bool :=
  let b := s.block B
  (b.seated.isSome && decide (b.why ≠ .maintenance))
  || b.seating.any (fun q => ! q.ret && (decide (q.req = .fault) || decide (q.req = .map)))

/-- The cell is not in service, because the spare serves its channel or the channel is lost (R400 step 2X). -/
def outOfService (s : State) (n : Nat) : Bool := chanLost s n || decide (inService s n ≠ n)

/-- An ONLINE test of cell n cannot have the spare: it serves another channel or is faulty (R400 step 1). -/
def onlineBarred (s : State) (n : Nat) : Bool :=
  ! outOfService s n && (spareServes s (cellBlock n) || (s.block (cellBlock n)).spareFaulty)

/-- Every holder in the block has released, and no host measurement runs in it (R402 step 1, R405). -/
def blockIdle (s : State) (B : Nat) : Bool :=
  let b := s.block B
  (decide (b.holder = none) || decide (b.holder = some .fault) || decide (b.holder = some .map))
  && decide (b.seating = none) && decide (b.recover = none) && decide (b.tiuHeld = []) && ! blockOffline s B
  && [0, 1, 2, 3].all (fun t => ! (s.tiu (4 * B + t)).busy)

/-- A waiting request whose resources are free, or that has to end without them. -/
def grantable (s : State) (B : Nat) (w : Requester × Nat) : Bool :=
  match w.1 with
  | .cal =>
    match calAsk s B w.2 with
    | none => true
    | some u =>
      if u.kind = 0 then tiuFree s u.unit
      else if u.kind = 1 then calTiusFree s B
      else spareServes s B || (decide (u.kind = 2) && (s.block B).spareFaulty) || (spareFree s B && calTiusFree s B)
  | .online =>
    match bistRunOf s w.2 with
    | none => true
    | some r =>
      match r.periods with
      | .online n :: _ => onlineBarred s n || outOfService s n || spareFree s B
      | _ => true
  | .offline => blockIdle s B
  | .host => false
  | _ => true

/-! ### Grants -/

/-- A calibration unit's grant (R377, R378, R381). -/
def grantCal (s : State) (B tag : Nat) : State :=
  match s.cal.runs.find? (fun r => r.tag == tag) with
  | none => s
  | some r =>
    if r.granted.contains B then s
    else
      match calUnitOf r B with
      | none => s
      | some u =>
        let s1 : State := { s with cal.runs := s.cal.runs.map (fun x => if x.tag = tag then { x with granted := x.granted ++ [B] } else x) }
        if u.kind = 0 then s1.updBlock B (fun b => { b with tiuHeld := [u.unit % 4] })
        else if u.kind = 1 then
          (s1.updEvin u.unit (fun e => { e with calSrc := true })).updBlock B (fun b => { b with tiuHeld := calTius s B })
        else if spareServes s B then calUnitEnd s1 B (some INCOMPLETE)
        else if u.kind = 2 ∧ (s.block B).spareFaulty = true then calUnitEnd s1 B (some FAULT)
        else if u.kind = 2 then
          seat (s1.updBlock B (fun b => { b with holder := some .cal, holdCell := some (u.unit % 16), tiuHeld := calTius s B }))
            B (u.unit % 16) .cal false none (s.region (B / 4)).edge
        else s1.updBlock B (fun b => { b with holder := some .cal, tiuHeld := calTius s B })

/-- Replaces a run. -/
def setRun (s : State) (tag : Nat) (f : BistRun → BistRun) : State :=
  { s with bist.runs := s.bist.runs.map (fun r => if r.tag = tag then f r else r) }

/-- An ONLINE test's grant (R400 steps 2 and 2X). -/
def grantOnline (s : State) (B tag : Nat) : State :=
  match bistRunOf s tag with
  | none => s
  | some r =>
    match r.periods with
    | .online n :: _ =>
      let first := (testsOf r.tests).headD 7
      let show_ := fun (s : State) => s.updBlock B (fun b => { b with bistState := 2, bistTest := first, bistPass := 0, bistFail := 0 })
      if onlineBarred s n then bistEnd s r PRECOND
      else if outOfService s n then show_ (setRun s tag (fun r => { r with stage := .testing, seated := false }))
      else
        seat ((show_ (setRun s tag (fun r => { r with stage := .testing, seated := true }))).updBlock B (fun b => { b with
          holder := some .online, holdCell := some (n % 16) })) B (n % 16) .online false none (s.region (B / 4)).edge
    | _ => s

/-- An OFFLINE period's grant in one block: every cell and TIU (R402 step 1). -/
def grantOffline (s : State) (B : Nat) : State :=
  s.updBlock B (fun b => { b with
    tiuHeld := [0, 1, 2, 3].filter (fun t => tiuPresent s (4 * B + t)),
    holder := if b.seated.isSome then b.holder else some .offline, bistState := 1 })

/-- ARBITER_GRANT (R21): the first waiting request whose resources are free and that no earlier request waits for. Fault
recovery is granted where its fault is handled, a host measurement where its command is taken up again. -/
def execArbiterGrant (b : Nat) (s : State) : Out :=
  match (s.block b).waiting.find? (fun w => grantable s b w && ! overtakes s b w) with
  | none => .next s
  | some w =>
    let s1 := s.updBlock b (fun x => { x with waiting := x.waiting.erase w })
    match w.1 with
    | .cal => .next (grantCal s1 b w.2)
    | .online => .next (grantOnline s1 b w.2)
    | .offline => .next (grantOffline s1 b)
    | _ => .next s1

/-! ### Changeover and switch -/

/-- A cell whose detector need not count for a changeover: its channel is disabled or in HOLD (R151, R155). -/
def noCount (c : CellSt) : Bool := ! c.cfg.ctl.en || c.inHold

/-- The conditions of R114 step 4, or of R115, for the changeover of a seating; a return out of a faulty spare waits for
the channel's own cell only (R26). -/
def seatReady (s : State) (B : Nat) (q : Seating) : Bool :=
  let inc := s.cell (if q.ret then chanOf B q.c else spareOf B)
  let out := s.cell (if q.ret then spareOf B else chanOf B q.c)
  let quiet := ! (s.region (B / 4)).relockPending && ! inc.loop.refRelock
  if (q.req = .fault ∧ q.ret = false) ∨ (q.ret = true ∧ (s.block B).spareFaulty = true) then (inc.loop.locked || noCount inc)
  else quiet && ! out.loop.refRelock && (inc.loop.locked || noCount inc) && (out.loop.locked || noCount out)

/-- The changeover edge C: the first on which the conditions hold (R112, R114 step 4, R115, R116, R371). The engine moves,
the incoming cell counts lock by the channel's own count again, and a seating for fault recovery is recorded. A return
releases a loss-mute (R159). -/
def changeover (s : State) (b : Nat) : State :=
  match (s.block b).seating with
  | none => s
  | some q =>
    if q.step = .acquiring ∧ seatReady s b q = true then
      let x := chanOf b q.c
      let src := if q.ret then spareOf b else x
      let dst := if q.ret then x else spareOf b
      let now := (s.region (b / 4)).edge
      let s1 := moveEngine s src dst
      let s2 := (hopBoundary s1 dst).updCell dst (fun c => { c with
        loop.fast := false,
        loop.lossMute := if q.ret then false else c.loop.lossMute,
        loop.lossMuteC := if q.ret then false else c.loop.lossMuteC })
      let s3 := s2.updBlock b (fun y => { y with seating := some { q with step := .changed, cAt := now } })
      if q.req = .fault ∧ q.ret = false then
        faultBlock s3 b 0x10 4 0 (wd (q.c * 2 ^ 8 + min 255 ((now - q.from_) / 800))) 1
      else s3
    else s

/-- CHANGEOVER_EDGE. -/
def execChangeoverEdge (b : Nat) (s : State) : Out := .next (changeover s b)

/-- A measurement whose loopback source is the channel's output meets its changeover (R197); a FREQ measurement has no
stop source (R191). -/
def markTius (s : State) (B c : Nat) : State :=
  let uses := fun (w : Word) => decide (fld w 8 3 = 0) && decide (fld w 0 8 = c)
  forAll ([0, 1, 2, 3].map (fun t => 4 * B + t)) (fun s t =>
    let x := s.tiu t
    if x.busy && (uses x.run.start || (decide (x.run.mode ≠ 2) && uses x.run.stop)) then s.updTiu t (fun x => { x with seat := true }) else s) s

/-- How a spare seated for a requester serves its channel (R406). -/
def whyOf (r : Requester) : SeatWhy := if r = .fault then .fault else if r = .map then .softMap else .maintenance

/-- Start of the first low phase of a cell's output at or after anchor count a (R114 step 5). -/
def CellSt.lowFrom (c : CellSt) (a : Rat) : Rat :=
  if c.out.heldLow then c.nextFall a
  else
    ((((phaseAt c.running.1 c.running.2.1 c.running.2.2 a - 1 / 2).ceil : Int) : Rat) + 1 / 2 + c.running.2.1 + c.running.2.2)
      / c.running.1

/-- The instant of the output switch (R114 step 5, R115): the middle of the first common low phase of the two outputs that
begins at or after C, of the incoming output's for fault recovery or where the other does not run; C itself for an
output that is disabled or muted. In HOLD the low phases are those of the frozen values (log 56). -/
def switchAt (s : State) (b : Nat) (q : Seating) : Rat :=
  let src := s.cell (if q.ret then spareOf b else chanOf b q.c)
  let dst := s.cell (if q.ret then chanOf b q.c else spareOf b)
  let at_ := nowA s (spareOf b) - (((s.region (b / 4)).edge - q.cAt : Nat) : Rat)
  let alone := (decide (q.req = .fault) && ! q.ret) || ! src.cfg.ctl.en
  if dst.cfg.ctl.en = false ∨ (src.out.drv ≠ .toggling ∧ alone = false) then at_
  else max (dst.lowFrom at_) (if alone then at_ else src.lowFrom at_) + dst.period / 4

/-- The switch, when its instant has come (R113, R114 step 5, R116, R163, R164): the incoming cell drives TOUT. A return
releases the spare, or seats it at once in the failed channel that forced the return; behind the switch of a seating
that such a channel waits for, the return starts (R22). -/
def selectorSwitch (s : State) (b : Nat) : State :=
  match (s.block b).seating with
  | none => s
  | some q =>
    if q.step = .changed ∧ seatReady s b q = true ∧ switchAt s b q ≤ nowA s (spareOf b) then
      let x := chanOf b q.c
      let src := if q.ret then spareOf b else x
      let dst := if q.ret then x else spareOf b
      let s1 := (markTius s b q.c).updBlock b (fun y => { y with
        seating := none, seated := if q.ret then none else some q.c, why := if q.ret then .maintenance else whyOf q.req })
      let s2 := (s1.updCell dst (fun c => { c with out.drv := driverFor (cellWant s1 dst), own := [] }.applyLvds)).updCell src
        (fun c => { c with out.drv := .disabled, own := [] })
      let s3 := if (s2.cell dst).loop.locked = true then endLockTags s2 dst OK else s2
      let more := fun (s : State) (m e : Nat) =>
        if q.ret then
          seat ((releaseSpare s b).updBlock b (fun y => { y with recover := none, holder := some .fault })) b m .fault false none e
        else seat s b q.c .fault true (some m) e
      match (s.block b).recover with
      | some (m, e) => more s3 m e
      | none => if q.ret then maintDone (releaseSpare s3 b) b else if q.req = .map then maintDone s3 b else s3
    else s

/-- SELECTOR_SWITCH. -/
def execSelectorSwitch (b : Nat) (s : State) : Out := .next (selectorSwitch s b)

/-- A hop or commit that unsettles the channel between C and the switch: the common low phase is looked for after both
cells are LOCKED again (R113). -/
def switchWait (s : State) (b : Nat) : State :=
  match (s.block b).seating with
  | none => s
  | some q =>
    if q.step = .changed ∧ seatReady s b q = false then
      s.updBlock b (fun y => { y with seating := some { q with cAt := (s.region (b / 4)).edge + 1 } })
    else s

/-- The bound of R117: the incoming cell has not locked within the stale-hint bound of R97 and its lock count. -/
def seatExpired (s : State) (b : Nat) : State :=
  match (s.block b).seating with
  | none => s
  | some q =>
    let inc := s.cell (if q.ret then chanOf b q.c else spareOf b)
    if q.step = .acquiring ∧ inc.loop.locked = false ∧ inc.loop.acq ≠ .loss ∧ noCount inc = false
       ∧ inc.acqLimit ≤ (s.region (b / 4)).edge then seatTimeout s b else s

/-- SEATING_TIMEOUT (R117). -/
def execSeatingTimeout (b : Nat) (s : State) : Out := .next (seatExpired s b)

end Sys2Proof.Machine
end

