-- ==== Sys2Proof/Machine/Crypto.lean ====
section
/-! DEFINITION. The standard algorithms the device names: CRC-32 of IEEE 802.3 (R328), CRC-16 (R274), SHA-256,
HMAC and ECDSA P-256 with the k of RFC 6979 (R414, R420, R421). The spec names the three last by their
standards; their texts are those standards' (PRESUMED, log entry 9). -/
namespace Sys2Proof.Machine
open Sys2Proof

/-! ### Bytes -/

/-- The number that bytes give, most significant first. -/
def beNat (bs : List Byte) : Nat := bs.foldl (fun a b => 256 * a + b.toNat) 0

/-- The n low bytes of a number, most significant first. -/
def beBytes : Nat → Nat → List Byte
  | 0, _ => []
  | n + 1, v => beBytes n (v / 256) ++ [BitVec.ofNat 8 v]

/-- Bytes packed two to a word, the first byte high (R248). -/
def packBytes : List Byte → List Word
  | [] => []
  | [a] => [wd (256 * a.toNat)]
  | a :: b :: r => wd (256 * a.toNat + b.toNat) :: packBytes r

/-- The bytes of words packed by R248. -/
def unpackWords (ws : List Word) : List Byte := ws.flatMap (fun w => [BitVec.ofNat 8 (fld w 8 8), BitVec.ofNat 8 (fld w 0 8)])

/-! ### Checks -/

/-- One bit of CRC-16, polynomial 0x1021 (R274). -/
def crc16Bit (c : BitVec 16) (b : Bool) : BitVec 16 := if c.getLsbD 15 == b then c <<< 1 else (c <<< 1) ^^^ 0x1021

/-- CRC-16 of a bit string, initial value 0xFFFF (R274). -/
def crc16 (bits : List Bool) : BitVec 16 := bits.foldl crc16Bit 0xFFFF

/-- Eight bits of CRC-32, reflected. -/
def crc32Bits : Nat → BitVec 32 → BitVec 32
  | 0, c => c
  | n + 1, c => crc32Bits n (if c.getLsbD 0 then (c >>> 1) ^^^ 0xEDB88320 else c >>> 1)

/-- CRC-32 of IEEE 802.3. -/
def crc32 (bs : List Byte) : Nat :=
  (~~~(bs.foldl (fun c b => crc32Bits 8 (c ^^^ (b.zeroExtend 32))) (0xFFFFFFFF : BitVec 32))).toNat

/-! ### SHA-256 -/

abbrev W32 := BitVec 32

/-- The first 64 primes. -/
def firstPrimes : List Nat :=
  [2, 3, 5, 7, 11, 13, 17, 19, 23, 29, 31, 37, 41, 43, 47, 53, 59, 61, 67, 71, 73, 79, 83, 89, 97, 101, 103, 107, 109, 113, 127, 131] ++
  [137, 139, 149, 151, 157, 163, 167, 173, 179, 181, 191, 193, 197, 199, 211, 223, 227, 229, 233, 239, 241, 251, 257, 263, 269, 271, 277, 281, 283, 293, 307, 311]

/-- A root found bit by bit: of the numbers from x on and below x + 2^n, the largest whose power k does not exceed v. -/
def rootBits (k v : Nat) : Nat → Nat → Nat
  | 0, x => x
  | n + 1, x => rootBits k v n (if (x + 2 ^ n) ^ k ≤ v then x + 2 ^ n else x)

/-- The first 32 bits of the fraction of the root k of p. -/
def rootFrac (k p : Nat) : W32 := BitVec.ofNat 32 (rootBits k (p * 2 ^ (32 * k)) 37 0)

/-- The constants of the rounds: of the cube roots of the first 64 primes. -/
def shaK : List W32 := firstPrimes.map (rootFrac 3)

/-- The hash of no block: of the square roots of the first eight primes. -/
def shaInit : List W32 := (firstPrimes.take 8).map (rootFrac 2)

/-- The exclusive or of rotations of a word. -/
def rotXor (w : W32) (by_ : List Nat) : W32 := by_.foldl (fun acc k => acc ^^^ w.rotateRight k) 0

/-- The word of the schedule that follows the last sixteen, which stand newest first. -/
def schedNext (w : List W32) : W32 :=
  let at_ := fun (back : Nat) => w.getD (back - 1) 0
  at_ 16 + at_ 7 + (rotXor (at_ 15) [7, 18] ^^^ (at_ 15 >>> 3)) + (rotXor (at_ 2) [17, 19] ^^^ (at_ 2 >>> 10))

/-- The schedule with n words more, newest first. -/
def shaSched : Nat → List W32 → List W32
  | 0, w => w
  | n + 1, w => shaSched n (schedNext w :: w)

/-- One round. The eight working words are the last four of two sequences, newest first; each round adds a word to both. -/
def shaRound (x : List W32 × List W32) (kw : W32) : List W32 × List W32 :=
  let p := fun k => x.1.getD k 0
  let q := fun k => x.2.getD k 0
  let pick := (q 0 &&& q 1) ||| (~~~(q 0) &&& q 2)
  let most := (p 0 &&& (p 1 ||| p 2)) ||| (p 1 &&& p 2)
  let t := kw + pick + rotXor (q 0) [6, 11, 25] + q 3
  ((t + most + rotXor (p 0) [2, 13, 22]) :: x.1.take 3, (p 3 + t) :: x.2.take 3)

/-- The sixteen words of a 64-byte block. -/
def shaWords (bs : List Byte) : List W32 := (List.range 16).map (fun i => BitVec.ofNat 32 (beNat ((bs.drop (4 * i)).take 4)))

/-- The hash after one more block. -/
def shaBlock (h : List W32) (bs : List Byte) : List W32 :=
  let kw := List.zipWith (· + ·) shaK (shaSched 48 (shaWords bs).reverse).reverse
  let x := kw.foldl shaRound (h.take 4, h.drop 4)
  List.zipWith (· + ·) h (x.1 ++ x.2)

/-- All blocks; n is how many there are. -/
def shaBlocks : Nat → List W32 → List Byte → List W32
  | 0, h, _ => h
  | n + 1, h, bs => shaBlocks n (shaBlock h (bs.take 64)) (bs.drop 64)

/-- SHA-256 as 32 bytes. -/
def sha256 (m : List Byte) : List Byte :=
  let p := m ++ [0x80] ++ List.replicate ((119 - m.length % 64) % 64) 0 ++ beBytes 8 (8 * m.length)
  (shaBlocks (p.length / 64) shaInit p).flatMap (fun w => beBytes 4 w.toNat)

/-- HMAC with SHA-256, for keys of at most 64 bytes. -/
def hmac (key m : List Byte) : List Byte :=
  let k := key ++ List.replicate (64 - key.length) 0
  sha256 (k.map (· ^^^ 0x5C) ++ sha256 (k.map (· ^^^ 0x36) ++ m))

/-! ### P-256 -/

def ecP : Nat := 0xFFFFFFFF00000001000000000000000000000000FFFFFFFFFFFFFFFFFFFFFFFF
def ecN : Nat := 0xFFFFFFFF00000000FFFFFFFFFFFFFFFFBCE6FAADA7179E84F3B9CAC2FC632551
def ecB : Nat := 0x5AC635D8AA3A93E7B3EBBD55769886BC651D06B0CC53B0F63BCE3C3E27D2604B
def ecGx : Nat := 0x6B17D1F2E12C4247F8BCE6E563A440F277037D812DEB33A0F4A13945D898C296
def ecGy : Nat := 0x4FE342E2FE1A7F9B8EE7EB4A7C0F9E162BCE33576B315ECECBB6406837BF51F5

/-- x to the power e modulo m, over n bits of e. -/
def powMod (m : Nat) : Nat → Nat → Nat → Nat
  | 0, _, _ => 1 % m
  | n + 1, x, e => (if e % 2 = 1 then x else 1) * powMod m n (x * x % m) (e / 2) % m

/-- The inverse modulo a prime. -/
def invMod (m x : Nat) : Nat := powMod m 256 (x % m) (m - 2)

/-- A point of the curve; none is the point at infinity. -/
abbrev Pt := Option (Nat × Nat)

/-- The sum of two points. -/
def ptAdd (a b : Pt) : Pt :=
  match a, b with
  | none, q => q
  | p, none => p
  | some (x1, y1), some (x2, y2) =>
    if x1 = x2 ∧ (y1 + y2) % ecP = 0 then none
    else
      let l := if x1 = x2 then (3 * x1 * x1 + ecP - 3) * invMod ecP (2 * y1) % ecP
        else (y2 + ecP - y1) * invMod ecP (x2 + ecP - x1) % ecP
      let x3 := (l * l + 2 * ecP - x1 - x2) % ecP
      some (x3, (l * (x1 + ecP - x3) + ecP - y1) % ecP)

/-- k times a point, over n bits of k. -/
def ptMul : Nat → Nat → Pt → Pt
  | 0, _, _ => none
  | n + 1, k, p => ptAdd (if k % 2 = 1 then p else none) (ptMul n (k / 2) (ptAdd p p))

/-- x and y of a 64-byte key. -/
def keyPt (k : BitVec 512) : Nat × Nat := (k.toNat / 2 ^ 256, k.toNat % 2 ^ 256)

/-- The key is a point on P-256. -/
def onCurve (k : BitVec 512) : Bool :=
  let (x, y) := keyPt k
  decide (x < ecP) && decide (y < ecP) && decide (y * y % ecP = (x * x * x + (ecP - 3) * x + ecB) % ecP)

/-- ECDSA verification of r, s (64 bytes) over the SHA-256 of a message. -/
def ecdsaVerify (key : BitVec 512) (m sig : List Byte) : Bool :=
  let r := beNat (sig.take 32)
  let s := beNat ((sig.drop 32).take 32)
  let w := invMod ecN s
  let q := ptAdd (ptMul 256 (beNat (sha256 m) * w % ecN) (some (ecGx, ecGy))) (ptMul 256 (r * w % ecN) (some (keyPt key)))
  onCurve key && decide (0 < r) && decide (r < ecN) && decide (0 < s) && decide (s < ecN)
  && (match q with
      | none => false
      | some (x, _) => decide (x % ecN = r))

/-- The candidates for k of RFC 6979, with fuel for the rejected ones. -/
def detK : Nat → List Byte → List Byte → Nat
  | 0, _, _ => 1
  | n + 1, k, v =>
    let v1 := hmac k v
    if 0 < beNat v1 ∧ beNat v1 < ecN then beNat v1
    else
      let k1 := hmac k (v1 ++ [0])
      detK n k1 (hmac k1 v1)

/-- ECDSA signature r, s (64 bytes) over the SHA-256 of a message, with k as RFC 6979 (R414). -/
def ecdsaSign (priv : BitVec 256) (m : List Byte) : List Byte :=
  let z := beNat (sha256 m)
  let seed := beBytes 32 priv.toNat ++ beBytes 32 (z % ecN)
  let v0 := List.replicate 32 (0x01 : Byte)
  let k1 := hmac (List.replicate 32 0) (v0 ++ [0] ++ seed)
  let v1 := hmac k1 v0
  let k2 := hmac k1 (v1 ++ [1] ++ seed)
  let k := detK 8 k2 (hmac k2 v1)
  let r := match ptMul 256 k (some (ecGx, ecGy)) with
    | none => 0
    | some (x, _) => x % ecN
  beBytes 32 r ++ beBytes 32 (invMod ecN k * (z + r * priv.toNat) % ecN)

end Sys2Proof.Machine
end

