-- ==== Sys2Proof/Machine/Security.lean ====
section
/-! DEFINITION. Identity, sessions, the operator PIN, the protection table, the life cycle and its wipe
(chapter 18; R252, R264, R266). -/
namespace Sys2Proof.Machine
open Sys2Proof

/-! ### Shared -/

/-- LIFECYCLE (R416). -/
def lifecycleWord (s : State) : Word :=
  wd (b2n s.lk.wipe * 2 ^ 5 + b2n s.lk.pin.isSome * 2 ^ 4 + b2n s.lk.owner.isSome * 2 ^ 3 + s.lk.lc)

/-- SERIAL3 to SERIAL0, high word first. -/
def serialWords (l : Locket) : List Word :=
  [l.serial.extractLsb' 54 18, l.serial.extractLsb' 36 18, l.serial.extractLsb' 18 18, l.serial.extractLsb' 0 18]

/-- A security command: with a failed LOCKET check it completes with FAULT (R415). -/
def secure (s : State) (tag op : Nat) (body : State → Cmd → State) : State :=
  hitan s tag op (fun s c => if s.flt.locketBad then complete s tag FAULT [] else body s c)

/-- Completion of a stream: res0 is its length in words (R247). -/
def streamOut (s : State) (tag status : Nat) (data rest : List Word) : State :=
  completeWith s tag status data (wd data.length :: rest)

/-- The session in force for a command's origin takes a level (R419, R266). -/
def setSession (s : State) (tun : Bool) (level : Nat) : State :=
  if tun then { s with sec.tunnel := level } else { s with sec.host := level }

/-- 128 bits of the random generator. -/
def rand128 (s : State) : BitVec 128 := Config.random64 s.free ++ Config.random64 (s.free + 1)

/-- 256 bits of the random generator. -/
def rand256 (s : State) : BitVec 256 :=
  Config.random64 s.free ++ Config.random64 (s.free + 1) ++ Config.random64 (s.free + 2) ++ Config.random64 (s.free + 3)

/-- SHA-256 over the serial, the four BCD bytes of the PIN and the salt (R420). -/
def pinHash (l : Locket) (hi lo : Word) (salt : BitVec 128) : BitVec 256 :=
  BitVec.ofNat 256 (beNat (sha256 (beBytes 9 l.serial.toNat ++ unpackWords [hi, lo] ++ beBytes 16 salt.toNat)))

/-- Four BCD digits. -/
def bcdOk (w : Word) : Bool := (List.range 4).all (fun k => decide (fld w (4 * k) 4 ≤ 9))

/-- The challenge and the staged signature are dropped. -/
def dropChallenge (s : State) : State := { s with sec.chal := none, sec.sig := [] }

/-- The 46-byte message that a session request signs (R421). -/
def sessionMsg (l : Locket) (level : Nat) (chal : BitVec 256) : List Byte :=
  [0x4D, 0x51, 0x53, 0x4F, BitVec.ofNat 8 level] ++ beBytes 9 l.serial.toNat ++ beBytes 32 chal.toNat

/-- A session of this level can be opened in this state of the device (R264, R417). -/
def openable (l : Locket) (level : Nat) : Bool :=
  if level = 1 then decide (l.lc = 2) && l.pin.isSome
  else if level = 2 then decide (l.lc = 2) && l.owner.isSome
  else decide (l.lc = 1)

/-- The key that a session request of this level is verified against (R421). -/
def sessionKeyOf (l : Locket) (level : Nat) : BitVec 512 := if level = 2 then l.owner.getD 0 else Config.sessionKey

/-! ### Sessions (R419 to R421) -/

/-- An Operator request: the PIN is compared; a wrong one delays the completion by 100 ms (R420). -/
def openOperator (s : State) (c : Cmd) : State :=
  if s.sec.locked then complete s c.tag DENIED []
  else
    match s.lk.pin with
    | none => complete s c.tag PRECOND []
    | some (h, salt) =>
      if pinHash s.lk (c.arg 1) (c.arg 2) salt = h then
        complete (setSession { s with lk.fails := 0 } c.tun 1) c.tag OK [1]
      else
        { s with
          lk.fails := if s.lk.fails < 15 then s.lk.fails + 1 else 15,
          sec.locked := decide (8 ≤ s.lk.fails + 1),
          sec.pinTag := some c.tag }

/-- Step 0 of an Owner or Vendor request: a new challenge (R421). -/
def openStep0 (s : State) (c : Cmd) (level : Nat) : State :=
  let ch := rand256 s
  streamOut { s with sec.chal := some (level, ch), sec.sig := [], free := s.free + 4 } c.tag OK
    (packBytes (beBytes 32 ch.toNat)) []

/-- Steps 1 to 3: the signature is staged and, at step 3, verified (R254, R421). -/
def openStepSig (s : State) (c : Cmd) (level step : Nat) : State :=
  match s.sec.chal with
  | none => complete { s with sec.sig := [] } c.tag BADARG []
  | some (lv, ch) =>
    if lv ≠ level then complete (dropChallenge s) c.tag BADARG []
    else if s.sec.sig.length ≠ 12 * (step - 1) then complete { s with sec.sig := [] } c.tag BADARG []
    else if step < 3 then complete { s with sec.sig := s.sec.sig ++ c.args.drop 1 } c.tag OK []
    else if ecdsaVerify (sessionKeyOf s.lk level) (sessionMsg s.lk level ch) (unpackWords (s.sec.sig ++ c.args.drop 1)) then
      complete (setSession { s with sec.sig := [] } c.tun level) c.tag OK [wd level]
    else complete (dropChallenge s) c.tag DENIED []

/-- SESSION_OPEN (R264, R417, R420, R421). -/
def execSessionOpen (tag : Nat) (s : State) : Out :=
  .next (secure s tag 0x083 (fun s c =>
    let level := fld (c.arg 0) 0 2
    let step := fld (c.arg 0) 2 3
    if level = 0 then complete s tag BADARG []
    else if openable s.lk level = false then complete s tag PRECOND []
    else if level = 1 then openOperator s c
    else if step = 0 then openStep0 s c level
    else if step ≤ 3 then openStepSig s c level step
    else complete s tag BADARG []))

/-- PIN_FAIL_DELAY_END (R420): the SESSION_OPEN with the wrong PIN completes. -/
def execPinFailDelayEnd (s : State) : Out :=
  match s.sec.pinTag with
  | none => .next s
  | some t => .next (complete { s with sec.pinTag := none } t DENIED [])

/-- CHALLENGE_EXPIRY (R264): ten seconds of RC time after step 0. -/
def execChallengeExpiry (s : State) : Out := .next (dropChallenge s)

/-- SESSION_END (R264, R419). -/
def execSessionEnd (tag : Nat) (s : State) : Out :=
  .next (secure s tag 0x084 (fun s c => complete (dropChallenge (setSession s c.tun 0)) tag OK [0]))

/-! ### PIN and protection table -/

/-- PIN_SET (R264, R420). -/
def execPinSet (tag : Nat) (s : State) : Out :=
  .next (secure s tag 0x085 (fun s c =>
    if bcdOk (c.arg 0) && bcdOk (c.arg 1) then
      let salt := rand128 s
      complete { s with
        lk.pin := some (pinHash s.lk (c.arg 0) (c.arg 1) salt, salt), lk.fails := 0, sec.locked := false,
        free := s.free + 2 } tag OK []
    else complete s tag BADARG []))

/-- A row of the table as op1 and op2 of PROT_SET. -/
def protWords (r : BitVec 32) : List Word := [wd (r.toNat / 2 ^ 16), wd (r.toNat % 2 ^ 16)]

/-- The table with one row replaced. -/
def setProt (l : Locket) (level : Nat) (r : BitVec 32) : Locket :=
  if level = 0 then { l with prot0 := r } else if level = 1 then { l with prot1 := r } else { l with prot2 := r }

/-- PROT_SET (R264, R422): the Owner row keeps classes 24, 25 and 26. -/
def execProtSet (tag : Nat) (s : State) : Out :=
  .next (secure s tag 0x086 (fun s c =>
    let level := fld (c.arg 0) 0 2
    if level = 3 then complete s tag BADARG []
    else
      let r := BitVec.ofNat 32 (fld (c.arg 1) 0 16 * 2 ^ 16 + fld (c.arg 2) 0 16)
      complete { s with lk := setProt s.lk level (if level = 2 then r ||| 0x07000000 else r) } tag OK
        (protWords (protRow s.lk level))))

/-- PROT_READ (R264, R422). -/
def execProtRead (tag : Nat) (s : State) : Out :=
  .next (secure s tag 0x087 (fun s c =>
    if fld (c.arg 0) 0 2 = 3 then complete s tag BADARG []
    else complete s tag OK (protWords (protRow s.lk (fld (c.arg 0) 0 2)))))

/-! ### Identity -/

/-- ID_READ (R264). -/
def execIdRead (tag : Nat) (s : State) : Out :=
  .next (hitan s tag 0x080 (fun s _ =>
    streamOut s tag OK
      (serialWords s.lk ++ [s.lk.lot.extractLsb' 18 18, s.lk.lot.extractLsb' 0 18, wd s.lk.wafer.toNat, wd s.lk.dieX.toNat,
        wd s.lk.dieY.toNat, lifecycleWord s, s.fuses.replClass]) []))

/-- CERT_READ (R264). -/
def execCertRead (tag : Nat) (s : State) : Out :=
  .next (secure s tag 0x081 (fun s _ => streamOut s tag OK (packBytes s.lk.cert) [wd s.lk.cert.length]))

/-! ### Life cycle and wipe (R416 to R418, R428, R429) -/

/-- Step 2 of the wipe: USER areas and pointer records, pending set, owner key, PIN and table (R428). -/
def wipeLocket (s : State) : State :=
  { s with
    cal.bank0 := { s.cal.bank0 with user := [], userOk := false, ptr := none },
    cal.bank1 := { s.cal.bank1 with user := [], userOk := false, ptr := none },
    cal.pend := none,
    lk := { s.lk with owner := none, pin := none, fails := 0, prot0 := 0x20005201, prot1 := 0x381FFFFF, prot2 := 0xFFFFFFFF } }

/-- Step 3 of the wipe: the user area and the USER calibration copy of the GPIO0 device are erased. -/
def eraseUserArea (s : State) : State :=
  { s with fl.mem := tabDrop (fun k => decide (0x400000 ≤ k) && decide (k < 2 ^ 32)) s.fl.mem, cal.copyUser := [] }

/-- SCRAPPED: every cell is disabled (R417). -/
def disableAll (s : State) : State :=
  forAll ((List.range 272).filter (fun p => (s.cell p).cfg.ctl.en)) (fun s p => endLockTags (disableCell s p) p INCOMPLETE) s

/-- LIFECYCLE_SET (R264, R418, R429): the state is written first, then the wipe runs. -/
def execLifecycleSet (tag : Nat) (s : State) : Out :=
  .next (secure s tag 0x088 (fun s c =>
    let target := fld (c.arg 0) 0 3
    if target ≠ s.lk.lc + 1 then complete s tag PRECOND []
    else if c.arg 1 ≠ s.lk.serial.extractLsb' 54 18 then complete s tag BADARG []
    else
      let s1 := wipeLocket { s with lk.lc := target, lk.wipe := true, sec.wiping := some (some tag, none) }
      if target = 4 then disableAll s1 else s1))

/-- The key of 64 bytes staged by OWNER_TRANSFER. -/
def keyOf (ws : List Word) : BitVec 512 := BitVec.ofNat 512 (beNat (unpackWords ws))

/-- OWNER_TRANSFER (R254, R264, R424). -/
def execOwnerTransfer (tag : Nat) (s : State) : Out :=
  .next (secure s tag 0x089 (fun s c =>
    let part := fld (c.arg 0) 0 2
    let fresh : State := { s with sec.ownStage := ([], 0) }
    if s.lk.lc ≠ 2 then complete s tag PRECOND []
    else if part = 3 ∨ part ≠ s.sec.ownStage.2 then complete fresh tag BADARG []
    else if part < 2 then complete { s with sec.ownStage := (s.sec.ownStage.1 ++ c.args.drop 1, part + 1) } tag OK []
    else
      let k := keyOf (s.sec.ownStage.1 ++ c.args.drop 1)
      if onCurve k = false then complete fresh tag BADARG []
      else wipeLocket { fresh with lk.wipe := true, sec.wiping := some (some tag, some k) }))

/-- A start-up that repeated the wipe goes on (R429, R463). -/
def startUpWiped (s : State) : State := if s.pwr.phase = .lcWipe then xoStart s else s

/-- A Vendor session, of the host port or of the tunnel, ends with the change out of FACTORY (R419). -/
def endVendor (s : State) : State :=
  if s.lk.lc = 1 then s
  else { s with sec.host := if s.sec.host = 3 then 0 else s.sec.host, sec.tunnel := if s.sec.tunnel = 3 then 0 else s.sec.tunnel }

/-- LIFECYCLE_WIPE_DONE (R429): step 3 has ended; step 4 follows, or the failure is reported and the flag stays. -/
def execLifecycleWipeDone (ok : Bool) (s : State) : Out :=
  match s.sec.wiping with
  | none => .next s
  | some (t, key) =>
    let s1 : State := { s with sec.wiping := none }
    if ok then
      let s2 := endVendor { eraseUserArea s1 with lk.wipe := false, lk.owner := if key.isSome then key else s.lk.owner }
      match t with
      | some tag => .next (complete s2 tag OK (if key.isSome then [] else [lifecycleWord s2]))
      | none => .next (startUpWiped s2)
    else
      let s2 := faultChip (endVendor s1) 0x3A 1 0 0
      match t with
      | some tag => .next (complete s2 tag FAULT [])
      | none => .next (startUpWiped s2)

/-- HOURS_TICK (R425): an hour of RC time out of reset. -/
def execHoursTick (s : State) : Out :=
  .next (if s.pwr.phase = .reset then s else { s with lk.hours := satAdd 0xFFFFFFFF s.lk.hours 1 })

end Sys2Proof.Machine
end

