-- ==== Sys2Proof/Machine/Cal.lean ====
section
/-! DEFINITION. The rows of calibration (chapter 16) and its commands (R262). -/
namespace Sys2Proof.Machine
open Sys2Proof

/-! ### CAL_RUN (R376, R377) -/

/-- The blocks that a target names, present ones only. -/
def scopeBlocks (s : State) (w : Word) : List Nat :=
  let i := tgtIndex w
  let sc := tgtScope w
  let bs := if sc = 0 then List.range 16 else if sc = 1 then (List.range 4).map (fun b => 4 * i + b)
    else if sc = 2 then [i] else if sc = 3 then [cellBlock i] else [tiuBlock i]
  bs.filter (blockPresent s)

/-- The units of a block that a CAL_RUN measures, in the order of R377. -/
def calUnits (s : State) (target items : Word) (B : Nat) : List CalUnit :=
  let i := tgtIndex target
  let wide := decide (tgtScope target ≤ 2)
  let tius := if bitOf items 1 then
      (if wide then ([0, 1, 2, 3].map (fun t => 4 * B + t)).filter (tiuPresent s) else if tgtScope target = 4 then [i] else []) else []
  let chans := if wide then (List.range 16).map (fun c => 16 * B + c) else if tgtScope target = 3 then [i] else []
  tius.map (fun t => { kind := 0, unit := t })
    ++ (if bitOf items 2 then chans.map (fun n => { kind := 1, unit := n }) else [])
    ++ (if bitOf items 0 then chans.map (fun n => { kind := 2, unit := n }) else [])
    ++ (if bitOf items 0 && wide then [{ kind := 3, unit := spareOf B }] else [])

/-- Temperature of a point in 1/16 C. -/
def pointT (p : Nat) : Int := 320 + 320 * p

/-- The block's filtered Tj lies within 3 C of a point. -/
def nearPoint (s : State) (B p : Nat) : Bool :=
  decide ((s.block B).tj - pointT p ≤ 48) && decide (pointT p - (s.block B).tj ≤ 48)

/-- The reference that calibration traces to is qualified and is the source root of region r (R376). -/
def calTraced (s : State) (r : Nat) : Bool :=
  if isWorker s then decide (s.ref.upState = 3) && decide (rootOf s 4 r = (some .uplink, 0))
  else decide (s.ref.refinState = 3) && decide (rootOf s 4 r = (some .refin, 0))

/-- The operands of a CAL_RUN name items its scope accepts (R262, R376). -/
def calArgOk (target op : Word) : Bool :=
  decide (fld op 4 3 ≤ 4) && (decide (tgtScope target ≠ 3) || ! bitOf op 1)
  && (decide (tgtScope target ≠ 4) || (! bitOf op 0 && ! bitOf op 2))

/-- The conditions of R376 hold. -/
def calPrecond (s : State) (target op : Word) : Bool :=
  (scopeBlocks s target).all (fun B =>
    calTraced s (B / 4) && nearPoint s B (fld op 4 3) && ! (s.block B).sensorFault && (! bitOf op 0 || ! spareServes s B))

/-- CAL_RUN (R262, R376, R377). -/
def execCalRun (tag : Nat) (s : State) : Out :=
  .next (hitan s tag 0x060 (fun s c =>
    let op := c.arg 0
    if calArgOk c.target op = false then complete s tag BADARG []
    else if calPrecond s c.target op = false then complete s tag PRECOND []
    else
      let todo := ((scopeBlocks s c.target).map (fun B => (B, calUnits s c.target op B))).filter (fun x => ! x.2.isEmpty)
      let r : CalRun := { tag := tag, items := wd (fld op 0 3), point := fld op 4 3, todo := todo }
      if todo = [] then calFinish s r
      else
        let s1 : State := { s with cal.runs := s.cal.runs ++ [r] }
        if c.noWait = true ∧ todo.all (fun x => decide ((s1.block x.1).waiting = []) && grantable s1 x.1 (.cal, tag)) = false then
          complete s tag BUSY []
        else forAll todo (fun s x => s.updBlock x.1 (fun b => { b with waiting := b.waiting ++ [(.cal, tag)] })) s1))

/-! ### One unit measured (R378 to R383) -/

/-- Agreement limit of two values of an item (R363). -/
def valAgree (code : Nat) (a b : Int) : Bool :=
  let d := (a - b).natAbs
  if code = 0x02 then decide (4000 * d ≤ (a + b).natAbs)
  else if code = 0x03 ∨ code = 0x04 then decide (4000 * d ≤ (a + b + 2 * 0x20000).natAbs)
  else if code = 0x01 ∨ code = 0x19 then decide (d ≤ 1)
  else if code = 0x05 ∨ code = 0x06 then decide (d ≤ 4)
  else if code = 0x08 ∨ code = 0x18 then decide (d ≤ 2)
  else decide (d ≤ 8)

/-- A pair of measurements agrees value by value and was not disturbed (R382). -/
def pairAgree (code : Nat) (p : List Int × List Int × Bool) : Bool :=
  ! p.2.2 && decide (p.1.length = calCount code) && decide (p.2.1.length = calCount code)
  && (p.1.zip p.2.1).all (fun v => valAgree code v.1 v.2)

/-- The value of an item: the mean of its first agreeing pair of at most four (R363, R382). -/
def judge (m : Meas) : Option (List Int) :=
  ((m.pairs.take 4).find? (pairAgree m.code)).map (fun p => (p.1.zip p.2.1).map (fun v => roundQ ((Int.cast (v.1 + v.2) : Rat) / 2)))

/-- The item belongs to a unit (R363, R377). -/
def measOf (u : CalUnit) (m : Meas) : Bool :=
  decide (m.unit = u.unit)
  && (if u.kind = 0 then decide (m.code = 0x10)
      else if u.kind = 1 then decide (m.code = 0x18) || decide (m.code = 0x19)
      else if u.kind = 2 then decide (1 ≤ m.code) && decide (m.code ≤ 9)
      else (decide (1 ≤ m.code) && decide (m.code ≤ 6)) || decide (m.code = 8))

/-- An item enters the pending set with its trace (R382, R391). -/
def pendPut (s : State) (code unit point trace : Nat) (vals : List Int) : State :=
  { s with cal.pend := some (tabSet {} (s.cal.pend.getD []) (calKey code unit point) { vals := vals, trace := trace }) }

/-- The items of `over_` replace those of `base`. -/
def mergeSet (base add : CalSet) : CalSet := add.foldl (fun t e => tabSet {} t e.1 e.2) base

/-- Words 7 and 8 of a hint at the present temperature, keeping bw (R98). -/
def hintWords (s : State) (B : Nat) (band : BitVec 7) (fine w7 : Word) : Word × Word :=
  let q := roundQ ((Int.cast (s.block B).tj : Rat) / 64)
  (wd (2 ^ 17 + band.toNat * 2 ^ 8 + (if q < 0 then 0 else if 31 < q then 31 else q.toNat) * 2 ^ 3 + fld w7 0 3), fine)

/-- The hints of every valid profile of a channel are recomputed from the pending band model and gain (R383). -/
def writeHints (s : State) (n : Nat) : State :=
  let set := mergeSet s.cal.user (s.cal.pend.getD [])
  let tmp : State := { undefer s n with cal.user := set }
  let k := workVals s.cal.factory set s.cal.facOk 0x02 n (s.block (cellBlock n)).tj
  let tmp1 := tmp.updCell n (fun c => { c with trim.kdco := k })
  forAll (List.range 192) (fun s i =>
    let row := profRow s n i
    if bitOf (row.getD 0 0) 14 = false then s
    else
      let h := computedHint tmp1 n (profFreq {} row)
      let near := match profileHint s n (row.getD 7 0) (row.getD 8 0) with
        | some (b, f) => decide (b = h.1) && decide ((f.toNat - h.2.toNat) + (h.2.toNat - f.toNat) ≤ 0x40)
        | none => false
      if near then s
      else
        let w := hintWords s (cellBlock n) h.1 h.2 (row.getD 7 0)
        let row9 := row.take 7 ++ [w.1, w.2]
        { clearBad s 9 (profKey n i + 7) (profKey n i + 10) with
          profiles := tabPut s.profiles (profKey n i) (row9 ++ [checkWord n i row9]) }) s

/-- One item of a unit is judged (R382): entered, or UNSTABLE. -/
def takeMeas (B point : Nat) (acc : State × Nat × Nat) (m : Meas) : State × Nat × Nat :=
  match if nearPoint acc.1 B point then judge m else none with
  | none => (acc.1, acc.2.1, acc.2.2 + 1)
  | some v =>
    let w := isWorker acc.1
    let s1 := pendPut acc.1 m.code m.unit point (if w then 2 else 1) v
    let s2 : State := if w then s1 else { s1 with cal.pendRefin := s1.ref.refinFreq.toNat }
    (if m.code = 1 ∧ m.unit < 256 then writeHints s2 m.unit else s2, acc.2.1 + 1, acc.2.2)

/-- CAL_UNIT_MEASURED (R378 to R383): the unit in progress in block b has been measured. A boundary drive on the channel's
pins is external drive (R490). -/
def execCalUnitMeasured (b : Nat) (pinOk : Bool) (meas : List Meas) (s : State) : Out :=
  match calRunOf s b with
  | none => .next s
  | some r =>
    match calUnitOf r b with
    | none => .next s
    | some u =>
      if r.done.contains b = true ∨ (u.kind = 2 ∧ ((s.block b).seated ≠ some (u.unit % 16) ∨ (s.block b).seating ≠ none)) then .next s
      else
        let refuse := decide (u.kind = 2) && (! pinOk || decide (toutWant s u.unit ≠ .active) || pinsTaken s.pins.jtag)
        let mine := meas.filter (fun m => measOf u m && (! refuse || (decide (m.code ≠ 7) && decide (m.code ≠ 9))))
        let a := mine.foldl (takeMeas b r.point) (s, 0, 0)
        let s1 : State := { a.1 with cal.runs := a.1.cal.runs.map (fun x => if x.tag = r.tag then
          { x with
            counts := (x.counts.1 + a.2.1, x.counts.2.1 + a.2.2, x.counts.2.2 + (if refuse then 2 else 0)),
            done := if u.kind = 2 then x.done ++ [b] else x.done } else x) }
        if u.kind = 2 then .next (seat s1 b (u.unit % 16) .cal true none (s.region (b / 4)).edge)
        else if u.kind = 3 then .next (maintDone s1 b)
        else .next (calUnitEnd s1 b none)

/-! ### Records (R390 to R392) -/

/-- Bytes of one value of an item (R363). -/
def valBytes (code : Nat) : Nat := if code = 5 ∨ code = 6 ∨ code = 8 ∨ code = 0x0A ∨ code = 0x18 ∨ code = 0x19 then 1 else 2

/-- One entry (R391). -/
def entryBytes (key trace : Nat) (vals : List Int) : List Byte :=
  let code := key / 2 ^ 21
  [BitVec.ofNat 8 code, BitVec.ofNat 8 (trace * 32 + key % 32)] ++ beBytes 2 (key / 32 % 2 ^ 16)
    ++ vals.flatMap (fun v => beBytes (valBytes code) (unsgn v (8 * valBytes code)))

/-- The units that an item code exists for in the variant (R363). -/
def codeUnits (s : State) (code : Nat) : List Nat :=
  if code = 7 ∨ code = 9 then (List.range 256).filter (cellPresent s)
  else if code ≤ 0x0A then (List.range 272).filter (cellPresent s)
  else if code = 0x10 then (List.range 64).filter (tiuPresent s)
  else if code = 0x18 ∨ code = 0x19 then (List.range 256).filter (cellPresent s)
  else if code = 0x22 then (List.range 5).filter (portPresent s)
  else (List.range 16).filter (blockPresent s)

/-- The FACTORY set in full: every item of every unit at its points, in the order of R391 (R364). -/
def factoryFull (s : State) : CalSet :=
  [1, 2, 3, 4, 5, 6, 7, 8, 9, 0x0A, 0x10, 0x18, 0x19, 0x20, 0x21, 0x22].flatMap (fun code =>
    (codeUnits s code).flatMap (fun u =>
      (if pointFree code then [31] else [0, 1, 2, 3, 4]).map (fun i =>
        (calKey code u i, { vals := facVal s.cal.factory code u i, trace := 0 }))))

/-- Bytes 0 to 31 + N of a record (R390). -/
def recordBody (s : State) (user : Bool) (set : CalSet) (seq refin : Nat) : List Byte :=
  let es := set.flatMap (fun e => entryBytes e.1 e.2.trace e.2.vals)
  let pts := ([0, 1, 2, 3, 4].filter (fun i => set.any (fun e => decide (e.1 % 32 = i)))).foldl (fun a i => a + 2 ^ i) 0
  [0x4D, 0x51, 0x43, 0x52, 0x01, if user then 1 else 0, BitVec.ofNat 8 pts, 0]
    ++ beBytes 9 s.lk.serial.toNat ++ beBytes 5 seq ++ beBytes 4 refin ++ beBytes 4 es.length ++ [0, 0] ++ es

/-- The signed USER record of the set in force. -/
def userBody (s : State) : List Byte :=
  recordBody s true s.cal.user s.cal.seq (if s.cal.bank = 0 then s.cal.bank0.refin else s.cal.bank1.refin)

/-- The FACTORY record without its signature. -/
def facBody (s : State) : List Byte := recordBody s false (factoryFull s) s.cal.facSeq.toNat 0

/-- A record with its signature by the device key. -/
def signRecord (s : State) (body : List Byte) : List Byte := body ++ ecdsaSign s.lk.priv body

/-! ### Commands on the store (R262, R387) -/

/-- CAL_STATUS (R262, R366, R389). -/
def execCalStatus (tag : Nat) (s : State) : Out :=
  .next (hitan s tag 0x061 (fun s _ => complete s tag OK
    [wd (b2n s.cal.pend.isSome * 2 + b2n (decide (s.cal.user ≠ []))), wd s.cal.seq, wd (s.cal.pend.getD []).length,
     if s.cal.facOk then s.cal.facSeq else 0, wd s.cal.bank]))

/-- One bank of the store. -/
def calBank (s : State) (B : Nat) : CalBank := if B = 0 then s.cal.bank0 else s.cal.bank1
def setBank (s : State) (B : Nat) (k : CalBank) : State := if B = 0 then { s with cal.bank0 := k } else { s with cal.bank1 := k }

/-- CAL_COMMIT (R262, R385, R387 steps 1 to 4). -/
def execCalCommit (tag : Nat) (s : State) : Out :=
  .next (secure s tag 0x062 (fun s c =>
    match s.cal.pend with
    | none => complete s tag PRECOND []
    | some p =>
      if s.cal.runs ≠ [] then complete s tag BUSY []
      else if bitOf (c.arg 0) 1 then complete { s with cal.pend := none, cal.pendRefin := 0 } tag OK []
      else
        let B := 1 - s.cal.bank
        let n := (s.cal.counter + 1) % 2 ^ 36
        let s1 := setBank s B { calBank s B with userOk := false }
        { s1 with cal.counter := n, cal.commit := some (tag, bitOf (c.arg 0) 0, mergeSet s.cal.user p, B, n) }))

/-- The first coarse time at or after `at least` cycles from now that is a multiple of 1,024, as an edge (R371, R372). -/
def alignedEdge (g : RegionSt) (wait : Nat) : Nat := g.edge + wait + (1024 - (g.time.toNat + wait) % 1024) % 1024

/-- Cells of the device that are present. -/
def allCells (s : State) : List Nat := (List.range 272).filter (cellPresent s)

/-- CAL_COMMIT_WRITTEN (R387 steps 4 to 7, R365, R371, R372). -/
def execCalCommitWritten (ok : Bool) (s : State) : Out :=
  match s.cal.commit with
  | none => .next s
  | some (tag, imm, set, B, n) =>
    let s0 : State := { s with cal.commit := none }
    if ok then
      let k := calBank s B
      let s1 := setBank s0 B { k with
        user := set, userOk := true, seq := n,
        refin := if s.cal.pendRefin = 0 then (calBank s s.cal.bank).refin else s.cal.pendRefin, ptr := some (B, n) }
      let s2 := setBank s1 (1 - B) { calBank s1 (1 - B) with ptr := some (B, n) }
      let s3 : State := { s2 with
        cal.prev := s.cal.user, cal.user := set, cal.bank := B, cal.seq := n, cal.pend := none, cal.pendRefin := 0,
        cal.deferred := (allCells s).map (fun p => (p, cellUser s p)),
        cal.applyAt := s.cal.applyAt ++ (runningRegions s).map (fun r => (r, alignedEdge (s.region r) 1024, some imm)) }
      .next (complete { s3 with
        cal.copyUser := signRecord s3 (userBody s3),
        cal.copyFac := if s.cal.facOk then signRecord s3 (facBody s3) else s.cal.copyFac } tag OK
        [wd (n / 2 ^ 18), wd (n % 2 ^ 18)])
    else .next (complete s0 tag FAULT [])

/-- CAL_DEFERRED_APPLY (R371): one second of RC time has passed without a hop boundary. -/
def execCalDeferredApply (r : Nat) (s : State) : Out :=
  if (s.region r).time.toNat % 1024 = 0 then
    .next (forAll ((s.cal.deferred.map (fun d => d.1)).filter (fun p => decide (cellRegion p = r) && (s.cell p).cfg.ctl.en)) loadCell s)
  else .next s

/-- The application edge of region r, when one falls on the present edge: its event inputs take a committed set, its cells
too where the commit is immediate, and a change of TH64 mode moves the element selection (R372 to R375, R393, R498). -/
def applicationEdge (s : State) (r : Nat) : State :=
  let due := s.cal.applyAt.filter (fun x => decide (x.1 = r) && decide (x.2.1 = (s.region r).edge))
  if due = [] then s
  else
    let cells := (regionCells r).filter (cellPresent s)
    let s1 : State := { s with cal.applyAt := s.cal.applyAt.filter (fun x => ! due.contains x) }
    let s2 := if due.any (fun x => x.2.2.isSome) then forAll ((List.range 64).map (fun i => 64 * r + i)) loadEvin s1 else s1
    let w := (s.mem r).th64
    let s3 := if bitOf w 17 = bitOf w 0 ∨ due.any (fun x => x.2.2.isNone) = false then s2
      else forAll cells (fun s p => loadCellFrom s p (cellUser s p))
        (s2.updMem r (fun m => { m with th64 := wd (b2n (bitOf w 0) * 2 ^ 17 + b2n (bitOf w 16) * 2 ^ 16 + b2n (bitOf w 0)) }))
    if due.any (fun x => decide (x.2.2 = some true)) then forAll cells loadCell s3 else s3

/-- CAL_APPLICATION_EDGE (R372). -/
def execCalApplicationEdge (r : Nat) (s : State) : Out := .next (applicationEdge s r)

/-- Both banks of the store are unreadable (R335, R392). -/
def storeLost (s : State) : Bool := ! s.cal.bank0.facOk && ! s.cal.bank1.facOk

/-- CAL_EXPORT (R262, R390, R392). -/
def execCalExport (tag : Nat) (s : State) : Out :=
  .next (secure s tag 0x063 (fun s c =>
    let out := fun bytes => streamOut s tag OK (packBytes bytes) [wd bytes.length]
    if bitOf (c.arg 0) 0 then
      if s.cal.user ≠ [] then out (signRecord s (userBody s))
      else if storeLost s = true ∧ s.cal.copyUser ≠ [] then out s.cal.copyUser
      else complete s tag PRECOND []
    else if s.cal.facOk then out (signRecord s (facBody s))
    else if s.cal.copyFac = [] then complete s tag PRECOND [] else out s.cal.copyFac))

/-- The items of one TH64 record enter the pending set at its point (R394). -/
def importTh64 (s : State) (r : Nat) (x : Nat × Int × Int × Int × List Int) : State × Bool :=
  let n := 64 * r + x.1 % 64
  match [0, 1, 2, 3, 4].find? (fun p => decide (x.2.1 - pointT p ≤ 48) && decide (pointT p - x.2.1 ≤ 48)) with
  | none => (s, false)
  | some p => (pendPut (pendPut (pendPut s 0x04 n p 3 [x.2.2.2.1]) 0x07 n p 3 [x.2.2.1]) 0x0A n 31 3 x.2.2.2.2, true)

/-- CAL_IMPORT_TH64 (R254, R262, R394). -/
def execCalImportTh64 (tag : Nat) (s : State) : Out :=
  .next (hitan s tag 0x064 (fun s c =>
    let r := c.unit
    let st := (s.mem r).thStage
    let drop := s.updMem r (fun m => { m with thStage := ([], 0) })
    if s.th64On r = false then complete s tag PRECOND []
    else if fld (c.arg 0) 0 12 ≠ st.2 then complete drop tag BADARG []
    else if bitOf (c.arg 0) 17 = false then
      complete (s.updMem r (fun m => { m with thStage := (st.1 ++ c.args.drop 1, st.2 + 1) })) tag OK []
    else
      match Config.th64Records (unpackWords (st.1 ++ c.args.drop 1)) with
      | none => complete drop tag BADARG []
      | some recs =>
        let a := recs.foldl (fun (acc : State × Nat × Nat) x =>
          let q := importTh64 acc.1 r x
          (q.1, acc.2.1 + b2n q.2, acc.2.2 + b2n (! q.2))) (drop, 0, 0)
        complete a.1 tag OK [wd a.2.1, wd a.2.2]))

end Sys2Proof.Machine
end

