-- ==== Sys2Proof/Machine/Reference.lean ====
section
/-! DEFINITION. The rows of reference sources, region loops and system time (chapter 02), and the reference commands
of R256. -/
namespace Sys2Proof.Machine
open Sys2Proof

/-! ### Qualification (R38 to R42) -/

/-- Largest less smallest of a list. -/
def spread (l : List Nat) : Nat := l.foldl max 0 - l.foldl min (l.headD 0)

/-- XO_STATUS. -/
def xoStatus (s : State) : Word := wd (b2n s.ref.xoActive * 2 + b2n s.ref.xoQual)

/-- REFIN_STATUS. -/
def refinStatus (s : State) : Word := wd (b2n s.ref.refinFreqErr * 8 + s.ref.refinState)

/-- REFIN_CFG. -/
def refinCfg (s : State) : Word := wd (b2n s.ref.refinTerm * 4 + b2n s.ref.refinSe * 2 + b2n s.ref.refinEn)

/-- Results of REF_QUALIFY (R256). -/
def qualWords (s : State) : List Word := [xoStatus s, refinStatus s, s.ref.refinErr, wd s.ref.upState]

/-- REF_QUALIFY commands with wait complete when the REFIN state is QUALIFIED, FAILED, LOST or OFF. -/
def qualNotify (s : State) : State :=
  if s.ref.refinState = 1 ∨ s.ref.refinState = 2 then s
  else forAll s.ref.qualWait (fun s t => complete s t OK (qualWords s)) { s with ref.qualWait := [] }

/-- REFIN qualification starts afresh, and every region that runs on REFIN enters holdover (R39, R42). -/
def refinRestart (s : State) : State :=
  let s1 : State := { s with ref.refinWin := [], ref.refinState := if s.ref.refinEn then (if s.ref.xoQual then 2 else 1) else 0 }
  qualNotify (sourceLost s1 .refin)

/-- REFIN_CFG takes a value: a change of a value in force starts qualification afresh. -/
def writeRefinCfg (s : State) (v : Word) : State :=
  if fld v 0 3 = (refinCfg s).toNat then s
  else refinRestart { s with ref.refinEn := bitOf v 0, ref.refinSe := bitOf v 1, ref.refinTerm := bitOf v 2 }

/-- A declared REFIN frequency that a commit accepts (R39). -/
def refinFreqOk (hz : Nat) : Bool := decide (10000000 ≤ hz) && decide (hz ≤ 500000000)

/-- A commit of REFIN_FREQ (R39). -/
def commitRefin (s : State) (hi : Word) : State :=
  let hz := hi ++ s.ref.refinLo
  if refinFreqOk hz.toNat = false then { s with ref.refinFreqErr := true }
  else if hz = s.ref.refinFreq then { s with ref.refinFreqErr := false }
  else refinRestart { s with ref.refinFreqErr := false, ref.refinFreq := hz }

/-- REFIN and UPLINK windows that waited for the XO start or resume (R39, R41). -/
def xoGained (s : State) : State :=
  refMoved { s with
    ref.refinState := if s.ref.refinState = 1 then 2 else s.ref.refinState,
    ref.upState := if s.ref.upState = 1 then 2 else s.ref.upState }

/-- Whatever a source's qualification, the regions that run on it lose it when its activity monitor fires (R49). -/
def monitorFires (s : State) (src : Src) : State := sourceLost s src

/-- The XO loses its qualification (R38, R41): the windows of REFIN and UPLINK pause. -/
def xoLose (s : State) : State :=
  if s.ref.xoQual = false then s
  else sourceLost { s with
    ref.xoQual := false, ref.xoWin := [],
    ref.refinState := if s.ref.refinState = 2 then 1 else s.ref.refinState,
    ref.upState := if s.ref.upState = 2 then 1 else s.ref.upState } .xo

/-- RC_WINDOW_END (R38): a window of XO cycles is judged. Qualification lets a stopped or waiting start-up go on (R463, R465). -/
def execRcWindowEnd (count : Nat) (s : State) : Out :=
  if s.ref.xoOn = false then .next s
  else
    let e : Rat := 65536 * ((s.ref.xoFreq.toNat : Nat) : Rat) / 40000
    let d : Rat := (count : Rat) - e
    let s0 : State := { s with ref.xoActive := decide (0 < count) }
    if d ≤ e / 20 ∧ -d ≤ e / 20 then
      let w := (count :: s0.ref.xoWin).take 4
      let s1 : State := { s0 with ref.xoWin := w }
      if s1.ref.xoQual = false ∧ w.length = 4 ∧ ((spread w : Nat) : Rat) ≤ e / 10000 then
        let s2 := xoGained { s1 with ref.xoQual := true }
        .next (if s2.pwr.phase = .xoQual ∨ (s2.pwr.phase = .stopped ∧ s2.pwr.stop = 2)
          then { s2 with pwr.phase := .fwLoad, pwr.stop := 0 } else s2)
      else .next s1
    else .next (xoLose { s0 with ref.xoWin := [] })

/-- Expected count of a window of 2^20 XO cycles, in 1/256 cycle. -/
def refExpect (s : State) (hz : Rat) : Rat := 256 * 2 ^ 20 * hz / (((s.ref.xoFreq.toNat : Nat) : Rat) * 1000)

/-- State of a counted source after a window: the counts kept and the new state (R39, R40). A good window takes FAILED to
COUNTING, while LOST stays until the source is qualified again (log 59). -/
def judgeWindow (e : Rat) (count : Nat) (win : List Nat) (st : Nat) : List Nat × Nat :=
  let d : Rat := (count : Rat) - e
  if d ≤ e * 20 / 1000000 ∧ -d ≤ e * 20 / 1000000 then
    let w := (count :: win).take 3
    if st = 3 then (w, 3)
    else if w.length = 3 ∧ ((spread w : Nat) : Rat) ≤ e / 1000000 then (w, 3)
    else (w, if st = 5 then 5 else 2)
  else ([], if st = 3 ∨ st = 5 then 5 else 4)

/-- REFIN_WINDOW_END (R39). -/
def execRefinWindowEnd (count256 : Nat) (s : State) : Out :=
  if s.ref.refinEn = false ∨ s.ref.xoQual = false then .next s
  else if s.ref.refinFreq = 0 then
    -- no frequency declared yet: nothing lies within 20 ppm of it, and a count of 0 has no deviation that a rule states
    .next (qualNotify { s with
      ref.refinErr := if count256 = 0 then Config.refinErrZero else 0x1FFFF, ref.refinWin := [], ref.refinState := 4 })
  else
    let e := refExpect s (s.ref.refinFreq.toNat : Nat)
    let ppm := roundQ (((count256 : Rat) / e - 1) * 100000000)
    let err := if 131071 < ppm then 131071 else if ppm < -131071 then -131071 else ppm
    let j := judgeWindow e count256 s.ref.refinWin s.ref.refinState
    let s1 : State := { s with ref.refinErr := BitVec.ofInt 18 err, ref.refinWin := j.1, ref.refinState := j.2 }
    let s2 := if s.ref.refinState = 3 ∧ j.2 ≠ 3 then sourceLost s1 .refin else refMoved s1
    .next (qualNotify s2)

/-- On a worker with join_en set, firmware selects the qualified UPLINK in every present region (R345). -/
def uplinkSelect (s : State) : State :=
  if isWorker s = true ∧ s.tree.joinEn = true then forAll (runningRegions s) (fun s r => requestSource s r .uplink none) s else s

/-- UPLINK_WINDOW_END (R40, R345): windows count from the completion of the UP port's training on. -/
def execUplinkWindowEnd (count256 : Nat) (s : State) : Out :=
  if s.ref.upState = 0 ∨ s.ref.xoQual = false ∨ (s.port 0).st ≠ .run then .next s
  else
    let j := judgeWindow (refExpect s (322265625 / 2)) count256 s.ref.upWin s.ref.upState
    let s1 : State := { s with ref.upWin := j.1, ref.upState := j.2 }
    if s.ref.upState = 3 ∧ j.2 ≠ 3 then .next (sourceLost s1 .uplink)
    else if s.ref.upState ≠ 3 ∧ j.2 = 3 then .next (uplinkSelect (refMoved s1))
    else .next s1

/-- ACTIVITY_MONITOR_FIRE (R41, R49): 0 XO, 1 REFIN, 2 UPLINK. A qualified source loses its qualification. -/
def execActivityMonitorFire (src : Nat) (s : State) : Out :=
  if src = 0 then .next (monitorFires (xoLose { s with ref.xoActive := false }) .xo)
  else if src = 1 then
    .next (qualNotify (monitorFires (if s.ref.refinState = 3 then { s with ref.refinState := 5, ref.refinWin := [] } else s) .refin))
  else if src = 2 then
    .next (monitorFires (if s.ref.upState = 3 then { s with ref.upState := 5, ref.upWin := [] } else s) .uplink)
  else .next s

/-- REFIN_CFG_WRITE (R39, R42). -/
def execRefinCfgWrite (v : Word) (s : State) : Out := .next (chipWrite s 0x18002 fun s => writeRefinCfg s v)

/-- REFIN_FREQ_COMMIT (R39): the host port reports a refusal as prev_ign (R286). -/
def execRefinFreqCommit (hi : Word) (s : State) : Out :=
  .next (chipWrite s 0x18005 fun s =>
    if refinFreqOk (hi ++ s.ref.refinLo).toNat then commitRefin s hi else { commitRefin s hi with hp.ign := true })

/-! ### Region source selection and the RRP -/

/-- REF_CTL. -/
def refCtl (g : RegionSt) : Word :=
  wd (g.borrowDelay.toNat * 32 + b2n g.borrowEn * 16 + g.bw.toNat * 4 + g.srcReg.code)

/-- bw, borrow_en and borrow_delay of REF_CTL (R48, R50). -/
def refFields (s : State) (r : Nat) (v : Word) : State :=
  s.updRegion r (fun g => { g with
    bw := v.extractLsb' 2 2, borrowEn := bitOf v 4, borrowDelay := v.extractLsb' 5 3 })

/-- A write of REF_CTL (R43, R46, R48): the fields apply, and src is requested. -/
def writeRefCtl (s : State) (r : Nat) (v : Word) : State :=
  if regionPresent s r = false ∨ (s.region r).inReset = true then s
  else
    let src := Src.ofCode (fld v 0 2)
    refMoved (requestSource ((refFields s r v).updRegion r (fun g => { g with srcReg := src })) r src none)

/-- REF_CTL_SRC_WRITE (R43, R46). -/
def execRefCtlSrcWrite (r : Nat) (v : Word) (s : State) : Out := .next (ownerWrite s fun s => writeRefCtl s r v)

/-- REF_CTL_BW_WRITE (R48): the loop's integrator keeps its value, so nothing but the setting moves. -/
def execRefCtlBwWrite (r : Nat) (v : Word) (s : State) : Out := .next (ownerWrite s fun s => writeRefCtl s r v)

/-- MUX_CHANGEOVER (R44 steps 2 to 4H). -/
def execMuxChangeover (r : Nat) (present : Bool) (s : State) : Out :=
  if (s.region r).rrp = .switching then .next (changeEnd s r false present) else .next s

/-- MUX_WATCHDOG (R44 step 2F, R45). -/
def execMuxWatchdog (r : Nat) (present : Bool) (s : State) : Out :=
  if (s.region r).rrp = .switching then .next (relockStart (changeEnd (refForced s r) r true present) r) else .next s

/-- HOLDOVER_LONG (R49, R430 cause 0x22). -/
def execHoldoverLong (r : Nat) (s : State) : Out :=
  if (s.region r).rrp = .holdover then
    let s1 := (s.updRegion r (fun g => { g with rrp := .holdoverLong })).postRef r 4
    if [Src.xo, .refin, .uplink, .neighbour].any (srcQual s r) then .next s1
    else .next (faultRegion (s1.updRegion r (fun g => { g with refUnrec := true })) r 0x22 1 0 0 2)
  else .next s

/-- BORROW_DELAY_EXPIRY (R50). -/
def execBorrowDelayExpiry (r : Nat) (s : State) : Out :=
  if (s.region r).rrp.held = true ∧ (s.region r).borrowWait = 1 then
    .next (refMoved (s.updRegion r (fun g => { g with borrowWait := 2 })))
  else .next s

/-- RRP_LOCKED (R48, R58). -/
def execRrpLocked (r : Nat) (s : State) : Out :=
  let g := s.region r
  if g.rrp = .acquiring ∧ g.inReset = false ∧ srcQual s r g.active = true then
    let s1 := s.updRegion r (fun g => { g with rrp := .locked, everLocked := true })
    .next (startCheck (refMoved s1))
  else .next s

/-- REALIGNED (R52, R503): the difference is removed. -/
def execRealigned (r : Nat) (s : State) : Out :=
  if (s.region r).steering = true then
    let l := s.region (s.region r).steerTo
    let old := anchor (s.region r)
    let s1 := s.updRegion r (fun g => { g with steering := false, time := l.time, anchorHi := l.anchorHi, timeAligned := oneRoot s })
    let s2 := if old = anchor l then s1
      else forAll ((s.cells.map (fun x => x.1)).filter (fun p => decide (cellRegion p = r)))
        (fun s p => s.updCell p (fun c => if c.cfg.ctl.en then c.reanchor old (anchor l) else c)) s1
    .next (s2.postRef r 9)
  else .next s

/-- REGION_REALIGN_TICK (R61, R462): the region takes a running region's time, accepts commands again, and a RESET of
the region completes. -/
def execRegionRealignTick (r : Nat) (s : State) : Out :=
  let g := s.region r
  if g.run = .realign ∧ g.rrp = .locked ∧ s.ref.startTick = true then
    let others := (runningRegions s).filter (fun q => decide (q ≠ r) && decide ((s.region q).run = .run))
    let share := others.filter (sameRoot s r)
    let from_ := match share, others with
      | q :: _, _ => s.region q
      | [], q :: _ => s.region q
      | [], [] => g
    let s1 := s.updRegion r (fun g => { g with
      time := from_.time, anchorHi := from_.anchorHi, run := .run, resetTag := none, timeAligned := oneRoot s })
    let s2 := s1.postRef r (if share = [] then 8 else 9)
    let s3 := rootsMoved (s2.updRegion r (fun g => { g with split := ! oneRoot s, root := rootOf s 4 r, steering := false }))
    match g.resetTag with
    | none => .next s3
    | some t => .next (complete s3 t OK [])
  else .next s

/-- The load edge of a pending tick has come (R58 to R60, R351). -/
def epochLoad (s : State) : State :=
  match s.ref.epoch with
  | none => s
  | some (v, tl, r) =>
    if reached (s.region r).time tl then
      let old := (s.region r).time
      let s1 := epochAll { s with ref.epoch := none } v
      match s1.mbx.cmds.find? (fun c => decide (c.opcode = 0x014) && decide (c.st = .executing)) with
      | none => s1
      | some c => complete s1 c.tag OK [old.extractLsb' 36 18, old.extractLsb' 18 18, old.extractLsb' 0 18]
    else s

/-- EPOCH_LOAD. -/
def execEpochLoad (s : State) : Out := .next (epochLoad s)

/-! ### Commands (R256) -/

/-- The source feeds the region already, which is LOCKED with no change under way (R46). -/
def feeds (s : State) (r : Nat) (src : Src) : Bool :=
  decide ((s.region r).change = none) && decide ((s.region r).rrp = .locked) && decide ((s.region r).active = src)

/-- REF_SELECT: obeyed on a worker too, where it clears join_en (R345). REF_SELECT and RRP_CONFIG set what REF_CTL.src
reads back, as a write of it does (log 59). -/
def execRefSelect (tag : Nat) (s : State) : Out :=
  .next (hitan s tag 0x010 (fun s c =>
    let src := Src.ofCode (fld (c.arg 0) 0 2)
    if srcQual s c.unit src = false ∧ feeds s c.unit src = false then complete s tag PRECOND []
    else
      let s1 := s.updRegion c.unit (fun g => { g with srcReg := src })
      requestSource { s1 with tree.joinEn := s1.tree.joinEn && ! isWorker s1 } c.unit src (some tag)))

/-- REF_QUALIFY. -/
def execRefQualify (tag : Nat) (s : State) : Out :=
  .next (hitan s tag 0x011 (fun s c =>
    let set := bitOf (c.arg 0) 17
    let hz := c.arg 1 ++ c.arg 2
    if set = true ∧ refinFreqOk hz.toNat = false then complete s tag BADARG []
    else
      let s1 :=
        if set then
          let same := decide (fld (c.arg 0) 0 3 = (refinCfg s).toNat) && decide (hz = s.ref.refinFreq)
          let s2 : State := { s with
            ref.refinEn := bitOf (c.arg 0) 0, ref.refinSe := bitOf (c.arg 0) 1, ref.refinTerm := bitOf (c.arg 0) 2,
            ref.refinFreq := hz, ref.refinLo := c.arg 2, ref.refinFreqErr := false }
          if same then s2 else refinRestart s2
        else s
      if bitOf (c.arg 0) 16 = true ∧ (s1.ref.refinState = 1 ∨ s1.ref.refinState = 2) then
        { s1 with ref.qualWait := s1.ref.qualWait ++ [tag] }
      else complete s1 tag OK (qualWords s1)))

/-- RRP_CONFIG. -/
def execRrpConfig (tag : Nat) (s : State) : Out :=
  .next (hitan s tag 0x012 (fun s c =>
    let r := c.unit
    let src := Src.ofCode (fld (c.arg 0) 0 2)
    if bitOf (c.arg 0) 17 then
      if srcQual s r src = false ∧ feeds s r src = false then complete s tag PRECOND []
      else requestSource ((refFields s r (c.arg 0)).updRegion r (fun g => { g with srcReg := src })) r src (some tag)
    else
      let s1 := refMoved (refFields s r (c.arg 0))
      complete s1 tag OK [refStatus s1 r, 0]))

/-- TIME_READ: a snapshot on the CREF edge of execution. -/
def execTimeRead (tag : Nat) (s : State) : Out :=
  .next (hitan s tag 0x013 (fun s c =>
    let r := if tgtScope c.target = 0 then (presentRegions s).headD 0 else c.unit
    complete s tag OK (nowStamp s r ++ [refStatus s r])))

/-- What a dispatched EPOCH_SET begins: the load edge 16,384 cycles on, and the EPOCH blocks of a tree manager, each sent
twice (R59, R339, R351). -/
def epochBegin (s : State) (c : Cmd) : State :=
  if isWorker s then complete s c.tag PRECOND []
  else if s.ref.epoch.isSome then complete s c.tag BUSY []
  else
    match leadRegion s with
    | none => complete s c.tag BUSY []
    | some r =>
      let v := c.arg 0 ++ c.arg 1 ++ c.arg 2
      let tl := (s.region r).time + 16384
      forAll (runDn s) (fun s i => sendBlock (sendBlock s i (.epoch v tl)) i (.epoch v tl)) { s with ref.epoch := some (v, tl, r) }

/-- An EPOCH_SET that passes the checks of its dispatch before the load edge of an earlier one: it completes with BUSY
there, without waiting behind that command for its target (R59; log entry 20). -/
def epochLate (s : State) (c : Cmd) : Bool :=
  decide (c.opcode = 0x014) && mayDispatch s c && decide (c.st = .accepted) && decide (dispatchCheck s c = none)
  && ! deadlinePassed s c && ! isWorker s && s.ref.epoch.isSome

/-- EPOCH_SET (R59, R351): T_L lies 16,384 cycles ahead; a manager sends the tick down the tree, twice (R339). -/
def execEpochSet (tag : Nat) (s : State) : Out :=
  match findCmd s tag with
  | none => .next s
  | some c => .next (if epochLate s c then complete s tag BUSY [] else hitan s tag 0x014 epochBegin)

end Sys2Proof.Machine
end

