-- ==== Sys2Proof/Machine/Engine.lean ====
section
/-! DEFINITION. The rows of the hop engine (chapter 05): one per instruction, with lateness, runaway, time-outs and
single steps, and the engine commands of R258. `p` is a physical cell. -/
namespace Sys2Proof.Machine
open Sys2Proof

/-! ### Fetch and issue (R121 to R124, R136, R145) -/

/-- The instruction ends: the next word, or a jump target, stands at S advanced by the cost (R123, R124, R136). -/
def Engine.next (e : Engine) (cost pc : Nat) : Engine :=
  { e with
    pc := pc, s := e.s + cost, ext := 0, extN := 0,
    noAdv := if cost = 0 then e.noAdv + 1 else 0 }

/-- The instruction of a cell's engine ends (R124). -/
def engNext (s : State) (p cost : Nat) : State := s.updCell p (fun c => { c with eng := c.eng.next cost (c.eng.pc + 1) })

/-- Issue of the word at ENG_PC, which stands at a S that has come: past the partition, at an uncorrectable word or
behind too many EXT words the engine faults; a word of the opcode runs `f` on the chain's operand; any other word is
not this row's (R122 to R124, R145). -/
def engIssue (s : State) (p opc : Nat) (f : State → Engine → Nat → State) : State :=
  let e := (s.cell p).eng
  if e.st ≠ .running ∨ 4096 ≤ e.noAdv ∨ nowEdge s p < e.s then s
  else if engLen s p ≤ e.pc then engFault s p false BADARG
  else if curPrepared s p = false ∧ s.flt.badWords.contains (10, hopKey s p e.pc) = true then
    engFault (meetUncorr s 10 (hopKey s p e.pc) (cellRegion p)) p true FAULT
  else
    let w := curWord s p
    if engOpc w ≠ opc then s
    else if extAllowed opc < e.extN then engFault s p false BADARG
    else f s e (e.ext * 2 ^ 13 + engArg w)

/-- Offset just behind the chain at `pc`: its EXT words and its instruction. n bounds the EXT words looked at. -/
def chainEnd (s : State) (p : Nat) : Nat → Nat → Nat
  | 0, pc => pc + 1
  | n + 1, pc => if pc < engLen s p ∧ engOpc (hopWord s p pc) = 0x1F then chainEnd s p n (pc + 1) else pc + 1

/-- The action of the edge is not ready (R128): it has no effect; the engine stops in LATE, or drops it and goes on. -/
def engLate (s : State) (p : Nat) : State :=
  let e := (s.cell p).eng
  s.cellSat (if (s.cell p).cfg.lateHalt then
    engRecord (s.updCell p (fun c => { c with
      eng := { c.eng.halt .late with late := true, lateCnt := satAdd 0x3FFFF c.eng.lateCnt 1, pc := if 0 < e.extN then e.chain else e.pc } }))
      p 2 TIMEOUT 0 e.s
  else
    let s1 := prepare (s.updCell p (fun c => { c with
      eng := { c.eng.next 1 (chainEnd s p 1 e.pc) with
        st := .running, wait := .none, late := true, lateCnt := satAdd 0x3FFFF c.eng.lateCnt 1 } })) p
    if e.lateCnt = 0 then engRecord s1 p 2 TIMEOUT 0 e.s else s1) p (fun c => c.eng.lateCnt)

/-- An action takes effect on its S and on no other edge (R33, R124); on the edge after the one on which its preparation
began it is always late (R127). -/
def act (s : State) (p : Nat) (e : Engine) (t : State) : State :=
  if e.s ≠ nowEdge s p then s else if e.prepFrom.any (fun f => decide (e.s ≤ f + 1)) then engLate s p else t

/-- The engine waits (R142). -/
def Engine.waitFor (e : Engine) (w : Wait) : Engine := { e with st := .waiting, wait := w }

/-- HALT (R141, R142): HALTED on its S, ENG_PC at the word after it. -/
def doHalt (s : State) (p : Nat) : State :=
  engIssue s p 0x00 (fun s e v =>
    let s1 := s.updCell p (fun c => { c with eng := { (c.eng.next 0 (c.eng.pc + 1)).halt .halted with noAdv := 0 } })
    if v % 2 = 1 then engRecord s1 p 1 OK 0 e.s else s1)

/-- NOP (R122). -/
def doNop (s : State) (p : Nat) : State := engIssue s p 0x01 (fun s _ _ => engNext s p 1)

/-- The outcome of the profile fetch made for the HOP or HOPL at ENG_PC (R126). -/
def fetchedHop (e : Engine) (idx : Nat) : Option (FetchRes × List Word) :=
  e.prep.bind (fun x => if x.hop = some (e.pc, idx) then x.fetched else none)

/-- HOP and HOPL (R126, R133, R137, R145): the prepared words, or those of a fetch that completes on this edge, are due on
S; a refused hop takes its fault path there. -/
def doHop (s : State) (p opc : Nat) (lock : Bool) : State :=
  engIssue s p opc (fun s e v =>
    let idx := v % 256
    let n := chanName s p
    if 192 ≤ idx then engFault s p false BADARG
    else act s p e (
      let go := fun (words : List Word) =>
        prepare (s.updCell p (fun c => { c with
          eng := let e1 := c.eng.next 1 (c.eng.pc + 1)
            if lock then e1.waitFor .lock else e1,
          hop.eng := some { words := words, idx := idx, due := some e.s } })) p
      match fetchedHop e idx with
      | some (res, w) => if res = .ok then go w else engRefused s p res
      | none =>
        let res := fetch s p n idx
        if res = .ok then go (profRow s n idx) else engRefused (refuseHop s p n idx res) p res))

/-- WAITC (R129). -/
def doWaitc (s : State) (p : Nat) : State :=
  engIssue s p 0x04 (fun s e v =>
    let s1 := engNext s p v
    if v = 0 then s1 else s1.updCell p (fun c => { c with eng := c.eng.waitFor (.edge (e.s + v)) }))

/-- WAITT (R129): the next edge at or after S whose low w bits of time equal v. -/
def doWaitt (s : State) (p : Nat) : State :=
  engIssue s p 0x05 (fun s e v =>
    let g := s.region (cellRegion p)
    let t := timeAt g e.s
    let d := (v + 2 ^ 54 - t.toNat) % 2 ^ (13 * (e.extN + 1))
    let c := t + BitVec.ofNat 54 d
    let s1 := engNext s p d
    if d = 0 ∨ reached g.time c = true then s1 else s1.updCell p (fun x => { x with eng := x.eng.waitFor (.time c) }))

/-- The edge of a time-out field t (R131). -/
def tmoOf (s t : Nat) : Option Nat := if t = 0 then none else some (s + 1024 * t)

/-- The first of the events of a class and index that have registered on an edge from s to now, before the time-out;
one still to register ends the wait when it does (R130, R131). -/
def firstEvent (regs : List (Nat × Nat × Nat × Nat)) (r cls idx s now : Nat) (tmo : Option Nat) : Option Nat :=
  ((regs.filter (fun x => decide (x.1 = r) && decide (x.2.1 = cls) && decide (x.2.2.1 = idx) && decide (s ≤ x.2.2.2)
      && decide (x.2.2.2 ≤ now)
      && tmo.all (fun t => decide (x.2.2.2 < t)))).map (fun x => x.2.2.2)).min?

/-- WAITE (R130, R131). -/
def doWaite (s : State) (p : Nat) : State :=
  engIssue s p 0x06 (fun s e v =>
    let cls := v / 2 ^ 10 % 8
    let idx := v % 2 ^ 10
    let tmo := tmoOf e.s (v / 2 ^ 13)
    if 5 ≤ cls ∨ (cls ≤ 1 ∧ 256 ≤ idx) ∨ ((cls = 2 ∨ cls = 3) ∧ 8 ≤ idx) ∨ (cls = 4 ∧ 9 ≤ idx) then engFault s p false BADARG
    else
      let s1 := engNext s p 0
      match firstEvent s.evRegs (cellRegion p) cls idx e.s (nowEdge s p) tmo with
      | some r => s1.updCell p (fun c => { c with eng := { c.eng.waitFor (.edge (r + 16)) with s := r + 16, noAdv := 0 } })
      | none => s1.updCell p (fun c => { c with eng := c.eng.waitFor (.event cls idx tmo) }))

/-- SYNC (R131, R132): a load edge at or after S ends the wait. -/
def doSync (s : State) (p : Nat) : State :=
  engIssue s p 0x07 (fun s e v =>
    let s1 := engNext s p 0
    match (s.region (cellRegion p)).loadAt.filter (fun l => decide (e.s ≤ l)) with
    | some l => s1.updCell p (fun c => { c with eng := { c.eng.waitFor (.edge (l + 16)) with s := l + 16, noAdv := 0 } })
    | none => s1.updCell p (fun c => { c with eng := c.eng.waitFor (.sync (tmoOf e.s (v / 2 ^ 13))) }))

/-- A pulse of 8 CREF cycles from edge m of region r on a MARKO pin; pulses combine as a logical OR (R140). -/
def markoPulse (s : State) (r pin m : Nat) : State :=
  let old := tabGet (0, 0) s.pins.marko pin
  let e := max (m + 8) (if old = (0, 0) then 0 else sameEdge s old.2 r old.1)
  { s with pins.marko := tabSet (0, 0) s.pins.marko pin (e, r) }

/-- MARK (R130, R140, R208). -/
def doMark (s : State) (p : Nat) : State :=
  engIssue s p 0x08 (fun s e v => act s p e (
    let r := cellRegion p
    let m := v % 256
    let s1 := prepare (engNext s p 1) p
    let s2 := if v.testBit 8 then acqMark s1 r (wd (m * 2 ^ 10 + chanName s p % 64 * 2 ^ 4)) else s1
    let s3 := if v.testBit 9 then emitBus s2 r m e.s else s2
    let s4 := if v.testBit 10 then fabricEmit s3 r m e.s else s3
    if v.testBit 11 then markoPulse s4 r (m % 4) e.s else s4))

/-- PHS (R138, R144): the sum is committed, unless a host commit on the edge prevails. -/
def doPhs (s : State) (p : Nat) : State :=
  engIssue s p 0x09 (fun s e v => act s p e (
    let d := if e.extN = 0 then sgn v 13 * 2 ^ 23 else sgn v 26 * 2 ^ 10
    let s1 := prepare (engNext s p 1) p
    if hostBeats s p (s.cell p).hop.hostPhaseAt then s1
    else
      let ofs := (s.cell p).vals.ofs + BitVec.ofInt 36 d
      phaseCheck (forAll (bothCells s p) (fun s q => s.updCell q (fun c =>
        { (c.keepUndo (nowEdge s q) .phs).phaseCommit (nowA s q) ofs with vals.stPhLo := ofs.extractLsb' 0 18 })) s1) p))

/-- SETO (R139, R144, R159). -/
def doSeto (s : State) (p : Nat) : State :=
  engIssue s p 0x0A (fun s e v => act s p e (
    let s1 := prepare (engNext s p 1) p
    if hostBeats s p (s.cell p).hop.hostCtlAt then s1
    else
      forAll (bothCells s p) (fun s q =>
        let c := (s.cell q).cfg.ctl
        setOutBits (s.updCell q (fun c => c.keepUndo (nowEdge s q) .seto)) q
          (if v.testBit 3 then v.testBit 0 else c.outEn) (if v.testBit 4 then v.testBit 1 else c.mute)
          (if v.testBit 5 then v.testBit 2 else c.hold) (v.testBit 5 && ! v.testBit 2)) s1))

/-- LOOP (R135). -/
def doLoop (s : State) (p : Nat) : State :=
  engIssue s p 0x0B (fun s e v =>
    if v / 4 = 0 then engFault s p false BADARG
    else (engNext s p 0).updCell p (fun c => { c with
      eng.ctr := tabSet 0 c.eng.ctr (v % 4) (v / 4 % 2 ^ 24), eng.ctrStart := tabSet 0 c.eng.ctrStart (v % 4) (e.pc + 1) }))

/-- ENDL (R135). -/
def doEndl (s : State) (p : Nat) : State :=
  engIssue s p 0x0C (fun s e v =>
    let k := tabGet 0 e.ctr (v % 4)
    (s.updCell p (fun c => { c with
      eng := { c.eng.next 0 (if 1 < k then tabGet 0 e.ctrStart (v % 4) else c.eng.pc + 1) with
        ctr := tabSet 0 c.eng.ctr (v % 4) (k - 1) } })))

/-- JMP (R135). -/
def doJmp (s : State) (p : Nat) : State :=
  engIssue s p 0x0D (fun s _ v =>
    if engLen s p ≤ v then engFault s p false BADARG
    else s.updCell p (fun c => { c with eng := c.eng.next 0 v }))

/-- BRL (R131, R134, R135): it branches on the lock-lost flag outside a reference relock, and departs from the prepared path. -/
def doBrl (s : State) (p : Nat) : State :=
  engIssue s p 0x0E (fun s e v =>
    if e.lockLost = true ∧ (s.cell p).loop.refRelock = false then
      (if engLen s p ≤ v then engFault s p false BADARG
       else prepare (s.updCell p (fun c => { c with eng := { c.eng.next 256 v with lockLost := false } })) p)
    else engNext s p 0)

/-- IRQ (R141). -/
def doIrq (s : State) (p : Nat) : State :=
  engIssue s p 0x0F (fun s e v => engRecord (engNext s p 0) p 0 OK v e.s)

/-- EXT (R123): an EXT in the last word of the partition is a fault. A chain of more EXT words than any instruction
takes faults at its instruction. -/
def doExt (s : State) (p : Nat) : State :=
  let e := (s.cell p).eng
  if e.st ≠ .running ∨ 4096 ≤ e.noAdv ∨ nowEdge s p < e.s then s
  else if engLen s p ≤ e.pc then engFault s p false BADARG
  else if curPrepared s p = false ∧ s.flt.badWords.contains (10, hopKey s p e.pc) = true then
    engFault (meetUncorr s 10 (hopKey s p e.pc) (cellRegion p)) p true FAULT
  else if engOpc (curWord s p) ≠ 0x1F then s
  else if engLen s p ≤ e.pc + 1 then engFault s p false BADARG
  else s.updCell p (fun c => { c with
    eng := { e with
      chain := if e.extN = 0 then e.pc else e.chain, ext := e.ext * 2 ^ 13 + engArg (curWord s p), extN := e.extN + 1,
      pc := e.pc + 1, noAdv := e.noAdv + 1 } })

/-- An opcode of 0x10 to 0x1E at ENG_PC (R122, R145). -/
def doIllegal (s : State) (p : Nat) : State :=
  let o := engOpc (curWord s p)
  if 0x10 ≤ o ∧ o ≤ 0x1E then engIssue s p o (fun s _ _ => engFault s p false BADARG)
  else if engLen s p ≤ (s.cell p).eng.pc then engIssue s p o (fun s _ _ => s)
  else s

/-! ### The rows: one per instruction -/

/-- HALT. -/
def execHalt (p : Nat) (s : State) : Out := .next (doHalt s p)
/-- NOP. -/
def execNop (p : Nat) (s : State) : Out := .next (doNop s p)
/-- HOP. -/
def execHopInstr (p : Nat) (s : State) : Out := .next (doHop s p 0x02 false)
/-- HOPL. -/
def execHopl (p : Nat) (s : State) : Out := .next (doHop s p 0x03 true)
/-- WAITC. -/
def execWaitc (p : Nat) (s : State) : Out := .next (doWaitc s p)
/-- WAITT. -/
def execWaitt (p : Nat) (s : State) : Out := .next (doWaitt s p)
/-- WAITE. -/
def execWaite (p : Nat) (s : State) : Out := .next (doWaite s p)
/-- SYNC. -/
def execSync (p : Nat) (s : State) : Out := .next (doSync s p)
/-- MARK. -/
def execMark (p : Nat) (s : State) : Out := .next (doMark s p)
/-- PHS. -/
def execPhs (p : Nat) (s : State) : Out := .next (doPhs s p)
/-- SETO. -/
def execSeto (p : Nat) (s : State) : Out := .next (doSeto s p)
/-- LOOP. -/
def execLoop (p : Nat) (s : State) : Out := .next (doLoop s p)
/-- ENDL. -/
def execEndl (p : Nat) (s : State) : Out := .next (doEndl s p)
/-- JMP. -/
def execJmp (p : Nat) (s : State) : Out := .next (doJmp s p)
/-- BRL. -/
def execBrl (p : Nat) (s : State) : Out := .next (doBrl s p)
/-- IRQ. -/
def execIrq (p : Nat) (s : State) : Out := .next (doIrq s p)
/-- EXT. -/
def execExt (p : Nat) (s : State) : Out := .next (doExt s p)
/-- ILLEGAL_OPCODE (R122, R145). -/
def execIllegalOpcode (p : Nat) (s : State) : Out := .next (doIllegal s p)

/-- ENGINE_RUNAWAY (R136). -/
def execEngineRunaway (p : Nat) (s : State) : Out :=
  if (s.cell p).eng.st = .running ∧ 4096 ≤ (s.cell p).eng.noAdv then .next (engFault s p false BADARG) else .next s

/-- The chain at ENG_PC is an action of allowed length: HOP, HOPL, MARK, PHS or SETO (R123). -/
def actionAhead (s : State) (p : Nat) : Bool :=
  let e := (s.cell p).eng
  let last := chainEnd s p 1 e.pc - 1
  let o := engOpc (if last = e.pc then curWord s p else hopWord s p last)
  decide (last < engLen s p) && (decide (o = 0x02) || decide (o = 0x03) || decide (o = 0x08) || decide (o = 0x09) || decide (o = 0x0A))
  && decide (e.extN + (last - e.pc) ≤ extAllowed o)

/-- The chain at ENG_PC ends in a HOP or HOPL whose profile fetch has not been made. -/
def hopUnfetched (s : State) (p : Nat) : Bool :=
  let w := curWord s p
  (decide (engOpc w = 0x02) || decide (engOpc w = 0x03)) && decide (fld w 0 8 < 192) && (fetchedHop (s.cell p).eng (fld w 0 8)).isNone

/-- ENGINE_LATE (R128): the action due on S is not ready, and has no effect. -/
def execEngineLate (p : Nat) (s : State) : Out :=
  if (s.cell p).eng.st = .running ∧ (s.cell p).eng.s ≤ nowEdge s p ∧ actionAhead s p = true then .next (engLate s p) else .next s

/-- A time-out edge t ends a wait (R131): the next instruction is skipped, S is t plus 256, and preparation of the next action
begins there. -/
def waitTimeout (s : State) (p : Nat) : State :=
  let e := (s.cell p).eng
  let go := fun (t : Nat) =>
    if e.st = .waiting ∧ t ≤ nowEdge s p then
      prepare (s.updCell p (fun c => { c with
        eng := { c.eng with
          st := .running, wait := .none, ext := 0, extN := 0, noAdv := 0, s := t + 256,
          pc := chainEnd s p (engLen s p) e.pc } })) p
    else s
  match e.wait with
  | .event _ _ (some t) => go t
  | .sync (some t) => go t
  | _ => s

/-- WAIT_TIMEOUT (R131). -/
def execWaitTimeout (p : Nat) (s : State) : Out := .next (waitTimeout s p)

/-! ### Single steps and the window's engine registers (R143) -/

/-- Executes the word at ENG_PC, whatever it is. -/
def doWord (s : State) (p : Nat) : State :=
  let o := engOpc (curWord s p)
  if o = 0x00 then doHalt s p else if o = 0x01 then doNop s p else if o = 0x02 then doHop s p 0x02 false
  else if o = 0x03 then doHop s p 0x03 true else if o = 0x04 then doWaitc s p else if o = 0x05 then doWaitt s p
  else if o = 0x06 then doWaite s p else if o = 0x07 then doSync s p else if o = 0x08 then doMark s p
  else if o = 0x09 then doPhs s p else if o = 0x0A then doSeto s p else if o = 0x0B then doLoop s p
  else if o = 0x0C then doEndl s p else if o = 0x0D then doJmp s p else if o = 0x0E then doBrl s p
  else if o = 0x0F then doIrq s p else if o = 0x1F then doExt s p else doIllegal s p

/-- What the engine does with the word at ENG_PC when its S comes to an end: an action that is not ready is late (R128). -/
def settleWord (s : State) (p : Nat) : State :=
  if actionAhead s p = true ∧ ((s.cell p).eng.s < nowEdge s p ∨ hopUnfetched s p = true) then engLate s p else doWord s p

/-- Everything that stands on the present edge in the engine's program is executed, and a runaway program faults (R124,
R136); at most n words. -/
def engSettle (p : Nat) : Nat → State → State
  | 0, s => s
  | n + 1, s =>
    if (s.cell p).eng.st = .running ∧ (s.cell p).eng.s ≤ nowEdge s p then
      (if 4096 ≤ (s.cell p).eng.noAdv then engFault s p false BADARG else engSettle p n (settleWord s p))
    else s

/-- A stop (R142, R143), of an engine in any state: on the edge after this one, so what is due on this edge has its
effect; ENG_PC holds the first instruction not executed. -/
def engStop (s : State) (p : Nat) : State :=
  (engSettle p 4100 s).updCell p (fun c => { c with
    eng := { c.eng.halt .stopped with pc := if 0 < c.eng.extN then c.eng.chain else c.eng.pc } })

/-- A start may be taken: the cell is enabled, the channel has a partition, and a spare is seated (R19, R125). -/
def engCanStart (s : State) (p : Nat) : Bool :=
  (s.cell p).cfg.ctl.en && decide (0 < partWords s (chanName s p)) && (channelOf s p).isSome

/-- A start with schedule edge s0 (R125). -/
def engStart (s : State) (p s0 : Nat) : State :=
  prepare (s.updCell p (fun c => { c with
    eng := { (c.eng.halt .running) with
      s := s0, chain := c.eng.pc, ctr := [], ctrStart := [], lockLost := false, late := false, fault := false,
      lateCnt := 0, noAdv := 0 } })) p

/-- A write of 1 or 0 to ENG_CTL.run, with late_halt (R125, R143). -/
def writeEngRun (s : State) (p : Nat) (v : Word) : State :=
  let s1 := s.updCell p (fun c => { c with cfg.lateHalt := bitOf v 2 })
  if bitOf v 0 then (if engCanStart s1 p ∧ (s1.cell p).eng.active = false then engStart s1 p (nowEdge s p + 256) else s1)
  else engStop s1 p

/-- ENG_CTL_RUN (R125): a write of ENG_CTL with run = 1. -/
def execEngCtlRun (p : Nat) (v : Word) (s : State) : Out := .next (directWrite s p 0x16 (fun s q => writeEngRun s q (v ||| 1)))

/-- ENG_CTL_STOP (R143): a write of ENG_CTL with run = 0. -/
def execEngCtlStop (p : Nat) (v : Word) (s : State) : Out := .next (directWrite s p 0x16 (fun s q => writeEngRun s q (v &&& ~~~1)))

/-- Words of one chain; a chain is at most three EXT words and its instruction, a longer one faults. -/
def doChain (p : Nat) : Nat → State → State
  | 0, s => if 0 < (s.cell p).eng.extN then engFault s p false BADARG else s
  | n + 1, s =>
    let s1 := doWord s p
    if (s1.cell p).eng.st = .running ∧ 0 < (s1.cell p).eng.extN then doChain p n s1 else s1

/-- A step (R143): the chain at ENG_PC executes once, with no lateness check, waits do not wait, and the state is
unchanged unless it faults. -/
def engStepNow (s : State) (p : Nat) : State :=
  let old := (s.cell p).eng
  let s1 := doChain p 5 (s.updCell p (fun c => { c with
    eng := { c.eng with
      st := .running, s := nowEdge s p, chain := c.eng.pc, noAdv := 0, ext := 0, extN := 0, wait := .none, prep := none,
      prepFrom := none } }))
  if (s1.cell p).eng.st = .fault then s1
  else s1.updCell p (fun c => { c with eng := { c.eng with st := old.st, wait := .none, s := old.s, noAdv := 0, prep := none, prepFrom := none } })

/-- A write of ENG_CTL (R125, R143): run starts or stops; step executes one chain of an engine that does not run. A write
that carries run and step starts the engine, and the step is then met by a running engine (log 55). -/
def writeEngCtl (s : State) (p : Nat) (v : Word) : State :=
  let was := (s.cell p).eng.active
  let s1 := writeEngRun s p v
  if bitOf v 1 = true ∧ was = false ∧ (s1.cell p).eng.active = false ∧ (channelOf s1 p).isSome = true then engStepNow s1 p else s1

/-- A write of ENG_PC, refused while the engine runs (R82, R144). -/
def writeEngPc (s : State) (p : Nat) (v : Word) : State :=
  if (s.cell p).eng.active then setCfgErr s p true
  else s.updCell p (fun c => { c with eng.pc := fld v 0 15, loop.cfgErr := false })

/-- ENG_CTL_STEP (R143): a write of ENG_CTL with step = 1 and run = 0 met by a stopped engine. -/
def execEngCtlStep (p : Nat) (v : Word) (s : State) : Out :=
  .next (directWrite s p 0x16 (fun s q => writeEngCtl s q (if (s.cell q).eng.active then v ||| 3 else (v ||| 2) &&& ~~~1)))

def EngSt.code : EngSt → Nat
  | .stopped => 0 | .running => 1 | .waiting => 2 | .halted => 3 | .late => 4 | .fault => 5

/-- ENG_STATUS (R82). -/
def engStatus (e : Engine) : Word :=
  wd (e.st.code * 2 ^ 15 + b2n e.late * 2 ^ 14 + b2n e.fault * 2 ^ 13 + b2n e.held.isSome * 2 ^ 12)

/-! ### Commands (R258) -/

/-- PROG_LOAD (R121, R258). -/
def execProgLoad (tag : Nat) (s : State) : Out :=
  .next (hitan s tag 0x030 (fun s c =>
    let n := c.unit
    let ws := c.args.drop 1
    let off := fld (c.arg 0) 0 15
    if partWords s n = 0 then complete s tag PRECOND []
    else if partWords s n < off + ws.length then complete s tag BADARG []
    else
      let k := cellRegion n * 32768 + partBase s n + off
      complete { clearBad s 10 k (k + ws.length) with hopTab := tabPut s.hopTab k ws } tag OK [wd ws.length]))

/-- Three words of a coarse time. -/
def timeWords (t : BitVec 54) : List Word := [t.extractLsb' 36 18, t.extractLsb' 18 18, t.extractLsb' 0 18]

/-- ENGINE_START (R125, R258). -/
def execEngineStart (tag : Nat) (s : State) : Out :=
  .next (hitan s tag 0x031 (fun s c =>
    let p := inService s c.unit
    let g := s.region (cellRegion p)
    if (s.cell p).eng.active = true ∨ engCanStart s p = false then complete s tag PRECOND []
    else
      let t := c.arg 1 ++ c.arg 2 ++ c.arg 3
      if bitOf (c.arg 0) 17 = true ∧ reached g.time t = true then complete s tag TIMEOUT []
      else
        let s1 := if bitOf (c.arg 0) 16 then s.updCell p (fun x => { x with eng.pc := fld (c.arg 0) 0 15 }) else s
        let s0 := if bitOf (c.arg 0) 17 then edgeOf g t else g.edge + 256
        complete (engStart s1 p s0) tag OK (timeWords (timeAt g s0))))

/-- ENGINE_STOP (R143, R258). -/
def execEngineStop (tag : Nat) (s : State) : Out :=
  .next (hitan s tag 0x032 (fun s c =>
    let p := inService s c.unit
    let g := s.region (cellRegion p)
    let s1 := engStop s p
    complete s1 tag OK ([wd (s1.cell p).eng.pc, engStatus (s1.cell p).eng] ++ timeWords (timeAt g (g.edge + 1)))))

/-- ENGINE_STATUS (R258). -/
def execEngineStatus (tag : Nat) (s : State) : Out :=
  .next (hitan s tag 0x033 (fun s c =>
    let e := (s.cell (inService s c.unit)).eng
    complete s tag OK [engStatus e, wd e.pc, wd e.lateCnt, wd (partBase s c.unit / 64), wd (partWords s c.unit / 64)]))

/-- Any engine of a region is RUNNING or WAITING (R120). -/
def regionEngineActive (s : State) (r : Nat) : Bool := (regionCells r).any (fun p => (s.cell p).eng.active)

/-- The accepted partition waits for its completion (R120). -/
def partitionBegin (s : State) (c : Cmd) (lens : List Nat) : State :=
  if regionEngineActive s c.unit then complete s c.tag PRECOND []
  else if 512 < lens.sum then complete s c.tag BADARG []
  else s.updMem c.unit (fun m => { m with partBusy := some (c.tag, lens), partStage := [] })

/-- HOPTABLE_PARTITION (R120, R254, R258). -/
def execHoptablePartition (tag : Nat) (s : State) : Out :=
  .next (hitan s tag 0x034 (fun s c =>
    let part := fld (c.arg 0) 0 3
    if bitOf (c.arg 0) 16 then partitionBegin s c (List.replicate 64 8)
    else
      let stage := (s.mem c.unit).partStage.filter (fun x => decide (x.1 ≠ part)) ++ [(part, (c.args.drop 1).map (fun w => fld w 0 10))]
      if bitOf (c.arg 0) 17 then
        (if (List.range 8).all (fun k => stage.any (fun x => decide (x.1 = k))) then
          partitionBegin s c ((List.range 8).flatMap (fun k => ((stage.find? (fun x => x.1 == k)).map (fun x => x.2)).getD []))
         else complete s tag BADARG [])
      else complete (s.updMem c.unit (fun m => { m with partStage := stage })) tag OK [0]))

/-- First word of channel cell i under the lengths of a partition. -/
def lensBase (lens : List Nat) (i : Nat) : Nat := 64 * (lens.take i).sum

/-- PARTITION_COMPLETE (R120): the new partition is in force; partitions that moved or changed length are zero-filled. -/
def execPartitionComplete (r : Nat) (s : State) : Out :=
  match (s.mem r).partBusy with
  | none => .next s
  | some (tag, lens) =>
    let old := (List.range 64).map (fun i => tabGet 8 (s.mem r).partLen i)
    let keeps := fun (i : Nat) => decide (lensBase old i = lensBase lens i) && decide (old.getD i 0 = lens.getD i 0)
    let gone := fun (k : Nat) => decide (r * 32768 ≤ k) && decide (k < r * 32768 + 64 * lens.sum)
      && ! (List.range 64).any (fun i => keeps i && decide (r * 32768 + lensBase lens i ≤ k)
        && decide (k < r * 32768 + lensBase lens i + 64 * lens.getD i 0))
    let s1 : State := { s with
      hopTab := tabDrop gone s.hopTab,
      flt.badWords := s.flt.badWords.filter (fun b => ! (decide (b.1 = 10) && gone b.2)),
      flt.eccLogged := s.flt.eccLogged.filter (fun b => ! (decide (b.1 = 10) && gone b.2)) }
    let s2 := s1.updMem r (fun m => { m with
      partBusy := none, partLen := (List.range 64).foldl (fun t i => tabSet 8 t i (lens.getD i 0)) [] })
    .next (complete s2 tag OK [1])

end Sys2Proof.Machine
end

