-- ==== Sys2Proof/Machine/Bist.lean ====
section
/-! DEFINITION. The self-test controller, its rows and commands, and repair (chapter 17; R24, R263). -/
namespace Sys2Proof.Machine
open Sys2Proof

/-! ### Slots (R24, R398, R399) -/

/-- Region of a slot. -/
def SlotKind.reg : SlotKind → Nat
  | .online n => n / 64
  | .block B => B / 4
  | .region r => r

/-- Blocks of a slot. -/
def SlotKind.blocks : SlotKind → List Nat
  | .online n => [n / 16]
  | .block B => [B]
  | .region r => [4 * r, 4 * r + 1, 4 * r + 2, 4 * r + 3]

/-- The regions that hold a slot. -/
def slotRegions (s : State) : List Nat :=
  (s.bist.runs.filter (fun r => decide (r.stage ≠ .waitSlot))).flatMap (fun r => (r.periods.take 1).map SlotKind.reg)

/-- A slot for region r is free: at most one per region and two at a time (R24, R398). -/
def slotFree (s : State) (r : Nat) : Bool := ! (slotRegions s).contains r && decide ((slotRegions s).length < 2)

/-- The run asks the arbiters for the resources of its present period (R21, R400, R402). -/
def enterGrant (s : State) (r : BistRun) : State :=
  match r.periods with
  | [] => s
  | k :: _ =>
    let q : Requester := match k with
      | .online _ => .online
      | _ => .offline
    forAll k.blocks (fun s B => s.updBlock B (fun b => { b with waiting := b.waiting ++ [(q, r.tag)], bistState := 1 }))
      (setRun s r.tag (fun r => { r with stage := .waitGrant }))

/-- The pace has reached P2: the runs that waited for it go on (R399). -/
def bistPaceUp (s : State) : State :=
  forAll (s.bist.runs.filter (fun r => decide (r.stage = .waitPace))) (fun s r => enterGrant s r) s

/-- The raise failed its confirmation: the tests do not start and nothing is recorded (R399). -/
def bistPaceFail (s : State) : State :=
  forAll (s.bist.runs.filter (fun r => decide (r.stage = .waitPace))) (fun s r => bistEnd s r PRECOND) s

/-- SELF_TEST_SLOT_GRANT (R24, R398, R399): the first run whose slot is free takes it; below P2 the pace is raised first. -/
def execSelfTestSlotGrant (s : State) : Out :=
  match s.bist.runs.find? (fun r => decide (r.stage = .waitSlot) && (r.periods.take 1).all (fun k => slotFree s k.reg)) with
  | none => .next s
  | some r =>
    if s.pace.st ≠ .steady then .next s
    else
      let s1 : State := { s with bist.paceHold := true }
      if 2 ≤ s.pace.level then .next (enterGrant s1 r)
      else
        .next (setRun { s1 with
          pace := { s.pace.begin 2 with forTest := true, pendingLevel := some (s.pace.pendingLevel.getD s.pace.level) } }
          r.tag (fun r => { r with stage := .waitPace }))

/-! ### BIST_RUN (R263, R400, R401) -/

/-- A mask that the scope accepts (R263, R395). -/
def bistMaskOk (scope : Nat) (m : BitVec 6) : Bool :=
  decide (m ≠ 0) && (if scope = 3 then decide (m &&& ~~~0b001110 = 0) else if scope = 2 then decide (m &&& ~~~0b111110 = 0) else true)

/-- The periods of a run, in order (R400, R401). -/
def bistPeriods (scope i : Nat) (m : BitVec 6) : List SlotKind :=
  if scope = 3 then [.online i] else if scope = 2 then [.block i]
  else (if m &&& 0b000011 = 0 then [] else [.region i])
    ++ (if m &&& 0b111110 = 0 then [] else (List.range 4).map (fun b => .block (4 * i + b)))

/-- The conditions of R400 step 1 and R401 under which nothing runs. -/
def bistBarred (s : State) (scope i : Nat) (m : BitVec 6) : Bool :=
  if scope = 3 then onlineBarred s i
  else if scope = 1 ∧ m.getLsbD 0 = true then regionEngineActive s i || (s.acq i).armed
  else false

/-- BIST_RUN (R263, R398, R400, R401). -/
def execBistRun (tag : Nat) (s : State) : Out :=
  .next (hitan s tag 0x070 (fun s c =>
    let m := BitVec.ofNat 6 (c.arg 0).toNat
    let sc := tgtScope c.target
    let ps := bistPeriods sc c.unit m
    if bistMaskOk sc m = false then complete s tag BADARG []
    else if bistBarred s sc c.unit m = true then complete s tag PRECOND []
    else if c.noWait = true ∧ ((ps.take 1).all (fun k => slotFree s k.reg && (match k with
        | .online n => outOfService s n || spareFree s (n / 16)
        | _ => k.blocks.all (blockIdle s))) = false
        ∨ s.bist.runs.any (fun r => decide (r.stage = .waitSlot)) = true) then complete s tag BUSY []
    else { s with bist.runs := s.bist.runs ++ [{ tag := tag, tests := m, periods := ps }] }))

/-! ### Outcomes (R396, R397, R404) -/

/-- The count a complete run applies on one unit (R395): by test and scope of the unit. -/
def testCount (test scope : Nat) : Nat :=
  if test = 0 then 7536640
  else if test = 1 then (if scope = 3 then 65536 else if scope = 2 then 262144 else 131072)
  else if test = 2 then 384 else if test = 5 then 128 else 256

/-- Outcome of one unit: 1 PASS, 2 FAIL, 3 INCOMPLETE (R397). -/
def unitOutcome (s : State) (o : TestOut) : Nat :=
  if o.test ≤ 1 then
    if o.count < testCount o.test (o.unit / 2 ^ 15) then 3
    else if o.sig = Config.golden o.test (o.unit / 2 ^ 15) s.fuses.stepping then 1 else 2
  else if 0 < o.failed then 2
  else if o.count < testCount o.test (o.unit / 2 ^ 15) ∨ o.passed < o.count then 3 else 1

/-- The record of a unit's outcome. -/
def resOf (s : State) (o : TestOut) (stale : Bool) : TestRes :=
  { out := unitOutcome s o, passed := o.passed, failed := o.failed, count := o.count, sig := o.sig,
    soft := decide (o.repairs ≠ []), stale := stale }

/-- The outcomes of several units as one (R397, R404): failing before incomplete, sums of checkpoints, and the signature
of the first unit that failed, else of the first cut short, else of the last. -/
def joinRes (l : List TestRes) (missing : Bool) : TestRes :=
  let out := if l.any (fun r => decide (r.out = 2)) then 2 else if missing || l.any (fun r => decide (r.out = 3)) then 3 else 1
  let pick := match l.find? (fun r => decide (r.out = 2)) with
    | some r => r.sig
    | none => match l.find? (fun r => decide (r.out = 3)) with
      | some r => r.sig
      | none => (l.getLast?.map (fun r => r.sig)).getD 0
  { out := out, passed := min (l.map (fun r => r.passed)).sum 0x3FFFF, failed := min (l.map (fun r => r.failed)).sum 0x3FFFF,
    count := (l.map (fun r => r.count)).sum, sig := pick, soft := l.any (fun r => r.soft) }

/-- The units of a test within a block, as descriptor word 1 (R395). -/
def blockUnits (s : State) (B test : Nat) : List Nat :=
  if test = 1 then [2 * 2 ^ 15 + B]
  else if test ≤ 3 then ((List.range 16).map (fun c => 3 * 2 ^ 15 + (16 * B + c))) ++ [3 * 2 ^ 15 + spareOf B]
  else if test = 4 then (([0, 1, 2, 3].map (fun t => 4 * B + t)).filter (tiuPresent s)).map (fun t => 4 * 2 ^ 15 + t)
  else (List.range 16).map (fun c => 3 * 2 ^ 15 + (16 * B + c))

/-- The outcome of a test over a list of units; a unit that reports nothing was cut short. -/
def testOver (s : State) (outs : List TestOut) (test : Nat) (units : List Nat) : TestRes :=
  let got := units.map (fun u => outs.find? (fun o => decide (o.test = test) && decide (o.unit = u)))
  joinRes (got.filterMap (fun o => o.map (fun o => resOf s o false))) (got.any (fun o => o.isNone))

/-- Test masks passed, failed and incomplete from the outcome of each test. -/
def addMask (m : BitVec 6 × BitVec 6 × BitVec 6) (test out : Nat) : BitVec 6 × BitVec 6 × BitVec 6 :=
  let b : BitVec 6 := 1#6 <<< test
  if out = 2 then (m.1 &&& ~~~b, m.2.1 ||| b, m.2.2)
  else if m.2.1.getLsbD test then m
  else if out = 3 then (m.1 &&& ~~~b, m.2.1, m.2.2 ||| b)
  else if m.2.2.getLsbD test then m else (m.1 ||| b, m.2.1, m.2.2)

/-- Record 0x07 of an ONLINE test that failed on cell n (R400, R430). -/
def onlineFail (s : State) (n action : Nat) (outs : List TestOut) : State :=
  match outs.find? (fun o => decide (unitOutcome s o = 2)) with
  | none => s
  | some o => faultCell s n 0x07 action o.test (if o.test = 1 then 0x3FFFF else wd (min o.failed 0x3FFFF))

/-- BIST_TESTS_DONE (R397, R400 steps 4 to 5, R404): the tests of the ONLINE run in block b have ended. -/
def execBistTestsDone (b : Nat) (outs : List TestOut) (dur : Nat) (s : State) : Out :=
  match s.bist.runs.find? (fun r => match r.periods with
      | .online n :: _ => decide (n / 16 = b) && decide (r.stage = .testing)
      | _ => false) with
  | none => .next s
  | some r =>
    match r.periods with
    | .online n :: _ =>
      if r.seated = true ∧ ((s.block b).seated ≠ some (n % 16) ∨ (s.block b).seating ≠ none) then .next s
      else
        let tests := testsOf r.tests
        let one := tests.map (fun t => (t, testOver s outs t [3 * 2 ^ 15 + n]))
        let masks := one.foldl (fun m x => addMask m x.1 x.2.out) (0, 0, 0)
        let bad := decide (masks.2.1 ≠ 0)
        let stale := bad || r.faulted.contains n
        let s1 := forAll one (fun s x => putResult s 3 n x.1 { x.2 with stale := stale }) s
        let s2 := s1.updBlock b (fun y => { y with bistPass := masks.1, bistFail := masks.2.1 })
        let r1 := { r with res := masks, dur := dur, stage := .restoring }
        let s3 := setRun s2 r.tag (fun _ => r1)
        let mine := tests.filterMap (fun t => outs.find? (fun o => decide (o.test = t) && decide (o.unit = 3 * 2 ^ 15 + n)))
        if r.seated then
          if bad then
            let s4 := (onlineFail s3 n 4 mine).updBlock b (fun y => { y with
              why := .fault, holder := some .fault, holdCell := none,
              failed := if y.failed.contains (n % 16) then y.failed else y.failed ++ [n % 16] })
            .next (bistEnd (bistIdle (s4.postBlock b 0) b) r1 FAULT)
          else .next (seat s3 b (n % 16) .online true none (s.region (b / 4)).edge)
        else
          .next (bistEnd (bistIdle (if bad then onlineFail s3 n 0 mine else s3) b) r1 (bistStatusOf masks))
    | _ => .next s

/-! ### OFFLINE periods (R401 to R403) -/

/-- The cells of a block, spare last. -/
def blockCells (B : Nat) : List Nat := (List.range 16).map (fun c => 16 * B + c) ++ [spareOf B]

/-- The run whose present period is an OFFLINE one in region r at a stage. -/
def offlineRun (s : State) (r : Nat) (st : BistStage) : Option BistRun :=
  s.bist.runs.find? (fun x => decide (x.stage = st) && (match x.periods with
    | .block B :: _ => decide (B / 4 = r)
    | .region q :: _ => decide (q = r)
    | _ => false))

/-- The tests of a period: tests 0 and 1 of the region in a region-wide one, the rest in block periods (R401). -/
def periodTests (r : BistRun) (k : SlotKind) : List Nat :=
  match k with
  | .region _ => (testsOf r.tests).filter (fun t => decide (t ≤ 1))
  | _ => (testsOf r.tests).filter (fun t => decide (1 ≤ t))

/-- Edge G in one cell: the engine stops, the driver goes to the muted level (R146, R402 step 2). -/
def offlineCell (s : State) (p : Nat) : State :=
  let s1 := if (s.cell p).eng.st = .stopped then s
    else
      let s0 := engStop s p
      engRecord s0 p 4 INCOMPLETE 0 (s0.cell p).eng.s
  s1.updCell p (fun c => { c.toMuted with hop.learn := none, hop.learnRun := false, out.activeAfter := none, out.disableAt := none })

/-- OFFLINE_START (R402 step 2): edge G of the period that has all its grants. -/
def execOfflineStart (r : Nat) (s : State) : Out :=
  match offlineRun s r .waitGrant with
  | none => .next s
  | some x =>
    match x.periods with
    | [] => .next s
    | k :: _ =>
      if k.blocks.any (fun B => (s.block B).waiting.contains (.offline, x.tag)) then .next s
      else
        let g := (s.region r).edge
        let s1 := forAll k.blocks (fun s B => s.updBlock B (fun b => { b with
          offAt := g, bistState := 3, bistTest := (periodTests x k).headD 7, bistPass := 0, bistFail := 0,
          saved := (blockCells B).map (fun p => (p, s.cell p)) })) s
        let s2 := forAll (k.blocks.flatMap blockCells) offlineCell s1
        let s3 := forcedGap s2 r 3 0
        let s4 := match k with
          | .region q => s3.updMem q (fun m => { m with offline := true })
          | _ => forAll k.blocks (fun s B => s.updBlock B (fun b => { b with offline := true })) s3
        .next (setRun s4 x.tag (fun x => { x with stage := .testing, faulted := [] }))

/-- Edge R in one cell: the saved window and Delta come back, an enabled cell acquires with its saved codes as a usable
hint, and its TOUT follows the enable row of R166; the latches of R158 are kept (R402 step 4). -/
def restoreCell (s : State) (p : Nat) (old : CellSt) : State :=
  s.updCell p (fun c =>
    let c1 := { c with
      vals := old.vals, cfg := old.cfg, trim := old.trim, own := old.own, out := old.out,
      loop := { old.loop with
        lossMute := c.loop.lossMute, lossMuteC := c.loop.lossMuteC, lossHold := c.loop.lossHold,
        rail := c.loop.rail, bandOvf := c.loop.bandOvf, drvFault := c.loop.drvFault, parErr := c.loop.parErr },
      eng := c.eng, hop := { old.hop with lockTags := c.hop.lockTags, phaseTag := c.hop.phaseTag, host := c.hop.host, eng := none } }
    if c1.cfg.ctl.en = false then c1
    else
      let c2 := c1.settleDiv
      let c3 := if c2.inHold then { c2.freeze old.loop.fine with loop.bandChosen := true }
        else c2.acquire (nowEdge s p) .enable (some (old.loop.band, old.loop.fine)) true
      if c3.cfg.ctl.outEn then
        let c4 : CellSt := { c3.toMuted with out.disableAt := none, out.activeAfter := none }
        if c4.loop.bandChosen = true ∧ c4.cfg.ctl.mute = false ∧ c4.loop.lossMute = false then
          c4.activeFrom (nowA s p + c4.halfPeriod)
        else c4
      else c3)

/-- Record 0x16 of an OFFLINE unit that failed (R403, R430). -/
def bistFault (s : State) (B action test unit : Nat) : State := faultBlock s B 0x16 action test (wd unit) 7

/-- The outcomes of the units of a block take effect (R403): TIUs, event inputs, logic, cells and the spare. -/
def applyUnits (s : State) (B : Nat) (outs : List TestOut) : State :=
  let inB := fun (o : TestOut) (test : Nat) => decide (o.test = test) && (blockUnits s B test).contains o.unit
  let s1 := forAll (outs.filter (fun o => inB o 1 && decide (unitOutcome s o = 2))) (fun s o => bistFault s B 1 1 (o.unit % 2 ^ 15)) s
  let s2 := forAll (outs.filter (fun o => inB o 4)) (fun s o =>
    let t := o.unit % 2 ^ 15
    if unitOutcome s o = 2 then bistFault (s.updTiu t (fun x => { x with st := .outOfUse })) B 6 4 t
    else if unitOutcome s o = 1 ∧ (s.tiu t).st = .outOfUse then s.updTiu t (fun x => { x with st := .idle, faults := 0 }) else s) s1
  let s3 := forAll (outs.filter (fun o => inB o 5 && decide (unitOutcome s o = 2))) (fun s o => bistFault s B 1 5 (o.unit % 2 ^ 15)) s2
  let failed := fun p => outs.any (fun o => (decide (o.test = 2) || decide (o.test = 3)) && decide (o.unit = 3 * 2 ^ 15 + p) && decide (unitOutcome s o = 2))
  let passed := fun p t => outs.any (fun o => decide (o.test = t) && decide (o.unit = 3 * 2 ^ 15 + p) && decide (unitOutcome s o = 1))
  let firstBad := fun p => if outs.any (fun o => decide (o.test = 2) && decide (o.unit = 3 * 2 ^ 15 + p) && decide (unitOutcome s o = 2)) then 2 else 3
  let s4 := if passed (spareOf B) 2 && passed (spareOf B) 3 then s3.updBlock B (fun b => { b with spareFaulty := false }) else s3
  let s5 := if failed (spareOf B) then spareFault (bistFault s4 B 1 (firstBad (spareOf B)) (spareOf B)) B else s4
  let late := fun c => (s5.block B).failed.contains c && ! (s5.block B).lost.contains c && decide ((s5.block B).seated ≠ some c)
  forAll (List.range 16) (fun s c =>
    if failed (16 * B + c) then channelFault (bistFault s B 4 (firstBad (16 * B + c)) (16 * B + c)) (16 * B + c)
    else if late c then recoverCell s B c (s.region (B / 4)).edge else s) s5

/-- Per-cell outcomes of a block period against each cell (R404). -/
def recordCells (s : State) (B : Nat) (outs : List TestOut) (faulted : List Nat) : State :=
  forAll (outs.filter (fun o => (decide (o.test = 2) || decide (o.test = 3)) && (blockUnits s B o.test).contains o.unit)) (fun s o =>
    let p := o.unit % 2 ^ 15
    putResult s 3 p o.test (resOf s o (faulted.contains p))) s

/-- A known bad word, as (memory, address key), lies in region r. -/
def regionWord (r : Nat) (w : Nat × Nat) : Bool :=
  decide ((if w.1 < 8 then w.2 / 262144 else if w.1 = 8 then w.2 / 4096 else if w.1 = 9 then w.2 / 122880 else w.2 / 32768) = r)

/-- March C- ends by zero-filling the memories of the region and setting the default partition (R401); staged partition
parts and known bad words go with the old contents. -/
def marchClear (s : State) (r : Nat) : State :=
  let a := s.acq r
  let keep := fun (k : Nat) => decide (k / (64 * 1920) = r)
  { s with
    profiles := tabDrop keep s.profiles, hopTab := tabDrop (fun k => decide (k / 32768 = r)) s.hopTab,
    rmem := tabSet {} s.rmem r { s.mem r with partLen := [], partStage := [] },
    acqs := tabSet {} s.acqs r { a with mem := { a.mem with beads := [], headers := [] } },
    flt.badWords := s.flt.badWords.filter (fun w => ! regionWord r w),
    flt.eccLogged := s.flt.eccLogged.filter (fun w => ! regionWord r w) }

/-- What a region-wide period reports takes effect (R403, R404, R407). -/
def applyRegion (s : State) (r : Nat) (tests : List Nat) (outs : List TestOut) : State :=
  let u := 2 ^ 15 + r
  let get := fun t => outs.find? (fun o => decide (o.test = t) && decide (o.unit = u))
  let s1 := forAll tests (fun s t => putResult s 1 r t (testOver s outs t [u])) s
  let s2 := if tests.contains 0 then marchClear s1 r else s1
  let s3 : State := match get 0 with
    | none => s2
    | some o => { s2 with bist.soft := s2.bist.soft ++ o.repairs.map (fun q =>
        { region := r, mem := q.1, rc := q.2.1, spare := q.2.2.1, addr := q.2.2.2 }) }
  forAll (tests.filterMap get) (fun s o =>
    if unitOutcome s o = 2 then pushFault s 2 0x16 1 o.test (unitWord 1 r) (nowStamp s r) (wd r) else s) s3

/-- OFFLINE_RESTORE (R402 steps 4 and 5, R403, R404): edge R of the period in region r. -/
def execOfflineRestore (r : Nat) (outs : List TestOut) (dur : Nat) (s : State) : Out :=
  match offlineRun s r .testing with
  | none => .next s
  | some x =>
    match x.periods with
    | [] => .next s
    | k :: rest =>
      let tests := periodTests x k
      let off := (k.blocks.map (fun B => (s.block B).offAt)).headD 0
      let gap := 8 * ((s.region r).edge - off)
      let s1 := forAll k.blocks (fun s B => forAll (s.block B).saved (fun s e => restoreCell s e.1 e.2) s) s
      let s2 := match k with
        | .region q => s1.updMem q (fun m => { m with offline := false })
        | _ => s1
      let s3 := forAll k.blocks (fun s B => s.updBlock B (fun b => { b with
        offline := false, saved := [], tiuHeld := [], holder := if b.holder = some .offline then none else b.holder,
        bistState := 0, bistTest := 7 })) s2
      let s4 := forcedGap s3 r 3 gap
      let per := match k with
        | .block B => tests.map (fun t => (t, testOver s outs t (blockUnits s B t)))
        | _ => tests.map (fun t => (t, testOver s outs t [2 ^ 15 + r]))
      let masks := per.foldl (fun m y => addMask m y.1 y.2.out) x.res
      let s5 := match k with
        | .block B =>
          let q := per.foldl (fun m y => addMask m y.1 y.2.out) (0, 0, 0)
          applyUnits (recordCells (forAll per (fun s y => putResult s 2 B y.1 y.2)
            (s4.updBlock B (fun b => { b with bistPass := q.1, bistFail := q.2.1 }))) B outs x.faulted) B outs
        | _ => forAll k.blocks (fun s B => applyUnits s B []) (applyRegion s4 r tests outs)
      let x1 := { x with periods := rest, res := masks, dur := min 0x3FFFF (x.dur + dur), stage := .waitSlot, faulted := [] }
      if rest = [] ∨ x.cut.isSome = true then
        let s6 := if masks.1.getLsbD 1 || masks.2.1.getLsbD 1 || masks.2.2.getLsbD 1 then
            (if x.tests.getLsbD 1 && (match k with
                | .block _ => true
                | _ => false) && decide (1 < (bistPeriods 1 r x.tests).length) && (findCmd s x.tag).any (fun c => decide (tgtScope c.target = 1))
              then putResult s5 1 r 1 (joinRes ([getResult s5 1 r 1] ++ [0, 1, 2, 3].map (fun b => getResult s5 2 (4 * r + b) 1)) false)
              else s5)
          else s5
        .next (bistEnd (setRun s6 x.tag (fun _ => x1)) x1 (bistStatusOf masks))
      else .next (paceRelease (setRun s5 x.tag (fun _ => x1)))

/-! ### Results and repair (R263, R404 to R409) -/

/-- BIST_RESULT (R263, R404). -/
def execBistResult (tag : Nat) (s : State) : Out :=
  .next (hitan s tag 0x071 (fun s c =>
    let t := fld (c.arg 0) 0 3
    let x := getResult s (tgtScope c.target) c.unit t
    let w12 := if t ≤ 1 then [x.sig.extractLsb' 18 18, x.sig.extractLsb' 0 18] else [wd x.passed, wd x.failed]
    if 6 ≤ t then complete s tag BADARG []
    else complete s tag OK ([wd (x.out + 4 * b2n x.soft)] ++ w12 ++ [wd (x.count / 2 ^ 18), wd (x.count % 2 ^ 18)])))

/-- A cell has passed tests 2 and 3 since its fault (R404). -/
def passedSince (s : State) (n : Nat) : Bool :=
  [2, 3].all (fun t => decide ((getResult s 3 n t).out = 1) && ! (getResult s 3 n t).stale)

/-- The REPAIR_APPLY waits for the switch of a fault-recovery seating (R406). -/
def recovering (s : State) (B : Nat) : Bool :=
  (s.block B).recover.isSome || (s.block B).seating.any (fun q => decide (q.req = .fault) && ! q.ret)

/-- Action 0: channel c returns to its own cell (R406). -/
def repairReturn (s : State) (tag B c : Nat) : State :=
  let b := s.block B
  let x := chanOf B c
  if passedSince s x = false ∨ b.fusedMap = some c ∨ (b.lost.contains c = false ∧ (b.seated ≠ some c ∨ b.why = .maintenance)) then
    complete s tag PRECOND []
  else
    let s1 := s.updBlock B (fun b => { b with
      softMap := if b.softMap = some c then none else b.softMap, failed := b.failed.erase c })
    if b.lost.contains c then
      let s2 := s1.updBlock B (fun b => { b with lost := b.lost.erase c })
      let s3 := if (s2.cell x).cfg.ctl.en then enableCell s2 x else s2.updCell x (fun c => { c with out.drv := .disabled })
      complete s3 tag OK [softMapWord s3 B]
    else seat (s1.updBlock B (fun b => { b with holder := some .map })) B c .map true none (s.region (B / 4)).edge

/-- Action 1: the spare is mapped to channel c (R406). -/
def repairMap (s : State) (tag B c : Nat) : State :=
  let b := s.block B
  if b.spareFaulty = true ∨ b.fusedMap.any (fun m => decide (m ≠ c)) = true
     ∨ (b.seated.any (fun m => decide (m ≠ c)) = true ∧ b.why ≠ .maintenance) then complete s tag PRECOND []
  else if b.seated = some c ∧ b.why ≠ .maintenance ∧ b.seating = none then
    if b.why = .fusedMap then complete s tag OK [softMapWord s B]
    else
      let s1 := s.updBlock B (fun b => { b with softMap := some c, why := .softMap, holder := some .map })
      complete s1 tag OK [softMapWord s1 B]
  else if spareFree s B then
    seat (s.updBlock B (fun b => { b with softMap := some c, holder := some .map })) B c .map false none (s.region (B / 4)).edge
  else complete s tag BUSY []

/-- REPAIR_APPLY (R263, R405, R406). -/
def execRepairApply (tag : Nat) (s : State) : Out :=
  .next (hitan s tag 0x072 (fun s c =>
    let a := fld (c.arg 0) 16 2
    if a = 3 then complete s tag BADARG []
    else if recovering s c.unit then grantWait s c
    else if (onlineRunOf s c.unit).isSome then complete s tag BUSY []
    else if a = 0 then repairReturn s tag c.unit (fld (c.arg 0) 0 4)
    else if a = 1 then repairMap s tag c.unit (fld (c.arg 0) 0 4)
    else
      let s1 := s.updBlock c.unit (fun b => { b with
        softMap := none, why := if b.why = .softMap then .fault else b.why,
        holder := if b.seated.isSome ∧ b.why = .softMap then some .fault else b.holder })
      complete s1 tag OK [softMapWord s1 c.unit]))

/-! Antifuses (R408, R409) -/

/-- The entry with its parity bit: odd parity over the 32 bits. -/
def withParity (w : BitVec 32) : BitVec 32 := if ((List.range 32).filter (fun i => w.getLsbD i)).length % 2 = 1 then w else w ||| 1

/-- The parity of an entry checks. -/
def parityOk (w : BitVec 32) : Bool := decide (((List.range 32).filter (fun i => w.getLsbD i)).length % 2 = 1)

/-- A memory-repair entry (R408). -/
def memEntry (m : MemRepair) : BitVec 32 :=
  withParity (BitVec.ofNat 32 (2 ^ 31 + m.region % 4 * 2 ^ 28 + m.mem % 16 * 2 ^ 24 + m.rc % 2 * 2 ^ 23 + m.spare % 4 * 2 ^ 21 + m.addr % 2 ^ 13 * 2 ^ 8))

/-- A cell-map entry (R408). -/
def mapEntry (B c : Nat) : BitVec 32 := withParity (BitVec.ofNat 32 (2 ^ 31 + 2 ^ 30 + B % 16 * 2 ^ 26 + c % 16 * 2 ^ 22))

/-- Entries with any bit burned. -/
def fuseUsed (s : State) : Nat := s.bist.fuse.length

/-- res0 and res1 of REPAIR_BURN (R263, R409). -/
def fuseWords (s : State) : List Word := [wd (32 * fuseUsed s), wd (4096 - 32 * fuseUsed s)]

/-- A repair joins a list sorted by region, memory and address. -/
def insertRepair (m : MemRepair) : List MemRepair → List MemRepair
  | [] => [m]
  | x :: xs =>
    if m.region * 2 ^ 17 + m.mem * 2 ^ 13 + m.addr ≤ x.region * 2 ^ 17 + x.mem * 2 ^ 13 + x.addr then m :: x :: xs
    else x :: insertRepair m xs

/-- Soft repairs of present regions not yet fused, in ascending region, memory and address order (R409). -/
def repairsToBurn (s : State) : List (BitVec 32) :=
  let todo := s.bist.soft.filter (fun m => regionPresent s m.region && ! s.bist.fuse.any (fun e => decide (e.2 = memEntry m)))
  (todo.foldr insertRepair []).map memEntry

/-- The cell-map entry of a block's soft map. -/
def mapToBurn (s : State) (B : Nat) : List (BitVec 32) :=
  match (s.block B).softMap with
  | none => []
  | some c => [mapEntry B c]

/-- REPAIR_BURN (R263, R296, R405, R409): dispatched, it consumes CLASP as one RWC write does, also where it then waits
for the slots to be released. -/
def execRepairBurn (tag : Nat) (s : State) : Out :=
  .next (hitan s tag 0x073 (fun s c =>
    let B := fld (c.arg 1) 0 4
    let es := if bitOf (c.arg 0) 0 then mapToBurn s B else repairsToBurn s
    let waited := decide (c.st = .waiting)
    let shut : State := if waited then s else { s with hc.clasp := .shut }
    if waited = false ∧ s.hc.clasp ≠ .opened then complete s tag PRECOND []
    else if es = [] ∨ 128 < fuseUsed s + es.length ∨ s.lk.lc = 4 then complete shut tag PRECOND []
    else if slotHeld s then grantWait (if c.noWait then s else shut) c
    else { shut with bist.burn := some (tag, es, if bitOf (c.arg 0) 0 then some B else none) }))

/-- FUSE_ENTRY_BURNED (R409): one entry has been burned and read back. -/
def execFuseEntryBurned (ok : Bool) (s : State) : Out :=
  match s.bist.burn with
  | none => .next s
  | some (_, [], _) => .next { s with bist.burn := none }
  | some (tag, e :: es, map) =>
    let s1 : State := { s with bist.fuse := tabSet 0 s.bist.fuse (fuseUsed s) e }
    if ok = false then .next (complete { s1 with bist.burn := none } tag FAULT (fuseWords s1))
    else if es ≠ [] then .next { s1 with bist.burn := some (tag, es, map) }
    else
      let s2 := match map with
        | none => s1
        | some B => s1.updBlock B (fun b => { b with
            fusedMap := b.softMap, softMap := none, why := if b.seated.isSome ∧ b.why = .softMap then .fusedMap else b.why })
      .next (complete { s2 with bist.burn := none } tag OK (fuseWords s2))

end Sys2Proof.Machine
end

