-- ==== Sys2Proof/Machine/CellCmds.lean ====
section
/-! DEFINITION. The cell commands of R257, and the words of the cell window that they report. Commands act on the cell in
service for the channel, and on its mirror while a seating or return is in progress (R17, R113). -/
namespace Sys2Proof.Machine
open Sys2Proof

/-! ### Words of the cell window (R82) -/

/-- PROFILE_ACTIVE. -/
def profileActive (c : CellSt) : Word := wd (b2n c.vals.modified * 2 ^ 17 + b2n c.vals.profValid * 2 ^ 16 + c.vals.profIdx.toNat)

/-- OUT_CFG. -/
def outCfgWord (c : CellSt) : Word := wd (b2n c.cfg.lvds * 16 + c.cfg.swing.toNat)

/-- DCO_BAND. -/
def dcoBand (c : CellSt) : Word := wd (b2n c.loop.hintValid * 2 ^ 17 + c.loop.hintBand.toNat * 2 ^ 8 + c.loop.band.toNat)

/-- PHASE_SLEW takes the fields step (bit 17) and rate (bits 3:0). -/
def writePhaseSlew (s : State) (p : Nat) (v : Word) : State :=
  s.updCell p (fun c => { c with cfg.step := bitOf v 17, cfg.rate := v.extractLsb' 0 4 })

/-- GEAR_TIME takes a value for the next hop (R77, R85). -/
def writeGear (s : State) (p : Nat) (v : Word) : State := s.updCell p (fun c => { c with cfg.gearTime := v.extractLsb' 0 12 })

/-- Does f for the cell in service and its mirror. -/
def onChannel (s : State) (n : Nat) (f : State → Nat → State) : State := forAll (bothCells s (inService s n)) f s

/-! ### CELL_ENABLE (R85, R257, R504) -/

/-- CELL_CTL and CELL_STATUS of a cell. -/
def cellWords (s : State) (p : Nat) : List Word := [(s.cell p).cfg.ctl.word, cellStatus s p]

/-- CELL_ENABLE. -/
def execCellEnable (tag : Nat) (s : State) : Out :=
  .next (hitan s tag 0x020 (fun s c =>
    let p := inService s c.unit
    let m := c.arg 1
    let v := (c.arg 0 &&& m) ||| ((s.cell p).cfg.ctl.word &&& ~~~m)
    let s1 := onChannel s c.unit (fun s q => writeCellCtl s q v)
    if bitOf (c.arg 0) 17 = false then complete s1 tag OK (cellWords s1 p)
    else if chanLost s1 c.unit then complete s1 tag FAULT (cellWords s1 p)
    else if (s1.cell p).cfg.ctl.en = false then complete s1 tag INCOMPLETE (cellWords s1 p)
    else if (s1.cell p).loop.locked = true ∧ (s1.cell p).inHold = false then complete s1 tag OK (cellWords s1 p)
    else s1.updCell p (fun x => { x with hop.lockTags := x.hop.lockTags ++ [(tag, none)] })))

/-! ### Profiles (R90 to R95) -/

/-- Profiles that a channel accepts: 64 in TH64 mode (R499, R500). -/
def profileLimit (s : State) (n : Nat) : Nat := if s.th64On (cellRegion n) then 64 else 192

/-- The checks of R93 on nine profile words. -/
def profileOk (w : List Word) : Bool :=
  freqOk (profFreq {} w) && divOk (profD w).toNat (profL w).toNat
  && decide (fld (w.getD 0 0) 5 9 = 0) && decide (fld (w.getD 3 0) 13 4 = 0) && decide (fld (w.getD 7 0) 15 2 = 0)

/-- The nine words that are stored for nine words given: reserved bits zero, the learn bit as given, valid set (R91, R92). -/
def profileStored (learn : Bool) (ws : List Word) : List Word :=
  match ws with
  | [] => []
  | w0 :: rest => ((w0 &&& 0x33FFF) ||| wd (b2n learn * 2 ^ 15 + 2 ^ 14)) :: rest

/-- Stores nine words with their check word as profile idx of channel n (R92). -/
def storeProfile (s : State) (n idx : Nat) (w : List Word) : State :=
  let k := profKey n idx
  { clearBad s 9 k (k + 10) with profiles := tabPut s.profiles k (w ++ [checkWord n idx w]) }

/-- PROFILE_WRITE (R92 to R94). -/
def execProfileWrite (tag : Nat) (s : State) : Out :=
  .next (hitan s tag 0x021 (fun s c =>
    let idx := fld (c.arg 0) 0 8
    let w := profileStored (bitOf (c.arg 0) 17) (c.args.drop 1)
    if profileLimit s c.unit ≤ idx ∨ profileOk w = false then complete s tag BADARG []
    else complete (storeProfile s c.unit idx w) tag OK [checkWord c.unit idx w]))

/-- PROFILE_READ (R94, R435): the words as read, with FAULT when one is uncorrectable; `soft` is a single-bit error met in
the first word. -/
def execProfileRead (tag : Nat) (soft : Bool) (s : State) : Out :=
  .next (hitan s tag 0x022 (fun s c =>
    let idx := fld (c.arg 0) 0 8
    if profileLimit s c.unit ≤ idx then complete s tag BADARG []
    else
      let w := profRow s c.unit idx
      let ok := decide (checkWord c.unit idx w = w.getD 9 0)
      let bad := profBad s c.unit idx
      let s0 := softProfile s c.unit idx soft
      let s1 := if bad then meetProfile s0 c.unit idx else s0
      completeWith s1 tag (if bad then FAULT else OK) w [10, wd (b2n ok + 2 * b2n soft + 4 * b2n bad)]))

/-! ### HOP (R104, R257) -/

/-- HOP: the fetch begins; the hop takes effect on E. -/
def execHop (tag : Nat) (s : State) : Out :=
  .next (hitan s tag 0x023 (fun s c =>
    let p := inService s c.unit
    let idx := fld (c.arg 0) 0 8
    let t := c.arg 1 ++ c.arg 2 ++ c.arg 3
    if profileLimit s c.unit ≤ idx then complete s tag BADARG []
    else if bitOf (c.arg 0) 17 = true ∧ reached (s.region (cellRegion p)).time t = true then complete s tag TIMEOUT []
    else s.updCell p (fun x => { x with
      hop.host := some { words := [], idx := idx, due := none, at_ := if bitOf (c.arg 0) 17 then some t else none,
                         tag := some tag, waitLock := bitOf (c.arg 0) 16 } })))

/-! ### Phase, output and lock (R79, R80, R82, R148) -/

/-- PHASE_SET. -/
def execPhaseSet (tag : Nat) (s : State) : Out :=
  .next (hitan s tag 0x024 (fun s c =>
    let p := inService s c.unit
    let v := c.arg 1 ++ c.arg 2
    let ofs := if bitOf (c.arg 0) 17 then ((s.cell p).undone (nowEdge s p) .phs).vals.ofs + v else v
    let s1 := if bitOf (c.arg 0) 15 then
        onChannel s c.unit (fun s q => writePhaseSlew s q (wd (b2n (bitOf (c.arg 0) 4) * 2 ^ 17 + fld (c.arg 0) 0 4)))
      else s
    let s2 := onChannel s1 c.unit (fun s q =>
      writePhaseHi (s.updCell q (fun x => x.stage (fun y => { y with stPhLo := ofs.extractLsb' 0 18 }))) q (ofs.extractLsb' 18 18))
    if bitOf (c.arg 0) 16 = true ∧ (s2.cell p).vals.slewing = true then
      s2.updCell p (fun x => { x with hop.phaseTag := some tag })
    else complete s2 tag OK [ofs.extractLsb' 18 18, ofs.extractLsb' 0 18]))

/-- The checks of an OUT_CONFIG: OUT_CFG is written first, then the divider pair is committed. -/
def outConfigOk (c : CellSt) (cmd : Cmd) : Bool :=
  let lvds := bitOf (cmd.arg 0) 4
  decide (fld (cmd.arg 0) 0 4 ≤ 12) && ! (lvds && aboveLvds c.vals.freq c.vals.d.toNat c.vals.l.toNat)
  && (! bitOf (cmd.arg 0) 17
      || (divOk (cmd.arg 1).toNat (cmd.arg 2).toNat && ! (lvds && aboveLvds c.vals.freq (cmd.arg 1).toNat (cmd.arg 2).toNat)))

/-- OUT_CONFIG. -/
def execOutConfig (tag : Nat) (s : State) : Out :=
  .next (hitan s tag 0x025 (fun s c =>
    let p := inService s c.unit
    if outConfigOk (s.cell p) c = false then complete s tag BADARG []
    else
      let s1 := onChannel s c.unit (fun s q => writeOutCfg s q (c.arg 0))
      let s2 := if bitOf (c.arg 0) 17 then
          onChannel s1 c.unit (fun s q =>
            writeLowDiv (s.updCell q (fun x => x.stage (fun y => { y with stD := (c.arg 1).extractLsb' 0 13 }))) q (c.arg 2))
        else s1
      complete s2 tag OK [outCfgWord (s2.cell p), wd (b2n (decide ((s2.cell p).cfg.lvds ≠ (s2.cell p).out.lvdsNow)))]))

/-- The checks of a LOCK_CONFIG on its masked values (R82). -/
def lockConfigOk (c : Cmd) : Bool :=
  let m := fun k => bitOf (c.arg 0) k
  (! m 0 || decide (fld (c.arg 1) 0 8 ≠ 0))
  && (! m 1 || (decide (4 ≤ fld (c.arg 2) 0 5) && decide (fld (c.arg 2) 0 5 ≤ 16)))
  && (! m 2 || decide (fld (c.arg 3) 0 2 ≠ 3))

/-- LOCK_CONFIG. -/
def execLockConfig (tag : Nat) (s : State) : Out :=
  .next (hitan s tag 0x026 (fun s c =>
    if lockConfigOk c = false then complete s tag BADARG []
    else
      let on := fun (k : Nat) (f : State → Nat → Word → State) (s : State) =>
        if bitOf (c.arg 0) k then onChannel s c.unit (fun s q => f s q (c.arg (k + 1))) else s
      complete (on 4 writeGear (on 3 writeLoopBw (on 2 writeLockAction (on 1 writeLockCnt (on 0 writeLockThr s))))) tag OK []))

/-- The physical cell that a cell-scope index names: the cell in service, or a spare (R17). -/
def cellNamed (s : State) (i : Nat) : Nat := if i < 256 then inService s i else i

/-- CELL_STATUS. -/
def execCellStatus (tag : Nat) (s : State) : Out :=
  .next (hitan s tag 0x027 (fun s c =>
    let p := cellNamed s c.unit
    let x := s.cell p
    complete s tag OK [cellStatus s p, profileActive x, x.loop.pherr, engStatus x.eng, dcoBand x]))

end Sys2Proof.Machine
end

