-- ==== Sys2Proof/Machine/Flash.lean ====
section
/-! DEFINITION. The flash port: registers, command sequencer and execution window (R316 to R326). -/
namespace Sys2Proof.Machine
open Sys2Proof

/-! ### The flash devices -/

/-- Key of a flash byte on select g. -/
def flashKey (g a : Nat) : Nat := g * 2 ^ 32 + a % 2 ^ 32

/-- A byte of the flash on select g; erased bytes read 0xFF. -/
def flashByte (s : State) (g a : Nat) : Byte := tabGet 0xFF s.fl.mem (flashKey g a)

/-- n bytes from an address. -/
def flashBytes (s : State) (g a n : Nat) : List Byte := (List.range n).map (fun i => flashByte s g (a + i))

/-- Bytes stored as they are (the effect of an erase or of a write the firmware makes after one). -/
def flashStore (s : State) (g a : Nat) : List Byte → State
  | [] => s
  | b :: bs => flashStore { s with fl.mem := tabSet 0xFF s.fl.mem (flashKey g a) b } g (a + 1) bs

/-- A page program can only change bits from 1 to 0 (R322). -/
def flashProgram (s : State) (g a : Nat) : List Byte → State
  | [] => s
  | b :: bs => flashProgram { s with fl.mem := tabSet 0xFF s.fl.mem (flashKey g a) (flashByte s g a &&& b) } g (a + 1) bs

/-- n bytes from an address are erased. -/
def flashErase (s : State) (g a n : Nat) : State :=
  { s with fl.mem := tabDrop (fun k => decide (flashKey g a ≤ k) && decide (k < flashKey g a + n)) s.fl.mem }

/-! ### Port state -/

/-- An access or a poll is in progress (R325). -/
def flashBusy (s : State) : Bool := s.fl.polling.isSome

/-- The one asserted select, if exactly one is (R320). -/
def flashSel (s : State) : Option Nat :=
  match [0, 1, 2, 3].filter (fun g => s.fl.sel.getLsbD g) with
  | [g] => some g
  | _ => none

/-- An address lies in the protected sectors (R323). -/
def flashProtected (s : State) (a : Nat) : Bool :=
  decide (s.fl.wpLo.toNat ≤ a / 4096) && decide (a / 4096 ≤ s.fl.wpHi.toNat)

/-- FLASH_CFG (R325). -/
def flashCfg (s : State) : Word :=
  wd (s.fl.dummy.toNat * 2 ^ 8 + b2n s.fl.frst * 2 ^ 7 + b2n s.fl.clkSrc * 2 ^ 6 + s.fl.div.toNat * 2 ^ 3 + s.fl.mode.toNat)

/-- FLASH_STATUS (R325). -/
def flashStatus (s : State) : Word :=
  wd (b2n (flashBusy s) * 32 + b2n s.fl.clkFb * 16 + b2n s.fl.pollTo * 8 + b2n s.fl.selErr * 4 + b2n s.fl.wpErr * 2 + b2n s.fl.fifoOvf)

/-- FRST_N is high (R319). -/
def frstPin (s : State) : Bool := s.pwr.frstHigh && ! s.fl.frst

/-- The region whose CREF/4 may clock the port (R318). -/
def clkRegion (s : State) : Option Nat :=
  (presentRegions s).find? (fun r => ! (s.region r).inReset && decide ((s.region r).rrp = .locked ∨ (s.region r).rrp = .holdover ∨ (s.region r).rrp = .holdoverLong))

/-- A FLASH_CFG value comes into force between two accesses (R318). -/
def applyCfg (s : State) (v : Word) : State :=
  { s with
    fl.dummy := v.extractLsb' 8 5, fl.frst := bitOf v 7, fl.clkSrc := bitOf v 6, fl.div := v.extractLsb' 3 3,
    fl.mode := v.extractLsb' 0 2, fl.clkReg := if bitOf v 6 then clkRegion s else none, fl.cfgNext := none }

/-- Before an access: the port falls back to RC when its CREF source is gone (R318). -/
def clkCheck (s : State) : State :=
  if s.fl.clkSrc = true ∧ s.fl.clkReg.all (fun r => (s.region r).inReset || decide ((s.region r).rrp = .off)) = true then
    { s with fl.clkSrc := false, fl.div := 0, fl.clkReg := none, fl.clkFb := true }
  else s

/-- The port drives the asserted selects on GPIO[3:0] (R320). -/
def driveSel (s : State) : State := { s with pwr.gpio := s.pwr.gpio &&& 0xFFF0 ||| (s.fl.sel.zeroExtend 16) }

/-- An access and its poll have ended: held selects and configuration come into force (R318, R320). -/
def accessEnd (s : State) : State :=
  let s1 := match s.fl.selHeld with
    | some x => driveSel { s with fl.sel := x, fl.selHeld := none }
    | none => s
  match s1.fl.cfgNext with
  | some v => applyCfg s1 v
  | none => s1

/-! ### Window programs (R322, R323) -/

/-- The next window program starts: write enable, page program, poll. -/
def startPage (s : State) : State :=
  match s.fl.queue with
  | [] => s
  | p :: ps =>
    match flashSel s with
    | none => { s with fl.queue := ps, fl.selErr := true, fl.busErr := true }
    | some g =>
      if s.fl.dead.getLsbD g then { s with fl.queue := ps, fl.busErr := true }
      else flashProgram { clkCheck s with fl.queue := ps, fl.polling := some false, fl.selErr := false } g p.addr p.bytes

/-- A burst cut at page boundaries, in address order (R322). -/
def splitPages : Nat → Nat → List Byte → List FlashPage
  | 0, _, _ => []
  | _ + 1, _, [] => []
  | n + 1, a, b :: bs =>
    let k := 256 - a % 256
    { addr := a, bytes := (b :: bs).take k } :: splitPages n (a + k) ((b :: bs).drop k)

/-- Flash address of an MP address in the window (R321). -/
def windowAddr (s : State) (a : Nat) : Nat := s.fl.win.toNat * 0x400000 + (a - 0x400000)

/-- An MP address lies in the window. -/
def inWindow (a : Nat) : Bool := decide (0x400000 ≤ a) && decide (a ≤ 0x7FFFFF)

/-- FLASH_WINDOW_READ (R320, R321): waits for a poll to end. -/
def execFlashWindowRead (a : Nat) (s : State) : Out :=
  if inWindow a = false ∨ flashBusy s = true then .next s
  else
    match flashSel s with
    | none => .next { s with fl.selErr := true, fl.busErr := true, fl.busData := none }
    | some g =>
      if s.fl.dead.getLsbD g then .next { s with fl.selErr := false, fl.busErr := true, fl.busData := none }
      else .next { clkCheck s with fl.selErr := false, fl.busErr := false, fl.busData := some (flashByte s g (windowAddr s a)) }

/-- FLASH_WINDOW_WRITE (R320, R322, R323): one MP write burst. -/
def execFlashWindowWrite (a : Nat) (bytes : List Byte) (s : State) : Out :=
  if inWindow a = false ∨ bytes = [] then .next s
  else if (flashSel s).isNone then .next { s with fl.selErr := true, fl.busErr := true }
  else
    let pages := splitPages bytes.length (windowAddr s a) bytes
    let bad := pages.any (fun p => flashProtected s p.addr)
    let s1 : State := { s with
      fl.wpErr := bad, fl.busErr := bad, fl.queue := s.fl.queue ++ pages.filter (fun p => ! flashProtected s p.addr) }
    .next (if flashBusy s then s1 else startPage s1)

/-- FLASH_WIP_POLL (R322, R326): a read of the status register; with WIP clear the poll and its access end. -/
def execFlashWipPoll (wip : Bool) (s : State) : Out :=
  if flashBusy s = true ∧ wip = false then .next (startPage (accessEnd { s with fl.polling := none })) else .next s

/-- FLASH_POLL_TIMEOUT (R323): the waiting accesses end in bus errors, and nothing more is sent to the select. -/
def execFlashPollTimeout (s : State) : Out :=
  if flashBusy s then
    let g := (flashSel s).getD 0
    let s1 : State := { s with
      fl.polling := none, fl.pollTo := true, fl.dead := s.fl.dead ||| (1#4 <<< g), fl.queue := [],
      fl.busErr := s.fl.busErr || decide (s.fl.polling = some false) || ! s.fl.queue.isEmpty }
    .next (accessEnd (faultChip s1 0x3A 1 0 (wd g)))
  else .next s

/-! ### Registers and the sequencer (R325, R326) -/

/-- A write of FLASH_CFG with a value that is refused. -/
def flashCfgIgn (v : Word) : Bool := decide (5 < fld v 3 3) || decide (1 < fld v 0 2)

/-- A write of FLASH_CFG (R318, R323, R325). -/
def writeFlashCfg (s : State) (v : Word) : State :=
  if flashCfgIgn v then s
  else
    let s1 : State := { s with fl.clkFb := false, fl.pollTo := false, fl.dead := 0 }
    if flashBusy s then { s1 with fl.cfgNext := some v } else applyCfg s1 v

/-- FLASH_CFG_WRITE. -/
def execFlashCfgWrite (v : Word) (s : State) : Out :=
  .next (chipWrite s 0x19000 fun s => if flashCfgIgn v then { s with hp.ign := true } else writeFlashCfg s v)

/-- A write of FLASH_SEL (R320). -/
def writeFlashSel (s : State) (v : Word) : State :=
  if flashBusy s then { s with fl.selHeld := some (v.extractLsb' 0 4) } else driveSel { s with fl.sel := v.extractLsb' 0 4 }

/-- FLASH_SEL_WRITE. -/
def execFlashSelWrite (v : Word) (s : State) : Out := .next (chipWrite s 0x19002 fun s => writeFlashSel s v)

/-- A write of FLASH_DATA: two bytes join the FIFO of 256 (R325). -/
def writeFlashData (s : State) (v : Word) : State :=
  let f := s.fl.fifo ++ unpackWords [v]
  { s with fl.fifo := f.take 256, fl.fifoOvf := s.fl.fifoOvf || decide (256 < f.length) }

/-- FLASH_DATA_WRITE. -/
def execFlashDataWrite (v : Word) (s : State) : Out := .next (ownerWrite s fun s => writeFlashData s v)

/-- The word a read of FLASH_DATA returns. -/
def flashDataWord (s : State) : Word := (packBytes (padBytes (s.fl.fifo.take 2))).getD 0 0
where padBytes : List Byte → List Byte
  | [a] => [a, 0]
  | l => l

/-- FLASH_DATA_READ (R325): pops two bytes; outside an Owner session the read does not reach the register (R286). -/
def execFlashDataRead (s : State) : Out := .next (if s.sec.host < 2 then s else { s with fl.fifo := s.fl.fifo.drop 2 })

/-- The flash address of the sequencer. -/
def seqAddr (s : State) : Nat := (s.fl.addrHi ++ s.fl.addrLo).toNat

/-- A write of FLASH_CMD (R325, R326). `resp` is what the flash returns to a command other than a read of its array,
and `eff` the bytes that a command other than a page program changes in it. -/
def writeFlashCmd (s : State) (v : Word) (resp : List Byte) (eff : List (Nat × Byte)) : State :=
  if fld v 15 2 = 3 then s
  else if bitOf v 17 = false then { s with fl.cmd := v &&& 0x1F0FF }
  else if flashBusy s then s
  else
    let s1 : State := { s with fl.cmd := v &&& 0x1F0FF, fl.fifoOvf := false }
    let wr := bitOf v 14
    match flashSel s with
    | none => { s1 with fl.selErr := true }
    | some g =>
      if wr = true ∧ bitOf v 12 = true ∧ flashProtected s (seqAddr s) = true then { s1 with fl.selErr := false, fl.wpErr := true }
      else
        let s2 : State := { s1 with fl.selErr := false, fl.wpErr := if wr then false else s1.fl.wpErr }
        if s.fl.dead.getLsbD g then s2
        else
          let op := fld v 0 8
          let n := s.fl.len.toNat
          let s3 : State :=
            if fld v 15 2 = 1 then
              { clkCheck s2 with fl.fifo := if bitOf v 12 = true ∧ (if s.fl.mode = 1 then op = 0xEE else op = 0x6B) then flashBytes s g (seqAddr s) n else resp.take n }
            else if fld v 15 2 = 2 then
              (let s4 : State := { clkCheck s2 with fl.fifo := s.fl.fifo.drop n }
               if op = 0x12 ∧ bitOf v 12 = true then flashProgram s4 g (seqAddr s) (s.fl.fifo.take n)
               else forAll eff (fun s e => flashStore s g e.1 [e.2]) s4)
            else forAll eff (fun s e => flashStore s g e.1 [e.2]) (clkCheck s2)
          if bitOf v 13 then { s3 with fl.polling := some true } else s3

/-- A write of FLASH_CMD that is ignored: of type 3, or a protected write (R325, R326). -/
def flashCmdIgn (s : State) (v : Word) : Bool :=
  decide (fld v 15 2 = 3) || (bitOf v 17 && ! flashBusy s && bitOf v 14 && bitOf v 12 && (flashSel s).isSome && flashProtected s (seqAddr s))

/-- A go written while the port is busy (R326). -/
def flashCmdBusy (s : State) (v : Word) : Bool := decide (fld v 15 2 ≠ 3) && bitOf v 17 && flashBusy s

/-- FLASH_CMD_GO (R326): a write of FLASH_CMD with go = 1. -/
def execFlashCmdGo (v : Word) (resp : List Byte) (eff : List (Nat × Byte)) (s : State) : Out :=
  .next (chipWrite s 0x19008 fun s =>
    let w := v ||| 0x20000
    let s1 := writeFlashCmd s w resp eff
    { s1 with hp.ign := s1.hp.ign || flashCmdIgn s w, hp.busy := s1.hp.busy || flashCmdBusy s w })

/-- The other registers of the port, at offset 0x00..0x0C (R324, R325). -/
def writeFlash (s : State) (off : Nat) (v : Word) : State :=
  if off = 0x00 then writeFlashCfg s v
  else if off = 0x02 then writeFlashSel s v
  else if off = 0x03 then { s with fl.win := v.extractLsb' 0 8 }
  else if off = 0x06 then (if v = 0 then s else { s with fl.poll := v })
  else if off = 0x08 then writeFlashCmd s v [] []
  else if off = 0x09 then { s with fl.addrLo := v }
  else if off = 0x0A then { s with fl.addrHi := v.extractLsb' 0 14 }
  else if off = 0x0B then (if fld v 0 9 = 0 ∨ 256 < fld v 0 9 then s else { s with fl.len := v.extractLsb' 0 9 })
  else if off = 0x0C then writeFlashData s v
  else s

/-- A register of the port as it reads (R325). -/
def readFlash (s : State) (off : Nat) : Word :=
  if off = 0x00 then flashCfg s else if off = 0x01 then flashStatus s else if off = 0x02 then wd s.fl.sel.toNat
  else if off = 0x03 then wd s.fl.win.toNat else if off = 0x04 then s.fl.wpLo else if off = 0x05 then s.fl.wpHi
  else if off = 0x06 then s.fl.poll
  else if off = 0x08 then wd (s.fl.cmd.toNat + b2n (decide (s.fl.polling = some true)) * 2 ^ 17)
  else if off = 0x09 then s.fl.addrLo else if off = 0x0A then wd s.fl.addrHi.toNat else if off = 0x0B then wd s.fl.len.toNat
  else if off = 0x0C then flashDataWord s else 0

end Sys2Proof.Machine
end

