-- ==== Sys2Proof/Machine/Boot.lean ====
section
/-! DEFINITION. The flash map, boot records, images, firmware update (R327 to R338) and the firmware commands (R267). -/
namespace Sys2Proof.Machine
open Sys2Proof

/-! ### Configuration record (R328) -/

/-- A record of n bytes whose magic and CRC-32 over all but its last four bytes check. -/
def recordOk (magic : List Byte) (bs : List Byte) : Bool :=
  decide (bs.take 4 = magic) && decide (beNat (bs.drop (bs.length - 4)) = crc32 (bs.take (bs.length - 4)))

/-- The configuration record that the ROM uses, if one is valid. -/
def cfgRecord (s : State) : Option (List Byte) :=
  [flashBytes s 0 0x000000 64, flashBytes s 0 0x001000 64].find? (recordOk [0x4D, 0x51, 0x43, 0x46])

/-! ### Boot select record (R329, R333) -/

/-- A boot select record: copy it stands in, sequence, preferred slot, valid bits, trial and tried. -/
structure BootSel where
  copy : Nat := 1
  seq : Nat := 0
  pref : Nat := 0
  valid : Nat := 3
  trial : Bool := false
  tried : Byte := 0xFF
  deriving DecidableEq, Repr

/-- Flash address of a copy. -/
def selAddr (copy : Nat) : Nat := 0x002000 + 0x1000 * copy

/-- A copy of the boot select record, when its magic and CRC check. -/
def selCopy (s : State) (copy : Nat) : Option BootSel :=
  let bs := flashBytes s 0 (selAddr copy) 17
  if recordOk [0x4D, 0x51, 0x42, 0x53] (bs.take 16) then
    some { copy := copy, seq := beNat ((bs.drop 4).take 4), pref := (bs.getD 8 0).toNat % 2, valid := (bs.getD 9 0).toNat % 4,
           trial := decide (bs.getD 10 0 = 1), tried := bs.getD 16 0 }
  else none

/-- The record in force: the valid copy of the higher sequence number, else the defaults. -/
def bootSel (s : State) : BootSel :=
  match selCopy s 0, selCopy s 1 with
  | some a, some b => if b.seq < a.seq then a else b
  | some a, none => a
  | none, some b => b
  | none, none => {}

/-- A new record: the other copy is erased and written, so a power failure leaves the previous one (R329). -/
def writeSel (s : State) (pref valid : Nat) (trial : Bool) : State :=
  let old := bootSel s
  let body : List Byte := [0x4D, 0x51, 0x42, 0x53] ++ beBytes 4 (old.seq + 1)
    ++ [BitVec.ofNat 8 pref, BitVec.ofNat 8 valid, if trial then 1 else 0, 0]
  flashProgram (flashErase s 0 (selAddr (1 - old.copy)) 0x1000) 0 (selAddr (1 - old.copy)) (body ++ beBytes 4 (crc32 body))

/-- The slot's valid bit. -/
def slotValid (b : BootSel) (slot : Nat) : Bool := decide (b.valid / 2 ^ slot % 2 = 1)

/-- The slots the ROM boots, in order (R333). -/
def bootOrder (b : BootSel) : List Nat :=
  (if b.trial = true ∧ b.tried ≠ 0xFF then [1 - b.pref] else [b.pref, 1 - b.pref]).filter (slotValid b)

/-! ### Images (R330, R331) -/

/-- Flash address of a slot. -/
def slotAddr (slot : Nat) : Nat := if slot = 0 then 0x010000 else 0x110000

/-- A big-endian field of four bytes. -/
def be4 (bs : List Byte) (o : Nat) : Nat := beNat ((bs.drop o).take 4)

/-- Bit of the stepping mask that stands for the device. -/
def steppingBit (s : State) : Nat := 16 * (s.fuses.stepping.toNat / 16 % 16) + s.fuses.stepping.toNat % 16

/-- The image in a slot is accepted (R331); none is in BLANK (R417). -/
def imageOk (s : State) (slot : Nat) : Bool :=
  let h := flashBytes s 0 (slotAddr slot) 512
  let n := be4 h 12 + be4 h 16
  decide (s.lk.lc ≠ 0) && decide (h.take 4 = [0x4D, 0x51, 0x46, 0x57]) && decide (be4 h 12 ≤ 524288) && decide (512 + n ≤ 0x100000)
  && decide (be4 h 24 / 2 ^ steppingBit s % 2 = 1) && decide (s.lk.minEpoch.toNat ≤ be4 h 8)
  && decide ((h.drop 28).take 32 = sha256 (flashBytes s 0 (slotAddr slot + 512) n))
  && ecdsaVerify Config.fwKey (h.take 64) ((h.drop 64).take 64)

/-- FW_VERSION of the image in a slot. -/
def slotVersion (s : State) (slot : Nat) : Word := wd (be4 (flashBytes s 0 (slotAddr slot) 8) 4)

/-- SHA-256 of the image body, as the header of a slot states it (R330). -/
def slotDigest (s : State) (slot : Nat) : BitVec 256 := BitVec.ofNat 256 (beNat (flashBytes s 0 (slotAddr slot + 28) 32))

/-- Security epoch of the image in a slot. -/
def slotEpoch (s : State) (slot : Nat) : Nat := be4 (flashBytes s 0 (slotAddr slot) 12) 8

/-- A slot as a range of 4 KiB sectors. -/
def slotSectors (slot : Nat) : Nat × Nat := (slotAddr slot / 4096, slotAddr slot / 4096 + 255)

/-! ### Profile sets (R336) -/

/-- Address of record k of the store. -/
def setAddr (k : Nat) : Nat := 0x400010 + 36 * k

/-- A record that is loaded: its channel, profile and the operands of the equivalent PROFILE_WRITE; none when skipped. -/
def setRecord (s : State) (k : Nat) : Option (Nat × Nat × Bool × List Word) :=
  let bs := flashBytes s 0 (setAddr k) 36
  let n := beNat (bs.take 2)
  let p := (bs.getD 2 0).toNat
  let fl := (bs.getD 3 0).toNat
  let ws := (List.range 9).map (fun i => beNat ((bs.drop (4 + 3 * i)).take 3))
  if beNat (bs.drop 32) = crc32 (bs.take 32) ∧ fl < 2 ∧ bs.getD 31 0 = 0 ∧ ws.all (fun w => decide (w < 2 ^ 18)) = true
     ∧ n < 256 ∧ cellPresent s n = true ∧ p < 192 ∧ profileOk (ws.map wd) = true
  then some (n, p, decide (fl = 1), ws.map wd) else none

/-- Loads records k, k + 1, ... of the store; answers how many were skipped. -/
def loadSets : Nat → Nat → State → Nat → State × Nat
  | 0, _, s, skip => (s, skip)
  | n + 1, k, s, skip =>
    match setRecord s k with
    | none => loadSets n (k + 1) s (skip + 1)
    | some (c, p, l, ws) => loadSets n (k + 1) (storeProfile s c p (profileStored l ws)) skip

/-- The profile-set store is loaded before READY when flags bit 1 is set (R335, R336). -/
def loadProfileSets (s : State) : State :=
  if s.boot.flags.getLsbD 1 = false then s
  else
    let h := flashBytes s 0 0x400000 16
    if recordOk [0x4D, 0x51, 0x50, 0x53] h = false ∨ 49152 < be4 h 4 then faultChip s 0x3A 1 0 0x3FFFF
    else
      let a := loadSets (be4 h 4) 0 s 0
      if a.2 = 0 then a.1 else faultChip a.1 0x3A 1 0 (wd (min a.2 0x3FFFF))

/-! ### Firmware update (R337, R338) -/

/-- The slot that an update goes to: the one that does not run. -/
def otherSlot (s : State) : Nat := 1 - s.boot.slot.getD 0

/-- FW_INFO (R267). -/
def execFwInfo (tag : Nat) (s : State) : Out :=
  .next (hitan s tag 0x0B0 (fun s _ =>
    let ok := slotValid (bootSel s) (otherSlot s)
    complete s tag OK [wd (s.boot.slot.getD 0 + 2 * b2n ok + 4 * b2n s.boot.upd.isSome), 0, s.boot.version, 0,
      if ok then slotVersion s (otherSlot s) else 0]))

/-- FW_UPDATE_BEGIN (R267, R337). -/
def execFwUpdateBegin (tag : Nat) (s : State) : Out :=
  .next (hitan s tag 0x0B1 (fun s c =>
    let n := (c.arg 0 ++ c.arg 1).toNat
    if s.boot.upd.isSome then complete s tag PRECOND []
    else if 0x100000 < n then complete s tag BADARG []
    else
      let b := bootSel s
      let slot := otherSlot s
      let s1 := writeSel s b.pref (b.valid - (if slotValid b slot then 2 ^ slot else 0)) b.trial
      complete { (flashErase s1 0 (slotAddr slot) 0x100000) with boot.upd := some n, boot.got := 0, boot.buf := [] } tag OK []))

/-- Full pages of the buffer are programmed into the slot; `fuel` bounds their number. -/
def programPages : Nat → State → State
  | 0, s => s
  | n + 1, s =>
    if s.boot.buf.length < 256 then s
    else programPages n { (flashProgram s 0 (slotAddr (otherSlot s) + (s.boot.got - s.boot.buf.length)) (s.boot.buf.take 256)) with
      boot.buf := s.boot.buf.drop 256 }

/-- FW_UPDATE_DATA (R254, R267, R337). -/
def execFwUpdateData (tag : Nat) (s : State) : Out :=
  .next (hitan s tag 0x0B2 (fun s c =>
    match s.boot.upd with
    | none => complete s tag PRECOND []
    | some len =>
      if (c.arg 0 ++ c.arg 1).toNat ≠ s.boot.got then complete { s with boot.upd := none, boot.got := 0, boot.buf := [] } tag BADARG []
      else
        let bs := (unpackWords (c.args.drop 2)).take (len - s.boot.got)
        let s1 := programPages 2 { s with boot.got := s.boot.got + bs.length, boot.buf := s.boot.buf ++ bs }
        complete s1 tag OK [wd s1.boot.got]))

/-- FW_UPDATE_END (R267, R337). -/
def execFwUpdateEnd (tag : Nat) (s : State) : Out :=
  .next (hitan s tag 0x0B3 (fun s c =>
    match s.boot.upd with
    | none => complete s tag PRECOND []
    | some len =>
      let slot := otherSlot s
      let s1 : State := { (flashProgram s 0 (slotAddr slot + (s.boot.got - s.boot.buf.length)) s.boot.buf) with
        boot.upd := none, boot.got := 0, boot.buf := [] }
      if s.boot.got < len ∨ imageOk s1 slot = false then complete s1 tag FAULT [0]
      else
        let b := bootSel s1
        let v := if slotValid b slot then b.valid else b.valid + 2 ^ slot
        complete (if bitOf (c.arg 0) 0 then writeSel s1 slot v true else writeSel s1 b.pref v b.trial) tag OK [1]))

end Sys2Proof.Machine
end

