-- ==== Sys2Proof/Machine/Tree.lean ====
section
/-! DEFINITION. The Plawen link and tree (chapter 15) and the tree commands (R265). `i` is a port: 0 UP, 1..4 DN0..DN3. -/
namespace Sys2Proof.Machine
open Sys2Proof

/-! ### Port states (R341, R342, R359) -/

/-- A port that may run: present, enabled, and not switched off (R341, R359). -/
def portOn (s : State) (i : Nat) : Bool := portPresent s i && (s.port i).en && (decide (i ≠ 0) || decide ((s.port 0).upMode ≠ 2))

/-- In LOCKING to RUN. -/
def PortState.live (x : PortState) : Bool := decide (x = .locking) || decide (x = .ident) || decide (x = .measure) || decide (x = .run)

def PortState.code : PortState → Nat
  | .off => 0 | .los => 1 | .locking => 2 | .ident => 3 | .measure => 4 | .run => 5

/-- Depth of this device in its tree. -/
def ownDepth (s : State) : Nat := if isWorker s then s.tree.path / 64 else 0

/-- Path of a device with the port digits given from the manager down. -/
def pathOf (d : List Nat) : Nat := d.length * 64 + d.getD 0 0 * 16 + d.getD 1 0 * 4 + d.getD 2 0

/-- Port digits of a path, from its first level down. -/
def pathDigits (p : Nat) : List Nat := [p / 16 % 4, p / 4 % 4, p % 4].take (p / 64 % 4)

/-- Digits of this device's own path. -/
def ownDigits (s : State) : List Nat := if isWorker s then pathDigits s.tree.path else []

/-- Path, from the manager, of the child on DN port i. -/
def childPath (s : State) (i : Nat) : Nat := pathOf (ownDigits s ++ [i - 1])

/-- The IDENT block of a port: this device's SERIAL3 and, on a DN port, the depth and path of the child. -/
def identBlock (s : State) (i : Nat) : LinkBlock :=
  let s3 := s.lk.serial.extractLsb' 54 18
  if i = 0 then .ident s3 0 0 else .ident s3 (ownDepth s + 1) (childPath s i)

/-- SIGNAL_DETECT (R341 step 1). -/
def execSignalDetect (i : Nat) (s : State) : Out :=
  if portOn s i = true ∧ (s.port i).st = .los then .next (s.updPort i (fun p => { p with st := .locking, stopped := false, badHdr := [] }))
  else .next s

/-- BLOCK_LOCK (R341 steps 1 to 2). -/
def execBlockLock (i : Nat) (s : State) : Out :=
  if (s.port i).st = .locking then .next (sendBlock (s.updPort i (fun p => { p with st := .ident })) i (identBlock s i)) else .next s

/-- Role that a partner reports when it is to become a worker (R341, R343). -/
def roleWorker : Nat := 2

/-- IDENT_BLOCK_RECEIVE (R341, R343): agreed, or the port stops at step 2; a worker takes the depth and path assigned,
and renumbers its own children. -/
def execIdentBlockReceive (i : Nat) (serial3 : Word) (role depth path : Nat) (s : State) : Out :=
  let p := s.port i
  if p.st = .ident ∧ p.stopped = false then
    if i ≠ 0 ∧ (role ≠ roleWorker ∨ 3 ≤ ownDepth s) then .next (s.updPort i (fun p => { p with stopped := true, tx := [], part := [] }))
    else
      let s1 := s.updPort i (fun p => { p with st := .measure, ident := serial3 })
      .next (if i = 0 ∧ p.upMode = 0 then { s1 with tree.path := depth % 4 * 64 + path % 64 } else s1)
  else if i = 0 ∧ p.st = .run ∧ p.upMode = 0 then
    let s1 : State := { s with tree.path := depth % 4 * 64 + path % 64 }
    .next (forAll (runDn s1) (fun s j => sendBlock s j (identBlock s j)) s1)
  else .next s

/-- PL_ONEWAY of a link and the EVT_LONG condition of a DN port (R347, R355, R362). -/
def setOneway (s : State) (i : Nat) (d : Int) : State :=
  let v := if d < 0 then 0 else if 262143 ≤ d then 0x3FFFF else wd d.toNat
  let long := decide (i ≠ 0) && decide (260000 < d)
  let s1 := s.updPort i (fun p => { p with oneway := v, evtLong := long })
  if long = true ∧ (s.port i).evtLong = false then s1.postPort i 4 else s1

/-- MEASURE_COMPLETE (R341 steps 3 to 4, R40, R343, R349, R359). -/
def execMeasureComplete (i : Nat) (oneway asymInt : Word) (s : State) : Out :=
  if (s.port i).st = .measure then
    let s1 := s.updPort i (fun p => { p with
      st := .run, asymInt := asymInt, partner := p.ident, credits := 16, xnum := 0 })
    let s2 := (setOneway s1 i oneway.toNat).postPort i 2
    if i = 0 ∧ (s.port 0).upMode = 0 then
      .next { s2 with
        tree.st := 1, tree.theta := [], tree.parentAligned := false, tree.joinAt := none,
        ref.upState := if s.ref.xoQual then 2 else 1, ref.upWin := [] }
    else .next s2
  else .next s

/-! ### Loss and retrain (R342, R345, R357, R360) -/

/-- The tunnels to the device on DN port i and below it end (R357). -/
def dropTunnels (s : State) (i : Nat) : State :=
  let d := (ownDigits s).length
  let hit := s.tree.tunnels.filter (fun t => decide ((pathDigits t.path).getD d 9 = i - 1))
  forAll hit (fun s t => complete s t.tag ABORTED [])
    { s with tree.tunnels := s.tree.tunnels.filter (fun t => ! hit.contains t) }

/-- An UP link that leaves RUN: a tick announced by the parent is missed, and the parent's events still to come are not
registered but counted on rejoin (R351, R360). -/
def upLost (s : State) : State :=
  let own := s.mbx.cmds.any (fun c => decide (c.opcode = 0x014) && decide (c.st = .executing))
  { s with
    ref.epoch := if own then s.ref.epoch else none,
    tree.missed := s.tree.missed + (s.tree.fab.filter (fun x => ! x.own)).length,
    tree.fab := s.tree.fab.filter (fun x => x.own), tree.passed := [] }

/-- What ends with a link: the reference and alignment through an UP port, the tunnels through a DN port, and packets
part sent, which are sent again whole. -/
def linkDown (s : State) (i : Nat) (was : PortState) : State :=
  if i = 0 then
    let s0 := forAll (presentRegions s) (fun s r => s.updAcq r (fun a => { a with mem.sent := 0 })) s
    let s1 := if was = .run then upLost s0 else s0
    if was = .run ∧ (s.ref.upState ≠ 0 ∨ (s.port 0).upMode = 0) then
      if s.ref.upState = 3 then sourceLost { s1 with ref.upState := 5, ref.upWin := [], tree.st := 3, tree.joinAt := none } .uplink
      else { s1 with ref.upState := 0, ref.upWin := [], tree.st := 3, tree.joinAt := none }
    else s1
  else dropTunnels s i

/-- A counter of a port window advances and posts COUNTER_SAT when it saturates (R362, R439). -/
def countRetrain (s : State) (i : Nat) : State :=
  let n := satAdd 0x3FFFF (s.port i).retrains 1
  let s1 := s.updPort i (fun p => { p with retrains := n })
  if (s.port i).retrains < 0x3FFFF ∧ n = 0x3FFFF then s1.postPort i 6 else s1

/-- The port leaves its state for `next`, with the events in `bits` (R342). -/
def portFall (s : State) (i : Nat) (next : PortState) (bits : BitVec 12) : State :=
  let was := (s.port i).st
  let s1 := s.updPort i (fun p => { p with
    st := next, stopped := false, partner := 0, badHdr := [], credits := 0, tx := [], part := [], events := if bits = 0 then p.events else p.events.post bits })
  linkDown s1 i was

/-- LOSS_OF_SIGNAL (R342). -/
def execLossOfSignal (i : Nat) (s : State) : Out :=
  if (s.port i).st.live then .next (portFall (countRetrain s i) i .los 0b11) else .next s

/-- A forced or provoked retrain while the signal is present (R342). -/
def retrain (s : State) (i : Nat) : State :=
  if (s.port i).st.live then portFall (countRetrain s i) i .locking 0b10 else s

/-- PL_CTL_RETRAIN (R342, R362). -/
def execPlCtlRetrain (i : Nat) (s : State) : Out := .next (chipWrite s (0x18800 + 0x40 * i) fun s => retrain s i)

/-- The present edge of the lowest running region. -/
def leadEdge (s : State) : Nat :=
  match leadRegion s with
  | some r => (s.region r).edge
  | none => 0

/-- INVALID_BLOCK (R339, R342): counted, and the sixteenth bad header within 64 blocks retrains the port. -/
def execInvalidBlock (i : Nat) (badHeader : Bool) (s : State) : Out :=
  if (s.port i).st.live = false then .next s
  else
    let now := leadEdge s
    let n := satAdd 0x3FFFF (s.port i).crcErr 1
    let s1 := (s.updPort i (fun p => { p with crcErr := n })).postPort i 3
    let s2 := if (s.port i).crcErr < 0x3FFFF ∧ n = 0x3FFFF then s1.postPort i 6 else s1
    if badHeader then
      let recent := (s.port i).badHdr.filter (fun e => decide (now ≤ e + 322))
      if 15 ≤ recent.length then .next (retrain s2 i)
      else .next (s2.updPort i (fun p => { p with badHdr := now :: recent }))
    else .next s2

/-- A write of PL_CTL (R342, R362). -/
def writePlCtl (s : State) (i : Nat) (v : Word) : State :=
  if i = 0 ∧ fld v 3 2 = 3 then s
  else
    let s1 := s.updPort i (fun p => { p with en := bitOf v 0, upMode := if i = 0 then fld v 3 2 else 0 })
    let s2 := if portOn s1 i = false then (if (s1.port i).st = .off then s1 else portFall s1 i .off 0)
      else if (s1.port i).st = .off ∧ (s.pwr.phase = .init ∨ s.pwr.phase = .ready) then s1.updPort i (fun p => { p with st := .los })
      else s1
    if bitOf v 5 then retrain s2 i else s2

/-! ### Time exchange and alignment (R346 to R349) -/

/-- TIME_EXCHANGE (R346, R347, R352): a stamped TIME block leaves; a parent also announces the next join boundary. -/
def execTimeExchange (i : Nat) (s : State) : Out :=
  match leadRegion s with
  | none => .next s
  | some r =>
    if (s.port i).st = .run then
      let now := (s.region r).time
      let p := s.port i
      let s1 := sendBlock (s.updPort i (fun p => { p with xnum := p.xnum + 1, t1 := now })) i (.time p.xnum now p.oneway)
      let next := BitVec.ofNat 54 ((now.toNat / 2 ^ 23 + 1) * 2 ^ 23)
      if i = 0 then .next s1
      else if isWorker s then (match s.tree.joinAt with
        | some b => .next (sendBlock s1 i (.join b))
        | none => .next s1)
      else .next (sendBlock s1 i (.join next))
    else .next s

/-- Sum of the offsets kept. -/
def sumInt (l : List Int) : Int := l.foldl (· + ·) 0

/-- ALIGN_ERR from the offsets kept: their average, saturating (R347, R362). -/
def alignOf (theta : List Int) : Int :=
  let a := roundQ ((Int.cast (sumInt theta) : Rat) / ((max theta.length 1 : Nat) : Rat))
  if 131071 < a then 131071 else if a < -131072 then -131072 else a

/-- TIME_BLOCK_RECEIVE (R346, R347, R349): at a DN port the parent computes d_dn; at UP the child updates its offset. -/
def execTimeBlockReceive (i : Nat) (t1 t2 t3 t4 : Int) (parentAligned : Bool) (s : State) : Out :=
  if (s.port i).st ≠ .run then .next s
  else if i ≠ 0 then
    let a := sgn (s.port i).asymInt.toNat 18 + sgn (s.port i).asymExt.toNat 18
    .next (setOneway s i (roundQ ((Int.cast (((t4 - t1) - (t3 - t2)) + a) : Rat) / 2)))
  else if isWorker s = false then .next s
  else
    let th := ((t2 - t1 - t3) :: s.tree.theta).take 16
    let avg : Rat := (Int.cast (sumInt th) : Rat) / ((th.length : Nat) : Rat)
    let abs := if avg < 0 then -avg else avg
    let st := if s.tree.st < 2 then s.tree.st
      else if parentAligned = false then 2
      else if s.tree.st = 3 then (if 40 < abs then 2 else 3) else if abs < 10 then 3 else 2
    .next { (setOneway s 0 t3) with
      tree.theta := th, tree.alignErr := alignOf th, tree.parentAligned := parentAligned, tree.st := st }

/-! ### Events (R354, R355) -/

/-- k events are discarded as late (R355). -/
def eventsLate (s : State) (k : Nat) : State :=
  let n := satAdd 0x3FFFF s.tree.evtLate k
  let s1 : State := { s with tree.evtLate := n }
  if s.tree.evtLate < 0x3FFFF ∧ n = 0x3FFFF then s1.postPort 0 6 else s1

/-- EVENT_BLOCK_RECEIVE (R354, R355): forwarded upwards, broadcast by the manager, kept for M + 160, or late. -/
def execEventBlockReceive (i m : Nat) (edge10 : BitVec 10) (s : State) : Out :=
  match leadRegion s with
  | none => .next s
  | some r =>
    if (s.port i).st ≠ .run then .next s
    else
      let g := s.region r
      let age := (g.time.toNat + 1024 - edge10.toNat) % 1024
      let at_ := g.time - BitVec.ofNat 54 age
      let known := fabKnown s m at_
      let x : FabEvent := { m := m, at_ := at_, due := g.edge + 160 - age, r := r, own := false }
      let keep : State := if s.tree.fab.any (fun y => decide (y.m = m) && decide (y.at_ = at_)) then s else { s with tree.fab := s.tree.fab ++ [x] }
      if 160 < age then .next (eventsLate s 1)
      else if i ≠ 0 ∧ isWorker s = true then
        (if s.tree.evtEn = false ∨ known = true ∨ s.tree.st < 2 then .next s
         else .next (sendBlock { s with
           tree.passed := s.tree.passed.filter (fun y => decide ((s.region y.r).edge ≤ y.due)) ++ [x] } 0 (.event m edge10)))
      else if i ≠ 0 then
        (if known then .next s else if s.tree.evtEn then .next (eventDown keep m at_) else .next keep)
      else if isWorker s = true ∧ 2 ≤ s.tree.st then (if s.tree.evtEn then .next (eventDown keep m at_) else .next keep)
      else .next s

/-- A kept event meets its edge M + 160: it registers in every running region, or is late (R130 class 1, R354, R355). -/
def deliverEvent (s : State) (x : FabEvent) : State :=
  let now := (s.region x.r).edge
  if now < x.due then s
  else
    let s1 : State := { s with tree.fab := s.tree.fab.filter (fun y => decide (y ≠ x)) }
    if x.due < now then eventsLate s1 1
    else forAll (runningRegions s1) (fun s q => register s q 1 x.m (sameEdge s x.r q x.due)) s1

/-- EVENT_DELIVERY (R130 class 1, R354, R355): the event of mark m and emission edge M. -/
def execEventDelivery (m : Nat) (edge : BitVec 54) (s : State) : Out :=
  match s.tree.fab.find? (fun x => decide (x.m = m) && decide (x.at_ = edge)) with
  | none => .next s
  | some x => .next (deliverEvent s x)

/-- TEV_EDGE (R130 classes 2 and 3): the level moves, and the edge registers two or three cycles later in every region. -/
def execTevEdge (i : Nat) (rising : Bool) (s : State) : Out :=
  if i < 8 ∧ s.pins.tevOn = true ∧ s.pins.tev.getLsbD i ≠ rising then
    let s1 : State := { s with pins.tev := s.pins.tev ^^^ (1#8 <<< i) }
    .next (forAll (runningRegions s1) (fun s q =>
      register s q (if rising then 2 else 3) i ((s.region q).edge + 2 + b2n (Config.laterEdge (s.free + q)))) s1).tick
  else .next s

/-! ### Epoch and joining (R351, R352) -/

/-- EPOCH_BLOCK_RECEIVE (R339, R351): forwarded, and loaded at T_L by a device that is JOINED or ALIGNED. -/
def execEpochBlockReceive (value tl : BitVec 54) (s : State) : Out :=
  if isWorker s = false ∨ s.tree.lastEpoch = some (value, tl) then .next s
  else
    let s1 : State := { s with tree.lastEpoch := some (value, tl) }
    let s2 := forAll (runDn s1) (fun s i => sendBlock (sendBlock s i (.epoch value tl)) i (.epoch value tl)) s1
    match leadRegion s with
    | none => .next s2
    | some r =>
      if 2 ≤ s.tree.st ∧ reached (s.region r).time tl = false then .next { s2 with ref.epoch := some (value, tl, r) } else .next s2

/-- JOIN_BLOCK_RECEIVE (R352). -/
def execJoinBlockReceive (boundary : BitVec 54) (s : State) : Out :=
  if isWorker s then .next { s with tree.joinAt := some boundary } else .next s

/-- A worker that has UPLINK selected and settled in every running region (R352). -/
def joinReady (s : State) : Bool :=
  isWorker s && s.tree.joinEn && decide (s.tree.st = 1) && ! (runningRegions s).isEmpty
  && (runningRegions s).all (fun r => decide ((s.region r).rrp = .locked) && decide ((s.region r).active = .uplink))

/-- JOIN_BOUNDARY (R352): a ready worker steers, or loads the parent's time as an internal epoch tick. -/
def execJoinBoundary (parentTime : BitVec 54) (diffPs : Nat) (s : State) : Out :=
  match s.tree.joinAt with
  | none => .next s
  | some b =>
    if joinReady s = true ∧ parentTime = b then
      let s1 : State := eventsLate { s with tree.st := 2, tree.joinAt := none, tree.missed := 0 } s.tree.missed
      if diffPs < 100000 then
        .next (forAll (runningRegions s1) (fun s r => s.updRegion r (fun g => { g with steering := true, timeAligned := false })) s1)
      else .next (epochAll { s1 with tree.theta := [] } parentTime)
    else .next s

/-! ### Tunnelling (R357) -/

/-- The DN port towards a path below this device, when that port is in RUN. -/
def portTowards (s : State) (path : Nat) : Option Nat :=
  let d := (ownDigits s).length
  if (pathDigits path).take d = ownDigits s ∧ d < (pathDigits path).length then
    (let i := (pathDigits path).getD d 0 + 1
     if (s.port i).st = .run then some i else none)
  else none

/-- A record that comes back for a tunnel: a continuation is kept, a completion ends TREE_TUNNEL (R265, R357). -/
def tunnelReturn (s : State) (t : Tunnel) (words : List Word) : State :=
  let got := t.got ++ words
  if fld (words.getD 0 0) 15 2 = 0 then
    completeWith { s with tree.tunnels := s.tree.tunnels.filter (fun x => decide (x ≠ t)) } t.tag OK got
      [wd got.length, wd (fld (words.getD 0 0) 9 4)]
  else { s with tree.tunnels := s.tree.tunnels.map (fun x => if x = t then { x with got := got } else x) }

/-- TUNNEL_FRAME_RECEIVE (R357): delivered here, forwarded, or returned. -/
def execTunnelFrameReceive (i path : Nat) (up : Bool) (words : List Word) (s : State) : Out :=
  if (s.port i).st ≠ .run then .next s
  else if up then
    match s.tree.tunnels.find? (fun t => decide (t.path = path)) with
    | some t => .next (tunnelReturn s t words)
    | none => if isWorker s then .next (sendBlock s 0 (.tunnel path true words)) else .next s
  else if path = s.tree.path ∧ isWorker s = true then .next { s with tree.inbox := s.tree.inbox ++ [words] }
  else
    match portTowards s path with
    | some j => .next (sendBlock s j (.tunnel path false words))
    | none => .next s

/-- TUNNEL_DELIVER (R357): with room for it, the descriptor is pushed as one batch and parsed. -/
def execTunnelDeliver (s : State) : Out :=
  match s.tree.inbox with
  | [] => .next s
  | ws :: rest =>
    if sqFree s < ws.length then .next s
    else
      match parseBatch true ws.length ws s with
      | ([], s1) => .next { s1 with tree.inbox := rest }
      | _ => .next s

/-! ### Streaming (R358, R359) -/

/-- Credits of 64 blocks that a packet takes. -/
def packetCredits (words : List Word) : Nat := (2 + 9 * ((words.length + 31) / 32) + 63) / 64

/-- The packets of other devices go on as far as the credits reach, while no packet of this device is under way. -/
def forwardPackets (s : State) : List (Nat × Nat × Nat × Bool × List Word) → State
  | [] => { s with tree.packets := [] }
  | p :: ps =>
    if (s.port 0).st = .run ∧ packetCredits p.2.2.2.2 ≤ (s.port 0).credits ∧ [0, 1, 2, 3].all (fun q => decide ((s.acq q).mem.sent = 0)) = true then
      let s1 := s.updPort 0 (fun x => { x with credits := x.credits - packetCredits p.2.2.2.2 })
      let s2 := sendBlock s1 0 (.stream p.1 p.2.1 p.2.2.1 p.2.2.2.1 p.2.2.2.2)
      let j := (pathDigits p.1).getD (ownDigits s).length 0 + 1
      forwardPackets (sendBlock s2 j (.credit (packetCredits p.2.2.2.2))) ps
    else { s with tree.packets := p :: ps }

/-- STREAM_PACKET_RECEIVE (R358, R359). -/
def execStreamPacketReceive (i path r strand : Nat) (lost : Bool) (words : List Word) (s : State) : Out :=
  if i ≠ 0 ∧ (s.port i).st = .run then .next (forwardPackets s (s.tree.packets ++ [(path, r, strand, lost, words)])) else .next s

/-- CREDIT_BLOCK_RECEIVE (R359). -/
def execCreditBlockReceive (i n : Nat) (s : State) : Out :=
  if (s.port i).st = .run then
    let s1 := s.updPort i (fun p => { p with credits := p.credits + n })
    .next (if i = 0 then forwardPackets s1 s1.tree.packets else s1)
  else .next s

/-! ### Commands (R265, R362) -/

/-- TREE_SCAN (R265). -/
def execTreeScan (tag : Nat) (found : List (Nat × Word × Nat)) (s : State) : Out :=
  .next (hitan s tag 0x090 (fun s _ =>
    if runDn s = [] then complete s tag PRECOND []
    else
      let f := found.filter (fun x => pathOk x.1)
      let data := f.flatMap (fun x => [wd x.1, x.2.1, wd (x.2.2 % 8)])
      completeWith s tag OK data [wd data.length, wd f.length, wd ((f.map (fun x => x.1 / 64 % 4)).foldl max 0)]))

/-- No device is reached at the path of a tree target: none below a port in RUN, or beyond the depth of the tree (R344). -/
def pathAbsent (s : State) (c : Cmd) : Bool :=
  decide (tgtScope c.target = 6)
  && (decide (3 < (ownDigits s).length + (pathDigits (tgtIndex c.target)).length)
      || (portTowards s (pathOf (ownDigits s ++ pathDigits (tgtIndex c.target)))).isNone)

/-- TREE_STATUS (R265, R362): `ans` is what the device at the path answers, nothing where none is joined. -/
def execTreeStatus (tag : Nat) (ans : List Word) (s : State) : Out :=
  .next (hitanReach s tag 0x091 (fun c => decide (tgtScope c.target = 6) && (decide (ans = []) || pathAbsent s c)) (fun s c =>
    if tgtScope c.target = 0 then
      complete s tag OK [wd (treeState s), wd (unsgn s.tree.alignErr 18),
        wd ([0, 1, 2, 3, 4].filter (fun i => portPresent s i && decide ((s.port i).st = .run))).length,
        wd (min 0x3FFFF ([0, 1, 2, 3, 4].map (fun i => (s.port i).retrains)).sum)]
    else if ans = [] ∨ pathAbsent s c = true then complete s tag ABSENT []
    else complete s tag OK (padTo 4 ans)))

/-- TREE_TUNNEL (R265, R357): `joined` tells that the path's device is JOINED or ALIGNED. Without a DN port in RUN the
command's own check answers, with PRECOND. -/
def execTreeTunnel (tag : Nat) (joined : Bool) (s : State) : Out :=
  .next (hitanReach s tag 0x092 (fun c => ! (runDn s).isEmpty && (! joined || pathAbsent s c)) (fun s c =>
    let path := pathOf (ownDigits s ++ pathDigits c.unit)
    let inner := fld (c.arg 0) 9 9
    if inner = 0x090 ∨ inner = 0x092 then complete s tag BADARG []
    else if runDn s = [] then complete s tag PRECOND []
    else if joined = false ∨ pathAbsent s c = true then complete s tag ABSENT []
    else
      match portTowards s path with
      | none => complete s tag ABSENT []
      | some j => sendBlock { s with tree.tunnels := s.tree.tunnels ++ [{ tag := tag, path := path }] } j (.tunnel path false c.args)))

end Sys2Proof.Machine
end

