-- ==== Sys2Proof/Machine/Resets.lean ====
section
/-! DEFINITION. Resets of every scope: chip, region, block, cell and TIU (R10, R28, R456, R459 to R462), what the end of a
reset loads (R83, R388, R389, R406 to R408), and the start-up steps that end a chip reset (R463). -/
namespace Sys2Proof.Machine
open Sys2Proof

/-! ### Chip reset (R459 to R461) -/

/-- The pace fields that only a power-on reset returns to their reset values (R455, R456). -/
def keepPace (p : Pace) : Pace := { pmbAddr := p.pmbAddr, pec := p.pec, mode := p.mode, expo := p.expo }

/-- What a chip reset keeps of the calibration state: the store and its flash copy (R461). -/
def keepCal (c : CalSt) : CalSt :=
  { bank0 := c.bank0, bank1 := c.bank1, factory := c.factory, counter := c.counter, facSeq := c.facSeq,
    copyFac := c.copyFac, copyUser := c.copyUser }

/-- The state held in chip reset: every register at its reset value, every memory wiped; LOCKET, the store, antifuses and
flash kept (R427, R461), as are the voltages outside. Causes 0 and 5 are power-on resets (R438, R459). A cause that comes
while the reset is held coincides with the one that holds it (log 69). -/
def resetState (s : State) (cause : Nat) : State :=
  let por := decide (cause = 0) || decide (cause = 5)
  { pending := s.pending, free := s.free, fuses := s.fuses, lk := s.lk,
    cal := keepCal s.cal,
    bist := { fuse := s.bist.fuse },
    fl := { mem := s.fl.mem },
    flt := { mirrorPos := s.flt.mirrorPos },
    pwr := { porHeld := s.pwr.porHeld, rstLow := s.pwr.rstLow, railOut := s.pwr.railOut,
             latch := if s.pwr.phase = .reset ∧ s.pace.st ≠ .confirm then min s.pwr.latch cause else cause },
    pace := if por then {} else keepPace s.pace,
    evins := tabMap {} (fun _ e => { volt := e.volt }) s.evins,
    pins := { tev := s.pins.tev, jtag := if por then 0x02 else s.pins.jtag } }

/-- Start-up step 1 (R455, R460, R463): once nothing holds the reset, VID shows P2, and P2 is awaited. -/
def release (s : State) : State :=
  if s.pwr.phase = .reset ∧ s.pwr.porHeld = false ∧ s.pwr.rstLow = false then
    { s with pace := { s.pace.drive 2 with level := 2, target := 2, limits := 2, st := .confirm } }
  else s

/-- A chip reset: held while RST_N is low or power-on reset is held, else released at once (R460). -/
def chipReset (s : State) (cause : Nat) : State := release (resetState s cause)

/-! ### Fused repairs (R408) -/

/-- Entries of the antifuse bank with a bit burned, with their numbers. -/
def fuseEntries (s : State) : List (Nat × BitVec 32) := s.bist.fuse

/-- Block of a cell-map entry. -/
def mapBlock (w : BitVec 32) : Nat := (w.extractLsb' 26 4).toNat

/-- An entry is a cell map. -/
def isMap (w : BitVec 32) : Bool := w.getLsbD 31 && w.getLsbD 30

/-- The fused map of block B: of its entries whose parity checks, the one of the highest number. -/
def fuseMap (s : State) (B : Nat) : Option Nat :=
  ((fuseEntries s).filter (fun e => isMap e.2 && parityOk e.2 && decide (mapBlock e.2 = B))).getLast?.map
    (fun e => (e.2.extractLsb' 22 4).toNat)

/-- Region of an entry. -/
def fuseRegion (w : BitVec 32) : Nat := if w.getLsbD 30 then mapBlock w / 4 else (w.extractLsb' 28 2).toNat

/-- Reading the entries that f selects: one record for each whose parity does not check. -/
def readFuses (s : State) (f : BitVec 32 → Bool) : State :=
  forAll ((fuseEntries s).filter (fun e => f e.2 && ! parityOk e.2)) (fun s e => faultChip s 0x3B 0 0 (wd e.1)) s

/-! ### Units after a reset -/

/-- A cell as a reset leaves it in a region that runs, with its working values (R83, R166). -/
def freshCell (s : State) (p : Nat) : State :=
  let s1 := { s with cells := tabSet {} s.cells p { ({} : CellSt) with out.drv := .disabled } }
  if s.cal.loaded then loadCell s1 p else s1

/-- A block as a reset leaves it: its sensor runs on, and spare_faulty and the soft map are kept (R406, R411, R437). -/
def freshBlock (b : BlockSt) : BlockSt :=
  { spareFaulty := b.spareFaulty, softMap := b.softMap, fusedMap := b.fusedMap, tj := b.tj, tjHist := b.tjHist,
    sensorFault := b.sensorFault, sensorGood := b.sensorGood, tjw := b.tjw }

/-- The fused map, else the soft map, is reapplied by seating; a faulty spare is not seated
(R406, R411). The spare takes its skew for the position that it serves (R112, R163). -/
def reapplyMap (s : State) (B : Nat) : State :=
  let s1 := s.updBlock B (fun b =>
    let fused := fuseMap s B
    let c := if fused.isSome then fused else b.softMap
    let b1 := { b with fusedMap := fused }
    if c.isSome = true ∧ b.spareFaulty = false then
      { b1 with seated := c, why := if fused.isSome then .fusedMap else .softMap, holder := some .map }
    else b1)
  if (s1.block B).seated.isSome = true ∧ s.cal.loaded = true then loadCell s1 (spareOf B) else s1

/-- The event inputs of a list take their reset values and working trims; the voltage on their pins stays, and an engine
that samples them knows their last states (R206). -/
def freshEvins (s : State) (l : List Nat) : State :=
  forAll l (fun s i =>
    let e := s.evin i
    let s1 := { s with evins := tabSet {} s.evins i { volt := e.volt, smp := e.smp, stored := e.stored } }
    if s.cal.loaded then loadEvin s1 i else s1) s

/-! ### Runs that a reset cuts short (R385, R405) -/

/-- Units of a CAL_RUN, by block, that lie in a scope. -/
abbrev Scope : Type := Nat → CalUnit → Bool

/-- Every CAL_RUN with a unit left in the scope ends with ABORTED_RESET once its units in other blocks have ended. -/
def calReset (s : State) (f : Scope) : State :=
  forAll (s.cal.runs.filter (fun r => r.todo.any (fun x => x.2.any (f x.1)))) (fun s r =>
    let live := r.granted.filter (fun B => ! (calUnitOf r B).any (f B))
    let r1 := { r with
      granted := live, done := r.done.filter live.contains, early := some ABORTED,
      todo := r.todo.map (fun x => (x.1, if live.contains x.1 then x.2.take 1 else [])) }
    let s1 : State := { s with cal.runs := s.cal.runs.map (fun x => if x.tag = r.tag then r1 else x) }
    let s2 := forAll (r.todo.map (fun x => x.1)) (fun s B => s.updBlock B (fun b => { b with
      waiting := b.waiting.filter (fun w => decide (w ≠ (.cal, r.tag))) })) s1
    if live = [] then calFinish s2 r1 else s2) s

/-- The unit kind that an item code belongs to: 0 TIU, 1 event input, 2 cell; 3 none. -/
def codeKind (code : Nat) : Nat := if code ≤ 0x0A then 2 else if code = 0x10 then 0 else if code = 0x18 ∨ code = 0x19 then 1 else 3

/-- Pending items of the units that f selects are discarded (R385). -/
def pendReset (s : State) (f : Nat → Nat → Bool) : State :=
  { s with cal.pend := s.cal.pend.map (fun t => tabDrop (fun k => f (codeKind (k / 2 ^ 21)) (k / 2 ^ 5 % 2 ^ 16)) t) }

/-- The BIST_RUNs that f selects end with ABORTED_RESET, the tests under way recording INCOMPLETE (R405). -/
def bistReset (s : State) (f : BistRun → Bool) : State :=
  forAll (s.bist.runs.filter f) (fun s r =>
    match r.periods with
    | [] => bistEnd s r ABORTED
    | k :: _ =>
      let left := r.tests &&& ~~~(r.res.1 ||| r.res.2.1)
      let s1 := if r.stage = .testing ∨ r.stage = .restoring then recordIncomplete s k left else s
      let s2 := forAll k.blocks (fun s B => s.updBlock B (fun b => { b with
        waiting := b.waiting.filter (fun w => decide (w.2 ≠ r.tag) || decide (w.1 = .cal)), bistState := 0, bistTest := 7 })) s1
      bistEnd s2 { r with res := (r.res.1, r.res.2.1, left) } ABORTED) s

/-! ### Region reset (R28, R49, R59, R462) -/

/-- A pending epoch tick that a region counts goes on in another running region (R59). -/
def epochMove (s : State) (r : Nat) : State :=
  match s.ref.epoch with
  | some (v, tl, q) =>
    if q = r then
      match (runningRegions s).find? (fun x => decide (x ≠ r)) with
      | some x => { s with ref.epoch := some (v, (s.region x).time + (tl - (s.region r).time), x) }
      | none => s
    else s
  | none => s

/-- The tree events whose delivery edge region r counts go on in another running region (R354, R360). -/
def fabricMove (s : State) (r : Nat) : State :=
  match (runningRegions s).find? (fun x => decide (x ≠ r)) with
  | some q => { s with
      tree.fab := s.tree.fab.map (fun e => if e.r = r then { e with r := q, due := sameEdge s r q e.due } else e),
      tree.passed := s.tree.passed.map (fun e => if e.r = r then { e with r := q, due := sameEdge s r q e.due } else e) }
  | none => s

/-- The state that belongs to region r and its memories, wiped; the voltages on its event inputs are outside. -/
def wipeRegion (s : State) (r : Nat) (hold : RegionRun) (tag : Option Nat) : State :=
  let g := s.region r
  let inR := fun (k n : Nat) => decide (k / n = r)
  let s1 : State := { s with
    regions := tabSet {} s.regions r { everLocked := g.everLocked, edge := g.edge, run := hold, inReset := true, resetTag := tag },
    rmem := tabSet {} s.rmem r {},
    blocks := tabMap {} (fun B b => if inR B 4 then freshBlock b else b) s.blocks,
    cells := tabDrop (fun p => decide (cellRegion p = r)) s.cells,
    tius := tabDrop (inR · 16) s.tius, evins := tabMap {} (fun i e => if inR i 64 then { volt := e.volt } else e) s.evins,
    acqs := tabSet {} s.acqs r {},
    profiles := tabDrop (inR · 122880) s.profiles, hopTab := tabDrop (inR · 32768) s.hopTab }
  { s1 with
    evRegs := s.evRegs.filter (fun e => decide (e.1 ≠ r)),
    tree.fab := s.tree.fab.filter (fun e => decide (e.r ≠ r)), tree.passed := s.tree.passed.filter (fun e => decide (e.r ≠ r)),
    pins.marko := s.pins.marko.filter (fun e => decide (e.2.2 ≠ r)),
    cal.deferred := s.cal.deferred.filter (fun d => decide (cellRegion d.1 ≠ r)),
    cal.applyAt := s.cal.applyAt.filter (fun x => decide (x.1 ≠ r)),
    flt.badWords := s.flt.badWords.filter (fun w => ! regionWord r w),
    flt.eccLogged := s.flt.eccLogged.filter (fun w => ! regionWord r w) }

/-- A region enters reset and stays in it as `hold` says; commands that f selects end with ABORTED_RESET (R28). -/
def regionReset (s : State) (r : Nat) (hold : RegionRun) (tag : Option Nat) (f : Cmd → Bool) : State :=
  let s1 := abortCmds s (fun c => f c && decide (targetRegion c.target = some r))
  let s2 := bistReset s1 (fun x => x.periods.any (fun k => decide (k.reg = r)))
  let s3 := calReset s2 (fun B _ => decide (B / 4 = r))
  let s4 := pendReset s3 (fun k u => (decide (k = 0) && decide (u / 16 = r)) || (decide (k = 1) && decide (u / 64 = r))
    || (decide (k = 2) && decide (cellRegion u = r)))
  let hit := (followers s4 r).filter (fun q => decide ((s4.region q).rrp = .locked))
  let s5 := wipeRegion (fabricMove (epochMove s4 r) r) r hold tag
  refMoved (forAll hit (fun s q => holdoverEnter s q .neighbour) (clearSnaps s5 (regionBase r) 0x8000))

/-- A region reset that no RESET asked for holds the region: every command for it ends (R28, R437, R438). -/
def holdRegion (s : State) (r : Nat) (hold : RegionRun) : State := regionReset s r hold none (fun _ => true)

/-- The RESETs of block, cell and TIU scope that a region's reset overtook complete with its end (R462). -/
def endInnerResets (s : State) (r : Nat) : State :=
  forAll ((s.mbx.cmds.filter (fun c => decide (c.opcode = 0x002) && decide (c.st = .executing)
      && decide (tgtScope c.target ≠ 1) && decide (targetRegion c.target = some r))).map (fun c => c.tag))
    (fun s t => complete s t OK []) s

/-- A region leaves reset (R43, R61, R83, R166, R406, R408, R472): its RRP starts on the XO, its TOUTs become DISABLED,
working values are loaded, and repair maps reapplied. -/
def leaveReset (s : State) (r : Nat) : State :=
  let s1 := readFuses s (fun w => decide (fuseRegion w = r))
  let s2 := { s1 with pins.tevOn := true }.updRegion r (fun g => { g with inReset := false, run := .realign, rrp := .acquiring })
  let s2 := forAll [0, 1, 2, 3] (fun s b => s.updBlock (4 * r + b) (fun y => { y with tjw := if y.sensorFault then y.tjw else y.tj })) s2
  let s3 := forAll ((regionCells r).filter (cellPresent s)) freshCell s2
  let s4 := freshEvins s3 ((List.range 64).map (fun i => 64 * r + i))
  endInnerResets (forAll [0, 1, 2, 3] (fun s b => reapplyMap s (4 * r + b)) s4) r

/-! ### Block, cell and TIU reset (R182, R197, R462) -/

/-- A block reset. -/
def blockReset (s : State) (B : Nat) (f : Cmd → Bool) : State :=
  let s1 := abortCmds s (fun c => f c && decide (targetBlock c.target = some B))
  let s2 := bistReset s1 (fun x => (x.periods.take 1).any (fun k => decide (k.blocks = [B])))
  let s3 := calReset s2 (fun b _ => decide (b = B))
  let s4 := pendReset s3 (fun k u => (decide (k = 0) && decide (u / 4 = B)) || (decide (k = 1) && decide (u / 16 = B))
    || (decide (k = 2) && decide (cellBlock u = B)))
  let ins := (List.range 16).map (fun i => 16 * B + i)
  let s6 := { s4 with
    blocks := tabSet {} s4.blocks B { freshBlock (s4.block B) with
      offline := (s4.mem (B / 4)).offline, offAt := (s4.block B).offAt, bistState := if (s4.mem (B / 4)).offline then 3 else 0 },
    tius := tabDrop (fun t => decide (t / 4 = B)) s4.tius }
  let s7 := forAll (blockCells B) freshCell (freshEvins s6 ins)
  reapplyMap (readFuses (clearSnaps s7 (blockBase B) 0x1000) (fun w => isMap w && decide (mapBlock w = B))) B

/-- A seating or return that meets a reset of its cell is abandoned (R117). -/
def abandonSeat (s : State) (B : Nat) : State :=
  match (s.block B).seating with
  | none => s
  | some q =>
    let x := chanOf B q.c
    let s1 := (maintStop s B ABORTED).updBlock B (fun b => { b with seating := none, recover := none })
    let s2 :=
      if q.ret then
        (if q.step = .changed then s1.updCell x (fun c => { c with eng := {}, hop := {} }) else s1)
      else releaseSpare s1 B
    match (s.block B).recover with
    | none => s2
    | some (m, e) =>
      recoverCell (releaseSpare (s2.updBlock B (fun b => { b with seated := none, why := .maintenance })) B) B m e

/-- A cell reset: the physical cell in service for channel n, its commands, and any seating or maintenance of the
channel; a seated spare stays seated, one that served for maintenance returns the channel (R117, R255, R385, R405). -/
def cellReset (s : State) (n : Nat) (f : Cmd → Bool) : State :=
  let p := inService s n
  let B := cellBlock n
  let s1 := abortCmds s (fun c => f c && decide (tgtScope c.target = 3) && (decide (c.unit = n) || decide (c.unit = p)))
  let s2 := bistReset s1 (fun x => (x.periods.take 1).any (fun k => decide (k = .online n)))
  let held := decide ((s2.block B).holdCell = some (cellIdx n))
  let s3 := calReset s2 (fun b u => decide (b = B) && ((decide (u.kind = 2) && decide (u.unit = n)) || (decide (u.kind = 3) && decide (p = 256 + B))))
  let s4 := pendReset s3 (fun k u => decide (k = 2) && decide (u = p))
  let mine := (s4.block B).seating.any (fun q => decide (q.c = cellIdx n))
  let s5 := if mine then abandonSeat s4 B else s4
  let s5 := if held then s5.updBlock B (fun b => { b with holdCell := none, tiuHeld := [] }) else s5
  let s6 := clearSnaps (freshCell s5 p) (cellBase p) 0x40
  let s7 : State := if tabGet {} (s6.block B).saved p = {} then s6
    else s6.updBlock B (fun b => { b with saved := tabSet {} b.saved p (s6.cell p) })
  if held = true ∧ mine = false then
    let s8 := s7.updBlock B (fun b => { b with holder := none })
    if (s8.block B).seated = some (cellIdx n) ∧ (s8.block B).why = .maintenance ∧ (s8.block B).seating = none then
      seat s8 B (cellIdx n) .cal true none (s.region (B / 4)).edge
    else s8
  else s7

/-- A TIU reset: commands for it end with ABORTED_RESET, and its registers return to their reset values (R10, R234, R462); a
measurement in progress ends with INCOMPLETE, and its result stays (R197; log 21). A TIU out of use stays so (R182). -/
def tiuReset (s : State) (t : Nat) (f : Cmd → Bool) : State :=
  let s1 := abortCmds s (fun c => f c && decide (tgtScope c.target = 4) && decide (c.unit = t))
  let x := s1.tiu t
  clearSnaps { s1 with tius := tabSet {} s1.tius t { ({} : TiuSt) with
    st := if x.st = .outOfUse then .outOfUse else .idle,
    res := if x.busy then x.result INCOMPLETE else {}, last := if x.busy then INCOMPLETE else 0 } } (tiuBase t) 0x40

/-! ### The calibration store at start-up (R387 to R389) -/

/-- The bank that the pointer records name: the valid copy of the higher sequence number. -/
def storePtr (s : State) : Option (Nat × Nat) :=
  match s.cal.bank0.ptr, s.cal.bank1.ptr with
  | some a, some b => if a.2 < b.2 then some b else some a
  | some a, none => some a
  | none, b => b

/-- The store is read: FACTORY set, and the USER set of the bank named, else of the other bank with a record, else none. -/
def readStore (s : State) : State :=
  let fac := s.cal.bank0.facOk || s.cal.bank1.facOk
  let s1 : State := { s with cal.facOk := fac, cal.loaded := true, flt.calStore := ! fac }
  let s2 := if fac then s1 else faultChip s1 0x39 1 0 0
  let take := fun (s : State) (B : Nat) =>
    let k := calBank s B
    { s with cal.user := k.user, cal.prev := k.user, cal.bank := B, cal.seq := k.seq }
  match storePtr s with
  | none => s2
  | some (B, _) =>
    if (calBank s B).userOk then take s2 B
    else if (calBank s (1 - B)).userOk then take (faultChip s2 0x39 1 B 0) (1 - B)
    else s2

/-! ### Start-up (R37, R332 to R334, R415, R463) -/

/-- Start-up step 2: the boot ROM runs; LOCKET is checked, the cause latched, fused repairs read, GPIO0 asserted. -/
def romStart (s : State) : State :=
  let s1 : State := { s with
    pwr.phase := .rom, pwr.cause := s.pwr.latch, pwr.romRun := true, pwr.gpio := 1, fl.sel := 1,
    pace := { s.pace with st := .steady }, flt.locketBad := s.lk.badItem.isSome }
  let s2 := match s.lk.badItem with
    | none => s1
    | some i => faultChip s1 0x38 0 0 (wd i)
  readFuses s2 (fun _ => true)

/-- R332 steps 2 and 3: the configuration and boot select records are read; the wipe follows. -/
def romRecords (s : State) : State :=
  let b := bootSel s
  let s1 := match cfgRecord s with
    | none => s
    | some bs => { s with
        boot.flags := bs.getD 8 0, boot.dummy := bs.getD 9 0, boot.src := bs.getD 10 0,
        boot.xoKhz := beNat ((bs.drop 4).take 4), ref.xoFreq := wd (beNat ((bs.drop 4).take 4)) }
  { s1 with boot.order := bootOrder b, pwr.phase := .wipe }

/-- The wipe has ended: the host port serves frames and the XO starts, after the steps of R429 that a pending
life-cycle wipe repeats. -/
def wipeEnded (s : State) : State :=
  let s1 : State := { s with pwr.wiped := true }
  if s.lk.wipe then wipeLocket { s1 with pwr.phase := .lcWipe, sec.wiping := some (none, none) } else xoStart s1

/-- The image that the ROM boots: the first of its order that it accepts; none in BLANK (R331, R333, R417). -/
def chosenImage (s : State) : Option Nat := s.boot.order.find? (imageOk s)

/-- Before it boots a trial image the ROM marks the record tried (R333). -/
def markTried (s : State) (slot : Nat) : State :=
  let b := bootSel s
  if b.trial = true ∧ b.tried = 0xFF ∧ slot = b.pref then
    { flashProgram s 0 (selAddr b.copy + 16) [0] with boot.trial := true }
  else s

/-- A Plawen port starts (R341): it looks for a signal. -/
def startPort (s : State) (i : Nat) : State := if portOn s i then s.updPort i (fun p => { p with st := .los }) else s

/-- Start-up steps 5 and 6: the flash port for the firmware, the image, and what firmware does once it runs: profile sets
are loaded (R335, R336), and the records that waited in the FIFO go into the log (R441). -/
def firmwareStart (s : State) : State :=
  let s1 : State := { s with
    fl.div := 0, fl.mode := if s.boot.flags.getLsbD 0 then 1 else 0,
    fl.dummy := if s.boot.flags.getLsbD 0 then s.boot.dummy.extractLsb' 0 5 else s.fl.dummy }
  match chosenImage s1 with
  | none => { s1 with pwr.phase := .recovery }
  | some slot =>
    let s2 := markTried s1 slot
    let s3 : State := { s2 with
      pwr.phase := .init, boot.slot := some slot, boot.version := slotVersion s2 slot, boot.digest := slotDigest s2 slot,
      fl.wpLo := wd (slotSectors slot).1, fl.wpLoW := true, fl.wpHi := wd (slotSectors slot).2, fl.wpHiW := true, fl.win := 0 }
    let s4 := readStore s3
    let s5 := forAll (startable s4) leaveReset s4
    drainFifo (loadProfileSets (forAll [0, 1, 2, 3, 4] startPort s5))

/-- The region sources that the configuration record names, other than the XO (R43, R328). -/
def wantedSources (s : State) : List (Nat × Src) :=
  ((presentRegions s).map (fun r => (r, Src.ofCode (s.boot.src.toNat / 4 ^ r % 4)))).filter (fun x => decide (x.2 ≠ .xo))

/-- READY (R333, R433, R463 step 7): before it a watchdog reset is logged (log 70), with it a trial image is confirmed. -/
def readyUp (s : State) : State :=
  let s1 := if s.pwr.cause = 2 then faultChip s 0x3C 12 0 0 else s
  let s3 : State := { s1 with pwr.phase := .ready, pwr.readyPin := true, boot.want := wantedSources s1 }
  let s4 := match s.boot.trial, s.boot.slot with
    | true, some slot =>
      let e := slotEpoch s3 slot
      { writeSel s3 (bootSel s3).pref (bootSel s3).valid false with
        boot.trial := false, lk.minEpoch := if s3.lk.minEpoch.toNat < e then BitVec.ofNat 32 e else s3.lk.minEpoch }
    | _, _ => s3
  refMoved s4

end Sys2Proof.Machine
end

