-- ==== Sys2Proof/Machine/Power.lean ====
section
/-! DEFINITION. The rows of power, reset, start-up, pace and temperature (chapters 19, 20; 16 R367, R370), and the system
commands of R255. -/
namespace Sys2Proof.Machine
open Sys2Proof

/-! ### Reset and start-up -/

/-- POWER_ON_RESET_RELEASE (R447, R460). -/
def execPowerOnResetRelease (s : State) : Out :=
  .next (if s.pwr.porHeld then release { s with pwr.porHeld := false } else s)

/-- RST_N_ASSERT (R459): the pin has been low for ns nanoseconds; between 20 and 100 either outcome is whole. -/
def execRstNAssert (ns : Nat) (s : State) : Out :=
  if 100 ≤ ns then .next (chipReset { s with pwr.rstLow := true } 1)
  else if 20 ≤ ns then
    .next (if Config.rstPulse s.free then chipReset { s.tick with pwr.rstLow := true } 1 else s.tick)
  else .next s

/-- RST_N_RELEASE (R460). -/
def execRstNRelease (s : State) : Out := .next (if s.pwr.rstLow then release { s with pwr.rstLow := false } else s)

/-- WIPE_END (R427, R463). -/
def execWipeEnd (s : State) : Out := .next (if s.pwr.phase = .wipe then wipeEnded s else s)

/-- XO_QUAL_TIMEOUT (R465). -/
def execXoQualTimeout (s : State) : Out :=
  .next (if s.pwr.phase = .xoQual then { s with pwr.phase := .stopped, pwr.stop := 2 } else s)

/-- FIRMWARE_START (R332, R463 steps 5 and 6). -/
def execFirmwareStart (s : State) : Out := .next (if s.pwr.phase = .fwLoad then firmwareStart s else s)

/-- Every present region is RUN, THERM_HOLD or SUPPLY_HOLD (R463 step 7). -/
def regionsReady (s : State) : Bool :=
  (presentRegions s).all (fun r => decide ((s.region r).run = .thermHold) || decide ((s.region r).run = .supplyHold)
    || (decide ((s.region r).run = .run) && ! (s.region r).inReset))

/-- READY_ASSERT (R458, R463 step 7). -/
def execReadyAssert (s : State) : Out := .next (if s.pwr.phase = .init ∧ regionsReady s = true then readyUp s else s)

/-- FRST_N_RELEASE (R319): the flash leaves reset, so the ROM reads its records (R332). -/
def execFrstNRelease (s : State) : Out :=
  .next (if s.pwr.romRun = true ∧ s.pwr.frstHigh = false then
    (let s1 : State := { s with pwr.frstHigh := true }
     if s.pwr.phase = .rom then romRecords s1 else s1) else s)

/-! ### Rails (R438, R446 to R449) -/

/-- BROWN_OUT (R438, R459): a rail other than a VDDA_DCO segment; VDD_CORE and VDDIO lose the cause latch. -/
def execBrownOut (rail : Nat) (s : State) : Out :=
  if rail = 0 ∨ (5 ≤ rail ∧ rail ≤ 8) then
    .next (chipReset { s with pwr.porHeld := true } (if rail = 0 ∨ rail = 8 then 0 else 5))
  else .next s

/-- Firmware runs, so a region that no hold keeps leaves reset. -/
def started (s : State) : Bool := decide (s.pwr.phase = .init) || decide (s.pwr.phase = .ready)

/-- The hold of a region ends: another hold still in force takes its place, else the region leaves reset (R437, R438, R466). -/
def endHold (s : State) (r : Nat) : State :=
  if started s then leaveReset s r else s.updRegion r (fun g => { g with run := .run })

/-- DCO_SUPPLY (R438). -/
def execDcoSupply (r : Nat) (s : State) : Out :=
  if regionPresent s r = false ∨ s.pwr.phase = .reset ∨ (s.region r).run = .supplyHold then .next s
  else
    let s1 := pushFault s 2 0x26 9 0 (unitWord 1 r) (nowStamp s r) 0
    .next ((holdRegion s1 r .supplyHold).postRegion r 6)

/-- A reading of the VDD_CORE monitor (R456). -/
def readVmon (s : State) (rail mv : Nat) : State := if rail = 0 then { s with pace.vmon := min mv 1023 } else s

/-- SUPPLY_WINDOW (R438). -/
def execSupplyWindow (rail mv : Nat) (s : State) : Out :=
  if 9 ≤ rail ∨ s.pwr.phase = .reset ∨ s.pwr.railOut.contains rail = true then .next s
  else .next (faultChip { readVmon s rail mv with pwr.railOut := s.pwr.railOut ++ [rail] } 0x34 1 rail (wd mv))

/-- RAIL_BACK_IN_WINDOW (R438, R442). -/
def execRailBackInWindow (rail mv : Nat) (s : State) : Out :=
  .next { readVmon s rail mv with pwr.railOut := s.pwr.railOut.filter (fun x => x != rail) }

/-- SUPPLY_HOLD_RELEASE (R437, R438). -/
def execSupplyHoldRelease (r : Nat) (s : State) : Out :=
  if (s.region r).run = .supplyHold then
    .next (if s.pwr.thermShut then s.updRegion r (fun g => { g with run := .thermHold }) else endHold s r)
  else .next s

/-! ### Pace (R450 to R455) -/

/-- PACE_SET completes with the level in force (R255). -/
def paceAnswer (s : State) (status : Nat) : State :=
  match s.pace.tag with
  | none => s
  | some t => complete { s with pace.tag := none } t status
      (if status = OK then [wd (s.pace.level + 4 * b2n s.pace.pendingLevel.isSome)] else [])

/-- A transition ends at a level (R452, R453, R399): events posted, a mode write that waited applies, PACE_SET completes. -/
def paceEnd (s : State) (level status : Nat) (bits : BitVec 12) (ok : Bool) : State :=
  let test := s.pace.forTest
  let p1 := { s.pace with
    level := level, limits := level, target := level, st := .steady, resume := none, forTest := false,
    events := s.pace.events.post bits }
  let s1 := paceAnswer { s with pace := p1.settle } status
  paceRelease (if test then (if ok then bistPaceUp s1 else bistPaceFail s1) else s1)

/-- UNDERVOLT (R438, R453). -/
def execUndervolt (mv : Nat) (s : State) : Out :=
  if s.pwr.phase = .reset ∨ s.pace.st = .undervolt then .next s
  else
    let s1 : State := { readVmon s 0 mv with
      pace.limits := 0, pace.resume := some s.pace.st, pace.st := .undervolt, pace.events := s.pace.events.postBit 1 }
    .next (faultChip s1 0x34 1 0 (wd mv))

/-- PACE_CONFIRM (R452, R453, R455): the monitor confirms the level requested, above on the way up and below on the way
down; in reset it lets the boot ROM start. -/
def execPaceConfirm (mv : Nat) (s : State) : Out :=
  let s0 := readVmon s 0 mv
  let up := decide (paceMv s.pace.target ≤ mv + 15)
  if s.pwr.phase = .reset then .next (if s.pace.st = .confirm ∧ up = true then romStart s0 else s0)
  else
    match s.pace.st with
    | .confirm => .next (if up then paceEnd s0 s.pace.target OK 1 true else s0)
    | .voltDown => .next (if mv ≤ paceMv s.pace.target + 15 then paceEnd s0 s.pace.target OK 1 true else s0)
    | .undervolt =>
      if up then
        match s.pace.resume with
        | some .confirm => .next (paceEnd s0 s.pace.target OK 1 true)
        | some x => .next { s0 with pace := { s0.pace with st := x, resume := none, limits := s.pace.target } }
        | none => .next { s0 with pace := { s0.pace with st := .steady, limits := s.pace.target } }
      else .next s0
    | _ => .next s0

/-- PACE_CONFIRM_TIMEOUT (R452 steps U2T and D3). -/
def execPaceConfirmTimeout (mv : Nat) (s : State) : Out :=
  let s0 := readVmon s 0 mv
  if s.pwr.phase = .reset then .next s0
  else
    match s.pace.st with
    | .confirm =>
      let s1 := faultChip { s0 with pace := s0.pace.drive s.pace.level } 0x34 1 0 (wd mv)
      .next (paceEnd s1 s.pace.level FAULT 4 false)
    | .voltDown => .next (paceEnd s0 s.pace.target OK 5 true)
    | _ => .next s0

/-- PACE_DRAIN_END (R452 steps D1 and D2). -/
def execPaceDrainEnd (s : State) : Out :=
  .next (if s.pace.st = .limitsDown then { s with pace := { s.pace.drive s.pace.target with st := .voltDown } } else s)

/-- A write of PACE_CTL (R453, R454, R456). -/
def writePaceCtl (s : State) (v : Word) (voutMode : Option Byte) : State :=
  let p := { s.pace with pmbAddr := v.extractLsb' 4 7, pec := bitOf v 1 }
  if s.pace.st = .steady then
    (if bitOf v 0 = s.pace.mode then { s with pace := p } else { s with pace := p.setMode (bitOf v 0) voutMode })
  else { s with pace := { p with modeWait := some (bitOf v 0, voutMode) } }

/-- PACE_CTL_MODE_WRITE (R454): a write of mode = 1. -/
def execPaceCtlModeWrite (v : Word) (voutMode : Option Byte) (s : State) : Out :=
  .next (chipWrite s 0x18400 fun s => writePaceCtl s v voutMode)

/-- PM_ALERT_N_ASSERT (R454). -/
def execPmAlertNAssert (status : BitVec 16) (s : State) : Out :=
  if s.pace.mode = false ∨ s.pwr.phase = .reset then .next s
  else .next (faultChip ({ s with pace.alert := status }.postPace 4) 0x34 1 0 (wd s.pace.vmon))

/-! ### Temperature (R367, R370, R437) -/

/-- Present blocks whose sensor has converted and is not marked faulty, with their filtered Tj. -/
def goodTemps (s : State) : List Int :=
  ((List.range 16).filter (fun B => blockPresent s B && ! (s.block B).sensorFault && ! (s.block B).tjHist.isEmpty)).map
    (fun B => (s.block B).tj)

/-- The largest of a list of temperatures. -/
def hottest (l : List Int) : Int := l.foldl max (l.headD 0)

/-- The warning and the shutdown are judged on the filtered temperatures (R437). -/
def thermJudge (s : State) : State :=
  let l := goodTemps s
  let h := hottest l
  if l = [] then s
  else
    let s1 :=
      if s.pwr.thermWarn = false ∧ 1760 ≤ h then
        faultChip { s with pwr.thermWarn := true } 0x35 1 0 (BitVec.ofInt 18 h)
      else if s.pwr.thermWarn = true ∧ h < 1680 then { s with pwr.thermWarn := false }
      else s
    if s.pwr.thermShut = false ∧ 2000 ≤ h then
      let held := (presentRegions s1).filter (fun r => decide ((s1.region r).run ≠ .supplyHold))
      let s2 := forAll (presentRegions s1) (fun s r => pushFault s 2 0x27 9 0 (unitWord 1 r) (nowStamp s r) (BitVec.ofInt 18 h))
        { s1 with pwr.thermShut := true }
      let s3 := faultChip s2 0x36 9 0 (BitVec.ofInt 18 h)
      forAll (presentRegions s1) (fun s r => s.postRegion r 7) (forAll held (fun s r => holdRegion s r .thermHold) s3)
    else s1

/-- An event input takes new working values: those of the set before a commit until the application edge (R372, R373). -/
def trackEvin (s : State) (i : Nat) : State :=
  if s.cal.applyAt.any (fun x => decide (x.1 = i / 64) && x.2.2.isSome) then
    { loadEvin { s with cal.user := s.cal.prev } i with cal.user := s.cal.user }
  else loadEvin s i

/-- A tracking update of block B (R370, R371, R373). -/
def track (s : State) (B : Nat) : State :=
  let b := s.block B
  if b.sensorFault = false ∧ s.cal.loaded = true ∧ (s.region (B / 4)).inReset = false ∧ 8 ≤ (b.tj - b.tjw).natAbs then
    let s1 := s.updBlock B (fun b => { b with tjw := b.tj })
    let s2 := forAll (blockCells B) (fun s p => loadCellFrom s p (cellUser s p)) s1
    forAll ((List.range 16).map (fun i => 16 * B + i)) trackEvin s2
  else s

/-- A conversion fails its checks (R367): outside -55 to 150 C, or more than 10 C from the one before. -/
def convBad (b : BlockSt) (t : Int) : Bool :=
  decide (t < -880) || decide (2400 < t) || (match b.tjHist with
    | [] => false
    | x :: _ => decide (160 < (t - x).natAbs))

/-- SENSOR_CONVERSION (R367, R370, R374, R437): the FACTORY offset is applied to the conversion t. -/
def execSensorConversion (B : Nat) (t : Int) (s : State) : Out :=
  if blockPresent s B = false ∨ s.pwr.phase = .reset then .next s
  else
    let b := s.block B
    let c := t + (facVal s.cal.factory 0x20 B 31).getD 0 0
    let bad := convBad b c
    let hist := (c :: b.tjHist).take 16
    let good := if bad then 0 else b.sensorGood + 1
    let s1 := s.updBlock B (fun b => { b with
      tjHist := hist, tj := roundQ ((hist.foldl (· + ·) 0 : Int) / (hist.length : Rat)),
      sensorFault := bad || (b.sensorFault && decide (good < 16)), sensorGood := if bad || b.sensorFault then good % 16 else 0 })
    let s2 := if bad = true ∧ b.sensorFault = false then faultBlock s1 B 0x15 14 0 (BitVec.ofInt 18 c) 6 else s1
    .next (thermJudge (track s2 B))

/-- THERM_RELEASE (R437): every sensor has stayed below 115 C for a second. -/
def execThermRelease (s : State) : Out :=
  if s.pwr.thermShut = true ∧ hottest (goodTemps s) < 1840 then
    .next (forAll ((presentRegions s).filter (fun r => decide ((s.region r).run = .thermHold))) endHold { s with pwr.thermShut := false })
  else .next s

/-! ### Ends of unit resets (R462) -/

/-- UNIT_RESET_END: a RESET of region scope lets its region leave reset; one of a narrower scope completes. -/
def execUnitResetEnd (scope index : Nat) (s : State) : Out :=
  if scope = 1 then
    (if (s.region index).inReset = true ∧ (s.region index).run = .reset ∧ started s = true then .next (leaveReset s index) else .next s)
  else
    match s.mbx.cmds.find? (fun c => decide (c.opcode = 0x002) && decide (c.st = .executing) && decide (c.target = unitWord scope index)) with
    | none => .next s
    | some c =>
      if (targetRegion c.target).any (fun r => (s.region r).inReset) then .next s
      else .next (complete s c.tag (if scope = 4 ∧ (s.tiu index).st = .outOfUse then FAULT else OK) [])

/-! ### System commands (R255) -/

def Phase.code : Phase → Nat
  | .reset => 0 | .rom => 1 | .wipe => 2 | .xoQual => 3 | .fwLoad => 4 | .init => 5 | .ready => 6 | .recovery => 7
  | .stopped => 8 | .lcWipe => 9

/-- READY_STATE (R464). -/
def readyState (s : State) : Word :=
  wd (s.pwr.phase.code * 2 ^ 14 + s.pwr.cause * 2 ^ 11 + s.pwr.stop * 2 ^ 8
    + (b2n (s.region 0).everLocked + 2 * b2n (s.region 1).everLocked + 4 * b2n (s.region 2).everLocked + 8 * b2n (s.region 3).everLocked) * 2 ^ 4)

/-- ID_PART (R309). -/
abbrev idPart : Word := 0x0A256

/-- INFO. -/
def execInfo (tag : Nat) (s : State) : Out :=
  .next (hitan s tag 0x001 (fun s _ => complete s tag OK [idPart, s.fuses.stepping, s.fuses.variant, s.boot.version, readyState s]))

/-- The reset that a RESET command of scope 1 to 4 performs; it ends every earlier command in its scope (R234, R462).
In a region whose reset is in progress a narrower scope is already being reset. -/
def unitReset (s : State) (c : Cmd) : State :=
  let old := (earlier s c.tag).map (fun x => x.tag)
  let f := fun (x : Cmd) => old.contains x.tag
  let sc := tgtScope c.target
  let r := (targetRegion c.target).getD 0
  if sc = 1 then
    regionReset s r (if (s.region r).run = .thermHold ∨ (s.region r).run = .supplyHold then (s.region r).run else .reset) (some c.tag) f
  else if (s.region r).inReset then s
  else if sc = 2 then blockReset s c.unit f
  else if sc = 3 then cellReset s c.unit f
  else tiuReset s c.unit f

/-- RESET (R234, R255, R462): not ordered behind earlier commands and never held; at chip scope it writes no record. -/
def execReset (tag : Nat) (s : State) : Out :=
  match findCmd s tag with
  | none => .next s
  | some c =>
    if c.opcode ≠ 0x002 ∨ mayDispatch s c = false then .next s
    else
      match dispatchCheck s c with
      | some st => .next (complete s tag st [])
      | none =>
        if deadlinePassed s c then .next (complete s tag TIMEOUT [])
        else if tgtScope c.target = 0 then .next (chipReset s 3)
        else .next (unitReset (setCmd s tag (fun c => { c with st := .executing })) c)

/-- PACE_SET (R255, R399, R453): waits for a transition in progress. -/
def execPaceSet (tag : Nat) (s : State) : Out :=
  .next (hitan s tag 0x003 (fun s c =>
    let l := fld (c.arg 0) 0 2
    if l < 2 ∧ slotHeld s = true then
      complete { s with pace.pendingLevel := some l } tag OK [wd (s.pace.level + 4)]
    else if s.pace.st ≠ .steady then setCmd s tag (fun c => { c with st := .waiting })
    else
      let s1 : State := { s with pace.pendingLevel := none, pace.tag := some tag }
      if l = s.pace.level then paceAnswer s1 OK else { s1 with pace := s1.pace.begin l }))

/-- The block of the hottest sensor of a list, the lowest number of equals. -/
def hottestBlock (s : State) (l : List Nat) : Nat :=
  l.foldl (fun B x => if (s.block B).tj < (s.block x).tj then x else B) (l.headD 0)

/-- TEMP_READ. -/
def execTempRead (tag : Nat) (s : State) : Out :=
  .next (hitan s tag 0x004 (fun s c =>
    let l := (List.range 16).filter (fun B => blockPresent s B && (decide (tgtScope c.target = 0)
      || (decide (tgtScope c.target = 1) && decide (B / 4 = c.unit)) || (decide (tgtScope c.target = 2) && decide (B = c.unit))))
    let B := hottestBlock s l
    complete s tag OK [BitVec.ofInt 18 (s.block B).tj, wd B, wd (b2n s.pwr.thermWarn)]))

end Sys2Proof.Machine
end

