-- ==== Sys2Proof/Machine/Faults.lean ====
section
/-! DEFINITION. The rows of fault handling: MP restart and watchdogs, fabric deadlocks, memory scrub, fault log and mirror
(chapter 19; R243), and FAULT_LOG_READ. -/
namespace Sys2Proof.Machine
open Sys2Proof

/-! ### MP restart (R243, R432) -/

/-- A time in CREF cycles lies within a bound in RC time, whose nominal value is n cycles: RC runs within 3 % of its nominal
rate (R36), so a time between the bound's extremes is within it or not as a free value says (log 24). -/
def withinRc (s : State) (cycles n : Nat) : Bool :=
  if 100 * cycles ≤ 97 * n then true else if 103 * n < 100 * cycles then false else Config.rcSlow s.free

/-- An MP restart begins (R432); a fourth within ten seconds of RC time makes the chip watchdog reset the chip (R433). -/
def mpDown (s : State) : State :=
  let old := s.flt.restarts
  if old.length = 3 ∧ withinRc s (leadEdge s - old.getD 2 0) 8000000000 = true then chipReset { s with free := s.free + 1 } 2
  else { s with mbx.mpRestart := true, flt.restarts := (leadEdge s :: old).take 3, free := s.free + 1 }

/-- A fault of the MP: its record waits in the FIFO, and an MP restart begins. -/
def mpFault (s : State) (cause qual : Nat) (detail : Word) : State :=
  if mpRuns s then mpDown (faultChip { s with mbx.mpRestart := true } cause 10 qual detail) else s

/-- MP_WATCHDOG (R432). -/
def execMpWatchdog (s : State) : Out := .next (mpFault s 0x30 0 0)

/-- MP_LOCKSTEP (R432): detail is bits 17 to 0 of the MP address. -/
def execMpLockstep (addr : Word) (s : State) : Out := .next (mpFault s 0x31 0 addr)

/-- MP_RAM_ECC (R432, R435): memory 11. -/
def execMpRamEcc (addr : Word) (s : State) : Out := .next (mpFault s 0x32 11 addr)

/-- A CAL_RUN has begun: a unit was granted, or some item entered. -/
def CalRun.begun (r : CalRun) : Bool := decide (r.granted ≠ []) || decide (r.counts ≠ (0, 0, 0)) || r.early.isSome

/-- A BIST_RUN has begun: a test of it ran. -/
def BistRun.begun (r : BistRun) : Bool :=
  decide (r.stage = .testing) || decide (r.stage = .restoring) || decide (r.res ≠ (0, 0, 0))

/-- A channel in calibration returns to its own cell (R385). -/
def maintReturn (s : State) (B : Nat) : State :=
  match (s.block B).seating with
  | some q =>
    if q.ret then s
    else
      let s1 := s.updBlock B (fun b => { b with seating := none })
      releaseSpare (if q.step = .changed then moveEngine s1 (spareOf B) (chanOf B q.c) else s1) B
  | none =>
    match (s.block B).seated with
    | some c => if (s.block B).why = .maintenance then seat s B c .cal true none (s.region (B / 4)).edge else s
    | none => s

/-- The requests of a command leave the arbiters' queues, with what an OFFLINE period had been granted so far. -/
def dropRequests (s : State) (tag : Nat) (offline : Bool) : State :=
  { s with blocks := tabMap {} (fun _ b =>
      let mine := b.waiting.any (fun w => w.2 == tag) || (offline && decide (b.holder = some .offline))
      if mine then { b with
        waiting := b.waiting.filter (fun w => w.2 != tag), bistState := if offline then 0 else b.bistState,
        holder := if b.holder = some .offline ∧ offline = true then none else b.holder,
        tiuHeld := if offline = true ∧ b.offline = false then [] else b.tiuHeld } else b) s.blocks }

/-- CAL_RUNs at an MP restart: those that have begun end with ABORTED_RESET and their channels return; the others are as
not yet dispatched (R243, R385). -/
def calRestart (s : State) : State :=
  forAll s.cal.runs (fun s r =>
    if r.begun then
      let blocks := r.granted
      let s1 := forAll r.todo (fun s x => if blocks.contains x.1 then s else dropRequests s r.tag false)
        { s with cal.runs := s.cal.runs.map (fun x =>
            if x.tag = r.tag then { x with early := some ABORTED, todo := x.todo.map (fun y => (y.1, if blocks.contains y.1 then y.2.take 1 else [])) } else x) }
      if blocks = [] then calFinish s1 { r with early := some ABORTED }
      else
        forAll blocks (fun s B =>
          maintReturn (if (s.block B).holder = some .cal then maintStop s B ABORTED else calUnitEnd s B (some ABORTED)) B) s1
    else
      setCmd (dropRequests { s with cal.runs := s.cal.runs.filter (fun x => x.tag != r.tag) } r.tag false) r.tag
        (fun c => { c with st := .accepted })) s

/-- BIST_RUNs at an MP restart: the test in progress runs to its end under no command; those that wait are as not yet
dispatched (R243, R405). The number past every tag keeps the run apart. -/
def bistRestart (s : State) : State :=
  forAll s.bist.runs (fun s r =>
    if r.begun then
      if r.stage = .testing ∨ r.stage = .restoring then
        { s.tick with bist.runs := s.bist.runs.map (fun x =>
            if x.tag = r.tag then { x with tag := 512 + s.free, periods := x.periods.take 1 } else x) }
      else dropRequests { s with bist.runs := s.bist.runs.filter (fun x => x.tag != r.tag) } r.tag true
    else
      setCmd (dropRequests { s with bist.runs := s.bist.runs.filter (fun x => x.tag != r.tag) } r.tag true) r.tag
        (fun c => { c with st := .accepted })) s

/-- Work handed to the hardware goes on with no command behind it (R243). -/
def untag (s : State) : State :=
  { s with
    cells := tabMap {} (fun _ c => { c with
      hop.lockTags := [], hop.phaseTag := none,
      hop.host := c.hop.host.map (fun h => { h with tag := none, waitLock := false }) }) s.cells,
    tius := tabMap {} (fun _ t => { t with tag := none }) s.tius,
    acqs := tabMap {} (fun _ a => { a with run.armTag := none }) s.acqs,
    regions := tabMap {} (fun _ g => { g with
      resetTag := none, change := g.change.map (fun c => { c with tag := none }),
      queued := g.queued.map (fun q => (q.1, none)) }) s.regions,
    rmem := tabMap {} (fun _ m => { m with
      partBusy := m.partBusy.map (fun p => (512, p.2)), partStage := [], thStage := ([], 0) }) s.rmem,
    ref.qualWait := [], pace.tag := none, bist.burn := none, cal.commit := none,
    sec.pinTag := none, sec.sig := [], sec.ownStage := ([], 0), sec.wiping := s.sec.wiping.map (fun w => (none, w.2)),
    boot.upd := none, boot.got := 0, boot.buf := [] }

/-- MP_RESTART (R243): executing commands end with ABORTED_RESET, waiting ones are as not yet dispatched, staged parts
are discarded, and firmware takes up the records that waited. -/
def execMpRestart (s : State) : Out :=
  if s.mbx.mpRestart = false then .next s
  else
    let s1 := bistRestart (calRestart s)
    let s2 := abortCmds s1 (fun c => decide (c.st = .executing))
    let s3 := untag { s2 with
      blocks := tabMap {} (fun _ b => { b with waiting := b.waiting.filter (fun w => decide (w.1 ≠ .host)) }) s2.blocks,
      mbx.mpRestart := false, mbx.streaming := none,
      mbx.cmds := s2.mbx.cmds.map (fun c => { c with st := .accepted, held := false }) }
    .next ((paceRelease (if mpRuns s3 then drainFifo s3 else s3)).postMbx 0)

/-- CHIP_WATCHDOG (R433): each of its events belongs to an MP restart. -/
def execChipWatchdog (s : State) : Out := .next (if s.mbx.mpRestart then chipReset s 2 else s)

/-! ### Fabric deadlock (R434) -/

/-- Word 1 of the record of a segment. -/
def segUnit (seg unit : Nat) : Word := if seg = 3 then unitWord 1 unit else if seg = 4 then unitWord 2 unit else 0

/-- The third deadlock of one segment within a second of RC time sets FAULT_SUMMARY.chip. -/
def countDeadlock (s : State) (seg unit : Nat) : State :=
  let k := seg * 16 + unit
  let old := tabGet [] s.flt.deadlocks k
  { s with
    flt.deadlockChip := s.flt.deadlockChip || (decide (old.length = 2) && withinRc s (leadEdge s - old.getD 1 0) 800000000),
    flt.deadlocks := tabSet [] s.flt.deadlocks k ((leadEdge s :: old).take 2), free := s.free + 1 }

/-- Commands that a reset segment is executing end with ABORTED_RESET. -/
def segAbort (s : State) (ops : List Nat) (r : Option Nat) : State :=
  abortCmds s (fun c => decide (c.st = .executing) && ops.contains c.opcode && (r.isNone || decide (targetRegion c.target = r)))

/-- A hop fetch in progress fails as an uncorrectable profile (R145, R434). -/
def failFetch (s : State) (p : Nat) : State :=
  match (s.cell p).hop.host with
  | some h =>
    if h.due.isSome then s
    else complete ((setCfgErr s p true).updCell p (fun c => { c with hop.host := none })) (h.tag.getD 512) FAULT []
  | none =>
    match engFetch s p with
    | none => s
    | some _ => (setCfgErr s p true).updCell p (fun c => { c with
        eng.prep := c.eng.prep.map (fun x => { x with fetched := some (.uncorr, []) }) })

/-- What the reset of a segment does to its transactions in progress (R434). -/
def segReset (s : State) (seg unit : Nat) : State :=
  if seg = 0 then (if mpRuns s then mpDown s else s)
  else if seg = 1 then (match s.mbx.streaming with
    | some t => complete s t ABORTED []
    | none => s)
  else if seg = 3 then
    let s1 := (segAbort s [0x034] (some unit)).updMem unit (fun m => { m with partBusy := none })
    forAll (regionCells unit) failFetch s1
  else if seg = 4 then
    forAll (blockCells unit) (fun s p => match execEngineLate p s with
      | .next t => t
      | _ => s) s
  else if seg = 5 then
    let s1 := forAll (s.bist.runs.filter (fun r => ! r.begun || decide (r.stage ≠ .testing ∧ r.stage ≠ .restoring)))
      (fun s r => bistEnd (dropRequests s r.tag true) r ABORTED) s
    segAbort { s1 with
      bist.burn := none, bist.runs := s1.bist.runs.map (fun r => { r with cut := some ABORTED }) } [0x073] none
  else if seg = 6 then segAbort { s with cal.commit := none } [0x062, 0x063] none
  else if seg = 7 then
    segAbort { s with sec.pinTag := none, sec.wiping := s.sec.wiping.map (fun w => (none, w.2)) } [0x082, 0x083, 0x088, 0x089] none
  else if seg = 8 then
    -- the limits rise again only when the supply is confirmed to have risen (R24)
    let low := decide (s.pace.st = .voltDown) || decide (s.pace.st = .undervolt)
    let s1 : State := { s with
      pace := { s.pace.drive s.pace.level with
        st := if low then .confirm else .steady, target := s.pace.level, limits := if low then s.pace.limits else s.pace.level,
        resume := none, forTest := false, modeWait := none } }
    let s2 := paceAnswer s1 ABORTED
    forAll (s2.bist.runs.filter (fun r => decide (r.stage = .waitPace))) (fun s r => bistEnd s r ABORTED) s2
  else s

/-- FABRIC_DEADLOCK (R434, R436): segment and, for a region controller or engine issue, its unit. -/
def execFabricDeadlock (seg unit : Nat) (s : State) : Out :=
  if 8 < seg ∨ s.pwr.phase = .reset ∨ (seg = 3 ∧ regionPresent s unit = false) ∨ (seg = 4 ∧ blockPresent s unit = false) then .next s
  else
    let st := if seg = 3 then nowStamp s unit else if seg = 4 then nowStamp s (unit / 4) else chipStamp s
    .next (segReset (pushFault (countDeadlock s seg (if seg = 3 ∨ seg = 4 then unit else 0)) 3 0x33 11 seg (segUnit seg unit) st 0) seg unit)

/-! ### Memories (R435) -/

/-- ECC_SCRUB (R435): the word at an address of a region's memory is read; `uncorr` is an uncorrectable word, `bad` a
single-bit error. Event memory and header table are not scrubbed: an uncorrectable word there is met at read-out. -/
def execEccScrub (r mem addr : Nat) (uncorr bad : Bool) (s : State) : Out :=
  if regionPresent s r = false ∨ (s.region r).inReset = true ∨ 10 < mem ∨ memSize mem ≤ addr then .next s
  else
    let k := r * memSize mem + addr
    let known := s.flt.badWords.contains (mem, k)
    let s1 : State := if uncorr = true ∧ known = false then { s with flt.badWords := s.flt.badWords ++ [(mem, k)] } else s
    if uncorr = true ∨ known = true then .next (if mem < 9 then s1 else meetUncorr s1 mem k r)
    else if bad then .next (corrected s r mem addr)
    else .next s

/-! ### Fault log (R440, R441) -/

/-- LOG_OVERFLOW (R441): room has returned in the FIFO. -/
def execLogOverflow (s : State) : Out :=
  if 0 < s.flt.dropped ∧ s.flt.fifo.length < 32 then
    .next (faultChip { s with flt.dropped := 0 } 0x3E 0 0 (wd s.flt.dropped))
  else .next s

/-- A mirror entry: the eight words as three bytes each, the lifetime hours, and the CRC-32 of those 28 bytes. -/
def mirrorEntry (rec_ : List Word) (hours : Nat) : List Byte :=
  let body := rec_.flatMap (fun w => beBytes 3 w.toNat) ++ beBytes 4 hours
  body ++ beBytes 4 (crc32 body)

/-- MIRROR_WRITE (R441): the oldest record not yet mirrored; a sector is erased when the position enters it. -/
def execMirrorWrite (ok : Bool) (s : State) : Out :=
  if mpRuns s = false then .next s
  else
    match s.flt.toMirror with
    | [] => .next s
    | x :: xs =>
      let s1 : State := { s with flt.toMirror := xs }
      if ok then
        let a := 0x290000 + 32 * s.flt.mirrorPos
        let s2 := if s.flt.mirrorPos % 128 = 0 then flashErase s1 0 a 4096 else s1
        .next { (flashProgram s2 0 a (mirrorEntry x s.lk.hours)) with
          flt.mirrorPos := (s.flt.mirrorPos + 1) % 8192, flt.mirrorBad := false }
      else .next (faultChip { s1 with flt.mirrorBad := true } 0x3A 1 0 0)

/-- FAULT_LOG_READ (R267, R441): positions beyond the entries held read as zeros. -/
def execFaultLogRead (tag : Nat) (s : State) : Out :=
  .next (hitan s tag 0x0A3 (fun s c =>
    let first := (c.arg 0).toNat
    let n := (c.arg 1).toNat
    if n = 0 ∨ 256 < n then complete s tag BADARG []
    else
      streamOut s tag OK (((List.range n).map (fun k => s.flt.ring.getD (first + k) (List.replicate 8 0))).flatten) [wd s.flt.logged]))

end Sys2Proof.Machine
end

