-- ==== Sys2Proof/Machine/Tiu.lean ====
section
/-! DEFINITION. The rows of the time-interval units (chapter 08) and their commands (R260). `t` is a TIU 0..63. -/
namespace Sys2Proof.Machine
open Sys2Proof

/-- Whether a direct write reaches a TIU's window (R5, R54, R198, R462). -/
def tiuReach (s : State) (t : Nat) : Reach :=
  if tiuPresent s t = false then .absent
  else if (s.region (tiuRegion t)).inReset = true ∨ resetOn s 2 (tiuBlock t) = true ∨ resetOn s 4 t = true then .gated
  else if tiuHeld s t then .busy else .ok

/-- An arm that has no effect on a busy or out-of-use TIU and is refused by R196. -/
def tiuArmNow (s : State) (t : Nat) : State :=
  if (s.tiu t).busy = true ∨ (s.tiu t).st = .outOfUse then s
  else if (s.tiu t).canArm then tiuStart s t none else s.updTiu t (fun x => { x with cfgErr := true })

/-- A write of TIU_CTL (R187, R195): mode 3 is refused whole; abort ends a measurement; arm starts one. -/
def writeTiuCtl (s : State) (t : Nat) (v : Word) : State :=
  if fld v 4 2 = 3 then s.updTiu t (fun x => { x with cfgErr := true })
  else
    let s1 := s.updTiu t (fun x => { x with cfg.mode := fld v 4 2, cfg.atTime := bitOf v 6, cfgErr := false })
    if (s.tiu t).busy then (if bitOf v 8 then tiuEnd s1 t INCOMPLETE else s1)
    else if bitOf v 7 then tiuArmNow s1 t else s1

/-- A commit of the gate (R195). -/
def commitGate (s : State) (t : Nat) (hi : Word) : State :=
  let g := (hi ++ (s.tiu t).gateLo).toNat
  if gateOk g then s.updTiu t (fun x => { x with cfg.gate := g, gateBad := false, cfgErr := false })
  else s.updTiu t (fun x => { x with gateBad := true, cfgErr := true })

/-- A write whose value is refused when `ok` is false (R195). -/
def tiuField (s : State) (t : Nat) (ok : Bool) (f : TiuSt → TiuSt) : State :=
  s.updTiu t (fun x => if ok then { f x with cfgErr := false } else { x with cfgErr := true })

/-- A write of a TIU window that can be refused (R195, R196). -/
def tiuRefusable (o : Nat) : Bool := o == 0 || (decide (2 ≤ o) && decide (o ≤ 5)) || o == 7

/-- A write of a word of a TIU window (R194, R195). -/
def writeTiu (s : State) (t off : Nat) (v : Word) : State :=
  if off = 0x00 then writeTiuCtl s t v
  else if off = 0x02 then tiuField s t (srcOk v) (fun x => { x with cfg.start := wd (fld v 0 12) })
  else if off = 0x03 then tiuField s t (srcOk v) (fun x => { x with cfg.stop := wd (fld v 0 12) })
  else if off = 0x04 then tiuField s t (decide (v ≠ 0)) (fun x => { x with cfg.timeout := v })
  else if off = 0x05 then tiuField s t (freqCfgOk v) (fun x => { x with cfg := x.cfg.setFreq v })
  else if off = 0x06 then s.updTiu t (fun x => { x with gateLo := v })
  else if off = 0x07 then commitGate s t v
  else if off = 0x08 then s.updTiu t (fun x => { x with armLo := v })
  else if off = 0x09 then s.updTiu t (fun x => { x with armMid := v })
  else if off = 0x0A then s.updTiu t (fun x => { x with cfg.armTime := v ++ x.armMid ++ x.armLo })
  else s

/-- A direct write into a TIU window: where it reaches the unit; else it is ignored, with BUSY or FAULT for the host port's
reply, and a refusal is reported there too (R54, R194, R198, R282). -/
def tiuWrite (s : State) (t off : Nat) (v : Word) : State := ownerWrite s fun s =>
  match tiuReach s t with
  | .ok =>
    let x := writeTiu (s.parityFresh (tiuBase t + off)) t off v
    if tiuRefusable off && (x.tiu t).cfgErr then { x with hp.ign := true } else x
  | .busy => { s with hp.busy := true }
  | .gated => { s with hp.fault := true }
  | .absent => s

/-- TIU_CTL as it reads (R195). -/
def tiuCtl (x : TiuSt) : Word := wd (b2n x.busy * 2 ^ 7 + b2n x.cfg.atTime * 2 ^ 6 + x.cfg.mode * 2 ^ 4)

/-! ### Rows of R186 -/

/-- TIU_CTL_ARM (R186 step 1, R196): a write of TIU_CTL with arm = 1. -/
def execTiuCtlArm (t : Nat) (v : Word) (s : State) : Out := .next (tiuWrite s t 0x00 (v ||| 0x80))

/-- TIU_CTL_ABORT (R195, R197): a write of TIU_CTL with abort = 1 that leaves its other fields. -/
def execTiuCtlAbort (t : Nat) (s : State) : Out :=
  .next (tiuWrite s t 0x00 (wd (b2n (s.tiu t).cfg.atTime * 2 ^ 6 + (s.tiu t).cfg.mode * 2 ^ 4 + 2 ^ 8)))

/-- GATE_COMMIT (R195). -/
def execGateCommit (t : Nat) (hi : Word) (s : State) : Out := .next (tiuWrite s t 0x07 hi)

/-- TIU_PRECAL_DONE (R181, R182, R186 steps 2 to 3N). -/
def execTiuPrecalDone (t a1 a2 b1 b2 : Nat) (s : State) : Out :=
  if (s.tiu t).st = .precal ∧ (s.tiu t).waitArm = false then
    let s1 := s.updTiu t (fun x => { x with a1 := a1 % 2048, a2 := a2 % 2048, b1 := b1 % 2048, b2 := b2 % 2048 })
    let x := s1.tiu t
    if precalOk x.a1 x.a2 = false ∨ precalOk x.b1 x.b2 = false then .next (tiuEnd s1 t FAULT)
    else if x.run.atTime then
      (if reached (s1.region (tiuRegion t)).time x.run.armTime then .next (tiuEnd s1 t TIMEOUT)
       else .next (s1.updTiu t (fun x => { x with waitArm := true })))
    else .next (tiuReady s1 t)
  else .next s

/-- READY on the edge of the arm time; with that edge behind it the measurement ends with TIMEOUT (R33, R186 step 3). -/
def readyAtTime (s : State) (t : Nat) : State :=
  if (s.tiu t).st = .precal ∧ (s.tiu t).waitArm = true then
    (if (s.region (tiuRegion t)).time = (s.tiu t).run.armTime then tiuReady s t
     else if reached (s.region (tiuRegion t)).time (s.tiu t).run.armTime then tiuEnd s t TIMEOUT else s)
  else s

/-- TIU_READY_AT_TIME (R186 step 3). -/
def execTiuReadyAtTime (t : Nat) (s : State) : Out := .next (readyAtTime s t)

/-- TIU_SOURCE_EDGE (R179, R186 step 5, R188 to R191): on its reference edge, an edge of a source with its vernier code. -/
def execTiuSourceEdge (t : Nat) (stop : Bool) (code : Nat) (s : State) : Out := .next (tiuEdge s t stop code)

/-- TIU_RESULT (R186 step 6, R193). -/
def execTiuResult (t : Nat) (s : State) : Out :=
  if (s.tiu t).st = .running ∧ (s.tiu t).full = true then .next (tiuEnd s t (s.tiu t).fullStatus) else .next s

/-- The measurement's time has run out: T after READY, or in FREQ mode T after S_0 + G once stamp 0 is taken (R186
step 6T, R193). -/
def tiuExpired (s : State) (t : Nat) : Bool :=
  let x := s.tiu t
  let g := s.region (tiuRegion t)
  let limit := 4096 * x.run.timeout.toNat
  match x.run.mode, x.stamps with
  | 2, (_, t0) :: _ =>
    decide (schedAfter t0 x.run.gate x.run.q (x.run.q - 1) + limit * 2 ^ 18 ≤ ((g.time.toNat * 2 ^ 18 + 2 ^ 72 - t0) % 2 ^ 72))
  | _, _ => decide (x.readyAt + limit ≤ g.edge)

/-- A time-out ends the measurement (R186 step 6T, R193). -/
def tiuLate (s : State) (t : Nat) : State :=
  let x := s.tiu t
  if (x.st = .ready ∨ x.st = .running) ∧ x.full = false ∧ tiuExpired s t = true then
    tiuEnd s t (if x.run.mode = 2 ∧ x.stamps ≠ [] then INCOMPLETE else TIMEOUT)
  else s

/-- TIU_TIMEOUT (R186 step 6T, R193). -/
def execTiuTimeout (t : Nat) (s : State) : Out := .next (tiuLate s t)

/-! ### Commands (R260) -/

/-- A TIU command: it waits for the grant of a held TIU, and completes FAULT at one out of use (R182, R198). -/
def tiuCommand (s : State) (c : Cmd) (body : State → State) : State :=
  if tiuHeld s c.unit then grantWait s c
  else if (s.tiu c.unit).st = .outOfUse then complete s c.tag FAULT []
  else body s

/-- A measurement of the host is granted its TIU: free, and asked for by no earlier waiting request; else it joins the
queue (R21, R198). -/
def measure (s : State) (c : Cmd) (body : State → State) : State :=
  let B := tiuBlock c.unit
  let w : Requester × Nat := (.host, c.tag)
  if (s.tiu c.unit).st = .outOfUse then complete (unqueue s c) c.tag FAULT []
  else
    let s1 := s.updBlock B (fun b => { b with waiting := if b.waiting.contains w then b.waiting else b.waiting ++ [w] })
    if tiuHeld s c.unit || (s.tiu c.unit).busy || overtakes s1 B w then
      (if c.noWait then complete (unqueue s c) c.tag BUSY [] else grantWait s1 c)
    else body (unqueue s c)

/-- TIU_CONFIG (R195, R196, R260). -/
def execTiuConfig (tag : Nat) (s : State) : Out :=
  .next (hitan s tag 0x040 (fun s c => tiuCommand s c (fun s =>
    let g := (c.arg 5 ++ c.arg 6).toNat
    if fld (c.arg 0) 4 2 = 3 ∨ srcOk (c.arg 1) = false ∨ srcOk (c.arg 2) = false ∨ c.arg 3 = 0 ∨ freqCfgOk (c.arg 4) = false
       ∨ gateOk g = false then complete s tag BADARG []
    else
      complete (s.updTiu c.unit (fun x => { x with
        cfg := { x.cfg.setFreq (c.arg 4) with
          mode := fld (c.arg 0) 4 2, atTime := bitOf (c.arg 0) 6, start := wd (fld (c.arg 1) 0 12),
          stop := wd (fld (c.arg 2) 0 12), timeout := c.arg 3, gate := g },
        gateLo := c.arg 6, gateBad := false, cfgErr := false })) tag OK [])))


/-- TIU_ARM (R186, R196, R260). A refusal with BADARG has no effect on cfg_err (R251; log 61). -/
def execTiuArm (tag : Nat) (s : State) : Out :=
  .next (hitan s tag 0x041 (fun s c => measure s c (fun s =>
    let x := s.tiu c.unit
    if x.canArm = false then complete s tag BADARG []
    else
      let at_ := bitOf (c.arg 0) 17
      let s1 := s.updTiu c.unit (fun x => { x with
        cfg.atTime := at_,
        cfg.armTime := if at_ then c.arg 1 ++ c.arg 2 ++ c.arg 3 else x.cfg.armTime,
        armMid := if at_ then c.arg 2 else x.armMid, armLo := if at_ then c.arg 3 else x.armLo })
      tiuStart s1 c.unit (some tag))))

/-- FREQ_MEASURE (R191 to R193, R260): the operands and mode 2 are written, then the TIU is armed; at_time stays as it is. -/
def execFreqMeasure (tag : Nat) (s : State) : Out :=
  .next (hitan s tag 0x042 (fun s c => measure s c (fun s =>
    let g := (c.arg 2 ++ c.arg 3).toNat
    if freqCfgOk (c.arg 1) = false ∨ gateOk g = false ∨ srcOk (c.arg 4) = false ∨ g / (fld (c.arg 1) 0 11 - 1) < 200 then
      complete s tag BADARG []
    else
      let s1 := s.updTiu c.unit (fun x => { x with
        cfg := { x.cfg.setFreq (c.arg 1) with
          mode := 2, gate := g, start := wd (fld (c.arg 4) 0 12) },
        gateLo := c.arg 3, gateBad := false })
      tiuStart s1 c.unit (some tag))))

/-- TIU_READ (R198, R260): the last result, without waiting for the arbiter. -/
def execTiuRead (tag : Nat) (s : State) : Out :=
  .next (hitan s tag 0x043 (fun s c =>
    if (s.tiu c.unit).st = .outOfUse then complete s tag FAULT []
    else tiuAnswer s c.unit tag OK (bitOf (c.arg 0) 16)))

end Sys2Proof.Machine
end

