-- ==== Sys2Proof/Machine/RegMap.lean ====
section
/-! DEFINITION. The register map (R304 to R315): which register an address names, what kind it is, whether an access
reaches it, and the word that it holds. -/
namespace Sys2Proof.Machine
open Sys2Proof

/-! ### Addresses -/

/-- A register by its window and its offset there; `none` is an address outside every window. -/
inductive Reg where
  | none
  | ident (k : Nat)
  | host (h : Nat)
  | mbx (k : Nat)
  | bit (h k : Nat)
  | chip (k o : Nat)
  | region (r o : Nat)
  | block (B o : Nat)
  | cell (p o : Nat)
  | tiu (t o : Nat)
  | evin (i o : Nat)
  | acq (r o : Nat)
  deriving DecidableEq, Repr

/-- The offset that a partly decoded window acts on; none at or above the period in strict decoding (R304, R306). -/
def winOff (strict : Bool) (period off : Nat) (f : Nat → Reg) : Reg :=
  if strict = true ∧ period ≤ off then .none else f (off % period)

/-- The register at an offset of region r (R304, R315). -/
def regionReg (strict : Bool) (r o : Nat) : Reg :=
  let b := 4 * r + o / 0x1000
  let q := o % 0x1000
  if o < 0x4000 then
    if q < 0x440 then winOff strict 32 (q % 0x40) (.cell (if q / 0x40 = 16 then spareOf b else chanOf b (q / 0x40)))
    else if 0x800 ≤ q ∧ q < 0x900 then winOff strict 32 (q % 0x40) (.tiu (4 * b + (q - 0x800) / 0x40))
    else if 0xC00 ≤ q then winOff strict 128 (q - 0xC00) (.block b)
    else .none
  else if o < 0x5000 then winOff strict 256 q (.region r)
  else if o < 0x6000 then winOff strict 64 q (.acq r)
  else if o < 0x6400 then .evin (64 * r + q / 16) (q % 16)
  else .none

/-- The register that an address names (R304 to R307, R310). -/
def locate (strict : Bool) (a : Nat) : Reg :=
  if a < 0x0A then .ident a
  else if 0x100 ≤ a ∧ a < 0x180 then .host a
  else if 0x300 ≤ a ∧ a < 0x320 then .mbx (a - 0x300)
  else if 0x1000 ≤ a ∧ a < 0x2000 then .bit (0x100 + (a - 0x1000) / 32) ((a - 0x1000) % 32)
  else if 0x18000 ≤ a ∧ a < 0x19400 then winOff strict 512 ((a - 0x18000) % 0x400) (.chip ((a - 0x18000) / 0x400))
  else if 0x20000 ≤ a ∧ a < 0x40000 then regionReg strict ((a - 0x20000) / 0x8000) ((a - 0x20000) % 0x8000)
  else .none

/-- The lowest address of a register. -/
def Reg.addr : Reg → Nat
  | .none => 0
  | .ident k => k
  | .host h => h
  | .mbx k => 0x300 + k
  | .bit h k => 0x1000 + (h - 0x100) * 32 + k
  | .chip k o => 0x18000 + 0x400 * k + o
  | .region r o => regionBase r + 0x4000 + o
  | .block B o => blockBase B + 0xC00 + o
  | .cell p o => cellBase p + o
  | .tiu t o => tiuBase t + o
  | .evin i o => evinBase i + o
  | .acq r o => regionBase r + 0x5000 + o

/-! ### Kinds of register -/

/-- The type column of the register tables; `none` is a reserved offset. -/
inductive RegKind where
  | none | ro | rw | cmt | rwc | wo1 | sqc | clasp
  deriving DecidableEq, Repr

/-- Types in host control (R310). -/
def hostKind (h : Nat) : RegKind :=
  if h = 0x100 ∨ h = 0x102 then .rw
  else if h = 0x107 then .sqc
  else if h = 0x109 then .wo1
  else if h = 0x110 then .clasp
  else if h = 0x120 then .rwc
  else if (0x101 ≤ h ∧ h ≤ 0x108) ∨ h = 0x111 ∨ h = 0x112 then .ro
  else .none

/-- Types of the mailbox registers (R226). -/
def mbxKind (k : Nat) : RegKind :=
  if k = 0x00 ∨ k = 0x01 ∨ k = 0x12 ∨ k = 0x13 then .rw
  else if k = 0x03 then .sqc
  else if k = 0x02 ∨ k = 0x04 ∨ k = 0x10 ∨ k = 0x11 ∨ (0x18 ≤ k ∧ k < 0x20) then .ro
  else .none

/-- Types of a port window: port i, offset o (R361, R362). PL_ASYM_EXT of the UP window reads zero. -/
def portKind (i o : Nat) : RegKind :=
  if o = 0x00 ∨ (o = 0x03 ∧ i ≠ 0) then .rw
  else if o = 0x02 then .sqc
  else if o = 0x01 ∨ (0x04 ≤ o ∧ o ≤ 0x08) then .ro
  else if i = 0 ∧ (o = 0x10 ∨ (0x14 ≤ o ∧ o ≤ 0x17)) then .rw
  else if i = 0 ∧ 0x11 ≤ o ∧ o ≤ 0x13 then .ro
  else .none

/-- Types in chip control (R314): reference sources, pace, ports, self-test controller, flash. -/
def chipKind (k o : Nat) : RegKind :=
  if k = 0 then (if o = 2 ∨ o = 4 then .rw else if o = 5 then .cmt else if o ≤ 6 then .ro else .none)
  else if k = 1 then (if o = 0 then .rw else if o = 2 then .sqc else if o = 1 ∨ o = 3 then .ro else .none)
  else if k = 2 then (if o < 0x140 then portKind (o / 0x40) (o % 0x40) else .none)
  else if k = 3 then (if o = 2 then .rw else if o ≤ 4 then .ro else .none)
  else if o = 4 ∨ o = 5 then .wo1
  else if o = 1 then .ro
  else if o ≤ 0x0C ∧ o ≠ 7 then .rw
  else .none

/-- Types in region control (R315). -/
def regionKind (o : Nat) : RegKind :=
  if o = 0x00 ∨ o = 0x18 then .rw
  else if o = 0x02 ∨ o = 0x11 then .sqc
  else if o = 0x01 ∨ (0x04 ≤ o ∧ o ≤ 0x07) ∨ o = 0x10 ∨ o = 0x12 ∨ o = 0x13 ∨ (0x40 ≤ o ∧ o < 0x80) then .ro
  else .none

/-- Types in block control (R315). -/
def blockKind (o : Nat) : RegKind := if o = 4 then .sqc else if o < 4 ∨ o = 8 then .ro else .none

/-- Types of a cell window (R81). -/
def cellKind (o : Nat) : RegKind :=
  if o = 0x01 ∨ o = 0x07 ∨ o = 0x15 ∨ o = 0x18 then .ro
  else if o = 0x06 ∨ o = 0x09 ∨ o = 0x0D then .cmt
  else if 0x1A ≤ o ∧ o ≤ 0x1D then .rwc
  else if o = 0x19 ∨ 0x1E ≤ o then .none
  else .rw

/-- Types of a TIU window (R194). -/
def tiuKind (o : Nat) : RegKind :=
  if o = 0x07 ∨ o = 0x0A then .cmt
  else if o = 0x01 ∨ (0x0B ≤ o ∧ o ≤ 0x1D) then .ro
  else if o ≤ 0x09 then .rw
  else .none

/-- Types of an event input's window (R204). -/
def evinKind (o : Nat) : RegKind :=
  if o ≤ 2 then .rw else if o = 3 then .ro else if 8 ≤ o ∧ o ≤ 0xA then .rwc else .none

/-- Types of the acquisition window (R221). -/
def acqKind (o : Nat) : RegKind :=
  if o = 0x00 ∨ (0x03 ≤ o ∧ o ≤ 0x06) then .rw
  else if o = 0x07 then .cmt
  else if o = 0x02 then .sqc
  else if o = 0x01 ∨ (0x08 ≤ o ∧ o ≤ 0x0A) then .ro
  else if 0x10 ≤ o ∧ o < 0x30 ∧ o % 4 ≠ 3 then .rw
  else .none

/-- The type of a register; a bit alias has that of its register. -/
def Reg.kind : Reg → RegKind
  | .none => .none
  | .ident _ => .ro
  | .host h => hostKind h
  | .mbx k => mbxKind k
  | .bit h k => if k < 18 then hostKind h else .none
  | .chip k o => chipKind k o
  | .region _ o => regionKind o
  | .block _ o => blockKind o
  | .cell _ o => cellKind o
  | .tiu _ o => tiuKind o
  | .evin _ o => evinKind o
  | .acq _ o => acqKind o

/-- The unit of a register is in the variant (R5). -/
def regPresent (s : State) : Reg → Bool
  | .chip k o => decide (k ≠ 2) || portPresent s (o / 0x40)
  | .region r _ => regionPresent s r
  | .block B _ => blockPresent s B
  | .cell p _ => cellPresent s p
  | .tiu t _ => tiuPresent s t
  | .evin i _ => regionPresent s (i / 64)
  | .acq r _ => acqPresent s r
  | _ => true

/-- Chip control or a region window, which only an Owner or Vendor session reaches (R286). -/
def Reg.owned : Reg → Bool
  | .chip .. => true
  | .region .. => true
  | .block .. => true
  | .cell .. => true
  | .tiu .. => true
  | .evin .. => true
  | .acq .. => true
  | _ => false

/-- How an access meets the register's unit (R54, R84, R198, R287). -/
def regReach (s : State) : Reg → Reach
  | .region r _ => if (s.region r).inReset then .busy else .ok
  | .block B _ => if (s.region (B / 4)).inReset || resetOn s 2 B then .gated else .ok
  | .cell p _ => cellReach s p
  | .tiu t _ => tiuReach s t
  | .evin i _ => evinReach s i
  | .acq r _ => acqReach s r
  | _ => .ok

/-! ### The words that registers hold -/

/-- HOST_CFG from its fields (R272). -/
def hostCfgWord (c : Bool × Bool × BitVec 8 × BitVec 6) : Word :=
  wd (b2n c.1 * 2 ^ 17 + b2n c.2.1 * 2 ^ 16 + c.2.2.1.toNat * 2 ^ 8 + c.2.2.2.toNat)

/-- The HOST_CFG fields in force. -/
def hostCfg (s : State) : Bool × Bool × BitVec 8 × BitVec 6 := (s.hp.strict, s.hp.lanes, s.hp.lat, s.hp.wlen)

/-- HOST_STATUS (R272). -/
def hostStatus (s : State) : Word :=
  wd ((if s.hp.anyAlive then 0 else s.hp.alive.toNat) * 2 ^ 14 + b2n s.hp.anyAlive * 2 ^ 13 + s.hp.lastRej * 2 ^ 10
    + s.sec.host * 2 ^ 8 + b2n s.hp.underrun * 2 ^ 7)

/-- PACE (R451). -/
def paceWord (s : State) : Word :=
  wd (b2n (decide (s.pace.st ≠ .steady)) * 8 + b2n s.pace.pendingLevel.isSome * 4 + s.pace.limits)

/-- CLASP (R298). -/
def claspWord (s : State) : Word := wd (b2n (decide (s.hc.clasp = .locked)) * 2 + b2n (decide (s.hc.clasp = .opened)))

/-- CLASP_FAIL (R298). -/
def claspFail (s : State) : Word := wd (b2n (decide (s.hc.clasp = .locked)) * 2 ^ 17 + s.hc.consec)

/-- An identity register (R309). -/
def identWord (s : State) (k : Nat) : Word :=
  if k = 0 then 0x05D4E else if k = 1 then idPart else if k = 2 then s.fuses.stepping else if k = 3 then s.fuses.variant
  else if k < 8 then s.lk.serial.extractLsb' (18 * (k - 4)) 18
  else if k = 8 then s.fuses.replClass else if k = 9 then s.boot.version else 0

/-- A host control register (R310). -/
def hostWord (s : State) (h : Nat) : Word :=
  if h = 0x100 then hostCfgWord (hostCfg s) else if h = 0x101 then hostStatus s
  else if h = 0x102 then wd s.hc.irqEnable.toNat else if h = 0x103 then irqStatus s
  else if h = 0x104 then faultSummary s else if h = 0x105 then readyState s else if h = 0x106 then paceWord s
  else if h = 0x107 then s.hc.events.word else if h = 0x108 then lifecycleWord s
  else if h = 0x109 then wd (b2n s.hc.irqPp) else if h = 0x110 then claspWord s else if h = 0x111 then claspFail s
  else if h = 0x112 then s.hc.woAddr else 0

/-- A mailbox register (R227). -/
def mbxWord (s : State) (k : Nat) : Word :=
  if k = 0x01 then wd s.mbx.batch.length else if k = 0x02 then wd (sqFree s) else if k = 0x03 then s.mbx.status.word
  else if k = 0x04 then wd s.mbx.discard else if k = 0x10 then popWord s else if k = 0x11 then wd s.mbx.cq.length
  else if k = 0x12 then wd (b2n s.mbx.errNow * 2 ^ 17 + s.mbx.thr) else if k = 0x13 then s.mbx.coalTime
  else if 0x18 ≤ k ∧ k < 0x20 then s.mbx.repop.getD (k - 0x18) 0 else 0

/-- TREE_STATE (R362). -/
def treeStateWord (s : State) : Word :=
  wd ((if isWorker s then 2 else if isManager s then 1 else 0) * 2 ^ 16 + (if isWorker s then s.tree.path else 0) * 2 ^ 8
    + treeState s)

/-- A register of the window of port i (R362). -/
def portWord (s : State) (i o : Nat) : Word :=
  let p := s.port i
  if o = 0x00 then wd (p.upMode * 8 + b2n p.en) else if o = 0x01 then wd (p.st.code * 2 ^ 15 + b2n p.evtLong * 2 ^ 14)
  else if o = 0x02 then p.events.word else if o = 0x03 then (if i = 0 then 0 else p.asymExt)
  else if o = 0x04 then p.oneway else if o = 0x05 then p.asymInt
  else if o = 0x06 then wd p.crcErr else if o = 0x07 then wd p.retrains else if o = 0x08 then p.partner
  else if i ≠ 0 then 0
  else if o = 0x10 then wd (b2n s.tree.joinEn * 2 + b2n s.tree.evtEn) else if o = 0x11 then treeStateWord s
  else if o = 0x12 then BitVec.ofInt 18 s.tree.alignErr else if o = 0x13 then wd s.tree.evtLate
  else if 0x14 ≤ o ∧ o ≤ 0x17 then wd (s.tree.fwd.getD (o - 0x14) 0) else 0

/-- A register of the pace sequencer (R456). -/
def paceReg (s : State) (o : Nat) : Word :=
  let st : Nat := match s.pace.st with
    | .steady => 0 | .limitsDown => 1 | .voltDown => 2 | .voltUp => 3 | .confirm => 4 | .limitsUp => 5 | .undervolt => 6
  if o = 0 then wd (s.pace.pmbAddr.toNat * 16 + b2n s.pace.pec * 2 + b2n s.pace.mode)
  else if o = 1 then wd (st * 2 ^ 15 + s.pace.target * 2 ^ 13 + s.pace.limits * 2 ^ 11 + s.pace.vmon)
  else if o = 2 then s.pace.events.word else if o = 3 then wd s.pace.alert.toNat else 0

/-- Block, within its region, of a slot; 0 in a region-wide period. -/
def slotBlockOf : SlotKind → Nat
  | .online n => n / 16 % 4
  | .block B => B % 4
  | .region _ => 0

/-- The block that holds the slot of region r; 0 without one. -/
def slotBlock (s : State) (r : Nat) : Nat :=
  let held := (s.bist.runs.filter (fun x => decide (x.stage ≠ .waitSlot))).flatMap (fun x => x.periods.take 1)
  ((held.find? (fun k => decide (k.reg = r))).map slotBlockOf).getD 0

/-- STC_GRANT (R412). -/
def stcGrant (s : State) : Word :=
  let act := fun r => b2n ((slotRegions s).contains r)
  wd ((slotBlock s 0 + 4 * slotBlock s 1 + 16 * slotBlock s 2 + 64 * slotBlock s 3) * 2 ^ 8
    + (act 0 + 2 * act 1 + 4 * act 2 + 8 * act 3) * 2 ^ 4 + b2n s.bist.paceHold * 8
    + min 7 (s.bist.runs.filter (fun x => decide (x.stage = .waitSlot))).length)

/-- A register of the self-test controller (R412). -/
def stcReg (s : State) (o : Nat) : Word :=
  let e := tabGet 0 s.bist.fuse s.bist.fuseAddr.toNat
  if o = 0 then stcGrant s else if o = 1 then wd (32 * fuseUsed s) else if o = 2 then wd s.bist.fuseAddr.toNat
  else if o = 3 then e.extractLsb' 0 18 else if o = 4 then wd (e.toNat / 2 ^ 18) else 0

/-- A register of the reference sources (R42). -/
def refReg (s : State) (o : Nat) : Word :=
  if o = 0 then s.ref.xoFreq else if o = 1 then xoStatus s else if o = 2 then refinCfg s else if o = 3 then refinStatus s
  else if o = 4 then s.ref.refinLo else if o = 5 then s.ref.refinFreq.extractLsb' 18 18 else if o = 6 then s.ref.refinErr else 0

/-- A register of chip control (R314). -/
def chipWord (s : State) (k o : Nat) : Word :=
  if k = 0 then refReg s o else if k = 1 then paceReg s o else if k = 2 then portWord s (o / 0x40) (o % 0x40)
  else if k = 3 then stcReg s o else readFlash s o

/-- REGION_STATUS (R444): a region in reset that no hold keeps reads RESET. -/
def regionStatus (g : RegionSt) : Word :=
  let st : Nat := if g.run = .thermHold then 3 else if g.run = .supplyHold then 4 else if g.inReset then 1
    else if g.run = .realign then 2 else 0
  wd (st * 2 ^ 15 + b2n g.refUnrec * 2 ^ 14)

/-- Every cell of region r, the spares included, holds code 0x0A values in the set in force (R497). -/
def th64SelOk (s : State) (r : Nat) : Bool := (regionCells r).all (fun p => (userVal (cellUser s p) 0x0A p 31).isSome)

/-- TH64_CTL (R497). -/
def th64Word (s : State) (r : Nat) : Word := wd (b2n (th64SelOk s r) * 2 + b2n (bitOf (s.mem r).th64 0))

/-- A region control register of a region that is not in reset (R315). -/
def regionLive (s : State) (r o : Nat) : Word :=
  let g := s.region r
  if o = 0x00 then refCtl g else if o = 0x01 then refStatus s r else if o = 0x02 then g.refEvents.word
  else if 0x05 ≤ o ∧ o ≤ 0x07 then g.time.extractLsb' (18 * (o - 5)) 18
  else if o = 0x10 then regionStatus g else if o = 0x11 then g.regionEvents.word
  else if o = 0x12 then g.eccCorr else if o = 0x13 then g.eccUncorr else if o = 0x18 then th64Word s r
  else if 0x40 ≤ o ∧ o < 0x80 then wd (tabGet 8 (s.mem r).partLen (o - 0x40)) else 0

/-- A region control register; in reset all but REGION_STATUS and REGION_EVENTS read their reset values (R287). -/
def regionCtl (s : State) (r o : Nat) : Word :=
  if (s.region r).inReset = true ∧ o ≠ 0x10 ∧ o ≠ 0x11 then
    (if o = 0x00 then refCtl {} else if 0x40 ≤ o ∧ o < 0x80 then 8 else 0)
  else regionLive s r o

/-- The channel cell index that the spare serves, or is being seated for (R411). -/
def spareFor (b : BlockSt) : Nat := (b.seated.or ((b.seating.map (fun q => q.c)).or b.holdCell)).getD 0

/-- ARB_STATUS (R411). -/
def arbStatus (s : State) (B : Nat) : Word :=
  let b := s.block B
  let h : Nat := match b.holder with
    | none => 0 | some .fault => 1 | some .cal => 2 | some .online => 3 | some .offline => 4 | some .map => 5 | some .host => 0
  let held := ((List.range 4).map (fun t => b2n (tiuHeld s (4 * B + t)) * 2 ^ t)).sum
  let host := ((List.range 4).map (fun t => b2n ((s.tiu (4 * B + t)).busy && ! tiuHeld s (4 * B + t)) * 2 ^ t)).sum
  wd (h * 2 ^ 15 + (if h = 0 ∨ h = 4 then 0 else spareFor b) * 2 ^ 11 + held * 2 ^ 7 + host * 2 ^ 3
    + min 7 (b.waiting.length + b2n b.recover.isSome))

/-- SWITCH_MAP (R411). -/
def switchMap (s : State) (B : Nat) : Word :=
  let b := s.block B
  let why : Nat := match b.why with
    | .maintenance => 0 | .fault => 1 | .softMap => 2 | .fusedMap => 3
  wd (b2n (! b.lost.isEmpty) * 2 ^ 17 + (b.lost.foldl min (b.lost.headD 0)) * 2 ^ 13 + b2n b.seated.isSome * 2 ^ 12
    + b.seated.getD 0 * 2 ^ 8 + (if b.seated.isSome then why else 0) * 2 ^ 6 + b2n b.spareFaulty * 2 ^ 5)

/-- BLOCK_TJ (R367). -/
def blockTj (s : State) (B : Nat) : Word :=
  let b := s.block B
  wd (b2n b.sensorFault * 2 ^ 17 + b2n (s.cal.deferred.any (fun d => decide (cellBlock d.1 = B))) * 2 ^ 16 + unsgn b.tj 13)

/-- BIST_STATUS (R411). -/
def bistStatus (s : State) (B : Nat) : Word :=
  let b := s.block B
  wd (b.bistState * 2 ^ 15 + b.bistTest * 2 ^ 12 + b.bistPass.toNat * 2 ^ 6 + b.bistFail.toNat)

/-- A block control register (R315). -/
def blockWord (s : State) (B o : Nat) : Word :=
  if o = 0 then arbStatus s B else if o = 1 then switchMap s B else if o = 2 then softMapWord s B
  else if o = 3 then blockTj s B else if o = 4 then (s.block B).events.word else if o = 8 then bistStatus s B else 0

/-- A register of a cell window (R82): staged words read as staged, commit words as in force; PHASE reads as committed (R148). -/
def cellWord (s : State) (p o : Nat) : Word :=
  let c := s.cell p
  let v := c.vals
  if o = 0x00 then c.cfg.ctl.word else if o = 0x01 then cellStatus s p
  else if o = 0x02 then v.stF.extractLsb' 0 18 else if o = 0x03 then v.stF.extractLsb' 18 18
  else if o = 0x04 then v.stK else if o = 0x05 then v.stM
  else if o = 0x06 then wd (b2n v.freq.mode * 2 ^ 17 + v.freq.n.toNat)
  else if o = 0x07 then profileActive c else if o = 0x08 then wd v.stD.toNat else if o = 0x09 then v.l
  else if o = 0x0A then outCfgWord c else if o = 0x0B then wd (b2n c.cfg.step * 2 ^ 17 + c.cfg.rate.toNat)
  else if o = 0x0C then v.ofs.extractLsb' 0 18 else if o = 0x0D then v.ofs.extractLsb' 18 18
  else if o = 0x0E then wd c.cfg.bw.toNat else if o = 0x0F then wd c.cfg.gearTime.toNat
  else if o = 0x10 then wd c.cfg.thr.toNat else if o = 0x11 then wd c.cfg.cntK.toNat
  else if o = 0x12 then wd c.cfg.action.toNat else if o = 0x13 then dcoBand c else if o = 0x14 then c.loop.fine
  else if o = 0x15 then c.loop.pherr
  else if o = 0x16 then wd (b2n c.cfg.lateHalt * 4 + b2n c.eng.active)
  else if o = 0x17 then wd c.eng.pc else if o = 0x18 then engStatus c.eng
  else if o = 0x1A then c.trim.tdc else if o = 0x1B then c.trim.dtc
  else if o = 0x1C then wd c.trim.skew.toNat else if o = 0x1D then wd c.trim.duty.toNat else 0

/-- Word k of a stamp or interval, fine word first. -/
def word72 (v : BitVec 72) (k : Nat) : Word := v.extractLsb' (18 * k) 18

/-- A register of a TIU window (R195): staged words read as staged, commit words as in force. -/
def tiuWord (s : State) (t o : Nat) : Word :=
  let x := s.tiu t
  if o = 0x00 then tiuCtl x else if o = 0x01 then tiuStatus s t else if o = 0x02 then x.cfg.start
  else if o = 0x03 then x.cfg.stop else if o = 0x04 then x.cfg.timeout
  else if o = 0x05 then wd (x.cfg.pre * 2 ^ 15 + x.cfg.resLim * 2 ^ 11 + x.cfg.q)
  else if o = 0x06 then x.gateLo else if o = 0x07 then wd (x.cfg.gate / 2 ^ 18)
  else if o = 0x08 then x.armLo else if o = 0x09 then x.armMid else if o = 0x0A then x.cfg.armTime.extractLsb' 36 18
  else if o = 0x0B then wd x.early else if o = 0x0C then wd x.a1 else if o = 0x0D then wd x.a2
  else if o = 0x0E then wd x.b1 else if o = 0x0F then wd x.b2 else if o = 0x10 then x.res.flags
  else if o ≤ 0x14 then word72 x.res.start (o - 0x11) else if o ≤ 0x18 then word72 x.res.stop (o - 0x15)
  else if o ≤ 0x1C then word72 x.res.ivl (o - 0x19) else if o = 0x1D then wd x.res.count else 0

/-- A register of an event input's window (R204). -/
def evinWord (s : State) (i o : Nat) : Word :=
  let e := s.evin i
  if o = 0 then evinCtl e else if o = 1 then wd e.thrHi.toNat else if o = 2 then wd e.thrLo.toNat
  else if o = 3 then evinStatus e else if o = 8 then wd e.trimHi.toNat else if o = 9 then wd e.trimLo.toNat
  else if o = 0xA then wd e.trimSkew.toNat else 0

/-- A register of the acquisition window (R221). -/
def acqWord (s : State) (r o : Nat) : Word :=
  let a := s.acq r
  let g := a.regs
  if o = 0x00 then wd (b2n a.armed) else if o = 0x01 then acqStatus a else if o = 0x02 then g.events.word
  else if o = 0x03 then wd g.l.toNat else if o = 0x04 then wd g.p.toNat else if o = 0x05 then wd g.c.toNat
  else if o = 0x06 then g.postLo else if o = 0x07 then wd (g.post / 2 ^ 18) else if o = 0x08 then wd g.missed
  else if o = 0x09 then wd g.lostBeads else if o = 0x0A then wd g.gapCount
  else if 0x10 ≤ o ∧ o < 0x30 then
    (let t := a.trig ((o - 0x10) / 4)
     if o % 4 = 0 then t.ctl else if o % 4 = 1 then t.t1 else if o % 4 = 2 then t.t2 else 0)
  else 0

/-- The word that a register holds now. -/
def regVal (s : State) : Reg → Word
  | .none => 0
  | .ident k => identWord s k
  | .host h => hostWord s h
  | .mbx k => mbxWord s k
  | .bit h k => if k < 18 then wd (b2n (bitOf (hostWord s h) k)) else 0
  | .chip k o => chipWord s k o
  | .region r o => regionCtl s r o
  | .block B o => blockWord s B o
  | .cell p o => cellWord s p o
  | .tiu t o => tiuWord s t o
  | .evin i o => evinWord s i o
  | .acq r o => acqWord s r o

/-! ### Multiword values (R293, R294) -/

/-- The words of the multiword value that a register belongs to, its snapshot word first; none when it is a word alone. -/
def Reg.group : Reg → List Reg
  | .ident k => if 4 ≤ k ∧ k < 8 then (List.range 4).map (fun i => .ident (4 + i)) else []
  | .chip k o =>
    if k = 0 ∧ (o = 4 ∨ o = 5) then [.chip 0 4, .chip 0 5]
    else if k = 3 ∧ (o = 3 ∨ o = 4) then [.chip 3 3, .chip 3 4] else []
  | .region r o => if 4 ≤ o ∧ o < 8 then (List.range 4).map (fun i => .region r (4 + i)) else []
  | .cell p o =>
    if o = 2 ∨ o = 3 then [.cell p 2, .cell p 3] else if o = 4 ∨ o = 5 then [.cell p 4, .cell p 5]
    else if o = 0xC ∨ o = 0xD then [.cell p 0xC, .cell p 0xD] else []
  | .tiu t o =>
    if o = 6 ∨ o = 7 then [.tiu t 6, .tiu t 7]
    else if 8 ≤ o ∧ o < 0xB then (List.range 3).map (fun i => .tiu t (8 + i))
    else if 0x10 ≤ o ∧ o < 0x1E then (List.range 14).map (fun i => .tiu t (0x10 + i)) else []
  | .acq r o => if o = 6 ∨ o = 7 then [.acq r 6, .acq r 7] else []
  | _ => []

end Sys2Proof.Machine
end

