-- ==== Sys2Proof/Machine/Registers.lean ====
section
/-! DEFINITION. Accesses to registers: reads with snapshots, read marks and pops (R290 to R294, R299); writes with refusals,
CLASP, write-once and sequence-cleared rules (R286, R291, R295 to R301); bit aliases (R307); the rows of chapter 13 that write
or read one register; and the parity scrubber (R302, R303). -/
namespace Sys2Proof.Machine
open Sys2Proof

/-! ### Sequence-cleared registers -/

/-- The SQC register at a place, when there is one. -/
def sqcOf (s : State) : Reg → Option Sqc
  | .host h => if h = 0x107 then some s.hc.events else none
  | .mbx k => if k = 0x03 then some s.mbx.status else none
  | .chip k o =>
    if k = 1 ∧ o = 2 then some s.pace.events
    else if k = 2 ∧ o < 0x140 ∧ o % 0x40 = 2 then some (s.port (o / 0x40)).events else none
  | .region r o => if o = 0x02 then some (s.region r).refEvents else if o = 0x11 then some (s.region r).regionEvents else none
  | .block B o => if o = 4 then some (s.block B).events else none
  | .acq r o => if o = 2 then some (s.acq r).regs.events else none
  | _ => none

/-- The SQC register at a place takes a value. -/
def setSqc (s : State) (q : Sqc) : Reg → State
  | .host h => if h = 0x107 then { s with hc.events := q } else s
  | .mbx k => if k = 0x03 then { s with mbx.status := q } else s
  | .chip k o =>
    if k = 1 ∧ o = 2 then { s with pace.events := q }
    else if k = 2 ∧ o < 0x140 ∧ o % 0x40 = 2 then s.updPort (o / 0x40) (fun p => { p with events := q }) else s
  | .region r o =>
    if o = 0x02 then s.updRegion r (fun g => { g with refEvents := q })
    else if o = 0x11 then s.updRegion r (fun g => { g with regionEvents := q }) else s
  | .block B o => if o = 4 then s.updBlock B (fun b => { b with events := q }) else s
  | .acq r o => if o = 2 then s.updAcq r (fun a => { a with regs.events := q }) else s
  | _ => s

/-! ### Reads -/

/-- The latch of one path at an address. -/
def latchWord (s : State) (fw : Bool) (a : Nat) : Word := tabGet 0 (if fw then s.hc.snapFw else s.hc.snapHost) a

/-- A read of a snapshot word: every word of the value enters the latch of the path (R294). -/
def snapTake (s : State) (fw : Bool) (g : List Reg) : State :=
  let t := g.foldl (fun t x => tabSet 0 t x.addr (regVal s x)) (if fw then s.hc.snapFw else s.hc.snapHost)
  if fw then { s with hc.snapFw := t } else { s with hc.snapHost := t }

/-- What a read does beyond its snapshot: the read mark of an SQC register, the pops of MBX_POP and FLASH_DATA (R292, R325). -/
def readEffect (s : State) (x : Reg) : State :=
  match sqcOf s x with
  | some q => setSqc s q.read x
  | none =>
    if x = .mbx 0x10 then popStep s
    else if x = .chip 4 0x0C then { s with fl.fifo := s.fl.fifo.drop 2 }
    else s

/-- A read that reaches its register: the word and the state after it (R290, R292, R294). -/
def readReg (s : State) (fw : Bool) (x : Reg) : Word × State :=
  if x.group = [] then (regVal s x, readEffect s x)
  else if x.group.head? = some x then (regVal s x, snapTake s fw x.group)
  else (latchWord s fw x.addr, s)

/-- What a read met besides a word. -/
structure RdFlags where
  denied : Bool := false
  fault : Bool := false
  deriving DecidableEq, Repr

/-- A read of an address at a session level (R5, R54, R286, R287, R305). -/
def readAt (s : State) (fw : Bool) (level a : Nat) : Word × RdFlags × State :=
  let x := locate s.hp.strict a
  if regPresent s x = false then (0, {}, s)
  else if x.owned = true ∧ level < 2 then (0, { denied := true }, s)
  else if regReach s x = .gated then (0, { fault := true }, s)
  else ((readReg s fw x).1, {}, (readReg s fw x).2)

/-! ### Writes: the registers' own rules -/

/-- What became of a write (R286). -/
structure WrFlags where
  ign : Bool := false
  busy : Bool := false
  denied : Bool := false
  fault : Bool := false
  deriving DecidableEq, Repr

/-- Flags of several writes together. -/
def WrFlags.join (a b : WrFlags) : WrFlags :=
  { ign := a.ign || b.ign, busy := a.busy || b.busy, denied := a.denied || b.denied, fault := a.fault || b.fault }

abbrev wrIgn : WrFlags := { ign := true }

/-- HOST_CFG as a write of the present frame leaves it, before its release (R271). -/
def hostCfgNext (s : State) : Bool × Bool × BitVec 8 × BitVec 6 := s.hp.next.getD (hostCfg s)

/-- A write of HOST_CFG: wlen outside 4 to 32 is refused whole; the value waits for the release of the frame (R271). -/
def writeHostCfg (s : State) (v : Word) : State × WrFlags :=
  if fld v 0 6 < 4 ∨ 32 < fld v 0 6 then (s, wrIgn)
  else ({ s with hp.next := some (bitOf v 17, bitOf v 16, v.extractLsb' 8 8, v.extractLsb' 0 6) }, {})

/-- The release of a frame brings a written HOST_CFG into force (R271). -/
def releaseCfg (s : State) : State :=
  match s.hp.next with
  | none => s
  | some (st, ln, lat, wl) => { s with hp.strict := st, hp.lanes := ln, hp.lat := lat, hp.wlen := wl, hp.next := none }

/-- A write of CLASP (R296). -/
def writeClasp (s : State) (v : Word) : State × WrFlags :=
  if s.hc.clasp = .locked then (s, wrIgn)
  else if v = 0x2D5A6 then ({ s with hc.clasp := .opened, hc.consec := 0 }, {})
  else if v = 0 then ({ s with hc.clasp := .shut }, {})
  else
    let n := s.hc.consec + 1
    if 16 ≤ n then ({ s with hc.clasp := .locked, hc.consec := 16 }.postHost 1, {})
    else ({ s with hc.clasp := .shut, hc.consec := n }, {})

/-- Class 3, RESET_CHIP, is permitted to a session level (R311, R422). -/
def mayResetChip (s : State) (level : Nat) : Bool := decide (level = 3) || (protRow s.lk level).getLsbD 3

/-- A write of RESET_CTL that has passed the CLASP check (R311, R459). -/
def writeResetCtl (s : State) (level : Nat) (v : Word) : State × WrFlags :=
  if mayResetChip s level = false then (s, { denied := true })
  else if bitOf v 0 then (chipReset s 4, {}) else (s, {})

/-- A write of a host control register of type RW or RWC. -/
def writeHost (s : State) (level h : Nat) (v : Word) : State × WrFlags :=
  if h = 0x100 then writeHostCfg s v
  else if h = 0x102 then ({ s with hc.irqEnable := v.extractLsb' 0 6 }, {})
  else if h = 0x120 then writeResetCtl s level v
  else (s, {})

/-- A write of a mailbox register of type RW (R227 to R229). -/
def writeMbx (s : State) (k : Nat) (v : Word) : State × WrFlags :=
  if k = 0x00 then (pushWord s v, {})
  else if k = 0x01 then (ringDoorbell s v, {})
  else if k = 0x12 then
    (if fld v 0 11 = 0 then (s, wrIgn) else ({ s with mbx.errNow := bitOf v 17, mbx.thr := fld v 0 11 }, {}))
  else if k = 0x13 then ({ s with mbx.coalTime := v, mbx.aged := s.mbx.aged && decide (v = s.mbx.coalTime) }, {})
  else (s, {})

/-- A write of a register of a port window (R345, R348, R356, R362). -/
def writePort (s : State) (i o : Nat) (v : Word) : State × WrFlags :=
  if o = 0x00 then (writePlCtl s i v, { ign := decide (i = 0) && decide (fld v 3 2 = 3) })
  else if o = 0x03 then (s.updPort i (fun p => { p with asymExt := v }), {})
  else if o = 0x10 then
    let s1 : State := { s with tree.joinEn := bitOf v 1, tree.evtEn := bitOf v 0 }
    (if s.tree.joinEn = false ∧ s.ref.upState = 3 then uplinkSelect s1 else s1, {})
  else if 0x14 ≤ o ∧ o ≤ 0x17 then ({ s with tree.fwd := s.tree.fwd.set (o - 0x14) (fld v 0 8) }, {})
  else (s, {})

/-- A write of a flash port register (R325, R326); what the flash does with a command is a free value. -/
def writeFlashReg (s : State) (o : Nat) (v : Word) : State × WrFlags :=
  if o = 0x00 then (writeFlashCfg s v, { ign := flashCfgIgn v })
  else if o = 0x06 then (writeFlash s o v, { ign := decide (v = 0) })
  else if o = 0x0B then (writeFlash s o v, { ign := decide (fld v 0 9 = 0) || decide (256 < fld v 0 9) })
  else if o = 0x08 then
    let f : WrFlags := { ign := flashCmdIgn s v, busy := flashCmdBusy s v }
    if bitOf v 17 then ((writeFlashCmd s v (Config.flashAnswer s.free) (Config.flashEffect s.free)).tick, f)
    else (writeFlashCmd s v [] [], f)
  else (writeFlash s o v, {})

/-- A write of a chip control register of type RW or CMT. -/
def writeChip (s : State) (k o : Nat) (v : Word) : State × WrFlags :=
  if k = 0 then
    if o = 2 then (writeRefinCfg s v, {})
    else if o = 4 then ({ s with ref.refinLo := v }, {})
    else (commitRefin s v, { ign := ! refinFreqOk (v ++ s.ref.refinLo).toNat })
  else if k = 1 then
    if bitOf v 0 then ((writePaceCtl s v (Config.voutMode s.free)).tick, {}) else (writePaceCtl s v none, {})
  else if k = 2 then writePort s (o / 0x40) (o % 0x40) v
  else if k = 3 then ({ s with bist.fuseAddr := v.extractLsb' 0 7 }, {})
  else writeFlashReg s o v

/-- A CAL_RUN, a BIST_RUN or a seating for maintenance is in progress in region r (R498). -/
def maintIn (s : State) (r : Nat) : Bool :=
  s.cal.runs.any (fun x => x.todo.any (fun y => decide (y.1 / 4 = r) && ! y.2.isEmpty))
  || s.bist.runs.any (fun x => x.periods.any (fun k => decide (k.reg = r)))
  || [0, 1, 2, 3].any (fun b => (s.block (4 * r + b)).seating.any (fun q =>
      decide (q.req = .cal) || decide (q.req = .online) || decide (q.req = .offline)))

/-- A write of TH64_CTL (R497, R498): a change of en is refused while activity runs; else the mode changes, for the checks of
commands from the next edge, and the element selection comes into force or leaves force on the application edge of R372. -/
def writeTh64 (s : State) (r : Nat) (v : Word) : State × WrFlags :=
  let m := s.mem r
  if bitOf v 0 = bitOf m.th64 0 then (s, {})
  else if regionEngineActive s r = true ∨ (s.acq r).armed = true ∨ maintIn s r = true then (s, wrIgn)
  else
    let s1 := s.updMem r (fun m => { m with
      th64 := wd (b2n (bitOf m.th64 17) * 2 ^ 17 + b2n (bitOf m.th64 16) * 2 ^ 16 + b2n (bitOf v 0)), thStage := if bitOf v 0 then m.thStage else ([], 0) })
    ({ s1 with cal.applyAt := s1.cal.applyAt ++ [(r, alignedEdge (s.region r) 1024, none)] }, {})

/-- A write of a region control register of type RW. -/
def writeRegion (s : State) (r o : Nat) (v : Word) : State × WrFlags :=
  if o = 0x00 then (writeRefCtl s r v, {}) else if o = 0x18 then writeTh64 s r v else (s, {})

/-- A write of a trim of a cell, reached through an open CLASP (R82, R83). -/
def writeTrim (s : State) (p o : Nat) (v : Word) : State :=
  s.updCell p (fun c => { c with trim :=
    if o = 0x1A then { c.trim with tdc := v } else if o = 0x1B then { c.trim with dtc := v }
    else if o = 0x1C then { c.trim with skew := v.extractLsb' 0 12 } else { c.trim with duty := v.extractLsb' 0 8 } })

/-- The words of a cell window that only stage or store. -/
def stageCell (s : State) (p o : Nat) (v : Word) : State :=
  s.updCell p (fun c =>
    if o = 0x02 then c.stage (fun x => { x with stF := x.stF.extractLsb' 18 18 ++ v })
    else if o = 0x03 then c.stage (fun x => { x with stF := v ++ x.stF.extractLsb' 0 18 })
    else if o = 0x04 then c.stage (fun x => { x with stK := v })
    else if o = 0x05 then c.stage (fun x => { x with stM := v })
    else if o = 0x08 then c.stage (fun x => { x with stD := v.extractLsb' 0 13 })
    else if o = 0x0C then c.stage (fun x => { x with stPhLo := v })
    else if o = 0x13 then { c with loop.hintValid := bitOf v 17, loop.hintBand := v.extractLsb' 8 7 }
    else if o = 0x14 then { c with loop.hintFine := v }
    else c)

/-- A write of a register of a cell window (R82, R85). -/
def writeCell (s : State) (p o : Nat) (v : Word) : State :=
  if o = 0x00 then writeCellCtl s p v else if o = 0x06 then writeFcw s p v else if o = 0x09 then writeLowDiv s p v
  else if o = 0x0A then writeOutCfg s p v else if o = 0x0B then writePhaseSlew s p v else if o = 0x0D then writePhaseHi s p v
  else if o = 0x0E then writeLoopBw s p v else if o = 0x0F then writeGear s p v else if o = 0x10 then writeLockThr s p v
  else if o = 0x11 then writeLockCnt s p v else if o = 0x12 then writeLockAction s p v
  else if o = 0x16 then writeEngCtl s p v else if o = 0x17 then writeEngPc s p v
  else if 0x1A ≤ o then writeTrim s p o v else stageCell s p o v

/-- The write that a register of type RW, CMT or RWC makes of a value, and whether it refused it (R291, R295). -/
def storeReg (s : State) (level : Nat) (x : Reg) (v : Word) : State × WrFlags :=
  match x with
  | .host h => writeHost s level h v
  | .mbx k => writeMbx s k v
  | .chip k o => writeChip s k o v
  | .region r o => writeRegion s r o v
  | .cell p o =>
    ((windowWrite s p o (fun s q => writeCell s q o v)).1, { ign := (windowWrite s p o (fun s q => writeCell s q o v)).2 })
  | .tiu i o =>
    let t := writeTiu s i o v
    (t, { ign := tiuRefusable o && (t.tiu i).cfgErr })
  | .evin i o =>
    let t := writeEvin s i o v
    (t, { ign := (decide (o = 1) || decide (o = 2)) && (t.evin i).cfgErr })
  | .acq r o => (writeAcq s r o v, { ign := acqRefused s r o v })
  | _ => (s, {})

/-! ### Writes: the access rules -/

/-- A WO1 register has taken its first write (R301). -/
def woWritten (s : State) : Reg → Bool
  | .host _ => s.hc.pinWritten
  | .chip _ o => if o = 4 then s.fl.wpLoW else s.fl.wpHiW
  | _ => false

/-- The first write of a WO1 register (R301). -/
def woStore (s : State) (x : Reg) (v : Word) : State :=
  match x with
  | .host _ => { s with hc.irqPp := bitOf v 0, hc.pinWritten := true }
  | .chip _ o => if o = 4 then { s with fl.wpLo := v, fl.wpLoW := true } else { s with fl.wpHi := v, fl.wpHiW := true }
  | _ => s

/-- A write to a WO1 register at address a: the first is taken, every later one violates (R301). -/
def writeWo1 (s : State) (a : Nat) (x : Reg) (v : Word) : State × WrFlags :=
  if woWritten s x then ({ s with hc.woAddr := wd a }.postHost 2, wrIgn) else (woStore s x v, {})

/-- A write-back to an SQC register (R300). -/
def writeSqc (s : State) (x : Reg) (v : Word) : State × WrFlags :=
  match sqcOf s x with
  | none => (s, {})
  | some q => (setSqc s (q.writeBack v).1 x, { ign := ! (q.writeBack v).2 })

/-- A write that its unit lets through, by the type of its register; the CLASP check has been made. -/
def writeKind (s : State) (level a : Nat) (x : Reg) (v : Word) : State × WrFlags :=
  match x.kind with
  | .none => (s, {})
  | .ro => (s, wrIgn)
  | .sqc => writeSqc s x v
  | .wo1 => writeWo1 s a x v
  | .clasp => writeClasp s v
  | .rw => storeReg s level x v
  | .cmt => storeReg s level x v
  | .rwc => storeReg s level x v

/-- The CLASP check of an RWC write: CLASP is consumed, or the write misses it (R296, R297). -/
def claspCheck (s : State) : State × Bool :=
  if s.hc.clasp = .opened then ({ s with hc.clasp := .shut }, true) else (s.postHost 0, false)

/-- A write whose CLASP check is done meets its unit (R54, R84, R286, R287). -/
def writeReach (s : State) (level a : Nat) (x : Reg) (v : Word) : State × WrFlags :=
  match regReach s x with
  | .ok => writeKind (s.parityFresh x.addr) level a x v
  | .gated => (s, { fault := true })
  | .busy => (s, { busy := true })
  | .absent => (s, {})

/-- A write reaches a register that takes writes or reports them: present, permitted to the session (R5, R286). -/
def writeDenied (x : Reg) (level : Nat) : Bool := x.owned && decide (level < 2)

/-- A write of address a, register x, at a session level (R286, R296, R305). -/
def writeReg (s : State) (level a : Nat) (x : Reg) (v : Word) : State × WrFlags :=
  if regPresent s x = false then (s, {})
  else if writeDenied x level then (s, { denied := true })
  else if x.kind = .none then (s, {})
  else if x.kind = .rwc then
    match claspCheck s with
    | (s1, true) => writeReach s1 level a x v
    | (s1, false) => (s1, wrIgn)
  else writeReach s level a x v

/-! ### Bit aliases (R307) -/

/-- The word of a host control register that an alias write modifies. -/
def aliasBase (s : State) (h : Nat) : Word := if h = 0x100 then hostCfgWord (hostCfgNext s) else hostWord s h

/-- Bits of a word replaced: the bit k of each pair takes bit 0 of the value beside it; k of 18 and above is no bit. -/
def putBits (w : Word) (l : List (Nat × Word)) : Word :=
  l.foldl (fun w e => if 18 ≤ e.1 then w else if bitOf e.2 0 then w ||| (1#18 <<< e.1) else w &&& ~~~(1#18 <<< e.1)) w

/-- A write of bits of host control register h through their aliases, in one step. -/
def writeBits (s : State) (level a h : Nat) (l : List (Nat × Word)) : State × WrFlags :=
  let bits := l.filter (fun e => decide (e.1 < 18))
  if bits = [] then (s, {})
  else
    match hostKind h with
    | .none => (s, {})
    | .clasp => (s, {})
    | .ro => (s, wrIgn)
    | .sqc => (s, wrIgn)
    | _ => writeReg s level a (.host h) (putBits (aliasBase s h) bits)

/-! ### One access -/

/-- A write of one word (R280, R291). -/
def writeAt (s : State) (level a : Nat) (v : Word) : State × WrFlags :=
  match locate s.hp.strict a with
  | .bit h k => writeBits s level a h [(k, v)]
  | x => writeReg s level a x v

/-- Two writes of one access, the second after the first. -/
def writeTwo (s : State) (f g : State → State × WrFlags) : State × WrFlags :=
  let x := f s
  let y := g x.1
  (y.1, x.2.join y.2)

/-- A register of type RWC that the session reaches. -/
def reachesRwc (s : State) (level : Nat) (x : Reg) : Bool :=
  regPresent s x && ! writeDenied x level && decide (x.kind = .rwc)

/-- A 36-bit write is one item (R284, R295, R297, R307): one CLASP check, a commit after its staged word, an action after the
values it uses, and two bits of one register in one step. -/
def writePair (s : State) (level a : Nat) (hi lo : Word) : State × WrFlags :=
  let xl := locate s.hp.strict a
  let xh := locate s.hp.strict (a + 1)
  match xl, xh with
  | .bit h k, .bit _ k' => writeBits s level a h [(k, lo), (k', hi)]
  | _, _ =>
    if reachesRwc s level xl = true ∨ reachesRwc s level xh = true then
      match claspCheck s with
      | (s1, false) => (s1, wrIgn)
      | (s1, true) =>
        writeTwo s1 (fun s => if reachesRwc s level xl then writeReach s level a xl lo else (s, {}))
          (fun s => if reachesRwc s level xh then writeReach s level (a + 1) xh hi else (s, {}))
    else if xh.kind = .cmt then
      writeTwo s (fun s => writeReg s level a xl lo) (fun s => writeReg s level (a + 1) xh hi)
    else writeTwo s (fun s => writeReg s level (a + 1) xh hi) (fun s => writeReg s level a xl lo)

/-! ### Accesses of the host port, one register at a time -/

/-- Flags of the host port's frame after a write of it (R286). -/
def noteFlags (s : State) (f : WrFlags) : State :=
  { s with hp.ign := s.hp.ign || f.ign, hp.busy := s.hp.busy || f.busy, hp.denied := s.hp.denied || f.denied,
           hp.fault := s.hp.fault || f.fault }

/-- The host port serves frames: from the end of the wipe on, unless a JTAG instruction holds its pins (R287, R490). -/
def portServes (s : State) : Bool := s.pwr.wiped && ! pinsTaken s.pins.jtag

/-- A write of one register by the host port, reported in the flags of its frame, whose release it reaches. -/
def portWrite (s : State) (a : Nat) (v : Word) : State :=
  if portServes s then
    let x := writeAt s s.sec.host a v
    if x.1.pwr.wiped then noteFlags (releaseCfg x.1) x.2 else x.1
  else s

/-- A host port write by a row that stands for one type of register; nothing when the address names another. -/
def portWriteOf (s : State) (k : RegKind → Bool) (a : Nat) (v : Word) : State :=
  if k (locate s.hp.strict a).kind then portWrite s a v else s

/-- A read of one register by the host port. -/
def portRead (s : State) (a : Nat) : State := if portServes s then (readAt s false s.sec.host a).2.2 else s

/-- RESET_CTL_WRITE (R297, R311). -/
def execResetCtlWrite (v : Word) (s : State) : Out := .next (portWrite s 0x120 v)

/-- HOST_CFG_WRITE (R271). -/
def execHostCfgWrite (v : Word) (s : State) : Out := .next (portWrite s 0x100 v)

/-- CLASP_WRITE (R296). -/
def execClaspWrite (v : Word) (s : State) : Out := .next (portWrite s 0x110 v)

/-- CLASP_TIMEOUT (R296, R297): 1 ms of RC time has passed since CLASP opened. -/
def execClaspTimeout (s : State) : Out := .next (if s.hc.clasp = .opened then { s with hc.clasp := .shut } else s)

/-- RWC_WRITE (R296, R297). -/
def execRwcWrite (addr : Nat) (v : Word) (s : State) : Out := .next (portWriteOf s (fun k => decide (k = .rwc)) addr v)

/-- SQC_READ (R299). -/
def execSqcRead (addr : Nat) (s : State) : Out :=
  .next (if (locate s.hp.strict addr).kind = .sqc then portRead s addr else s)

/-- SQC_WRITE_BACK (R300). -/
def execSqcWriteBack (addr : Nat) (v : Word) (s : State) : Out := .next (portWriteOf s (fun k => decide (k = .sqc)) addr v)

/-- WO1_WRITE (R301). -/
def execWo1Write (addr : Nat) (v : Word) (s : State) : Out := .next (portWriteOf s (fun k => decide (k = .wo1)) addr v)

/-- BIT_ALIAS_WRITE (R307). -/
def execBitAliasWrite (addr : Nat) (v : Word) (s : State) : Out :=
  match locate s.hp.strict addr with
  | .bit _ _ => .next (portWrite s addr v)
  | _ => .next s

/-- SNAPSHOT_READ (R294): a host port read of a snapshot word. -/
def execSnapshotRead (addr : Nat) (s : State) : Out :=
  let x := locate s.hp.strict addr
  .next (if x.group ≠ [] ∧ x.group.head? = some x then portRead s addr else s)

/-- REGISTER_WRITE (R286, R291). -/
def execRegisterWrite (addr : Nat) (v : Word) (s : State) : Out := .next (portWrite s addr v)

/-- TH64_CTL_WRITE (R498). -/
def execTh64CtlWrite (r : Nat) (v : Word) (s : State) : Out := .next (portWrite s (regionBase r + 0x4018) v)

/-! ### The parity scrubber (R302, R303) -/

/-- Registers that carry a parity bit: stored RW, RWC, WO1 and CMT registers, less action words and CLASP. -/
def hasParity (x : Reg) : Bool :=
  (decide (x.kind = .rw) || decide (x.kind = .rwc) || decide (x.kind = .wo1) || decide (x.kind = .cmt))
  && decide (x ≠ .mbx 0x00) && decide (x ≠ .mbx 0x01) && decide (x ≠ .host 0x120) && decide (x ≠ .chip 4 0x0C)
  && (match x with
    | .bit _ _ => false
    | _ => true)

/-- A mismatch in a TIU window (R182, R303): a measurement in progress ends with FAULT and the TIU goes out of use. -/
def tiuParity (s : State) (t : Nat) : State :=
  let s1 := tiuStop (s.updTiu t (fun x => { x with faults := 0 })) t FAULT
  let s2 := pushFault s1 1 0x13 6 0 (unitWord 2 (t / 4)) (nowStamp s (tiuRegion t)) (wd (t % 4))
  (s2.updTiu t (fun x => { x with st := .outOfUse })).updBlock (t / 4) (fun b => { b with events := b.events.post 0x30 })

/-- The level of R303 at which a mismatch in a register is reported, and its response. -/
def parityFault (s : State) (x : Reg) (a : Nat) : State :=
  match x with
  | .cell p o => causeE (s.updCell p (fun c => { c with loop.parErr := true })) p 0x06 (wd o)
  | .tiu t _ => tiuParity s t
  | .block B o => faultBlock s B 0x14 1 0 (wd o) 5
  | .evin i _ => faultRegion s (i / 64) 0x25 1 0 (wd (x.addr % 0x8000)) 5
  | .acq r _ => faultRegion s r 0x25 1 0 (wd (x.addr % 0x8000)) 5
  | .region r _ => faultRegion s r 0x25 1 0 (wd (x.addr % 0x8000)) 5
  | _ => (faultChip s 0x37 1 0 (wd a)).postHost 3

/-- REGISTER_SCRUB (R303): the check of the register at an address; `bad` tells that its parity does not match. A mismatch
is reported once until the register is written. -/
def execRegisterScrub (addr : Nat) (bad : Bool) (s : State) : Out :=
  let x := locate true addr
  let told := (x.addr, regVal s x)
  if bad = true ∧ hasParity x = true ∧ regPresent s x = true ∧ regReach s x ≠ .gated ∧ s.hc.scrubbed.contains told = false then
    .next (parityFault { s with hc.scrubbed := s.hc.scrubbed.filter (fun y => decide (y.1 ≠ x.addr)) ++ [told] } x addr)
  else .next s

end Sys2Proof.Machine
end

