-- ==== Sys2Proof/Machine/Diag.lean ====
section
/-! DEFINITION. HALLMARK (R425, R426), the diagnostic commands (R267, R505) and the test access port (R489, R490). -/
namespace Sys2Proof.Machine
open Sys2Proof

/-! ### HALLMARK (R425) -/

/-- Four bytes of the BIST field of a block. -/
def hallmarkBlock (s : State) (B : Nat) : List Byte :=
  let b := s.block B
  let m := (switchMap s B).toNat
  [BitVec.ofNat 8 b.bistPass.toNat, BitVec.ofNat 8 b.bistFail.toNat,
   BitVec.ofNat 8 (m / 2 ^ 17 % 2 * 128 + m / 2 ^ 12 % 2 * 64 + m / 2 ^ 6 % 4 * 16 + m / 2 ^ 8 % 16),
   BitVec.ofNat 8 (b2n b.spareFaulty * 128 + m / 2 ^ 13 % 16)]

/-- Byte 7: owner_set, pin_set, DEGRADED, USER set in force, wipe_pending, LOCKET check failed. -/
def hallmarkFlags (s : State) : Byte :=
  BitVec.ofNat 8 (b2n s.lk.owner.isSome + 2 * b2n s.lk.pin.isSome + 4 * b2n (degraded s) + 8 * b2n (decide (s.cal.user ≠ []))
    + 16 * b2n s.lk.wipe + 32 * b2n s.flt.locketBad)

/-- Digest of a calibration set, zero when it is empty (R392). -/
def setDigest (empty : Bool) (body : List Byte) : List Byte := if empty then List.replicate 32 0 else sha256 body

/-- Bytes 0 to 287 of the report. -/
def hallmarkBody (s : State) (session : Nat) (nonce : List Byte) : List Byte :=
  [0x4D, 0x51, 0x48, 0x4D, 0x01, BitVec.ofNat 8 s.lk.lc, BitVec.ofNat 8 session, hallmarkFlags s]
  ++ beBytes 9 s.lk.serial.toNat ++ beBytes 5 s.lk.lot.toNat ++ [s.lk.wafer, s.lk.dieX, s.lk.dieY]
  ++ beBytes 3 s.fuses.stepping.toNat ++ beBytes 3 s.fuses.variant.toNat ++ beBytes 3 s.fuses.replClass.toNat
  ++ beBytes 3 s.boot.version.toNat ++ nonce ++ beBytes 7 (s.region ((presentRegions s).headD 0)).time.toNat
  ++ beBytes 32 s.boot.digest.toNat ++ setDigest (! s.cal.facOk) (facBody s) ++ setDigest (decide (s.cal.user = [])) (userBody s)
  ++ (match s.lk.owner with
      | none => List.replicate 32 0
      | some k => sha256 (beBytes 64 k.toNat))
  ++ beBytes 4 s.lk.prot0.toNat ++ beBytes 4 s.lk.prot1.toNat ++ beBytes 4 s.lk.prot2.toNat
  ++ (List.range 16).flatMap (hallmarkBlock s)
  ++ beBytes 4 s.lk.faults.1 ++ beBytes 4 s.lk.faults.2.1 ++ beBytes 4 s.lk.faults.2.2.1 ++ beBytes 4 s.lk.faults.2.2.2
  ++ beBytes 4 s.lk.hours ++ beBytes 3 s.flt.logged ++ [0]

/-- HALLMARK: every field on one instant, signed by the device key. -/
def execHallmark (tag : Nat) (s : State) : Out :=
  .next (secure s tag 0x082 (fun s c =>
    let body := hallmarkBody s (sessionOf s c) (unpackWords c.args)
    streamOut s tag OK (packBytes (body ++ ecdsaSign s.lk.priv body)) [0x00160]))

/-! ### REG_READ and REG_WRITE (R267) -/

/-- Addresses of a REG_READ or REG_WRITE of n words, a channel's in the cell in service (R17); none for a burst outside
its limits. -/
def diagAddrs (s : State) (c : Cmd) (n : Nat) : Option (List Nat) :=
  let a := (c.arg 0).toNat
  let fixed := bitOf (c.arg 1) 17
  let last := if fixed then a else a + (n - 1)
  let at_ := (List.range n).map (fun i => if fixed then a else a + i)
  if tgtScope c.target = 3 then (if 63 < a ∨ 63 < last then none else some (at_.map (fun x => cellBase (cellNamed s c.unit) + x)))
  else if 0x3FFFF < last then none else some at_

/-- The words of a burst read through the firmware's path. -/
def fwReads (level : Nat) : List Nat → State → List Word × Bool × State
  | [], s => ([], false, s)
  | a :: l, s =>
    let x := readAt s true level a
    let y := fwReads level l x.2.2
    (x.1 :: y.1, x.2.1.fault || y.2.1, y.2.2)

/-- REG_READ. -/
def execRegRead (tag : Nat) (s : State) : Out :=
  .next (hitan s tag 0x0A0 (fun s c =>
    let n := fld (c.arg 1) 0 10
    if n = 0 ∨ 512 < n then complete s tag BADARG []
    else
      match diagAddrs s c n with
      | none => complete s tag BADARG []
      | some l =>
        let x := fwReads (sessionOf s c) l s
        streamOut x.2.2 tag (if x.2.1 then FAULT else OK) x.1 []))

/-- The writes of a burst, in order, as far as a held unit: the words taken, whether one was ignored, one discarded by a
forced gate-off, and one met a held unit. -/
def fwWrites (level : Nat) : List (Nat × Word) → State → Nat × Bool × Bool × Bool × State
  | [], s => (0, false, false, false, s)
  | (a, v) :: l, s =>
    let x := writeAt s level a v
    if x.1.pwr.wiped = false then (1, false, false, false, x.1)
    else if x.2.busy then (0, x.2.ign, x.2.fault, true, x.1)
    else
      let y := fwWrites level l (releaseCfg x.1)
      (y.1 + b2n (! x.2.fault), x.2.ign || x.2.denied || y.2.1, x.2.fault || y.2.2.1, y.2.2.2.1, y.2.2.2.2)

/-- Register writes that name a channel reach the cell that its return brings in as well (R113). -/
def mirrorNamed (s : State) (c : Cmd) (l : List (Nat × Word)) : State :=
  match (s.block (cellBlock c.unit)).seating with
  | none => s
  | some q =>
    if tgtScope c.target = 3 ∧ c.unit < 256 ∧ q.ret = true ∧ q.c = cellIdx c.unit then
      forAll l (fun s x =>
        let off := x.1 - cellBase (spareOf (cellBlock c.unit))
        if movesWithChannel off then writeCell s c.unit off x.2 else s) s
    else s

/-- REG_WRITE. -/
def execRegWrite (tag : Nat) (s : State) : Out :=
  .next (hitan s tag 0x0A1 (fun s c =>
    let vs := c.args.drop 2
    match diagAddrs s c vs.length with
    | none => complete s tag BADARG []
    | some l =>
      let x := fwWrites (sessionOf s c) (l.zip vs) s
      complete (mirrorNamed x.2.2.2.2 c ((l.zip vs).take x.1)) tag (if x.2.2.2.1 then BUSY else if x.2.2.1 then FAULT else OK) [wd x.1, wd (b2n x.2.1)]))

/-! ### LOUPE (R505) -/

/-- A 36-bit number, high word first. -/
def high36 (n : Nat) : List Word := [wd (n / 2 ^ 18), wd n]

/-- Words 32 to 43 of the cell stream. -/
def loupeCell (s : State) (p : Nat) : List Word :=
  let c := s.cell p
  high36 ((roundQ (16 * workK s p c.loop.band.toNat)).toNat) ++ [wd (b2n c.loop.locked), wd (min c.loop.inCnt 0x3FFFF), wd c.loop.outCnt]
  ++ high36 ((c.vals.delta * 2 ^ 36).floor.toNat) ++ high36 c.vals.phi.toNat
  ++ [wd c.eng.lateCnt, wd c.loop.hintMiss, wd (b2n c.loop.lossMute * 2 + b2n c.loop.lossHold)]

/-- Words of the block stream behind the block control words: CELL_STATUS, TIU_STATUS and the block's Tj. -/
def loupeBlock (s : State) (B : Nat) : List Word :=
  (List.range 17).map (fun c => cellStatus s (if c = 16 then spareOf B else chanOf B c))
  ++ (List.range 4).map (fun t => if tiuPresent s (4 * B + t) then tiuStatus s (4 * B + t) else 0)
  ++ [BitVec.ofInt 18 (s.block B).tj]

/-- LOUPE: all words on one edge, the window words through the firmware's latches. -/
def execLoupe (tag : Nat) (s : State) : Out :=
  .next (hitan s tag 0x0A2 (fun s c =>
    if tgtScope c.target = 3 then
      let p := cellNamed s c.unit
      let x := fwReads 3 ((List.range 32).map (fun o => cellBase p + o)) s
      streamOut x.2.2 tag OK (x.1 ++ loupeCell s p) []
    else
      let x := fwReads 3 ((List.range 128).map (fun o => blockBase c.unit + 0xC00 + o)) s
      streamOut x.2.2 tag OK (x.1 ++ loupeBlock s c.unit) []))

/-! ### Test access port (R489, R490) -/

/-- The IDCODE register: stepping, part code 0xA256, manufacturer code 0x2D7 and a 1 (R489). -/
def idcode (s : State) : BitVec 32 :=
  BitVec.ofNat 32 ((4 * fld s.fuses.stepping 4 5 + fld s.fuses.stepping 0 4) % 16 * 2 ^ 28 + 0xA256 * 2 ^ 12 + 0x2D7 * 2 + 1)

/-- An instruction takes the pins from their function: the Plawen ports lose their signals (R342, R490). -/
def takePins (s : State) : State :=
  forAll [0, 1, 2, 3, 4] (fun s i => if (s.port i).st.live then portFall (countRetrain s i) i .los 0b11 else s) s

/-- The pins return to their function: a TOUT comes back at the next anchored edge of its state (R166, R490). -/
def returnPins (s : State) : State :=
  forAll ((s.cells.map (fun e => e.1)).filter (fun p => decide ((s.cell p).out.drv = .toggling)))
    (fun s p => s.updCell p (fun c => { c with out.drv := .muted }.activeFrom (nowA s p))) s

/-- The instruction register takes a code. -/
def loadJtag (s : State) (code : Byte) : State :=
  let s1 : State := { s with pins.jtag := code }
  if pinsTaken s.pins.jtag = pinsTaken code then s1 else if pinsTaken code then takePins s1 else returnPins s1

/-- JTAG_INSTRUCTION_UPDATE (R489, R490). -/
def execJtagInstructionUpdate (code : Byte) (s : State) : Out := .next (loadJtag s code)

/-- TAP_RESET (R489): IDCODE is selected. -/
def execTapReset (s : State) : Out := .next (loadJtag s 0x02)

end Sys2Proof.Machine
end

