-- ==== Sys2Proof/Machine/HostPort.lean ====
section
/-! DEFINITION. The host serial port (chapter 12): a frame as the string of bits sampled on HSDI from the assertion of HSEL_N
to its release, the checks, the accesses and the reply; and the empty frame. -/
namespace Sys2Proof.Machine
open Sys2Proof

/-! ### The request (R273, R274) -/

/-- The number that bits spell, most significant first. -/
def bitsNat (l : List Bool) : Nat := l.foldl (fun n b => 2 * n + b2n b) 0

/-- The n bits of a number, most significant first. -/
def natBits (n v : Nat) : List Bool := (List.range n).map (fun i => v.testBit (n - 1 - i))

/-- n bits of a string from position p. -/
def bitsAt (l : List Bool) (p n : Nat) : Nat := bitsNat ((l.drop p).take n)

/-- The header of a frame (R273). -/
structure Hdr where
  alive : Nat
  op : Nat
  size : Nat
  fixed : Bool
  count : Nat
  addr : Nat
  deriving DecidableEq, Repr

/-- The header that a string begins with. -/
def hdrOf (l : List Bool) : Hdr :=
  { alive := bitsAt l 0 4, op := bitsAt l 4 4, size := bitsAt l 8 2, fixed := decide (bitsAt l 10 1 = 1),
    count := bitsAt l 11 7, addr := bitsAt l 18 18 }

/-- Data items of one access (R274). -/
def Hdr.itemsPer (h : Hdr) : Nat := if h.size = 1 then 2 else 1

/-- Data items of all accesses of a READ or a WRITE. -/
def Hdr.items (h : Hdr) : Nat := h.itemsPer * (h.count + 1)

/-- Length of the request (R274). -/
def Hdr.reqLen (h : Hdr) : Nat := 36 + (if h.op = 2 then 18 * h.items else 0) + 16

/-- Addresses of the accesses, in order (R273, R284). -/
def Hdr.addrs (h : Hdr) : List Nat :=
  (List.range (h.count + 1)).map (fun i => if h.fixed then h.addr else h.addr + h.itemsPer * i)

/-- The addresses that an access at a touches. -/
def Hdr.words (h : Hdr) (a : Nat) : List Nat := if h.size = 1 then [a, a + 1] else [a]

/-- Words of a READ or a WRITE that lie beyond the end of the space (R285). -/
def Hdr.beyond (h : Hdr) : Nat :=
  if h.op = 0 then 0 else ((h.addrs.flatMap h.words).filter (fun a => decide (0x3FFFF < a))).length

/-- Data item i of a WRITE. -/
def itemAt (l : List Bool) (i : Nat) : Word := wd (bitsAt l (36 + 18 * i) 18)

/-! ### Checks (R278, R279, R284) -/

/-- Rejection reasons of R278. -/
abbrev rejCrc : Nat := 1
abbrev rejAlive : Nat := 2
abbrev rejLength : Nat := 3
abbrev rejHeader : Nat := 4
abbrev rejUnaligned : Nat := 5
abbrev rejSize : Nat := 6

/-- The half-writable registers (R308). -/
def halfWritable (s : State) (a : Nat) : Bool :=
  match locate s.hp.strict a with
  | .host h => decide (h = 0x102)
  | .evin i o => regPresent s (.evin i o) && decide (o = 0)
  | _ => false

/-- The SIZE check. -/
def sizeBad (s : State) (h : Hdr) : Bool :=
  (decide (h.op = 2) && decide (2 ≤ h.size) && h.addrs.any (fun a => decide (a ≤ 0x3FFFF) && ! halfWritable s a))
  || (decide (h.size ≠ 0) && (h.addrs.flatMap h.words).any (fun a => decide (0x300 ≤ a) && decide (a < 0x320)))

/-- The checks at the end of the request: 0, or the reason of the first that fails (R278). -/
def endCheck (s : State) (h : Hdr) (l : List Bool) : Nat :=
  if (crc16 (l.take (h.reqLen - 16))).toNat ≠ bitsAt l (h.reqLen - 16) 16 then rejCrc
  else if s.hp.anyAlive = false ∧ h.alive ≠ s.hp.alive.toNat then rejAlive
  else if 2 < h.op ∨ (h.op = 0 ∧ (h.size ≠ 0 ∨ h.fixed = true ∨ h.count ≠ 0 ∨ h.addr ≠ 0)) then rejHeader
  else if h.op ≠ 0 ∧ h.size = 1 ∧ h.addr % 2 = 1 then rejUnaligned
  else if h.op ≠ 0 ∧ sizeBad s h = true then rejSize
  else 0

/-! ### Reads (R281 to R286) -/

/-- Reads of a frame as far as they have been performed: the items, the trailer's flags, the state. -/
structure ReadRun where
  items : List Word := []
  flags : RdFlags := {}
  st : State

/-- One word of a READ; beyond the end it is zero. -/
def ReadRun.word (x : ReadRun) (a : Nat) : Word × ReadRun :=
  if 0x3FFFF < a then (0, x)
  else
    let y := readAt x.st false x.st.sec.host a
    (y.1, { x with flags := { denied := x.flags.denied || y.2.1.denied, fault := x.flags.fault || y.2.1.fault }, st := y.2.2 })

/-- One access of a READ: the low word is read first, and the high one is sent first (R274, R284). -/
def ReadRun.access (h : Hdr) (x : ReadRun) (a : Nat) : ReadRun :=
  let y := x.word a
  if h.size = 0 then { y.2 with items := x.items ++ [y.1] }
  else if h.size = 1 then
    let z := y.2.word (a + 1)
    { z.2 with items := x.items ++ [z.1, y.1] }
  else if h.size = 2 then { y.2 with items := x.items ++ [wd (fld y.1 0 9)] }
  else { y.2 with items := x.items ++ [wd (fld y.1 9 9)] }

/-- The reads of a READ frame, in order. -/
def doReads (s : State) (h : Hdr) : ReadRun := h.addrs.foldl (ReadRun.access h) { st := s }

/-! ### The reply (R275 to R277, R283) -/

/-- First bit of the reply (R275). -/
def replyStart (s : State) (h : Hdr) : Nat :=
  let w := s.hp.wlen.toNat
  w * ((h.reqLen + w - 1) / w) + w * s.hp.lat.toNat

/-- Items in the reply. -/
def Hdr.replyItems (h : Hdr) : Nat := if h.op = 1 then h.items else 0

/-- Least length of the frame (R275). -/
def frameMin (s : State) (h : Hdr) : Nat :=
  let w := s.hp.wlen.toNat
  w * ((replyStart s h + 18 + 18 * h.replyItems + 18 + 16 + w - 1) / w)

/-- The status word (R276). -/
def statusWord (s : State) (h : Hdr) (this : Nat) : Word :=
  wd (2 ^ 17 + this * 2 ^ 14 + s.hp.prev * 2 ^ 11 + b2n s.hp.ign * 2 ^ 10 + b2n s.hp.busy * 2 ^ 9 + b2n s.hp.denied * 2 ^ 8
    + b2n s.hp.fault * 2 ^ 7 + (h.alive + 1) % 16 * 2 ^ 3 + s.sec.host * 2 + b2n (irqPin s))

/-- The trailer (R277). -/
def trailerWord (under : Bool) (beyond : Nat) (f : RdFlags) : Word :=
  wd (b2n under * 2 ^ 17 + b2n (decide (beyond ≠ 0)) * 2 ^ 16 + b2n f.denied * 2 ^ 15 + b2n f.fault * 2 ^ 14 + beyond)

/-- Bits of words, each most significant first. -/
def wordBits (ws : List Word) : List Bool := ws.flatMap (fun w => natBits 18 w.toNat)

/-- A data bit in a transfer unit of the reply that was repeated: the bit sent one unit before; every other bit as it is (R283). -/
def sendBits (w data : Nat) (late : List Nat) (l : List Bool) : List Bool :=
  l.foldl (fun sent b =>
    let j := sent.length
    sent ++ [if 18 ≤ j ∧ j < 18 + data ∧ late.contains (j / w) = true then (if w ≤ j then sent.getD (j - w) false else false) else b]) []

/-- A unit of the reply in `late` holds a bit of read data. -/
def underran (w data : Nat) (late : List Nat) : Bool := late.any (fun u => decide (18 < (u + 1) * w) && decide (u * w < 18 + data))

/-- The bits that HSDO drives in a frame of n bits with a reply (R275): low before it and behind it. -/
def replyBits (s : State) (h : Hdr) (n this : Nat) (items : List Word) (f : RdFlags) (late : List Nat) : List Bool :=
  let w := s.hp.wlen.toNat
  let body := wordBits (statusWord s h this :: items ++ [trailerWord (underran w (18 * items.length) late) h.beyond f])
  let sent := sendBits w (18 * items.length) late body
  let all := List.replicate (replyStart s h) false ++ sent ++ natBits 16 (crc16 sent).toNat
  (all ++ List.replicate n false).take n

/-! ### Writes (R280, R284, R285) -/

/-- The half-word that a 9-bit write puts in place. -/
def putHalf (old v : Word) (hi : Bool) : Word :=
  if hi then wd (fld v 0 9 * 2 ^ 9 + fld old 0 9) else wd (fld old 9 9 * 2 ^ 9 + fld v 0 9)

/-- One access of a WRITE, its items from number i on; nothing after a chip reset that an earlier one made. -/
def doWrite (h : Hdr) (l : List Bool) (x : State × WrFlags) (i a : Nat) : State × WrFlags :=
  let s := x.1
  let y :=
    if s.pwr.wiped = false ∨ 0x3FFFF < a then (s, {})
    else if h.size = 0 then writeAt s s.sec.host a (itemAt l i)
    else if h.size = 1 then writePair s s.sec.host a (itemAt l (2 * i)) (itemAt l (2 * i + 1))
    else writeAt s s.sec.host a (putHalf (regVal s (locate s.hp.strict a)) (itemAt l i) (decide (h.size = 3)))
  (y.1, x.2.join y.2)

/-- The writes of a WRITE frame, in order. -/
def doWrites (s : State) (h : Hdr) (l : List Bool) : State × WrFlags :=
  (h.addrs.zipIdx).foldl (fun x e => doWrite h l x e.2 e.1) (s, {})

/-! ### The frame -/

/-- A rejected frame (R278): the reason, with the flags of a frame that wrote nothing. -/
def rejectFrame (s : State) (why : Nat) : State :=
  { s with hp.prev := why, hp.lastRej := why, hp.ign := false, hp.busy := false, hp.denied := false, hp.fault := false }

/-- The alive counter and the empty count after a non-empty frame that carried an alive value (R279, R288). -/
def nextAlive (s : State) (h : Hdr) : State :=
  { s with hp.alive := BitVec.ofNat 4 (h.alive + 1), hp.anyAlive := false }

/-- The frame's length satisfies the check at release (R275, R278): with four lanes it is a multiple of 4 as well. -/
def lengthOk (s : State) (h : Hdr) (n : Nat) : Bool := decide (n % s.hp.wlen.toNat = 0) && decide (frameMin s h ≤ n) &&
  (! s.hp.lanes || decide (n % 4 = 0))

/-- The bits that HSDO drove. -/
def drove (s : State) (l : List Bool) : State := { s with hp.hsdo := l }

/-- A frame whose checks at request end have passed, released after all n bits: READ (R281). -/
def finishRead (s : State) (h : Hdr) (n : Nat) (late : List Nat) : State :=
  let x := doReads s h
  let out := replyBits s h n 0 x.items x.flags late
  let under := underran s.hp.wlen.toNat (18 * x.items.length) late
  if lengthOk s h n then
    let s1 := drove (nextAlive x.st h) out
    { s1 with hp.prev := 0, hp.ign := false, hp.busy := false, hp.denied := false, hp.fault := false, hp.underrun := under }
  else
    let s1 := rejectFrame (drove (nextAlive s h) out) rejLength
    { s1 with hc.snapHost := x.st.hc.snapHost, hp.underrun := under }

/-- The same for a NULL or a WRITE (R280): the writes take effect at the release. -/
def finishWrite (s : State) (h : Hdr) (l : List Bool) : State :=
  let s1 := drove (nextAlive s h) (replyBits s h l.length 0 [] {} [])
  if lengthOk s h l.length = false then rejectFrame s1 rejLength
  else
    let x := if h.op = 2 then doWrites s1 h l else (s1, {})
    if x.1.pwr.wiped = false then x.1
    else releaseCfg { x.1 with
      hp.prev := 0, hp.ign := x.2.ign, hp.busy := x.2.busy, hp.denied := x.2.denied, hp.fault := x.2.fault }

/-- A frame with at least one HSCK edge, from its bits and the transfer units of its reply that were repeated (R268 to R287). -/
def frame (s0 : State) (l : List Bool) (late : List Nat) : State :=
  let s : State := { s0 with hp.empties := 0 }
  let n := l.length
  let h := hdrOf l
  let low := List.replicate n false
  if portServes s = false then s0
  else if n < 4 then rejectFrame (drove s low) rejLength
  else if n < 36 ∨ n < h.reqLen then rejectFrame (drove (nextAlive s h) low) rejLength
  else
    let why := endCheck s h l
    if why = rejCrc ∨ why = rejAlive then rejectFrame (drove (nextAlive s h) low) why
    else if why ≠ 0 then
      rejectFrame (drove (nextAlive s h) (replyBits s h n why (List.replicate h.replyItems 0) {} [])) why
    else if h.op = 1 then finishRead s h n late
    else finishWrite s h l

/-- Opcode of a frame that is long enough to have a header. -/
def frameOp (l : List Bool) : Option Nat := if l.length < 36 then none else some (hdrOf l).op

/-- NULL_FRAME (R273, R278): a frame whose header is not that of a READ or a WRITE. -/
def execNullFrame (bits : List Bool) (s : State) : Out :=
  .next (if bits = [] ∨ frameOp bits = some 1 ∨ frameOp bits = some 2 then s else frame s bits [])

/-- READ_FRAME (R281 to R286). `late` numbers the transfer units of the reply that were due before their data. -/
def execReadFrame (bits : List Bool) (late : List Nat) (s : State) : Out :=
  .next (if frameOp bits = some 1 then frame s bits late else s)

/-- WRITE_FRAME (R280, R284 to R286). -/
def execWriteFrame (bits : List Bool) (s : State) : Out := .next (if frameOp bits = some 2 then frame s bits [] else s)

/-- Sixteen consecutive empty frames: a port recovery (R288). -/
def portRecovery (s : State) : State :=
  { s with
    hp.lanes := false, hp.lat := 16, hp.wlen := 18, hp.anyAlive := true, hp.prev := 7, hp.ign := false, hp.busy := false,
    hp.denied := false, hp.fault := false, hp.empties := 0 }.postHost 5

/-- EMPTY_FRAME (R288): at least 1 us asserted and 1 us released, without an HSCK edge. -/
def execEmptyFrame (s : State) : Out :=
  if portServes s = false then .next s
  else if s.hp.empties = 15 then .next (portRecovery s)
  else .next { s with hp.empties := s.hp.empties + 1 }

end Sys2Proof.Machine
end

