-- ==== Sys2Proof/Machine/Plan.lean ====
section
/-! DEFINITION. PLAN_CHECK: the coupling of neighbouring oscillators (chapter 07, R259). -/
namespace Sys2Proof.Machine
open Sys2Proof

/-- The harmonic pairs of R168. -/
def harmonics : List (Nat × Nat) := [(1, 1), (2, 1), (1, 2), (3, 2), (2, 3)]

/-- Coupling offset of two DCO ratios at a harmonic pair, in Hz at 800 MHz. -/
def offsetHz (x y : Rat) (h : Nat × Nat) : Rat :=
  let d := ((h.1 : Rat) * x - (h.2 : Rat) * y) * 800000000
  if d < 0 then -d else d

/-- The harmonic pair of the smallest offset, the first in the order of R168 on a tie. -/
def bestHarmonic (x y : Rat) : Nat × Nat :=
  harmonics.foldl (fun b h => if offsetHz x y h < offsetHz x y b then h else b) (1, 1)

/-- The smallest coupling offset of a pair. -/
def minOffset (x y : Rat) : Rat := offsetHz x y (bestHarmonic x y)

/-- The pair is in class PULL, window edges widened by 100 ppm (R168). -/
def isPull (x y : Rat) : Bool := decide (499950 ≤ minOffset x y) && decide (minOffset x y ≤ 20002000)

/-- What a channel may run: cell index, profile (0xFF in force) and DCO ratio. -/
structure PlanItem where
  c : Nat
  prof : Nat
  f : Rat
  deriving DecidableEq, Repr

/-- One entry of the result (R173, R259); its harmonic pair is that of R168, p for the lower frequency. -/
def planEntry (a b : PlanItem) : List Word :=
  let h := if a.f ≤ b.f then bestHarmonic a.f b.f else bestHarmonic b.f a.f
  let o := (minOffset a.f b.f).floor.toNat
  [wd (a.c * 2 ^ 14 + b.c * 2 ^ 10 + h.1 * 2 ^ 7 + h.2 * 2 ^ 4), wd (a.prof * 2 ^ 8 + b.prof), wd (o / 2 ^ 18), wd (o % 2 ^ 18)]

/-- The profile of channel n as PLAN_CHECK reads it: its ratio, or skipped. -/
def planProfile (s : State) (n idx : Nat) : Option PlanItem :=
  if fetch s (inService s n) n idx = .ok then
    some { c := cellIdx n, prof := idx, f := ratio (profFreq {} (profRow s n idx)) } else none

/-- Reads of rows that meet an uncorrectable word (R95, R435). -/
def planReads (s : State) (n : Nat) (idxs : List Nat) : State :=
  forAll (idxs.filter (profBad s n)) (fun s i => meetProfile s n i) s

/-- The two cells belong to one coherent group (R175). -/
def sameGroup (groups : List Word) (a b : Nat) : Bool := groups.any (fun g => bitOf g a && bitOf g b)

/-- Pairs that are compared, in the order of R173. -/
def planPairs (groups : List Word) (items : List (List PlanItem)) : List (PlanItem × PlanItem) :=
  match items with
  | [] => []
  | xs :: rest =>
    rest.flatMap (fun ys => xs.flatMap (fun x =>
      (ys.filter (fun y => ! sameGroup groups x.c y.c || decide (x.prof = y.prof))).map (fun y => (x, y))))
    ++ planPairs groups rest

/-- The answer over the items of the sixteen channels. -/
def planAnswer (s : State) (tag : Nat) (groups : List Word) (items : List (List PlanItem)) (skipped : Nat) : State :=
  let ps := planPairs groups items
  let pull := ps.filter (fun p => isPull p.1.f p.2.f)
  let coh := (ps.filter (fun p => decide (minOffset p.1.f p.2.f = 0))).length
  let listed := pull.take 1024
  let data := listed.flatMap (fun p => planEntry p.1 p.2)
  completeWith s tag OK data [wd data.length, wd (min pull.length 0x3FFFF), wd (min coh 0x3FFFF), wd (min skipped 0x3FFFF), wd listed.length]

/-- A STATE code of a channel that PLAN_CHECK accepts (R259); in TH64 mode a profile above 63 is not (R500). -/
def planCodeOk (th64 : Bool) (v : Nat) : Bool :=
  decide (v < if th64 then 64 else 192) || decide (v = 0x100) || decide (v = 0x1FF)

/-- A channel "in force": the frequency words of the cell in service; one that is disabled takes part in no pair (R169). -/
def planInForce (s : State) (n : Nat) : List PlanItem :=
  let x := s.cell (inService s n)
  if x.cfg.ctl.en then [{ c := cellIdx n, prof := 0xFF, f := ratio x.vals.freq }] else []

/-- STATE scope (R172). -/
def planState (s : State) (c : Cmd) : State :=
  let code := fun i => fld (c.arg (1 + i / 2)) (if i % 2 = 0 then 9 else 0) 9
  if (List.range 16).all (fun i => planCodeOk (th64Target s c) (code i)) = false then complete s c.tag BADARG []
  else
    let n := fun i => 16 * c.unit + i
    let one := fun i => if code i = 0x1FF then []
      else if code i = 0x100 then planInForce s (n i)
      else (planProfile s (n i) (code i)).toList
    let named := (List.range 16).filter (fun i => decide (code i < 192))
    let s1 := forAll named (fun s i => planReads s (n i) [code i]) s
    planAnswer s1 c.tag [] ((List.range 16).map one) (named.filter (fun i => (planProfile s (n i) (code i)).isNone)).length

/-- A channel stands in two groups, or a group has one channel (R175, R259). -/
def groupsBad (groups : List Word) : Bool :=
  groups.any (fun g => decide (((List.range 16).filter (bitOf g)).length = 1))
  || (List.range 16).any (fun i => decide (2 ≤ (groups.filter (fun g => bitOf g i)).length))

/-- TABLE scope (R172, R175). -/
def planTable (s : State) (c : Cmd) : State :=
  let groups := (c.args.drop 2).filter (fun g => decide (g ≠ 0))
  if (c.args.drop 1).any (fun w => decide (0xFFFF < w.toNat)) = true ∨ groupsBad groups = true then complete s c.tag BADARG []
  else
    let idxs := List.range (if th64Target s c then 64 else 192)
    let n := fun i => 16 * c.unit + i
    let used := (List.range 16).filter (bitOf (c.arg 1))
    let set := fun i => idxs.filter (fun k => profBad s (n i) k || bitOf ((profRow s (n i) k).getD 0 0) 14)
    let items := used.map (fun i => (set i).filterMap (planProfile s (n i)))
    let skipped := (used.map (fun i => ((set i).filter (fun k => (planProfile s (n i) k).isNone)).length)).sum
    planAnswer (forAll used (fun s i => planReads s (n i) idxs) s) c.tag groups items skipped

/-- PLAN_CHECK (R172 to R175, R259). -/
def execPlanCheck (tag : Nat) (s : State) : Out :=
  .next (hitan s tag 0x038 (fun s c => if bitOf (c.arg 0) 0 then planTable s c else planState s c))

end Sys2Proof.Machine
end

