-- ==== Sys2Proof/Machine/Tick.lean ====
section
/-! DEFINITION. One CREF edge of the running regions: what an empty command queue lets pass (log entry 1). Before the edge
gives way to the next, everything that is due on it by the spec's own times and that no row has brought takes effect
(log 57). -/
namespace Sys2Proof.Machine
open Sys2Proof

/-! ### What is due on the present edge -/

/-- The output edges of a cell that have come: slews, divider changes, re-timings and the driver (R79, R109, R148, R166). -/
def settleOut (s : State) (p : Nat) : State :=
  let slews := forAll (List.range 16) (fun s _ => slewPeriod s p) s
  toutDisable (toutActive (muteAtFall (retimeRise (hopRetime (dividerChange slews p) p) p) p false) p) p

/-- A host HOP whose time comes before its fetch is complete ends with TIMEOUT (R104). -/
def hopMissed (s : State) (p : Nat) : State :=
  match (s.cell p).hop.host with
  | none => s
  | some h =>
    match h.at_, h.tag with
    | some t, some tag =>
      if h.due = none ∧ reached (s.region (cellRegion p)).time t = true then
        complete (s.updCell p (fun c => { c with hop.host := none })) tag TIMEOUT []
      else s
    | _, _ => s

/-- A cell: its output, its engine and hops, one cycle of its loop, and the bounds of its acquisition. Of a cell under
OFFLINE test only the edge of a HOP from before passes (R402). -/
def settleCell (s : State) (p : Nat) : State :=
  if blockOffline s (cellBlock p) then hopEdge (hopMissed s p) p else
  let s1 := hopEdge (engSettle p 4100 (waitTimeout (settleOut s p) p)) p
  let s2 := gearEnd (loopEdge (hopMissed s1 p) p) p
  settleOut (learnDone (hintStale (relockTimeout (acqTimeout s2 p) p) p) p) p

/-- A block: the changeover, the switch and the time-out of a seating or return (R114, R117). -/
def settleBlock (s : State) (B : Nat) : State := seatExpired (selectorSwitch (switchWait (changeover s B) B) B) B

/-- Cells of a region that are not in their reset state. -/
def liveCells (s : State) (r : Nat) : List Nat := (s.cells.map (fun e => e.1)).filter (fun p => decide (cellRegion p = r))

/-- A TIU: the edge of its arm time, and its time-out (R186). -/
def settleTiu (s : State) (t : Nat) : State := tiuLate (readyAtTime s t) t

/-- TIUs of a region that are not in their reset state. -/
def liveTius (s : State) (r : Nat) : List Nat := (s.tius.map (fun e => e.1)).filter (fun t => decide (tiuRegion t = r))

/-- Everything that is due on the present edge of region r, the samples of its cycle last. -/
def settleRegion (s : State) (r : Nat) : State :=
  let s1 := forAll [4 * r, 4 * r + 1, 4 * r + 2, 4 * r + 3] settleBlock (forAll (liveCells s r) settleCell s)
  settleAcq (forAll (liveTius s1 r) settleTiu (applicationEdge s1 r)) r

/-! ### The next edge -/

/-- One CREF edge of a region: the coarse count advances modulo 2^54, and a wrap advances the anchor count's
high bits and posts TIME_WRAP (R56, R57, R99). -/
def RegionSt.tickEdge (g : RegionSt) : RegionSt :=
  if g.time = 0x3FFFFFFFFFFFFF then
    { g with time := 0, anchorHi := g.anchorHi + 1, edge := g.edge + 1, refEvents := g.refEvents.postBit 6 }
  else { g with time := g.time + 1, edge := g.edge + 1 }

/-- A timed wait of an engine whose edge has come ends (R129, R130, R142). -/
def Engine.wake (e : Engine) (edge : Nat) (time : BitVec 54) : Engine :=
  match e.wait with
  | .edge d => if d ≤ edge then { e with st := .running, wait := .none } else e
  | .time c => if reached time c then { e with st := .running, wait := .none, s := edge } else e
  | _ => e

/-- The engines of a region look at the present edge. -/
def wakeRegion (s : State) (r : Nat) : State :=
  forAll ((liveCells s r).filter (fun p => decide ((s.cell p).eng.st = .waiting)))
    (fun s p => s.updCell p (fun c => { c with eng := c.eng.wake (s.region r).edge (s.region r).time })) s

/-- The pulses of MARKO pins that end on the present edge of region r go low (R140). -/
def dropPulses (s : State) (r : Nat) : State :=
  { s with pins.marko := s.pins.marko.filter (fun e => ! (decide (e.2.2 = r) && decide (e.2.1 ≤ (s.region r).edge))) }

/-- The inputs of region r whose written settings come into force on the present edge (R202). -/
def applyEvins (s : State) (r : Nat) : State :=
  forAll ((s.evins.filter (fun e => decide (e.1 / 64 = r) && e.2.applyAt.isSome)).map (fun e => e.1)) evinApply s

/-- A change of TH64_CTL.en is in force for the checks of commands from this edge (R498). -/
def applyTh64 (s : State) (r : Nat) : State :=
  let w := (s.mem r).th64
  if bitOf w 16 = bitOf w 0 then s
  else s.updMem r (fun m => { m with th64 := wd (b2n (bitOf w 17) * 2 ^ 17 + b2n (bitOf w 0) * 2 ^ 16 + b2n (bitOf w 0)) })

/-- One CREF edge of region r. -/
def tickRegion (s : State) (r : Nat) : State :=
  applyTh64 (applyEvins (dropPulses (deliverDue (wakeRegion (s.updRegion r RegionSt.tickEdge) r) r) r) r) r

/-- One CREF cycle of each port's transmitter, clocked by the lowest running region (R339, R340). -/
def launchBlocks (s : State) : State :=
  if (leadRegion s).isNone then s else { s with ports := tabMap {} (fun _ p => p.launch) s.ports }

/-- The tree events due on the present edge register (R354). -/
def settleFabric (s : State) : State := forAll s.tree.fab deliverEvent s

/-- One CREF edge in every region that is not in reset (log entry 1). -/
def idleEdge (s : State) : State :=
  let up := fun (s : State) => (presentRegions s).filter (fun r => ! (s.region r).inReset)
  let s1 := forAll (up s) settleRegion (settleFabric (epochLoad s))
  forAll (up s1) tickRegion (launchBlocks s1)

/-- TIME_WRAP (R57): the edge on which region r's count wraps, which is an edge of every running region (log entry 1). -/
def execTimeWrap (r : Nat) (s : State) : Out :=
  if regionPresent s r = true ∧ (s.region r).inReset = false ∧ (s.region r).time = 0x3FFFFFFFFFFFFF then .next (idleEdge s)
  else .next s

end Sys2Proof.Machine
end

