-- ==== Sys2Proof/Machine/Dispatch.lean ====
section
/-! DEFINITION. The meaning of every command: one arm per constructor, each one call of its meaning. -/
namespace Sys2Proof.Machine
open Sys2Proof

def exec (i : Instr) (s : State) : Host.Outcome State Fault Refusal :=
  match i with
  | .rstNAssert ns => Sys2Proof.Machine.execRstNAssert ns s
  | .resetCtlWrite v => Sys2Proof.Machine.execResetCtlWrite v s
  | .brownOut rail => Sys2Proof.Machine.execBrownOut rail s
  | .dcoSupply r => Sys2Proof.Machine.execDcoSupply r s
  | .supplyWindow rail mv => Sys2Proof.Machine.execSupplyWindow rail mv s
  | .supplyHoldRelease r => Sys2Proof.Machine.execSupplyHoldRelease r s
  | .undervolt mv => Sys2Proof.Machine.execUndervolt mv s
  | .paceConfirm mv => Sys2Proof.Machine.execPaceConfirm mv s
  | .paceConfirmTimeout mv => Sys2Proof.Machine.execPaceConfirmTimeout mv s
  | .paceCtlModeWrite v voutMode => Sys2Proof.Machine.execPaceCtlModeWrite v voutMode s
  | .pmAlertNAssert status => Sys2Proof.Machine.execPmAlertNAssert status s
  | .sensorConversion b t => Sys2Proof.Machine.execSensorConversion b t s
  | .railBackInWindow rail mv => Sys2Proof.Machine.execRailBackInWindow rail mv s
  | .rcWindowEnd count => Sys2Proof.Machine.execRcWindowEnd count s
  | .refinWindowEnd count256 => Sys2Proof.Machine.execRefinWindowEnd count256 s
  | .uplinkWindowEnd count256 => Sys2Proof.Machine.execUplinkWindowEnd count256 s
  | .activityMonitorFire src => Sys2Proof.Machine.execActivityMonitorFire src s
  | .refinCfgWrite v => Sys2Proof.Machine.execRefinCfgWrite v s
  | .refinFreqCommit hi => Sys2Proof.Machine.execRefinFreqCommit hi s
  | .refCtlSrcWrite r v => Sys2Proof.Machine.execRefCtlSrcWrite r v s
  | .refCtlBwWrite r v => Sys2Proof.Machine.execRefCtlBwWrite r v s
  | .muxChangeover r present => Sys2Proof.Machine.execMuxChangeover r present s
  | .muxWatchdog r present => Sys2Proof.Machine.execMuxWatchdog r present s
  | .relockFail p => Sys2Proof.Machine.execRelockFail p s
  | .holdoverLong r => Sys2Proof.Machine.execHoldoverLong r s
  | .borrowDelayExpiry r => Sys2Proof.Machine.execBorrowDelayExpiry r s
  | .rrpLocked r => Sys2Proof.Machine.execRrpLocked r s
  | .realigned r => Sys2Proof.Machine.execRealigned r s
  | .timeWrap r => Sys2Proof.Machine.execTimeWrap r s
  | .regionRealignTick r => Sys2Proof.Machine.execRegionRealignTick r s
  | .unitResetEnd scope index => Sys2Proof.Machine.execUnitResetEnd scope index s
  | .cellCtlEnSet p v => Sys2Proof.Machine.execCellCtlEnSet p v s
  | .cellCtlEnClear p v => Sys2Proof.Machine.execCellCtlEnClear p v s
  | .cellCtlOutEnSet p v => Sys2Proof.Machine.execCellCtlOutEnSet p v s
  | .cellCtlOutEnClear p v => Sys2Proof.Machine.execCellCtlOutEnClear p v s
  | .cellCtlMuteSet p v => Sys2Proof.Machine.execCellCtlMuteSet p v s
  | .cellCtlMuteClear p v => Sys2Proof.Machine.execCellCtlMuteClear p v s
  | .cellCtlHoldSet p v => Sys2Proof.Machine.execCellCtlHoldSet p v s
  | .cellCtlHoldClear p v => Sys2Proof.Machine.execCellCtlHoldClear p v s
  | .fcwIntCommit p v => Sys2Proof.Machine.execFcwIntCommit p v s
  | .lowDivCommit p v => Sys2Proof.Machine.execLowDivCommit p v s
  | .phaseHiCommit p v => Sys2Proof.Machine.execPhaseHiCommit p v s
  | .outCfgWrite p v => Sys2Proof.Machine.execOutCfgWrite p v s
  | .loopBwWrite p v => Sys2Proof.Machine.execLoopBwWrite p v s
  | .lockThrWrite p v => Sys2Proof.Machine.execLockThrWrite p v s
  | .lockCntWrite p v => Sys2Proof.Machine.execLockCntWrite p v s
  | .engCtlRun p v => Sys2Proof.Machine.execEngCtlRun p v s
  | .engCtlStop p v => Sys2Proof.Machine.execEngCtlStop p v s
  | .engCtlStep p v => Sys2Proof.Machine.execEngCtlStep p v s
  | .bandSearchEnd p found band fine => Sys2Proof.Machine.execBandSearchEnd p found band fine s
  | .bandSwitchSettled p => Sys2Proof.Machine.execBandSwitchSettled p s
  | .gearPeriodEnd p => Sys2Proof.Machine.execGearPeriodEnd p s
  | .slewPeriod p => Sys2Proof.Machine.execSlewPeriod p s
  | .dividerChangeover p => Sys2Proof.Machine.execDividerChangeover p s
  | .hopRetime p => Sys2Proof.Machine.execHopRetime p s
  | .retimeFirstRise p => Sys2Proof.Machine.execRetimeFirstRise p s
  | .toutMuteAtFall p => Sys2Proof.Machine.execToutMuteAtFall p s
  | .toutActiveAtAnchor p => Sys2Proof.Machine.execToutActiveAtAnchor p s
  | .toutDisableDelay p => Sys2Proof.Machine.execToutDisableDelay p s
  | .lockDeclared p fine pherr => Sys2Proof.Machine.execLockDeclared p fine pherr s
  | .lockLoss p pherr => Sys2Proof.Machine.execLockLoss p pherr s
  | .fineCodeRail p fine => Sys2Proof.Machine.execFineCodeRail p fine s
  | .acqTimeout p => Sys2Proof.Machine.execAcqTimeout p s
  | .hintStale p => Sys2Proof.Machine.execHintStale p s
  | .drvFault p legs => Sys2Proof.Machine.execDrvFault p legs s
  | .learnWriteback p => Sys2Proof.Machine.execLearnWriteback p s
  | .profileFetchComplete p soft => Sys2Proof.Machine.execProfileFetchComplete p soft s
  | .hopEffectEdge p => Sys2Proof.Machine.execHopEffectEdge p s
  | .arbiterGrant b => Sys2Proof.Machine.execArbiterGrant b s
  | .changeoverEdge b => Sys2Proof.Machine.execChangeoverEdge b s
  | .selectorSwitch b => Sys2Proof.Machine.execSelectorSwitch b s
  | .seatingTimeout b => Sys2Proof.Machine.execSeatingTimeout b s
  | .halt p => Sys2Proof.Machine.execHalt p s
  | .nop p => Sys2Proof.Machine.execNop p s
  | .hopInstr p => Sys2Proof.Machine.execHopInstr p s
  | .hopl p => Sys2Proof.Machine.execHopl p s
  | .waitc p => Sys2Proof.Machine.execWaitc p s
  | .waitt p => Sys2Proof.Machine.execWaitt p s
  | .waite p => Sys2Proof.Machine.execWaite p s
  | .sync p => Sys2Proof.Machine.execSync p s
  | .mark p => Sys2Proof.Machine.execMark p s
  | .phs p => Sys2Proof.Machine.execPhs p s
  | .seto p => Sys2Proof.Machine.execSeto p s
  | .loop p => Sys2Proof.Machine.execLoop p s
  | .endl p => Sys2Proof.Machine.execEndl p s
  | .jmp p => Sys2Proof.Machine.execJmp p s
  | .brl p => Sys2Proof.Machine.execBrl p s
  | .irq p => Sys2Proof.Machine.execIrq p s
  | .ext p => Sys2Proof.Machine.execExt p s
  | .illegalOpcode p => Sys2Proof.Machine.execIllegalOpcode p s
  | .engineRunaway p => Sys2Proof.Machine.execEngineRunaway p s
  | .engineLate p => Sys2Proof.Machine.execEngineLate p s
  | .waitTimeout p => Sys2Proof.Machine.execWaitTimeout p s
  | .heldRecordPost acq i0 => Sys2Proof.Machine.execHeldRecordPost acq i0 s
  | .tiuCtlArm t v => Sys2Proof.Machine.execTiuCtlArm t v s
  | .tiuCtlAbort t => Sys2Proof.Machine.execTiuCtlAbort t s
  | .gateCommit t hi => Sys2Proof.Machine.execGateCommit t hi s
  | .tiuPrecalDone t a1 a2 b1 b2 => Sys2Proof.Machine.execTiuPrecalDone t a1 a2 b1 b2 s
  | .tiuReadyAtTime t => Sys2Proof.Machine.execTiuReadyAtTime t s
  | .tiuSourceEdge t stop code => Sys2Proof.Machine.execTiuSourceEdge t stop code s
  | .tiuResult t => Sys2Proof.Machine.execTiuResult t s
  | .tiuTimeout t => Sys2Proof.Machine.execTiuTimeout t s
  | .evinCtlWrite i0 v => Sys2Proof.Machine.execEvinCtlWrite i0 v s
  | .thresholdWrite i0 hi v => Sys2Proof.Machine.execThresholdWrite i0 hi v s
  | .evinEnableSettle i0 => Sys2Proof.Machine.execEvinEnableSettle i0 s
  | .evinComparatorChange r slot chg => Sys2Proof.Machine.execEvinComparatorChange r slot chg s
  | .triggerQuietTime r slot n => Sys2Proof.Machine.execTriggerQuietTime r slot n s
  | .trigRegisterWrite r off v => Sys2Proof.Machine.execTrigRegisterWrite r off v s
  | .acqCtlArm r v => Sys2Proof.Machine.execAcqCtlArm r v s
  | .acqCtlStop r => Sys2Proof.Machine.execAcqCtlStop r s
  | .acqStartEdge r => Sys2Proof.Machine.execAcqStartEdge r s
  | .postTimeExpiry r => Sys2Proof.Machine.execPostTimeExpiry r s
  | .rearmEnd r => Sys2Proof.Machine.execRearmEnd r s
  | .gapClose r slot => Sys2Proof.Machine.execGapClose r slot s
  | .streamPacketSend r => Sys2Proof.Machine.execStreamPacketSend r s
  | .mbxPushWrite w => Sys2Proof.Machine.execMbxPushWrite w s
  | .mbxDoorbellWrite w => Sys2Proof.Machine.execMbxDoorbellWrite w s
  | .continuationResume tag => Sys2Proof.Machine.execContinuationResume tag s
  | .unknownOpcode tag => Sys2Proof.Machine.execUnknownOpcode tag s
  | .deadlineExpiry tag => Sys2Proof.Machine.execDeadlineExpiry tag s
  | .mpLockstep addr => Sys2Proof.Machine.execMpLockstep addr s
  | .mpRamEcc addr => Sys2Proof.Machine.execMpRamEcc addr s
  | .fabricDeadlock seg unit => Sys2Proof.Machine.execFabricDeadlock seg unit s
  | .registerScrub addr bad => Sys2Proof.Machine.execRegisterScrub addr bad s
  | .eccScrub r mem addr uncorr bad => Sys2Proof.Machine.execEccScrub r mem addr uncorr bad s
  | .mirrorWrite ok => Sys2Proof.Machine.execMirrorWrite ok s
  | .info tag => Sys2Proof.Machine.execInfo tag s
  | .reset tag => Sys2Proof.Machine.execReset tag s
  | .paceSet tag => Sys2Proof.Machine.execPaceSet tag s
  | .tempRead tag => Sys2Proof.Machine.execTempRead tag s
  | .refSelect tag => Sys2Proof.Machine.execRefSelect tag s
  | .refQualify tag => Sys2Proof.Machine.execRefQualify tag s
  | .rrpConfig tag => Sys2Proof.Machine.execRrpConfig tag s
  | .timeRead tag => Sys2Proof.Machine.execTimeRead tag s
  | .epochSet tag => Sys2Proof.Machine.execEpochSet tag s
  | .cellEnable tag => Sys2Proof.Machine.execCellEnable tag s
  | .profileWrite tag => Sys2Proof.Machine.execProfileWrite tag s
  | .profileRead tag soft => Sys2Proof.Machine.execProfileRead tag soft s
  | .hop tag => Sys2Proof.Machine.execHop tag s
  | .phaseSet tag => Sys2Proof.Machine.execPhaseSet tag s
  | .outConfig tag => Sys2Proof.Machine.execOutConfig tag s
  | .lockConfig tag => Sys2Proof.Machine.execLockConfig tag s
  | .cellStatus tag => Sys2Proof.Machine.execCellStatus tag s
  | .progLoad tag => Sys2Proof.Machine.execProgLoad tag s
  | .engineStart tag => Sys2Proof.Machine.execEngineStart tag s
  | .engineStop tag => Sys2Proof.Machine.execEngineStop tag s
  | .engineStatus tag => Sys2Proof.Machine.execEngineStatus tag s
  | .hoptablePartition tag => Sys2Proof.Machine.execHoptablePartition tag s
  | .partitionComplete r => Sys2Proof.Machine.execPartitionComplete r s
  | .planCheck tag => Sys2Proof.Machine.execPlanCheck tag s
  | .tiuConfig tag => Sys2Proof.Machine.execTiuConfig tag s
  | .tiuArm tag => Sys2Proof.Machine.execTiuArm tag s
  | .freqMeasure tag => Sys2Proof.Machine.execFreqMeasure tag s
  | .tiuRead tag => Sys2Proof.Machine.execTiuRead tag s
  | .evinConfig tag => Sys2Proof.Machine.execEvinConfig tag s
  | .trigConfig tag => Sys2Proof.Machine.execTrigConfig tag s
  | .acqArm tag => Sys2Proof.Machine.execAcqArm tag s
  | .acqStop tag => Sys2Proof.Machine.execAcqStop tag s
  | .acqRead tag soft => Sys2Proof.Machine.execAcqRead tag soft s
  | .acqStream tag => Sys2Proof.Machine.execAcqStream tag s
  | .calRun tag => Sys2Proof.Machine.execCalRun tag s
  | .calUnitMeasured b pinOk meas => Sys2Proof.Machine.execCalUnitMeasured b pinOk meas s
  | .calStatus tag => Sys2Proof.Machine.execCalStatus tag s
  | .calCommit tag => Sys2Proof.Machine.execCalCommit tag s
  | .calCommitWritten ok => Sys2Proof.Machine.execCalCommitWritten ok s
  | .calDeferredApply r => Sys2Proof.Machine.execCalDeferredApply r s
  | .calApplicationEdge r => Sys2Proof.Machine.execCalApplicationEdge r s
  | .calExport tag => Sys2Proof.Machine.execCalExport tag s
  | .calImportTh64 tag => Sys2Proof.Machine.execCalImportTh64 tag s
  | .bistRun tag => Sys2Proof.Machine.execBistRun tag s
  | .bistTestsDone b outs dur => Sys2Proof.Machine.execBistTestsDone b outs dur s
  | .offlineStart r => Sys2Proof.Machine.execOfflineStart r s
  | .offlineRestore r outs dur => Sys2Proof.Machine.execOfflineRestore r outs dur s
  | .bistResult tag => Sys2Proof.Machine.execBistResult tag s
  | .repairApply tag => Sys2Proof.Machine.execRepairApply tag s
  | .repairBurn tag => Sys2Proof.Machine.execRepairBurn tag s
  | .fuseEntryBurned ok => Sys2Proof.Machine.execFuseEntryBurned ok s
  | .idRead tag => Sys2Proof.Machine.execIdRead tag s
  | .certRead tag => Sys2Proof.Machine.execCertRead tag s
  | .hallmark tag => Sys2Proof.Machine.execHallmark tag s
  | .sessionOpen tag => Sys2Proof.Machine.execSessionOpen tag s
  | .sessionEnd tag => Sys2Proof.Machine.execSessionEnd tag s
  | .pinSet tag => Sys2Proof.Machine.execPinSet tag s
  | .protSet tag => Sys2Proof.Machine.execProtSet tag s
  | .protRead tag => Sys2Proof.Machine.execProtRead tag s
  | .lifecycleSet tag => Sys2Proof.Machine.execLifecycleSet tag s
  | .ownerTransfer tag => Sys2Proof.Machine.execOwnerTransfer tag s
  | .lifecycleWipeDone ok => Sys2Proof.Machine.execLifecycleWipeDone ok s
  | .treeScan tag found => Sys2Proof.Machine.execTreeScan tag found s
  | .treeStatus tag ans => Sys2Proof.Machine.execTreeStatus tag ans s
  | .treeTunnel tag joined => Sys2Proof.Machine.execTreeTunnel tag joined s
  | .regRead tag => Sys2Proof.Machine.execRegRead tag s
  | .regWrite tag => Sys2Proof.Machine.execRegWrite tag s
  | .loupe tag => Sys2Proof.Machine.execLoupe tag s
  | .faultLogRead tag => Sys2Proof.Machine.execFaultLogRead tag s
  | .fwInfo tag => Sys2Proof.Machine.execFwInfo tag s
  | .fwUpdateBegin tag => Sys2Proof.Machine.execFwUpdateBegin tag s
  | .fwUpdateData tag => Sys2Proof.Machine.execFwUpdateData tag s
  | .fwUpdateEnd tag => Sys2Proof.Machine.execFwUpdateEnd tag s
  | .nullFrame bits => Sys2Proof.Machine.execNullFrame bits s
  | .readFrame bits late => Sys2Proof.Machine.execReadFrame bits late s
  | .writeFrame bits => Sys2Proof.Machine.execWriteFrame bits s
  | .hostCfgWrite v => Sys2Proof.Machine.execHostCfgWrite v s
  | .claspWrite v => Sys2Proof.Machine.execClaspWrite v s
  | .rwcWrite addr v => Sys2Proof.Machine.execRwcWrite addr v s
  | .sqcRead addr => Sys2Proof.Machine.execSqcRead addr s
  | .sqcWriteBack addr v => Sys2Proof.Machine.execSqcWriteBack addr v s
  | .wo1Write addr v => Sys2Proof.Machine.execWo1Write addr v s
  | .bitAliasWrite addr v => Sys2Proof.Machine.execBitAliasWrite addr v s
  | .snapshotRead addr => Sys2Proof.Machine.execSnapshotRead addr s
  | .registerWrite addr v => Sys2Proof.Machine.execRegisterWrite addr v s
  | .flashCmdGo v resp eff => Sys2Proof.Machine.execFlashCmdGo v resp eff s
  | .flashDataWrite v => Sys2Proof.Machine.execFlashDataWrite v s
  | .flashSelWrite v => Sys2Proof.Machine.execFlashSelWrite v s
  | .flashCfgWrite v => Sys2Proof.Machine.execFlashCfgWrite v s
  | .flashWindowRead a => Sys2Proof.Machine.execFlashWindowRead a s
  | .flashWindowWrite a bytes => Sys2Proof.Machine.execFlashWindowWrite a bytes s
  | .flashWipPoll wip => Sys2Proof.Machine.execFlashWipPoll wip s
  | .signalDetect i0 => Sys2Proof.Machine.execSignalDetect i0 s
  | .blockLock i0 => Sys2Proof.Machine.execBlockLock i0 s
  | .identBlockReceive i0 serial3 role depth path => Sys2Proof.Machine.execIdentBlockReceive i0 serial3 role depth path s
  | .measureComplete i0 oneway asymInt => Sys2Proof.Machine.execMeasureComplete i0 oneway asymInt s
  | .invalidBlock i0 badHeader => Sys2Proof.Machine.execInvalidBlock i0 badHeader s
  | .lossOfSignal i0 => Sys2Proof.Machine.execLossOfSignal i0 s
  | .plCtlRetrain i0 => Sys2Proof.Machine.execPlCtlRetrain i0 s
  | .timeExchange i0 => Sys2Proof.Machine.execTimeExchange i0 s
  | .timeBlockReceive i0 t1 t2 t3 t4 parentAligned => Sys2Proof.Machine.execTimeBlockReceive i0 t1 t2 t3 t4 parentAligned s
  | .eventBlockReceive i0 m edge10 => Sys2Proof.Machine.execEventBlockReceive i0 m edge10 s
  | .eventDelivery m edge => Sys2Proof.Machine.execEventDelivery m edge s
  | .tevEdge i0 rising => Sys2Proof.Machine.execTevEdge i0 rising s
  | .epochBlockReceive value tl => Sys2Proof.Machine.execEpochBlockReceive value tl s
  | .joinBlockReceive boundary => Sys2Proof.Machine.execJoinBlockReceive boundary s
  | .joinBoundary parentTime diffPs => Sys2Proof.Machine.execJoinBoundary parentTime diffPs s
  | .tunnelFrameReceive i0 path up words => Sys2Proof.Machine.execTunnelFrameReceive i0 path up words s
  | .streamPacketReceive i0 path r strand lost words => Sys2Proof.Machine.execStreamPacketReceive i0 path r strand lost words s
  | .creditBlockReceive i0 n => Sys2Proof.Machine.execCreditBlockReceive i0 n s
  | .jtagInstructionUpdate code => Sys2Proof.Machine.execJtagInstructionUpdate code s
  | .th64CtlWrite r v => Sys2Proof.Machine.execTh64CtlWrite r v s
  | .powerOnResetRelease => Sys2Proof.Machine.execPowerOnResetRelease s
  | .rstNRelease => Sys2Proof.Machine.execRstNRelease s
  | .wipeEnd => Sys2Proof.Machine.execWipeEnd s
  | .xoQualTimeout => Sys2Proof.Machine.execXoQualTimeout s
  | .firmwareStart => Sys2Proof.Machine.execFirmwareStart s
  | .readyAssert => Sys2Proof.Machine.execReadyAssert s
  | .frstNRelease => Sys2Proof.Machine.execFrstNRelease s
  | .paceDrainEnd => Sys2Proof.Machine.execPaceDrainEnd s
  | .thermRelease => Sys2Proof.Machine.execThermRelease s
  | .hoursTick => Sys2Proof.Machine.execHoursTick s
  | .epochLoad => Sys2Proof.Machine.execEpochLoad s
  | .selfTestSlotGrant => Sys2Proof.Machine.execSelfTestSlotGrant s
  | .batchParse => Sys2Proof.Machine.execBatchParse s
  | .parseResume => Sys2Proof.Machine.execParseResume s
  | .mbxPopRead => Sys2Proof.Machine.execMbxPopRead s
  | .coalesceAgeExpiry => Sys2Proof.Machine.execCoalesceAgeExpiry s
  | .mpWatchdog => Sys2Proof.Machine.execMpWatchdog s
  | .mpRestart => Sys2Proof.Machine.execMpRestart s
  | .chipWatchdog => Sys2Proof.Machine.execChipWatchdog s
  | .logOverflow => Sys2Proof.Machine.execLogOverflow s
  | .pinFailDelayEnd => Sys2Proof.Machine.execPinFailDelayEnd s
  | .challengeExpiry => Sys2Proof.Machine.execChallengeExpiry s
  | .emptyFrame => Sys2Proof.Machine.execEmptyFrame s
  | .claspTimeout => Sys2Proof.Machine.execClaspTimeout s
  | .flashDataRead => Sys2Proof.Machine.execFlashDataRead s
  | .flashPollTimeout => Sys2Proof.Machine.execFlashPollTimeout s
  | .tunnelDeliver => Sys2Proof.Machine.execTunnelDeliver s
  | .tapReset => Sys2Proof.Machine.execTapReset s

end Sys2Proof.Machine
end

