-- ==== Sys2Proof/Safety.lean ====
section
/-! DEFINITION. What counts as a safe run of the block: a step answers a next state, never a fault and never
a refusal; and the invariants that the block's storage keeps. -/
namespace Sys2Proof.Machine
open Sys2Proof

/-- The step from s completes. -/
def Completes (s : State) : Prop := ∃ t, step s = .next t

/-- Every step of a run of n steps completes. -/
def SafeFor : Nat → State → Prop
  | 0, _ => True
  | n + 1, s => ∃ t, step s = .next t ∧ SafeFor n t

/-- The event memory, the banks that hold it and the strand headers of an acquisition engine are in canonical form (R216, R217). -/
abbrev AcqSt.memWf (a : AcqSt) : Prop := tabWf 0 a.mem.beads ∧ tabWf 0 a.mem.banks ∧ tabWf [] a.mem.headers

/-- Every memory is in canonical form: profiles (R90), hop tables (R118), flash (R316), the antifuse bank (R408) and the
event memories (R216). Equal memories are then equal data. -/
abbrev State.memWf (s : State) : Prop :=
  tabWf 0 s.profiles ∧ tabWf 0 s.hopTab ∧ tabWf 0xFF s.fl.mem ∧ tabWf 0 s.bist.fuse ∧ ∀ e ∈ s.acqs, e.2.memWf

/-- The records present and the reservations open fit the completion queue (R239). -/
abbrev State.cqWf (s : State) : Prop := s.mbx.cq.length + s.mbx.cmds.length ≤ 1024

/-- The fault FIFO holds at most 32 records and the log ring at most 256 (R441). -/
abbrev State.logWf (s : State) : Prop := s.flt.fifo.length ≤ 32 ∧ s.flt.ring.length ≤ 256

/-- What LOCKET holds from the factory on (R413): keys, certificate, serial number and origin. -/
def Locket.factory (l : Locket) : BitVec 256 × BitVec 512 × List Byte × BitVec 72 × BitVec 36 × Byte × Byte × Byte :=
  (l.priv, l.pub, l.cert, l.serial, l.lot, l.wafer, l.dieX, l.dieY)

end Sys2Proof.Machine
end

