-- ==== Sys2Proof/Certificates/Slice0/Obligations.lean ====
section
/-! DEFINITION. The statements for the provers, with the vocabulary they are written in. -/
namespace Sys2Proof.Claims
open Sys2Proof Sys2Proof.Machine

/-- Accepted command c of tag and opcode passes every check of its dispatch and meets no predecessor, fence, hold or
deadline (R232 to R236): it begins in this step. -/
def Begins (s : State) (tag op : Nat) (c : Cmd) : Prop :=
  findCmd s tag = some c ∧ c.opcode = op ∧ c.st = .accepted ∧ mayDispatch s c = true ∧ dispatchCheck s c = none
  ∧ deadlinePassed s c = false ∧ mustWait s c = false ∧ onHold s c = false

/-- The state in which a begun command executes. -/
def begun (s : State) (tag : Nat) : State := setCmd s tag (fun c => { c with st := .executing })

/-- The region is present and out of reset. -/
def Runs (s : State) (r : Nat) : Prop := regionPresent s r = true ∧ (s.region r).inReset = false

/-- The cell lies in a present region out of reset. -/
def CellRuns (s : State) (p : Nat) : Prop := cellPresent s p = true ∧ (s.region (cellRegion p)).inReset = false

/-- Channel cell p runs in a block whose spare is sound, free and claimed by nobody. -/
def SpareReady (s : State) (p : Nat) : Prop :=
  p < 256 ∧ CellRuns s p ∧ (s.block (cellBlock p)).seating = none ∧ (s.block (cellBlock p)).seated = none
  ∧ (s.block (cellBlock p)).recover = none ∧ (s.block (cellBlock p)).holder = none ∧ (s.block (cellBlock p)).spareFaulty = false
  ∧ (s.block (cellBlock p)).offline = false ∧ (s.mem (cellRegion p)).offline = false
  ∧ cellIdx p ∉ (s.block (cellBlock p)).lost ∧ s.cal.runs = [] ∧ s.bist.runs = []

/-- The spare of p's block is being seated for p on behalf of fault recovery (R115). -/
def SeatingFor (t : State) (p : Nat) : Prop :=
  (t.block (cellBlock p)).seating.map (fun q => (q.c, q.req, q.ret)) = some (cellIdx p, .fault, false)

/-- Only the cells change, and of them only cell p. -/
def OnlyCell (s t : State) (p : Nat) : Prop := { t with cells := s.cells } = s ∧ ∀ q, q ≠ p → t.cell q = s.cell q

/-- Only the engine of cell p changes. -/
def EngineOnly (s t : State) (p : Nat) : Prop := OnlyCell s t p ∧ t.cell p = { s.cell p with eng := (t.cell p).eng }

/-- The engine of cell p runs, its schedule edge has come, and it stands in its partition at a word of opcode o, prepared
or sound, behind no more EXT words than o takes; v is the operand of the chain (R121 to R124, R145). -/
def EngAt (s : State) (p o v : Nat) : Prop :=
  (s.cell p).eng.st = .running ∧ (s.cell p).eng.noAdv < 4096 ∧ (s.cell p).eng.s ≤ nowEdge s p ∧ (s.cell p).eng.pc < engLen s p
  ∧ (curPrepared s p = true ∨ s.flt.badWords.contains (10, hopKey s p (s.cell p).eng.pc) = false)
  ∧ engOpc (curWord s p) = o ∧ (s.cell p).eng.extN ≤ extAllowed o
  ∧ (s.cell p).eng.ext * 2 ^ 13 + engArg (curWord s p) = v

/-- An action of cell p is on its edge, and its preparation began early enough to be in time (R33, R127). -/
def Due (s : State) (p : Nat) : Prop :=
  (s.cell p).eng.s = nowEdge s p ∧ ∀ e, (s.cell p).eng.prepFrom = some e → e + 1 < (s.cell p).eng.s

/-- The engine of cell p has gone on to the next word with its schedule edge advanced by k and no EXT words pending (R124). -/
def Moved (s t : State) (p k : Nat) : Prop :=
  (t.cell p).eng.pc = (s.cell p).eng.pc + 1 ∧ (t.cell p).eng.s = (s.cell p).eng.s + k ∧ (t.cell p).eng.ext = 0 ∧ (t.cell p).eng.extN = 0

/-- Command c is answered with a status and results: it is out of execution, and its record, when it came through the
host port, is the queue's last (R237, R238). -/
def Answered (s t : State) (c : Cmd) (status : Nat) (res : List Word) : Prop :=
  t.mbx.cmds = s.mbx.cmds.filter (fun x => x.tag != c.tag)
  ∧ (c.tun = false → t.mbx.cq = s.mbx.cq ++ [cmdRecord c (finalStatus c status) false res])

/-- Only TIU t changes. -/
def OnlyTiu (s u : State) (t : Nat) : Prop := { u with tius := s.tius } = s ∧ ∀ k, k ≠ t → u.tiu k = s.tiu k

/-- Only event input i changes. -/
def OnlyEvin (s t : State) (i : Nat) : Prop := { t with evins := s.evins } = s ∧ ∀ k, k ≠ i → t.evin k = s.evin k

/-- Only port i changes. -/
def OnlyPort (s t : State) (i : Nat) : Prop := { t with ports := s.ports } = s ∧ ∀ k, k ≠ i → t.port k = s.port k

/-- The host port serves frames, and no HOST_CFG value waits for a release. -/
def Serves (s : State) : Prop := portServes s = true ∧ s.hp.next = none

/-- The register at address a is present, and the host's session reaches it. -/
def Open (s : State) (a : Nat) : Prop :=
  regPresent s (locate s.hp.strict a) = true ∧ writeDenied (locate s.hp.strict a) s.sec.host = false
  ∧ regReach s (locate s.hp.strict a) = .ok

/-- The place is a whole register, no bit alias. -/
def whole : Reg → Bool
  | .bit _ _ => false
  | _ => true

/-- Tag and opcode of the rows that are Hitan commands (R246). -/
def hitanOp : Instr → Option (Nat × Nat)
  | .info tag => some (tag, 0x001)
  | .reset tag => some (tag, 0x002)
  | .paceSet tag => some (tag, 0x003)
  | .tempRead tag => some (tag, 0x004)
  | .refSelect tag => some (tag, 0x010)
  | .refQualify tag => some (tag, 0x011)
  | .rrpConfig tag => some (tag, 0x012)
  | .timeRead tag => some (tag, 0x013)
  | .epochSet tag => some (tag, 0x014)
  | .cellEnable tag => some (tag, 0x020)
  | .profileWrite tag => some (tag, 0x021)
  | .profileRead tag _ => some (tag, 0x022)
  | .hop tag => some (tag, 0x023)
  | .phaseSet tag => some (tag, 0x024)
  | .outConfig tag => some (tag, 0x025)
  | .lockConfig tag => some (tag, 0x026)
  | .cellStatus tag => some (tag, 0x027)
  | .progLoad tag => some (tag, 0x030)
  | .engineStart tag => some (tag, 0x031)
  | .engineStop tag => some (tag, 0x032)
  | .engineStatus tag => some (tag, 0x033)
  | .hoptablePartition tag => some (tag, 0x034)
  | .planCheck tag => some (tag, 0x038)
  | .tiuConfig tag => some (tag, 0x040)
  | .tiuArm tag => some (tag, 0x041)
  | .freqMeasure tag => some (tag, 0x042)
  | .tiuRead tag => some (tag, 0x043)
  | .evinConfig tag => some (tag, 0x050)
  | .trigConfig tag => some (tag, 0x051)
  | .acqArm tag => some (tag, 0x052)
  | .acqStop tag => some (tag, 0x053)
  | .acqRead tag _ => some (tag, 0x054)
  | .acqStream tag => some (tag, 0x055)
  | .calRun tag => some (tag, 0x060)
  | .calStatus tag => some (tag, 0x061)
  | .calCommit tag => some (tag, 0x062)
  | .calExport tag => some (tag, 0x063)
  | .calImportTh64 tag => some (tag, 0x064)
  | .bistRun tag => some (tag, 0x070)
  | .bistResult tag => some (tag, 0x071)
  | .repairApply tag => some (tag, 0x072)
  | .repairBurn tag => some (tag, 0x073)
  | .idRead tag => some (tag, 0x080)
  | .certRead tag => some (tag, 0x081)
  | .hallmark tag => some (tag, 0x082)
  | .sessionOpen tag => some (tag, 0x083)
  | .sessionEnd tag => some (tag, 0x084)
  | .pinSet tag => some (tag, 0x085)
  | .protSet tag => some (tag, 0x086)
  | .protRead tag => some (tag, 0x087)
  | .lifecycleSet tag => some (tag, 0x088)
  | .ownerTransfer tag => some (tag, 0x089)
  | .treeScan tag _ => some (tag, 0x090)
  | .treeStatus tag _ => some (tag, 0x091)
  | .treeTunnel tag _ => some (tag, 0x092)
  | .regRead tag => some (tag, 0x0A0)
  | .regWrite tag => some (tag, 0x0A1)
  | .loupe tag => some (tag, 0x0A2)
  | .faultLogRead tag => some (tag, 0x0A3)
  | .fwInfo tag => some (tag, 0x0B0)
  | .fwUpdateBegin tag => some (tag, 0x0B1)
  | .fwUpdateData tag => some (tag, 0x0B2)
  | .fwUpdateEnd tag => some (tag, 0x0B3)
  | _ => none

/-- The target of a tree command that no device answers at (R6, R362; TREE_TUNNEL's own check of a DN port goes first). -/
def unreached : Instr → State → Cmd → Bool
  | .treeStatus _ ans, s, c => decide (tgtScope c.target = 6) && (decide (ans = []) || pathAbsent s c)
  | .treeTunnel _ joined, s, c => ! (runDn s).isEmpty && (! joined || pathAbsent s c)
  | _, _, _ => false

end Sys2Proof.Claims

open Sys2Proof Sys2Proof.Machine Sys2Proof.Claims

/-- For every command c and state s, a step of s with c at the front of its queue is exec of c on s with the queue's
rest; a step on an empty queue answers the idle edge of log entry 1 (the model's choice). -/
def Obligations.StepTakesTheFrontCommand : Prop :=
  (∀ (c : Instr) (s : State) (rest : List Instr),
    step { s with pending := c :: rest } = exec c { s with pending := rest })
  ∧ (∀ s : State, step { s with pending := [] } = .next (idleEdge { s with pending := [] }))

/-- In State.reset the queue is empty, the chip is held in reset with phase RESET and pace level P2, every region is
in reset on the XO with source register 0, the cells hold N = 10, D = 2, L = 1 and fine code 0x20000 with
CELL_CTL hint_en only, the TIUs hold TIMEOUT 0x00100, the CLASP is SHUT, HOST_CFG is one lane with latency 16
and 18-bit words, the mailbox is empty and memories read zero. -/
def Obligations.ResetLeavesTheStatedValues : Prop :=
  State.reset.pending = [] ∧ State.reset.pwr.phase = .reset ∧ State.reset.pwr.readyPin = false
  ∧ State.reset.pace.level = 2 ∧ State.reset.pace.st = .steady
  ∧ (∀ r, (State.reset.region r).inReset = true ∧ (State.reset.region r).srcReg = .xo ∧ (State.reset.region r).rrp = .off
      ∧ (State.reset.region r).time = 0)
  ∧ (∀ p, (State.reset.cell p).vals.freq = { mode := false, n := 10, f := 0, k := 0, m := 2 }
      ∧ (State.reset.cell p).vals.d = 2 ∧ (State.reset.cell p).vals.l = 1 ∧ (State.reset.cell p).loop.fine = 0x20000
      ∧ (State.reset.cell p).cfg.ctl = { hintEn := true } ∧ (State.reset.cell p).eng.st = .stopped)
  ∧ (∀ t, (State.reset.tiu t).cfg.timeout = 0x100 ∧ (State.reset.tiu t).st = .idle)
  ∧ State.reset.hc.clasp = .shut ∧ State.reset.hc.irqEnable = 1
  ∧ State.reset.hp.lanes = false ∧ State.reset.hp.lat = 16 ∧ State.reset.hp.wlen = 18 ∧ State.reset.hp.prev = 7
  ∧ State.reset.mbx.cmds = [] ∧ State.reset.mbx.cq = [] ∧ State.reset.flt.fifo = []
  ∧ (∀ a, tabGet 0 State.reset.profiles a = 0 ∧ tabGet 0 State.reset.hopTab a = 0)

/-- RST_N low for 100 ns or more, a brown-out of a rail other than a VDDA_DCO segment, the chip watchdog while an MP
restart is in progress, and a begun RESET at chip scope each answer a next state held in reset: every register,
memory, queue, session and CLASP as after reset, but the calibration store, LOCKET with its lifetime counters,
the antifuse bank, the flash, the fuses and the mirror position unchanged; the power-on fields of PACE_CTL and
the JTAG instruction register stay unless the cause is a brown-out. Below 20 ns RST_N does nothing; between 20
and 100 ns either outcome is whole (log entry 8). The TEV pin levels and the voltages at the event inputs are
outside and stay. -/
def Obligations.ChipResetsKeepOnlyWhatTheyMay : Prop :=
  let Kept := fun (s t : State) =>
    { t with pace := {}, pwr := {}, pins := {}, free := 0 } =
      { State.reset with pending := s.pending, fuses := s.fuses, lk := s.lk, cal := keepCal s.cal,
                         bist.fuse := s.bist.fuse, fl.mem := s.fl.mem, flt.mirrorPos := s.flt.mirrorPos,
                         evins := tabMap {} (fun _ e => { volt := e.volt }) s.evins }
    ∧ t.pwr.phase = .reset ∧ t.pwr.readyPin = false ∧ t.pwr.wiped = false ∧ t.pins.tev = s.pins.tev
  let Warm := fun (s t : State) =>
    t.pace.pmbAddr = s.pace.pmbAddr ∧ t.pace.pec = s.pace.pec ∧ t.pace.mode = s.pace.mode ∧ t.pins.jtag = s.pins.jtag
  (∀ (ns : Nat) (s : State), 100 ≤ ns → ∃ t, exec (.rstNAssert ns) s = .next t ∧ Kept s t ∧ Warm s t ∧ t.pwr.rstLow = true)
  ∧ (∀ (ns : Nat) (s : State), ns < 20 → exec (.rstNAssert ns) s = .next s)
  ∧ (∀ (ns : Nat) (s : State), 20 ≤ ns → ns < 100 →
      ∃ t, exec (.rstNAssert ns) s = .next t ∧ (t = s.tick ∨ (Kept s t ∧ Warm s t ∧ t.pwr.rstLow = true)))
  ∧ (∀ (rail : Nat) (s : State), rail = 0 ∨ (5 ≤ rail ∧ rail ≤ 8) →
      ∃ t, exec (.brownOut rail) s = .next t ∧ Kept s t ∧ t.pwr.porHeld = true ∧ t.pace.mode = false ∧ t.pace.pmbAddr = 0x40
        ∧ t.pins.jtag = 0x02)
  ∧ (∀ s : State, s.mbx.mpRestart = true → s.pwr.phase ≠ .reset →
      ∃ t, exec .chipWatchdog s = .next t ∧ Kept s t ∧ Warm s t ∧ t.pwr.latch = 2)
  ∧ (∀ (s : State) (tag : Nat) (c : Cmd), Begins s tag 0x002 c → tgtScope c.target = 0 → s.pwr.phase ≠ .reset →
      ∃ t, exec (.reset tag) s = .next t ∧ Kept s t ∧ Warm s t ∧ t.pwr.latch = 3)

/-- With nothing else holding reset, POWER_ON_RESET_RELEASE and RST_N_RELEASE begin step 1: VID shows P2 and its
confirmation is awaited. FRST_N_RELEASE while the ROM runs raises FRST_N, and in step 2 the wipe begins.
WIPE_END opens the host port and, with no life-cycle wipe pending and a declared XO frequency in range, starts
the XO; the XO time-out stops start-up with reason 2. FIRMWARE_START with an acceptable image in a slot goes to
INIT with that slot, and with none, or in BLANK, enters recovery. READY_ASSERT with every present region out of
reset or held raises READY in phase READY. -/
def Obligations.StartUpRunsItsStepsInOrder : Prop :=
  (∀ s : State, s.pwr.porHeld = true → s.pwr.phase = .reset → s.pwr.rstLow = false →
      exec .powerOnResetRelease s = .next { s with
        pwr.porHeld := false, pace := { s.pace.drive 2 with level := 2, target := 2, limits := 2, st := .confirm } })
  ∧ (∀ s : State, s.pwr.rstLow = true → s.pwr.phase = .reset → s.pwr.porHeld = false →
      exec .rstNRelease s = .next { s with
        pwr.rstLow := false, pace := { s.pace.drive 2 with level := 2, target := 2, limits := 2, st := .confirm } })
  ∧ (∀ s : State, s.pwr.romRun = true → s.pwr.frstHigh = false → s.pwr.phase ≠ .rom →
      exec .frstNRelease s = .next { s with pwr.frstHigh := true })
  ∧ (∀ s : State, s.pwr.romRun = true → s.pwr.frstHigh = false → s.pwr.phase = .rom →
      ∃ t, exec .frstNRelease s = .next t ∧ t.pwr.frstHigh = true ∧ t.pwr.phase = .wipe ∧ t.regions = s.regions ∧ t.cells = s.cells
        ∧ t.mbx = s.mbx ∧ t.fl = s.fl ∧ t.lk = s.lk)
  ∧ (∀ s : State, s.pwr.phase = .wipe → s.lk.wipe = false → 40000 ≤ s.boot.xoKhz → s.boot.xoKhz ≤ 60000 →
      exec .wipeEnd s = .next { s with pwr.wiped := true, ref.xoOn := true, pwr.phase := .xoQual })
  ∧ (∀ s : State, s.pwr.phase = .xoQual → exec .xoQualTimeout s = .next { s with pwr.phase := .stopped, pwr.stop := 2 })
  ∧ (∀ s : State, s.pwr.phase = .fwLoad → s.lk.lc = 0 →
      ∃ t, exec .firmwareStart s = .next t ∧ t.pwr.phase = .recovery ∧ t.regions = s.regions ∧ t.cells = s.cells ∧ t.lk = s.lk)
  ∧ (∀ s : State, s.pwr.phase = .fwLoad → s.lk.lc ≠ 0 → s.boot.flags.getLsbD 0 = false →
      ∃ t, exec .firmwareStart s = .next t ∧ t.pwr.phase = (if s.boot.order.any (imageOk s) then .init else .recovery)
        ∧ t.boot.slot = (s.boot.order.find? (imageOk s)).or s.boot.slot)
  ∧ (∀ s : State, s.pwr.phase = .init → regionsReady s = true →
      ∃ t, exec .readyAssert s = .next t ∧ t.pwr.phase = .ready ∧ t.pwr.readyPin = true)

/-- A VDDA_DCO brown-out of a present region puts that region alone into reset with state SUPPLY_HOLD. A rail
leaving its window is recorded, and coming back clears it. SUPPLY_HOLD_RELEASE after start-up lets the region
leave reset, or leaves it THERM_HOLD while a thermal shutdown is in force. A sensor conversion within limits
enters the history of its block, whose filtered Tj is the rounded mean of up to 16. THERM_RELEASE below the
release temperature ends the shutdown. -/
def Obligations.SuppliesAndTemperatureHoldRegions : Prop :=
  (∀ (r : Nat) (s : State), regionPresent s r = true → s.pwr.phase ≠ .reset → (s.region r).run ≠ .supplyHold →
      ∃ t, exec (.dcoSupply r) s = .next t ∧ (t.region r).run = .supplyHold ∧ (t.region r).inReset = true ∧ t.lk.lc = s.lk.lc
        ∧ t.fuses = s.fuses ∧ t.fl = s.fl)
  ∧ (∀ (rail mv : Nat) (s : State), rail < 9 → s.pwr.phase ≠ .reset → rail ∉ s.pwr.railOut →
      ∃ t, exec (.supplyWindow rail mv) s = .next t ∧ t.pwr = { s.pwr with railOut := s.pwr.railOut ++ [rail] }
        ∧ t.cells = s.cells ∧ t.regions = s.regions ∧ t.mbx = s.mbx)
  ∧ (∀ (rail mv : Nat) (s : State), exec (.railBackInWindow rail mv) s = .next { s with
        pace.vmon := if rail = 0 then min mv 1023 else s.pace.vmon, pwr.railOut := s.pwr.railOut.filter (fun x => x != rail) })
  ∧ (∀ (r : Nat) (s : State), (s.region r).run = .supplyHold → s.pwr.thermShut = true →
      exec (.supplyHoldRelease r) s = .next (s.updRegion r (fun g => { g with run := .thermHold })))
  ∧ (∀ (r : Nat) (s : State), (s.region r).run = .supplyHold → s.pwr.thermShut = false → started s = true →
      ∃ t, exec (.supplyHoldRelease r) s = .next t ∧ (t.region r).inReset = false ∧ (t.region r).run = .realign
        ∧ (t.region r).rrp = .acquiring)
  ∧ (∀ (b : Nat) (v : Int) (s : State), blockPresent s b = true → s.pwr.phase ≠ .reset →
      ∃ t, exec (.sensorConversion b v) s = .next t
        ∧ (t.block b).tjHist = ((v + (facVal s.cal.factory 0x20 b 31).getD 0 0) :: (s.block b).tjHist).take 16)
  ∧ (∀ s : State, s.pwr.thermShut = true → hottest (goodTemps s) < 1840 → started s = false →
      ∃ t, exec .thermRelease s = .next t ∧ t.pwr.thermShut = false ∧ t.cells = s.cells ∧ t.mbx = s.mbx)

/-- A begun PACE_SET in a steady state to another level starts the transition and keeps its tag, and to the level in
force completes OK with the level. On the way up a PACE_CONFIRM at the target ends the transition at it with
event 0; with no other request waiting a time-out of the confirmation drives VID back to the level that was in
force and keeps it. On the way down the drain's end drives VID, and a time-out ends at the target with events 0
and 2. UNDERVOLT takes the admission limits to P0. PACE_CTL, written in an Owner session, takes its fields at
once in a steady state. PM_ALERT in PMBus mode keeps the status word. In reset a confirmation of the level
starts the boot ROM. -/
def Obligations.PaceTransitionsFollowTheSequencer : Prop :=
  (∀ (s : State) (tag : Nat) (c : Cmd), Begins s tag 0x003 c → slotHeld s = false → s.pace.st = .steady →
      fld (c.arg 0) 0 2 ≠ s.pace.level →
      exec (.paceSet tag) s = .next { begun s tag with
        pace := { s.pace with pendingLevel := none, tag := some tag }.begin (fld (c.arg 0) 0 2) })
  ∧ (∀ (s : State) (tag : Nat) (c : Cmd), Begins s tag 0x003 c → slotHeld s = false → s.pace.st = .steady →
      fld (c.arg 0) 0 2 = s.pace.level →
      exec (.paceSet tag) s = .next (complete { begun s tag with pace.pendingLevel := none, pace.tag := none } tag OK [wd s.pace.level]))
  ∧ (∀ (mv : Nat) (s : State), s.pwr.phase ≠ .reset → s.pace.st = .confirm → paceMv s.pace.target ≤ mv + 15 →
      s.pace.forTest = false → s.pace.modeWait = none → s.pace.tag = none → s.pace.pendingLevel = none →
      exec (.paceConfirm mv) s = .next { s with
        bist.paceHold := s.bist.paceHold && slotHeld s,
        pace := { s.pace with vmon := min mv 1023, level := s.pace.target, limits := s.pace.target, st := .steady, resume := none,
                              events := s.pace.events.post 1 } })
  ∧ (∀ (mv : Nat) (s : State), s.pwr.phase = .reset → s.pace.st = .confirm → paceMv s.pace.target ≤ mv + 15 → s.lk.badItem = none →
      s.bist.fuse = [] →
      ∃ t, exec (.paceConfirm mv) s = .next t ∧ t.pwr.phase = .rom ∧ t.pwr.cause = s.pwr.latch ∧ t.pwr.romRun = true)
  ∧ (∀ (mv : Nat) (s : State), s.pwr.phase ≠ .reset → s.pace.st = .voltDown →
      s.pace.forTest = false → s.pace.modeWait = none → s.pace.tag = none → s.pace.pendingLevel = none →
      exec (.paceConfirmTimeout mv) s = .next { s with
        bist.paceHold := s.bist.paceHold && slotHeld s,
        pace := { s.pace with vmon := min mv 1023, level := s.pace.target, limits := s.pace.target, st := .steady, resume := none,
                              events := s.pace.events.post 5 } })
  ∧ (∀ (mv : Nat) (s : State), s.pwr.phase ≠ .reset → s.pace.st = .confirm → s.pace.modeWait = none →
      s.pace.pendingLevel = none →
      ∃ t, exec (.paceConfirmTimeout mv) s = .next t ∧ t.pace.level = s.pace.level ∧ t.pace.vid = some s.pace.level)
  ∧ (∀ (mv : Nat) (s : State), s.pwr.phase ≠ .reset → s.pace.st ≠ .undervolt →
      ∃ t, exec (.undervolt mv) s = .next t ∧ t.pace = { s.pace with
        vmon := min mv 1023, limits := 0, resume := some s.pace.st, st := .undervolt, events := s.pace.events.postBit 1 })
  ∧ (∀ s : State, s.pace.st = .limitsDown →
      exec .paceDrainEnd s = .next { s with pace := { s.pace.drive s.pace.target with st := .voltDown } })
  ∧ (∀ (v : Word) (a : Option Byte) (s : State), 2 ≤ s.sec.host → s.pace.st = .steady → v.getLsbD 0 = s.pace.mode →
      exec (.paceCtlModeWrite v a) s = .next { s.parityFresh 0x18400 with pace := { s.pace with pmbAddr := v.extractLsb' 4 7, pec := v.getLsbD 1 } })
  ∧ (∀ (x : Byte) (v : Word) (s : State), 2 ≤ s.sec.host → s.pace.st = .steady → s.pace.mode = false → v.getLsbD 0 = true → x.toNat < 32 →
      ∃ t, exec (.paceCtlModeWrite v (some x)) s = .next t ∧ t.pace.mode = true ∧ t.pace.vout = some (voutOf (sgn x.toNat 5) s.pace.level))
  ∧ (∀ (w : BitVec 16) (s : State), s.pace.mode = true → s.pwr.phase ≠ .reset →
      ∃ t, exec (.pmAlertNAssert w) s = .next t ∧ t.pace.alert = w ∧ t.pace.events = s.pace.events.postBit 4)

/-- A begun INFO completes OK with the part, stepping, variant, firmware version and start-up state, and a begun
TEMP_READ with the hottest sensor of its scope, its block and the warning bit. A begun RESET at cell scope in a
running region, in a block without seating, cell period or run, leaves the cell in service with a freshly reset
engine and stays in execution; UNIT_RESET_END of a scope below the region completes it OK, or FAULT for a TIU
that is out of use. RESET at region scope puts the region into reset, and UNIT_RESET_END lets it leave. -/
def Obligations.SystemCommandsAnswer : Prop :=
  (∀ (s : State) (tag : Nat) (c : Cmd), Begins s tag 0x001 c →
      exec (.info tag) s = .next (complete (begun s tag) tag OK
        [idPart, s.fuses.stepping, s.fuses.variant, s.boot.version, readyState s]))
  ∧ (∀ (s : State) (tag : Nat) (c : Cmd), Begins s tag 0x004 c → tgtScope c.target = 2 →
      exec (.tempRead tag) s = .next (complete (begun s tag) tag OK
        [BitVec.ofInt 18 (s.block c.unit).tj, wd c.unit, wd (b2n s.pwr.thermWarn)]))
  ∧ (∀ (s : State) (tag : Nat) (c : Cmd), Begins s tag 0x002 c → tgtScope c.target = 1 →
      ∃ t, exec (.reset tag) s = .next t ∧ (t.region c.unit).inReset = true ∧ (t.region c.unit).resetTag = some tag)
  ∧ (∀ (r : Nat) (s : State), (s.region r).inReset = true → (s.region r).run = .reset → started s = true →
      ∃ t, exec (.unitResetEnd 1 r) s = .next t ∧ (t.region r).inReset = false ∧ (t.region r).run = .realign)
  ∧ (∀ (sc i : Nat) (s : State) (c : Cmd), sc ≠ 1 → (targetRegion c.target).any (fun r => (s.region r).inReset) = false →
      s.mbx.cmds.find? (fun c => decide (c.opcode = 0x002) && decide (c.st = .executing) && decide (c.target = unitWord sc i)) = some c →
      exec (.unitResetEnd sc i) s = .next (complete s c.tag (if sc = 4 ∧ (s.tiu i).st = .outOfUse then FAULT else OK) []))
  ∧ (∀ (s : State) (tag : Nat) (c : Cmd), Begins s tag 0x002 c → tgtScope c.target = 3 →
      (s.region (cellRegion c.unit)).inReset = false → (s.block (cellBlock c.unit)).seating = none →
      (s.block (cellBlock c.unit)).holdCell = none → s.bist.runs = [] → s.cal.runs = [] →
      ∃ t, exec (.reset tag) s = .next t ∧ (t.cell (inService s c.unit)).eng = {} ∧ findCmd t tag = findCmd (begun s tag) tag)

/-- With a declared XO of 50,000 kHz a window within 5 percent of 81,920 counts is kept, at most four, and qualifies
the XO when four lie within 100 ppm of each other; a window outside drops them and the qualification. A REFIN
or, while the UP port runs, UPLINK window is judged against its expected count: within 20 ppm it is kept, at
most three, and three within 1 ppm qualify; a window outside drops them and takes a source that was QUALIFIED or
LOST to LOST and any other to FAILED. That a good window short of qualification takes FAILED to COUNTING and
leaves LOST as it is, is the model's choice (log entry 59). An activity monitor takes its qualified source away
at once. A write of REFIN_CFG or REFIN_FREQ in an Owner session that changes the value in force starts REFIN
qualification afresh; one that writes the value in force changes nothing else; a frequency out of range only
sets freq_err and is reported as ignored; a write in a lower session is denied. -/
def Obligations.SourceWindowsQualifyAndLose : Prop :=
  (∀ (n : Nat) (s : State), s.ref.xoOn = true → s.ref.xoFreq = 50000 → 77824 ≤ n → n ≤ 86016 →
      ∃ t, exec (.rcWindowEnd n) s = .next t ∧ t.ref.xoActive = true ∧ t.ref.xoWin = (n :: s.ref.xoWin).take 4
        ∧ (t.ref.xoQual = true ↔ s.ref.xoQual = true
            ∨ (((n :: s.ref.xoWin).take 4).length = 4 ∧ spread ((n :: s.ref.xoWin).take 4) ≤ 8)))
  ∧ (∀ (n : Nat) (s : State), s.ref.xoOn = true → s.ref.xoFreq = 50000 → n < 77824 ∨ 86016 < n →
      ∃ t, exec (.rcWindowEnd n) s = .next t ∧ t.ref.xoWin = [] ∧ t.ref.xoQual = false)
  ∧ (∀ (n : Nat) (s : State), s.ref.refinEn = true → s.ref.xoQual = true → s.ref.refinFreq ≠ 0 →
      ∃ t, exec (.refinWindowEnd n) s = .next t
        ∧ (t.ref.refinWin, t.ref.refinState) = judgeWindow (refExpect s (s.ref.refinFreq.toNat : Nat)) n s.ref.refinWin s.ref.refinState)
  ∧ (∀ (n : Nat) (s : State), s.ref.upState ≠ 0 → s.ref.xoQual = true → (s.port 0).st = .run →
      ∃ t, exec (.uplinkWindowEnd n) s = .next t
        ∧ (t.ref.upWin, t.ref.upState) = judgeWindow (refExpect s (322265625 / 2)) n s.ref.upWin s.ref.upState)
  ∧ (∀ s : State, ∃ t, exec (.activityMonitorFire 0) s = .next t ∧ t.ref.xoActive = false ∧ t.ref.xoQual = false)
  ∧ (∀ s : State, s.ref.refinState = 3 →
      ∃ t, exec (.activityMonitorFire 1) s = .next t ∧ t.ref.refinState = 5 ∧ t.ref.refinWin = [] ∧ t.ref.xoQual = s.ref.xoQual)
  ∧ (∀ s : State, s.ref.upState = 3 →
      ∃ t, exec (.activityMonitorFire 2) s = .next t ∧ t.ref.upState = 5 ∧ t.ref.upWin = [] ∧ t.ref.xoQual = s.ref.xoQual)
  ∧ (∀ (e : Rat) (n : Nat) (w : List Nat) (st : Nat), (n : Rat) - e ≤ e * 20 / 1000000 → e - (n : Rat) ≤ e * 20 / 1000000 →
      (judgeWindow e n w st).1 = (n :: w).take 3
      ∧ ((judgeWindow e n w st).2 = 3 ↔ st = 3
          ∨ (((n :: w).take 3).length = 3 ∧ ((spread ((n :: w).take 3) : Nat) : Rat) ≤ e / 1000000)))
  ∧ (∀ (e : Rat) (n : Nat) (w : List Nat) (st : Nat), e * 20 / 1000000 < (n : Rat) - e ∨ e * 20 / 1000000 < e - (n : Rat) →
      judgeWindow e n w st = ([], if st = 3 ∨ st = 5 then 5 else 4))
  ∧ (∀ (v : Word) (s : State), 2 ≤ s.sec.host → fld v 0 3 ≠ (refinCfg s).toNat →
      ∃ t, exec (.refinCfgWrite v) s = .next t ∧ t.ref.refinEn = v.getLsbD 0 ∧ t.ref.refinSe = v.getLsbD 1
        ∧ t.ref.refinTerm = v.getLsbD 2 ∧ t.ref.refinWin = []
        ∧ t.ref.refinState = (if v.getLsbD 0 then (if s.ref.xoQual then 2 else 1) else 0))
  ∧ (∀ (v : Word) (s : State), 2 ≤ s.sec.host → fld v 0 3 = (refinCfg s).toNat →
      exec (.refinCfgWrite v) s = .next (s.parityFresh 0x18002))
  ∧ (∀ (hi : Word) (s : State), 2 ≤ s.sec.host → refinFreqOk (hi ++ s.ref.refinLo).toNat = true →
      hi ++ s.ref.refinLo ≠ s.ref.refinFreq →
      ∃ t, exec (.refinFreqCommit hi) s = .next t ∧ t.ref.refinFreq = hi ++ s.ref.refinLo ∧ t.ref.refinFreqErr = false
        ∧ t.ref.refinWin = [] ∧ t.ref.refinState = (if s.ref.refinEn then (if s.ref.xoQual then 2 else 1) else 0))
  ∧ (∀ (hi : Word) (s : State), 2 ≤ s.sec.host → refinFreqOk (hi ++ s.ref.refinLo).toNat = true →
      hi ++ s.ref.refinLo = s.ref.refinFreq →
      exec (.refinFreqCommit hi) s = .next { s.parityFresh 0x18005 with ref.refinFreqErr := false })
  ∧ (∀ (hi : Word) (s : State), 2 ≤ s.sec.host → refinFreqOk (hi ++ s.ref.refinLo).toNat = false →
      exec (.refinFreqCommit hi) s = .next { s.parityFresh 0x18005 with ref.refinFreqErr := true, hp.ign := true })
  ∧ (∀ (v : Word) (s : State), s.sec.host < 2 → exec (.refinCfgWrite v) s = .next { s with hp.denied := true }
      ∧ exec (.refinFreqCommit v) s = .next { s with hp.denied := true })

/-- A REF_CTL write to a running region, in an Owner session, stores its fields, and a request for another qualified
source with no change under way starts SWITCHING to it. A region locked on a source whose activity monitor fires
enters HOLDOVER. The multiplexer's changeover ends the change: LOCKED on the target when it is present, HOLDOVER
when it is not; the watchdog forces it and starts a relock. HOLDOVER grows long with event 4. An expired borrow
delay waits for NEIGHBOUR while that is not qualified. An acquiring region whose source is qualified locks. -/
def Obligations.RegionsFollowTheirSources : Prop :=
  (∀ (r : Nat) (v : Word) (s : State), 2 ≤ s.sec.host → Runs s r → ∃ t, exec (.refCtlBwWrite r v) s = .next t
        ∧ (t.region r).bw = v.extractLsb' 2 2 ∧ (t.region r).borrowEn = v.getLsbD 4 ∧ (t.region r).borrowDelay = v.extractLsb' 5 3)
  ∧ (∀ (r : Nat) (v : Word) (s : State), 2 ≤ s.sec.host → Runs s r → srcQual s r (Src.ofCode (fld v 0 2)) = true → (s.region r).change = none →
      ¬ ((s.region r).rrp = .locked ∧ (s.region r).active = Src.ofCode (fld v 0 2)) →
      ∃ t, exec (.refCtlSrcWrite r v) s = .next t ∧ (t.region r).rrp = .switching
        ∧ (t.region r).srcReg = Src.ofCode (fld v 0 2) ∧ (t.region r).active = (s.region r).active
        ∧ (t.region r).change.map (fun c => c.target) = some (Src.ofCode (fld v 0 2)))
  ∧ (∀ (r : Nat) (s : State) (c : SrcChange), (s.region r).rrp = .switching → (s.region r).change = some c → (s.region r).queued = none →
      s.boot.want = [] →
      ∃ t, exec (.muxChangeover r true) s = .next t ∧ (t.region r).rrp = .locked ∧ (t.region r).active = c.target
        ∧ (t.region r).borrowed = c.borrow ∧ (t.region r).change = none)
  ∧ (∀ (r : Nat) (s : State) (c : SrcChange), (s.region r).rrp = .switching → (s.region r).change = some c → (s.region r).queued = none →
      s.boot.want = [] → (s.region r).borrowDelay ≠ 0 →
      ∃ t, exec (.muxChangeover r false) s = .next t ∧ (t.region r).rrp = .holdover ∧ (t.region r).active = c.target
        ∧ (t.region r).change = none)
  ∧ (∀ (r : Nat) (s : State) (c : SrcChange), (s.region r).rrp = .switching → (s.region r).change = some c → (s.region r).queued = none →
      s.boot.want = [] →
      ∃ t, exec (.muxWatchdog r true) s = .next t ∧ (t.region r).rrp = .locked ∧ (t.region r).active = c.target
        ∧ (t.region r).change = none)
  ∧ (∀ (r : Nat) (s : State), Runs s r → (s.region r).rrp = .locked → (s.region r).borrowEn = false → s.boot.want = [] →
      ((s.region r).active = .xo → ∃ t, exec (.activityMonitorFire 0) s = .next t ∧ (t.region r).rrp = .holdover)
      ∧ ((s.region r).active = .refin → ∃ t, exec (.activityMonitorFire 1) s = .next t ∧ (t.region r).rrp = .holdover)
      ∧ ((s.region r).active = .uplink → ∃ t, exec (.activityMonitorFire 2) s = .next t ∧ (t.region r).rrp = .holdover))
  ∧ (∀ (r : Nat) (s : State), (s.region r).rrp = .holdover →
      ∃ t, exec (.holdoverLong r) s = .next t ∧ (t.region r).rrp = .holdoverLong
        ∧ (t.region r).refEvents = (s.region r).refEvents.postBit 4 ∧ t.cells = s.cells)
  ∧ (∀ (r : Nat) (s : State), (s.region r).rrp.held = true → (s.region r).borrowWait = 1 → srcQual s r .neighbour = false →
      s.boot.want = [] →
      ∃ t, exec (.borrowDelayExpiry r) s = .next t ∧ (t.region r).borrowWait = 2 ∧ (t.region r).rrp = (s.region r).rrp)
  ∧ (∀ (r : Nat) (s : State), (s.region r).rrp = .acquiring → (s.region r).inReset = false → srcQual s r (s.region r).active = true →
      s.ref.startTick = true → s.boot.want = [] →
      ∃ t, exec (.rrpLocked r) s = .next t ∧ (t.region r).rrp = .locked ∧ (t.region r).everLocked = true
        ∧ (t.region r).time = (s.region r).time)

/-- With no epoch pending, the edge on which a running region's coarse count is all ones makes it zero, advances the
anchor count's high bits and posts TIME_WRAP. A pending epoch whose load edge is reached loads its value into
every running region with anchor high bits zero. REALIGNED gives a steering region the time of the region it
steers to and posts event 9. A realign tick lets a locked region in REALIGN accept commands. -/
def Obligations.SystemTimeWrapsLoadsAndRealigns : Prop :=
  (∀ (r : Nat) (s : State), Runs s r → s.ref.epoch = none → (s.region r).time = 0x3FFFFFFFFFFFFF →
      ∃ t, exec (.timeWrap r) s = .next t ∧ (t.region r).time = 0 ∧ (t.region r).anchorHi = (s.region r).anchorHi + 1
        ∧ (t.region r).refEvents = (s.region r).refEvents.postBit 6 ∧ (t.region r).edge = (s.region r).edge + 1)
  ∧ (∀ (s : State) (v tl : BitVec 54) (r q : Nat), s.ref.epoch = some (v, tl, r) → reached (s.region r).time tl = true →
      q ∈ runningRegions s →
      ∃ t, exec .epochLoad s = .next t ∧ t.ref.epoch = none ∧ (t.region q).time = v ∧ (t.region q).anchorHi = 0)
  ∧ (∀ (r : Nat) (s : State), (s.region r).steering = true →
      ∃ t, exec (.realigned r) s = .next t ∧ (t.region r).steering = false
        ∧ (t.region r).time = (s.region (s.region r).steerTo).time ∧ (t.region r).anchorHi = (s.region (s.region r).steerTo).anchorHi
        ∧ (t.region r).timeAligned = oneRoot s ∧ (t.region r).refEvents = (s.region r).refEvents.postBit 9
        ∧ ∀ q, q ≠ r → t.region q = s.region q)
  ∧ (∀ (r : Nat) (s : State), (s.region r).run = .realign → (s.region r).rrp = .locked → s.ref.startTick = true →
      ∃ t, exec (.regionRealignTick r) s = .next t ∧ (t.region r).run = .run ∧ (t.region r).resetTag = none)

/-- A begun REF_SELECT of another qualified source starts the change that carries its tag. A begun REF_QUALIFY
without set and wait answers the qualification words. A begun RRP_CONFIG without a source stores bandwidth and
borrow settings and answers REF_STATUS. A begun TIME_READ answers the stamp of the region and REF_STATUS. A
begun EPOCH_SET on a device that is no worker, with no epoch pending, sets the load edge 16,384 cycles on; on a
device without downstream ports nothing else changes. -/
def Obligations.ReferenceCommandsAct : Prop :=
  (∀ (s : State) (tag : Nat) (c : Cmd), Begins s tag 0x010 c → srcQual (begun s tag) c.unit (Src.ofCode (fld (c.arg 0) 0 2)) = true →
      (s.region c.unit).change = none →
      ¬ ((s.region c.unit).rrp = .locked ∧ (s.region c.unit).active = Src.ofCode (fld (c.arg 0) 0 2)) →
      ∃ t, exec (.refSelect tag) s = .next t ∧ (t.region c.unit).rrp = .switching
        ∧ (t.region c.unit).srcReg = Src.ofCode (fld (c.arg 0) 0 2)
        ∧ (t.region c.unit).change.map (fun x => (x.target, x.tag)) = some (Src.ofCode (fld (c.arg 0) 0 2), some tag))
  ∧ (∀ (s : State) (tag : Nat) (c : Cmd), Begins s tag 0x011 c → (c.arg 0).getLsbD 17 = false → (c.arg 0).getLsbD 16 = false →
      exec (.refQualify tag) s = .next (complete (begun s tag) tag OK [xoStatus s, refinStatus s, s.ref.refinErr, wd s.ref.upState]))
  ∧ (∀ (s : State) (tag : Nat) (c : Cmd), Begins s tag 0x012 c → (c.arg 0).getLsbD 17 = false →
      ∃ u, exec (.rrpConfig tag) s = .next (complete u tag OK [refStatus u c.unit, 0])
        ∧ (u.region c.unit).bw = (c.arg 0).extractLsb' 2 2 ∧ (u.region c.unit).borrowEn = (c.arg 0).getLsbD 4
        ∧ (u.region c.unit).borrowDelay = (c.arg 0).extractLsb' 5 3 ∧ u.cells = s.cells ∧ u.ref = s.ref)
  ∧ (∀ (s : State) (tag : Nat) (c : Cmd), Begins s tag 0x013 c → tgtScope c.target = 1 →
      exec (.timeRead tag) s = .next (complete (begun s tag) tag OK (nowStamp s c.unit ++ [refStatus s c.unit])))
  ∧ (∀ (s : State) (tag : Nat) (c : Cmd) (r : Nat), Begins s tag 0x014 c → isWorker s = false → s.ref.epoch = none →
      leadRegion s = some r → runDn s = [] →
      exec (.epochSet tag) s = .next { begun s tag with
        ref.epoch := some (c.arg 0 ++ c.arg 1 ++ c.arg 2, (s.region r).time + 16384, r) })

/-- Each CELL_CTL row, written in an Owner session to a cell it reaches on a device that is not scrapped, answers a
next state in which the cell's CELL_CTL, and that of a spare being seated for it, holds the six bits of the word
with the row's bit set or cleared; no other cell, no TIU, profile or hop-table word, fuse or flash byte changes. -/
def Obligations.CellCtlWritesTakeSixBits : Prop :=
  let Takes := fun (i : Instr) (v : Word) (p : Nat) (s : State) =>
    2 ≤ s.sec.host → cellReach s p = .ok → s.lk.lc ≠ 4 →
      ∃ t, exec i s = .next t ∧ (t.cell p).cfg.ctl = ctlOf v ∧ (∀ q, windowMirror s p = some q → (t.cell q).cfg.ctl = ctlOf v)
        ∧ (∀ q, q ≠ p → windowMirror s p ≠ some q → t.cell q = s.cell q) ∧ t.tius = s.tius
        ∧ t.profiles = s.profiles ∧ t.hopTab = s.hopTab ∧ t.fuses = s.fuses ∧ t.fl = s.fl ∧ t.blocks = s.blocks
  ∀ (p : Nat) (v : Word) (s : State),
    Takes (.cellCtlEnSet p v) (v ||| 1) p s ∧ Takes (.cellCtlEnClear p v) (v &&& ~~~1) p s
    ∧ Takes (.cellCtlOutEnSet p v) (v ||| 2) p s ∧ Takes (.cellCtlOutEnClear p v) (v &&& ~~~2) p s
    ∧ Takes (.cellCtlMuteSet p v) (v ||| 4) p s ∧ Takes (.cellCtlMuteClear p v) (v &&& ~~~4) p s
    ∧ Takes (.cellCtlHoldSet p v) (v ||| 8) p s ∧ Takes (.cellCtlHoldClear p v) (v &&& ~~~8) p s

/-- In a cell that a direct write in an Owner session reaches, an accepted FCW_INT with a new frequency puts it in
force, LOW_DIV commits the staged D with L, PHASE_HI commits the offset with the staged low word, OUT_CFG,
LOOP_BW, LOCK_THR and LOCK_CNT take their fields, and ENG_CTL.run starts an idle engine 256 edges on. Where an
action of the same edge came first, frequency, D and low phase word are those from before it (log entry 12).
ENG_CTL with run = 0 leaves the engine stopped in any state; one with nothing due on the edge stays at its
instruction. A frequency out of range, a swing above 12, a zero threshold and a count outside 4 to 16 set
cfg_err, are reported as ignored and change no value. No cell but the one written and a spare being seated for
it changes, and no memory. A write that meets a BUSY cell is reported so and changes nothing. -/
def Obligations.CellWindowCommitsTakeEffect : Prop :=
  let Only := fun (s t : State) (p : Nat) =>
    (∀ q, q ≠ p → windowMirror s p ≠ some q → t.cell q = s.cell q) ∧ t.tius = s.tius ∧ t.profiles = s.profiles ∧ t.hopTab = s.hopTab
    ∧ t.fuses = s.fuses ∧ t.regions = s.regions ∧ t.blocks = s.blocks
  let Takes := fun (p : Nat) (s : State) => 2 ≤ s.sec.host ∧ cellReach s p = .ok
  (∀ (p : Nat) (v : Word) (f : Freq) (s : State), Takes p s → (s.cell p).cfg.lvds = false → freqOk f = true →
      f = fcwOf ((s.cell p).undone (nowEdge s p) .engHop).vals.freq ((s.cell p).staged (nowEdge s p)) v →
      sameFreq ((s.cell p).undone (nowEdge s p) .engHop).vals.freq f = false →
      ∃ t, exec (.fcwIntCommit p v) s = .next t ∧ (t.cell p).vals.freq = f ∧ (t.cell p).loop.cfgErr = false
        ∧ (t.cell p).vals.modified = true ∧ Only s t p)
  ∧ (∀ (c : CellSt) (e : Nat) (a : EdgeAct), c.hop.undo = none → c.undone e a = c ∧ c.staged e = c.vals)
  ∧ (∀ (p : Nat) (v : Word) (s : State), Takes p s → v.getLsbD 17 = false → (s.cell p).hop.undo = none →
      freqOk { (s.cell p).vals.freq with mode := false, n := v.extractLsb' 0 5, f := (s.cell p).vals.stF } = false →
      ∃ t, exec (.fcwIntCommit p v) s = .next t ∧ (t.cell p).loop.cfgErr = true ∧ (t.cell p).vals = (s.cell p).vals ∧ Only s t p
        ∧ t.hp.ign = true)
  ∧ (∀ (p : Nat) (v : Word) (s : State), Takes p s → divOk ((s.cell p).staged (nowEdge s p)).stD.toNat v.toNat = true →
      ∃ t, exec (.lowDivCommit p v) s = .next t ∧ (t.cell p).vals.d = ((s.cell p).staged (nowEdge s p)).stD ∧ (t.cell p).vals.l = v
        ∧ (t.cell p).loop.cfgErr = false ∧ Only s t p)
  ∧ (∀ (p : Nat) (v : Word) (s : State), Takes p s →
      ∃ t, exec (.phaseHiCommit p v) s = .next t ∧ (t.cell p).vals.ofs = v ++ ((s.cell p).staged (nowEdge s p)).stPhLo
        ∧ ((s.cell p).cfg.step = true → (t.cell p).vals.phi = v ++ ((s.cell p).staged (nowEdge s p)).stPhLo)
        ∧ (t.cell p).loop.cfgErr = false ∧ Only s t p)
  ∧ (∀ (p : Nat) (v : Word) (s : State), Takes p s → fld v 0 4 ≤ 12 → v.getLsbD 4 = false →
      ∃ t, exec (.outCfgWrite p v) s = .next t ∧ (t.cell p).cfg.swing = v.extractLsb' 0 4 ∧ (t.cell p).cfg.lvds = false
        ∧ (t.cell p).loop.cfgErr = false ∧ Only s t p)
  ∧ (∀ (p : Nat) (v : Word) (s : State), Takes p s → 12 < fld v 0 4 →
      ∃ t, exec (.outCfgWrite p v) s = .next t ∧ (t.cell p).cfg = (s.cell p).cfg ∧ (t.cell p).loop.cfgErr = true ∧ Only s t p
        ∧ t.hp.ign = true)
  ∧ (∀ (p : Nat) (v : Word) (s : State), Takes p s →
      ∃ t, exec (.loopBwWrite p v) s = .next t ∧ (t.cell p).cfg = { (s.cell p).cfg with bw := v.extractLsb' 0 3 }
        ∧ (t.cell p).loop = (s.cell p).loop ∧ Only s t p)
  ∧ (∀ (p : Nat) (v : Word) (s : State), Takes p s → fld v 0 8 ≠ 0 →
      ∃ t, exec (.lockThrWrite p v) s = .next t ∧ (t.cell p).cfg = { (s.cell p).cfg with thr := v.extractLsb' 0 8 }
        ∧ (t.cell p).loop = { (s.cell p).loop with inCnt := 0, outCnt := 0, cfgErr := false } ∧ Only s t p)
  ∧ (∀ (p : Nat) (v : Word) (s : State), Takes p s → fld v 0 8 = 0 →
      ∃ t, exec (.lockThrWrite p v) s = .next t ∧ (t.cell p).cfg = (s.cell p).cfg ∧ (t.cell p).loop.cfgErr = true ∧ Only s t p
        ∧ t.hp.ign = true)
  ∧ (∀ (p : Nat) (v : Word) (s : State), Takes p s → 4 ≤ fld v 0 5 → fld v 0 5 ≤ 16 →
      ∃ t, exec (.lockCntWrite p v) s = .next t ∧ (t.cell p).cfg = { (s.cell p).cfg with cntK := v.extractLsb' 0 5 }
        ∧ (t.cell p).loop = { (s.cell p).loop with inCnt := 0, outCnt := 0, cfgErr := false } ∧ Only s t p)
  ∧ (∀ (p : Nat) (v : Word) (s : State), Takes p s → fld v 0 5 < 4 ∨ 16 < fld v 0 5 →
      ∃ t, exec (.lockCntWrite p v) s = .next t ∧ (t.cell p).cfg = (s.cell p).cfg ∧ (t.cell p).loop.cfgErr = true ∧ Only s t p
        ∧ t.hp.ign = true)
  ∧ (∀ (p : Nat) (v : Word) (s : State), Takes p s → engCanStart s p = true → (s.cell p).eng.active = false →
      ∃ t, exec (.engCtlRun p v) s = .next t ∧ (t.cell p).eng.st = .running ∧ (t.cell p).eng.s = nowEdge s p + 256
        ∧ (t.cell p).eng.pc = (s.cell p).eng.pc ∧ (t.cell p).cfg.lateHalt = v.getLsbD 2 ∧ Only s t p)
  ∧ (∀ (p : Nat) (v : Word) (s : State), Takes p s →
      ∃ t, exec (.engCtlStop p v) s = .next t ∧ (t.cell p).eng.st = .stopped)
  ∧ (∀ (p : Nat) (v : Word) (s : State), Takes p s → ((s.cell p).eng.st = .running → nowEdge s p < (s.cell p).eng.s) →
      (s.cell p).eng.extN = 0 →
      ∃ t, exec (.engCtlStop p v) s = .next t ∧ (t.cell p).eng.st = .stopped ∧ (t.cell p).eng.pc = (s.cell p).eng.pc
        ∧ (t.cell p).cfg.lateHalt = v.getLsbD 2 ∧ Only s t p)
  ∧ (∀ (p : Nat) (v : Word) (s : State), 2 ≤ s.sec.host → cellReach s p = .busy →
      exec (.fcwIntCommit p v) s = .next { s with hp.busy := true } ∧ exec (.loopBwWrite p v) s = .next { s with hp.busy := true }
      ∧ exec (.engCtlRun p v) s = .next { s with hp.busy := true })

/-- A band search that finds a band puts band and code in use; a settled capacitor bank and the end of the gear
period on its edge clear their flags; a slew period whose edge has come moves the phase one step and ends at its
target; at the falling edge it waits for a divider change or a hop's re-timing puts the new D and L to work and
holds the output low unless it is phase-continuous; the first anchored rise ends the hold; the muted, active and
disabled driver states are taken when due. -/
def Obligations.OutputEventsMoveTheDriver : Prop :=
  (∀ (p : Nat) (b : BitVec 7) (f : Word) (s : State), (s.cell p).cfg.ctl.en = true → (s.cell p).loop.searching = true →
      ∃ t, exec (.bandSearchEnd p true b f) s = .next t ∧ (t.cell p).loop.band = b ∧ (t.cell p).loop.fine = f
        ∧ (t.cell p).loop.searching = false ∧ (t.cell p).loop.bandChosen = true ∧ ∀ q, q ≠ p → t.cell q = s.cell q)
  ∧ (∀ (p : Nat) (s : State), (s.cell p).loop.bandSwitch = true →
      ∃ t, exec (.bandSwitchSettled p) s = .next t ∧ (t.cell p).loop.bandSwitch = false ∧ (t.cell p).loop.bandChosen = true
        ∧ ∀ q, q ≠ p → t.cell q = s.cell q)
  ∧ (∀ (p : Nat) (s : State), (s.cell p).loop.gear = true → (s.cell p).loop.gearEnd ≤ nowEdge s p →
      exec (.gearPeriodEnd p) s = .next (s.updCell p (fun c => { c with loop.gear := false })))
  ∧ (∀ (p : Nat) (s : State), (s.cell p).vals.slewing = true → (s.cell p).out.slewAt.all (fun x => decide (x ≤ nowA s p)) = true →
      ∃ t, exec (.slewPeriod p) s = .next t ∧ (t.cell p).vals.phi = slewStep (s.cell p).vals.phi (s.cell p).vals.ofs (s.cell p).cfg.rate
        ∧ ((t.cell p).vals.slewing = true ↔ (t.cell p).vals.phi ≠ (s.cell p).vals.ofs) ∧ (t.cell p).vals.ofs = (s.cell p).vals.ofs)
  ∧ (∀ (p : Nat) (s : State), (s.cell p).out.pend = .divAnchored → fallCome s p = true →
      ∃ t, exec (.dividerChangeover p) s = .next t ∧ (t.cell p).out.dNow = (s.cell p).vals.d ∧ (t.cell p).out.lNow = (s.cell p).vals.l
        ∧ (t.cell p).out.heldLow = true ∧ (t.cell p).out.pend = .none ∧ (t.cell p).vals = (s.cell p).vals)
  ∧ (∀ (p : Nat) (s : State), (s.cell p).out.pend = .divCont → fallCome s p = true →
      ∃ t, exec (.dividerChangeover p) s = .next t ∧ (t.cell p).out.dNow = (s.cell p).vals.d ∧ (t.cell p).out.lNow = (s.cell p).vals.l
        ∧ (t.cell p).out.heldLow = (s.cell p).out.heldLow ∧ (t.cell p).out.pend = .none)
  ∧ (∀ (p : Nat) (s : State), (s.cell p).out.pend = .hopRetime → fallCome s p = true →
      ∃ t, exec (.hopRetime p) s = .next t ∧ (t.cell p).out.dNow = (s.cell p).vals.d ∧ (t.cell p).out.lNow = (s.cell p).vals.l
        ∧ (t.cell p).out.heldLow = true ∧ (t.cell p).out.pend = .none ∧ (t.cell p).vals = (s.cell p).vals)
  ∧ (∀ (p : Nat) (s : State), (s.cell p).out.heldLow = true → (s.cell p).out.riseAt.all (fun x => decide (x ≤ nowA s p)) = true →
      exec (.retimeFirstRise p) s = .next (s.updCell p (fun c => { c with out.heldLow := false, out.riseAt := none })))
  ∧ (∀ (p : Nat) (a : Rat) (s : State), (s.cell p).out.muteAtFall = some a → a ≤ nowA s p → (s.cell p).out.drv = .toggling →
      ∃ t, exec (.toutMuteAtFall p) s = .next t ∧ (t.cell p).out.drv = .muted
        ∧ (t.cell p).out.disableAt = (if (s.cell p).cfg.ctl.outEn then none else some (nowEdge s p + 16)))
  ∧ (∀ (p : Nat) (a : Rat) (s : State), (s.cell p).out.activeAfter = some a → cellWant s p = .active → (s.cell p).out.drv = .muted →
      (if (s.cell p).inHold then a ≤ nowA s p
       else firstAnchor (s.cell p).vals.rho (turns (s.cell p).vals.phi) (s.cell p).vals.delta a ≤ nowA s p) →
      exec (.toutActiveAtAnchor p) s = .next (s.updCell p (fun c => { c with out.drv := .toggling, out.activeAfter := none })))
  ∧ (∀ (p e : Nat) (s : State), (s.cell p).out.disableAt = some e → e ≤ nowEdge s p →
      (s.cell p).cfg.ctl.en = false ∨ (s.cell p).cfg.ctl.outEn = false → 256 ≤ p ∨ chanLost s p = false →
      ∃ t, exec (.toutDisableDelay p) s = .next t ∧ (t.cell p).out.drv = .disabled ∧ (t.cell p).out.disableAt = none
        ∧ (t.cell p).out.lvdsNow = (s.cell p).cfg.lvds)

/-- A lock declared on the comparison that completes the count puts the code in use and clears a reference relock. A
loss, on the fourth comparison in a row beyond twice the threshold, with LOCK_ACTION 0 records cause 0x01 and
counts no cell fault; with action 2 the cell enters HOLD at the mean of the codes before them; with action 1, an
acquisition time-out with action 0, and a driver fault each count a cell fault, so a sound free spare starts to
be seated. A relock that has failed on its edge ends. The fine code of an acquiring cell without a hint is
taken, with rail at either end. A hint stale on its edge is dropped for a band search. -/
def Obligations.LockEventsFollowTheirCauses : Prop :=
  (∀ (p : Nat) (fine ph : Word) (s : State), (s.cell p).cfg.ctl.en = true → (s.cell p).inHold = false → (s.cell p).loop.locked = false →
      (s.cell p).loop.searching = false → (s.cell p).loop.bandSwitch = false →
      (errOf ph).natAbs < (s.cell p).cfg.thr.toNat → (s.cell p).lockCycles ≤ (s.cell p).loop.inCnt + 1 →
      ∃ t, exec (.lockDeclared p fine ph) s = .next t ∧ (t.cell p).loop.locked = true ∧ (t.cell p).loop.fine = fine
        ∧ (t.cell p).loop.pherr = BitVec.ofInt 18 (errOf ph) ∧ (t.cell p).loop.refRelock = false ∧ ∀ q, q ≠ p → t.cell q = s.cell q)
  ∧ (∀ (p : Nat) (ph : Word) (s : State), (s.cell p).cfg.ctl.en = true → (s.cell p).inHold = false → (s.cell p).loop.locked = true →
      2 * (s.cell p).cfg.thr.toNat < (errOf ph).natAbs → 3 ≤ (s.cell p).loop.outCnt →
      (s.cell p).cfg.action = 0 →
      ∃ t, exec (.lockLoss p ph) s = .next t ∧ (t.cell p).loop.locked = false ∧ (t.cell p).eng.lockLost = true
        ∧ (t.cell p).loop.pherr = BitVec.ofInt 18 (errOf ph) ∧ t.blocks = s.blocks)
  ∧ (∀ (p : Nat) (ph : Word) (s : State), (s.cell p).cfg.ctl.en = true → (s.cell p).inHold = false → (s.cell p).loop.locked = true →
      2 * (s.cell p).cfg.thr.toNat < (errOf ph).natAbs → 3 ≤ (s.cell p).loop.outCnt →
      (s.cell p).cfg.action = 2 →
      ∃ t, exec (.lockLoss p ph) s = .next t ∧ (t.cell p).loop.lossHold = true ∧ (t.cell p).loop.fine = (s.cell p).meanFine 3
        ∧ (t.cell p).loop.locked = false ∧ t.blocks = s.blocks)
  ∧ (∀ (p : Nat) (ph : Word) (s : State), (s.cell p).cfg.ctl.en = true → (s.cell p).inHold = false → (s.cell p).loop.locked = true →
      2 * (s.cell p).cfg.thr.toNat < (errOf ph).natAbs → 3 ≤ (s.cell p).loop.outCnt →
      (s.cell p).cfg.action = 1 → (s.cell p).loop.lossMute = false → SpareReady s p →
      ∃ t, exec (.lockLoss p ph) s = .next t ∧ (t.cell p).loop.lossMute = true ∧ (t.cell p).loop.locked = false ∧ SeatingFor t p)
  ∧ (∀ (p : Nat) (fine : Word) (s : State), (s.cell p).cfg.ctl.en = true → (s.cell p).inHold = false → (s.cell p).loop.locked = false →
      (s.cell p).loop.hintUse = .none →
      ∃ t, exec (.fineCodeRail p fine) s = .next t ∧ (t.cell p).loop.fine = fine
        ∧ (t.cell p).loop.rail = ((s.cell p).loop.rail || decide (fine = 0) || decide (fine = 0x3FFFF)) ∧ OnlyCell s t p)
  ∧ (∀ (p : Nat) (s : State), (s.cell p).cfg.ctl.en = true → (s.cell p).inHold = false → (s.cell p).loop.locked = false →
      (s.cell p).loop.refRelock = false → (s.cell p).loop.acq = .enable → (s.cell p).cfg.action = 0 → (s.cell p).acqLimit ≤ nowEdge s p →
      SpareReady s p → ∃ t, exec (.acqTimeout p) s = .next t ∧ SeatingFor t p)
  ∧ (∀ (p : Nat) (s : State), (s.cell p).cfg.ctl.en = true → (s.cell p).inHold = false → (s.cell p).loop.refRelock = true →
      (s.cell p).relockLimit ≤ nowEdge s p →
      ∃ t, exec (.relockFail p) s = .next t ∧ (t.cell p).loop.refRelock = false ∧ (t.cell p).eng.lockLost = true ∧ t.blocks = s.blocks)
  ∧ (∀ (p : Nat) (s : State), (s.cell p).cfg.ctl.en = true → (s.cell p).inHold = false → (s.cell p).loop.locked = false →
      (s.cell p).loop.hintUse ≠ .none → (s.cell p).loop.searching = false → (s.cell p).hintLimit ≤ nowEdge s p →
      ∃ t, exec (.hintStale p) s = .next t ∧ (t.cell p).loop.searching = true ∧ (t.cell p).loop.hintUse = .none
        ∧ (t.cell p).loop.hintMiss = satAdd 0x3FFFF (s.cell p).loop.hintMiss 1)
  ∧ (∀ (p : Nat) (legs : BitVec 2) (s : State), (s.cell p).out.drv = .toggling → (s.cell p).loop.drvFault = false → SpareReady s p →
      ∃ t, exec (.drvFault p legs) s = .next t ∧ (t.cell p).loop.drvFault = true ∧ (t.cell p).loop.lossMute = true
        ∧ (t.cell p).out.drv = .muted ∧ SeatingFor t p)

/-- A host hop's fetch that passes its checks without a time is due on the next edge, and with a time that is not
reached on the edge of that time; an engine's fetched words are kept with its prepared action. A single-bit
error met by the fetch is corrected and counted first. On its edge a host hop or an engine hop that no host
commit beats makes PROFILE_ACTIVE valid with its index, unmodified, and puts the profile's bandwidth in force
unless LOOP_BW is written on that edge. A learn write-back, once 1,024 cycles are averaged, of a locked channel
cell whose row still holds the hopped words stores band, temperature and average with a new check word, and no
other row changes. -/
def Obligations.HopsLoadTheirProfiles : Prop :=
  (∀ (p : Nat) (h : HopReq) (s : State), (s.cell p).hop.host = some h → h.due = none → h.at_ = none →
      fetch s p (chanName s p) h.idx = .ok →
      exec (.profileFetchComplete p false) s = .next (s.updCell p (fun c => { c with
        hop.host := some { h with words := profRow s (chanName s p) h.idx, due := some (nowEdge s p + 1) } })))
  ∧ (∀ (p : Nat) (h : HopReq) (a : BitVec 54) (s : State), (s.cell p).hop.host = some h → h.due = none → h.at_ = some a →
      reached (s.region (cellRegion p)).time a = false → fetch s p (chanName s p) h.idx = .ok →
      exec (.profileFetchComplete p false) s = .next (s.updCell p (fun c => { c with
        hop.host := some { h with words := profRow s (chanName s p) h.idx,
                                  due := some (nowEdge s p + (a - (s.region (cellRegion p)).time).toNat) } })))
  ∧ (∀ (p k i : Nat) (s : State), (s.cell p).hop.host = none → engFetch s p = some (k, i) → fetch s p (chanName s p) i = .ok →
      exec (.profileFetchComplete p false) s = .next (s.updCell p (fun c => { c with
        eng.prep := c.eng.prep.map (fun x => { x with fetched := some (.ok, profRow s (chanName s p) i) }) })))
  ∧ (∀ (p : Nat) (h : HopReq) (s : State), (s.cell p).hop.host = some h → h.due = none → h.at_ = none →
      fetch s p (chanName s p) h.idx = .ok →
      ∃ t, exec (.profileFetchComplete p true) s = .next t
        ∧ (t.region (cellRegion (chanName s p))).eccCorr.toNat = satAdd 0x3FFFF (s.region (cellRegion (chanName s p))).eccCorr.toNat 1
        ∧ (t.cell p).hop.host = some { h with words := profRow s (chanName s p) h.idx, due := some (nowEdge s p + 1) })
  ∧ (∀ (p e : Nat) (h : HopReq) (s : State), (s.cell p).hop.host = some h → h.due = some e → e = nowEdge s p →
      (s.cell p).hop.hostBwAt ≠ some e →
      ∃ t, exec (.hopEffectEdge p) s = .next t ∧ (t.cell p).vals.profValid = true ∧ (t.cell p).vals.profIdx = BitVec.ofNat 8 h.idx
        ∧ (t.cell p).vals.modified = false ∧ (t.cell p).cfg.bw = profBw h.words ∧ (t.cell p).hop.host = none)
  ∧ (∀ (p e : Nat) (h : HopReq) (s : State), (s.cell p).hop.host = none → (s.cell p).hop.eng = some h → h.due = some e → e = nowEdge s p →
      (s.cell p).hop.hostHopAt ≠ some e → (s.cell p).hop.hostBwAt ≠ some e →
      ∃ t, exec (.hopEffectEdge p) s = .next t ∧ (t.cell p).vals.profValid = true ∧ (t.cell p).vals.profIdx = BitVec.ofNat 8 h.idx
        ∧ (t.cell p).vals.modified = false ∧ (t.cell p).cfg.bw = profBw h.words ∧ (t.cell p).hop.eng = none)
  ∧ (∀ (p i : Nat) (w : List Word) (s : State), (s.cell p).hop.learn = some (i, w) → (s.cell p).hop.learnRun = true →
      1024 ≤ (s.cell p).hop.learnN → (s.cell p).loop.locked = true → p < 256 → channelOf s p ≠ none →
      (profRow s p i).take 7 = w.take 7 → (s.cell p).hop.learnHint = none →
      ∃ t, exec (.learnWriteback p) s = .next t ∧ (profRow t p i).take 7 = w.take 7 ∧ (profRow t p i).getD 8 0 = (s.cell p).learnAvg
        ∧ (profRow t p i).getD 9 0 = checkWord p i (profRow t p i)
        ∧ (∀ k, k < profKey p i ∨ profKey p i + 10 ≤ k → tabGet 0 t.profiles k = tabGet 0 s.profiles k) ∧ t.hopTab = s.hopTab)

/-- A grant to a first waiting calibration unit of a TIU, an ONLINE test of a cell in service with the spare free,
or an OFFLINE period of an idle block gives that requester its resources and removes it from the queue. When a
seating is ready, CHANGEOVER_EDGE moves the engine and its program counter to the incoming cell, which counts
lock by the channel's own count from there, and a return releases a loss-mute. SELECTOR_SWITCH, when its instant
has come, makes the spare serve the channel and disables the replaced cell, and on a return releases the spare;
behind the switch of a seating that a failed channel waits for, the return starts. A SEATING_TIMEOUT of fault
recovery on its edge marks the spare faulty and loses the channel. -/
def Obligations.TheArbiterGrantsAndSeatsTheSpare : Prop :=
  (∀ (b tag : Nat) (rest : List (Requester × Nat)) (r : CalRun) (u : CalUnit) (s : State),
      (s.block b).waiting = (.cal, tag) :: rest → s.cal.runs.find? (fun r => r.tag == tag) = some r → b ∉ r.granted →
      calUnitOf r b = some u → u.kind = 0 → tiuFree s u.unit = true →
      ∃ t, exec (.arbiterGrant b) s = .next t ∧ (t.block b).waiting = rest ∧ (t.block b).tiuHeld = [u.unit % 4]
        ∧ t.cells = s.cells ∧ t.tius = s.tius ∧ t.mbx = s.mbx)
  ∧ (∀ (b tag n : Nat) (rest : List (Requester × Nat)) (r : BistRun) (ps : List SlotKind) (s : State),
      (s.block b).waiting = (.online, tag) :: rest → bistRunOf s tag = some r → r.periods = .online n :: ps →
      onlineBarred s n = false → outOfService s n = false → spareFree s b = true →
      ∃ t, exec (.arbiterGrant b) s = .next t ∧ (t.block b).waiting = rest ∧ (t.block b).holder = some .online
        ∧ (t.block b).seating.map (fun q => (q.c, q.req, q.ret)) = some (n % 16, .online, false))
  ∧ (∀ (b tag : Nat) (rest : List (Requester × Nat)) (s : State), (s.block b).waiting = (.offline, tag) :: rest → blockIdle s b = true →
      (s.block b).seated = none →
      ∃ t, exec (.arbiterGrant b) s = .next t ∧ (t.block b).waiting = rest ∧ (t.block b).holder = some .offline
        ∧ (t.block b).bistState = 1 ∧ t.cells = s.cells ∧ t.tius = s.tius ∧ t.mbx = s.mbx)
  ∧ (∀ (b : Nat) (q : Seating) (s : State), b < 16 → q.c < 16 → (s.block b).seating = some q → q.step = .acquiring → seatReady s b q = true →
      ∃ t, exec (.changeoverEdge b) s = .next t ∧ (t.block b).seating = some { q with step := .changed, cAt := (s.region (b / 4)).edge }
        ∧ (t.cell (if q.ret then chanOf b q.c else spareOf b)).eng.pc = (s.cell (if q.ret then spareOf b else chanOf b q.c)).eng.pc
        ∧ (t.cell (if q.ret then chanOf b q.c else spareOf b)).loop.fast = false
        ∧ (q.ret = true → (t.cell (chanOf b q.c)).loop.lossMute = false)
        ∧ (t.cell (if q.ret then spareOf b else chanOf b q.c)).eng.st = .stopped
        ∧ ∀ p, p ≠ chanOf b q.c → p ≠ spareOf b → t.cell p = s.cell p)
  ∧ (∀ (b : Nat) (q : Seating) (s : State), b < 16 → q.c < 16 → (s.block b).seating = some q → q.step = .changed → seatReady s b q = true →
      switchAt s b q ≤ nowA s (spareOf b) → (s.block b).recover = none → q.ret = false → q.req = .fault →
      ∃ t, exec (.selectorSwitch b) s = .next t ∧ (t.block b).seated = some q.c ∧ (t.block b).seating = none ∧ (t.block b).why = .fault
        ∧ (t.cell (chanOf b q.c)).out.drv = .disabled ∧ ∀ p, p ≠ chanOf b q.c → p ≠ spareOf b → t.cell p = s.cell p)
  ∧ (∀ (b : Nat) (q : Seating) (s : State), b < 16 → q.c < 16 → (s.block b).seating = some q → q.step = .changed → seatReady s b q = true →
      switchAt s b q ≤ nowA s (spareOf b) → q.ret = true → (s.block b).recover = none → (s.block b).holder = none →
      ∃ t, exec (.selectorSwitch b) s = .next t ∧ (t.block b).seated = none ∧ (t.block b).seating = none
        ∧ (t.cell (spareOf b)).cfg.ctl.en = false ∧ (t.cell (spareOf b)).eng.st = .stopped
        ∧ ∀ p, p ≠ chanOf b q.c → p ≠ spareOf b → t.cell p = s.cell p)
  ∧ (∀ (b m e : Nat) (q : Seating) (s : State), b < 16 → q.c < 16 → (s.block b).seating = some q → q.step = .changed → seatReady s b q = true →
      switchAt s b q ≤ nowA s (spareOf b) → q.ret = false → (s.block b).recover = some (m, e) →
      ∃ t, exec (.selectorSwitch b) s = .next t ∧ (t.block b).seated = some q.c
        ∧ (t.block b).seating.map (fun x => (x.c, x.req, x.ret)) = some (q.c, .fault, true))
  ∧ (∀ (b : Nat) (q : Seating) (s : State), b < 16 → q.c < 16 → (s.block b).seating = some q → q.step = .acquiring → q.ret = false → q.req = .fault →
      (s.cell (spareOf b)).loop.locked = false → (s.cell (spareOf b)).cfg.ctl.en = true → (s.cell (spareOf b)).inHold = false →
      (s.cell (spareOf b)).loop.acq ≠ .loss → (s.cell (spareOf b)).acqLimit ≤ (s.region (b / 4)).edge → blockOffline s b = false →
      ∃ t, exec (.seatingTimeout b) s = .next t ∧ (t.block b).spareFaulty = true ∧ q.c ∈ (t.block b).lost ∧ (t.block b).seating = none
        ∧ (t.cell (chanOf b q.c)).out.drv ≠ .toggling)

/-- Standing at a word of their opcode with the schedule edge come, NOP advances S by one and ENG_PC by one; WAITC
by its operand, waiting for the edge when it is not zero; WAITT to the next time with the given low bits; SYNC
and an unmatched WAITE wait with their time-out, and with a load or an event already registered at or after S
until 16 edges behind it; EXT joins 13 operand bits; LOOP loads a counter and its start; ENDL counts and
branches back while more than one pass remains; JMP goes to its target; BRL branches with S plus 256 on the
lock-lost flag and clears it, and else goes on; HALT stops the engine at the following word. Nothing but that
engine changes. -/
def Obligations.EngineInstructionsRunAtTheirEdge : Prop :=
  (∀ (p v : Nat) (s : State), EngAt s p 0x01 v →
      ∃ t, exec (.nop p) s = .next t ∧ EngineOnly s t p ∧ Moved s t p 1 ∧ (t.cell p).eng.st = .running)
  ∧ (∀ (p v : Nat) (s : State), EngAt s p 0x04 v →
      ∃ t, exec (.waitc p) s = .next t ∧ EngineOnly s t p ∧ Moved s t p v
        ∧ (v = 0 → (t.cell p).eng.st = .running)
        ∧ (v ≠ 0 → (t.cell p).eng.st = .waiting ∧ (t.cell p).eng.wait = .edge ((s.cell p).eng.s + v)))
  ∧ (∀ (p v : Nat) (s : State), EngAt s p 0x05 v →
      ∃ t d, exec (.waitt p) s = .next t ∧ EngineOnly s t p ∧ Moved s t p d ∧ d < 2 ^ (13 * ((s.cell p).eng.extN + 1))
        ∧ ((timeAt (s.region (cellRegion p)) (s.cell p).eng.s).toNat + d) % 2 ^ (13 * ((s.cell p).eng.extN + 1))
            = v % 2 ^ (13 * ((s.cell p).eng.extN + 1))
        ∧ (d = 0 → (t.cell p).eng.st = .running)
        ∧ (d ≠ 0 → reached (s.region (cellRegion p)).time (timeAt (s.region (cellRegion p)) (s.cell p).eng.s + BitVec.ofNat 54 d) = false →
            (t.cell p).eng.st = .waiting
            ∧ (t.cell p).eng.wait = .time (timeAt (s.region (cellRegion p)) (s.cell p).eng.s + BitVec.ofNat 54 d)))
  ∧ (∀ (p v : Nat) (s : State), EngAt s p 0x07 v → (∀ l, (s.region (cellRegion p)).loadAt = some l → l < (s.cell p).eng.s) →
      ∃ t, exec (.sync p) s = .next t ∧ EngineOnly s t p ∧ Moved s t p 0 ∧ (t.cell p).eng.st = .waiting
        ∧ (t.cell p).eng.wait = .sync (tmoOf (s.cell p).eng.s (v / 2 ^ 13)))
  ∧ (∀ (p v l : Nat) (s : State), EngAt s p 0x07 v → (s.region (cellRegion p)).loadAt = some l → (s.cell p).eng.s ≤ l →
      ∃ t, exec (.sync p) s = .next t ∧ EngineOnly s t p ∧ (t.cell p).eng.st = .waiting ∧ (t.cell p).eng.wait = .edge (l + 16)
        ∧ (t.cell p).eng.s = l + 16 ∧ (t.cell p).eng.pc = (s.cell p).eng.pc + 1)
  ∧ (∀ (p v : Nat) (s : State), EngAt s p 0x06 v → v / 2 ^ 10 % 8 = 2 → v % 2 ^ 10 < 8 →
      firstEvent s.evRegs (cellRegion p) 2 (v % 2 ^ 10) (s.cell p).eng.s (nowEdge s p) (tmoOf (s.cell p).eng.s (v / 2 ^ 13)) = none →
      ∃ t, exec (.waite p) s = .next t ∧ EngineOnly s t p ∧ Moved s t p 0 ∧ (t.cell p).eng.st = .waiting
        ∧ (t.cell p).eng.wait = .event 2 (v % 2 ^ 10) (tmoOf (s.cell p).eng.s (v / 2 ^ 13)))
  ∧ (∀ (p v r : Nat) (s : State), EngAt s p 0x06 v → v / 2 ^ 10 % 8 = 3 → v % 2 ^ 10 < 8 →
      firstEvent s.evRegs (cellRegion p) 3 (v % 2 ^ 10) (s.cell p).eng.s (nowEdge s p) (tmoOf (s.cell p).eng.s (v / 2 ^ 13)) = some r →
      ∃ t, exec (.waite p) s = .next t ∧ EngineOnly s t p ∧ (t.cell p).eng.st = .waiting ∧ (t.cell p).eng.wait = .edge (r + 16)
        ∧ (t.cell p).eng.s = r + 16 ∧ (t.cell p).eng.pc = (s.cell p).eng.pc + 1)
  ∧ (∀ (p v : Nat) (s : State), EngAt s p 0x1F v → (s.cell p).eng.pc + 1 < engLen s p →
      ∃ t, exec (.ext p) s = .next t ∧ EngineOnly s t p ∧ (t.cell p).eng.ext = v ∧ (t.cell p).eng.extN = (s.cell p).eng.extN + 1
        ∧ (t.cell p).eng.pc = (s.cell p).eng.pc + 1 ∧ (t.cell p).eng.s = (s.cell p).eng.s ∧ (t.cell p).eng.st = .running)
  ∧ (∀ (p v : Nat) (s : State), EngAt s p 0x0B v → v / 4 ≠ 0 →
      ∃ t, exec (.loop p) s = .next t ∧ EngineOnly s t p ∧ Moved s t p 0 ∧ tabGet 0 (t.cell p).eng.ctr (v % 4) = v / 4 % 2 ^ 24
        ∧ tabGet 0 (t.cell p).eng.ctrStart (v % 4) = (s.cell p).eng.pc + 1)
  ∧ (∀ (p v : Nat) (s : State), EngAt s p 0x0C v →
      ∃ t, exec (.endl p) s = .next t ∧ EngineOnly s t p ∧ (t.cell p).eng.s = (s.cell p).eng.s
        ∧ tabGet 0 (t.cell p).eng.ctr (v % 4) = tabGet 0 (s.cell p).eng.ctr (v % 4) - 1
        ∧ (t.cell p).eng.pc = (if 1 < tabGet 0 (s.cell p).eng.ctr (v % 4) then tabGet 0 (s.cell p).eng.ctrStart (v % 4)
                               else (s.cell p).eng.pc + 1))
  ∧ (∀ (p v : Nat) (s : State), EngAt s p 0x0D v → v < engLen s p →
      ∃ t, exec (.jmp p) s = .next t ∧ EngineOnly s t p ∧ (t.cell p).eng.pc = v ∧ (t.cell p).eng.s = (s.cell p).eng.s)
  ∧ (∀ (p v : Nat) (s : State), EngAt s p 0x0E v → v < engLen s p → (s.cell p).loop.refRelock = false →
      ∃ t, exec (.brl p) s = .next t ∧ EngineOnly s t p
        ∧ ((s.cell p).eng.lockLost = true → (t.cell p).eng.pc = v ∧ (t.cell p).eng.s = (s.cell p).eng.s + 256 ∧ (t.cell p).eng.lockLost = false)
        ∧ ((s.cell p).eng.lockLost = false → Moved s t p 0))
  ∧ (∀ (p v : Nat) (s : State), EngAt s p 0x00 v → v % 2 = 0 →
      ∃ t, exec (.halt p) s = .next t ∧ EngineOnly s t p ∧ (t.cell p).eng.st = .halted ∧ (t.cell p).eng.pc = (s.cell p).eng.pc + 1)

/-- On its edge, its preparation in time, HOP schedules the profile's words for that edge and goes on; HOPL does so
and waits for lock; with the words fetched in its preparation no fetch is made. PHS commits the phase offset
plus its operand, at the weight of its length; SETO puts OUT_EN, MUTE and HOLD as its mask bits say; each acts
on the cell and its mirror. MARK without destinations only advances, and with MARKO pulses the pin for 8 edges.
IRQ and HALT with its record bit put an engine record into the completion queue when it has room, and hold it
when it has not; a held record is posted once there is room. -/
def Obligations.EngineActionsReachTheirUnits : Prop :=
  (∀ (p v : Nat) (w : List Word) (s : State), EngAt s p 0x02 v → Due s p → v % 256 < 192 →
      fetchedHop (s.cell p).eng (v % 256) = some (.ok, w) →
      ∃ t, exec (.hopInstr p) s = .next t ∧ Moved s t p 1 ∧ (t.cell p).eng.st = .running ∧ OnlyCell s t p
        ∧ (t.cell p).hop.eng = some { words := w, idx := v % 256, due := some (s.cell p).eng.s } ∧ (t.cell p).vals = (s.cell p).vals)
  ∧ (∀ (p v : Nat) (s : State), EngAt s p 0x02 v → Due s p → v % 256 < 192 → fetchedHop (s.cell p).eng (v % 256) = none →
      fetch s p (chanName s p) (v % 256) = .ok →
      ∃ t, exec (.hopInstr p) s = .next t ∧ Moved s t p 1 ∧ OnlyCell s t p
        ∧ (t.cell p).hop.eng = some { words := profRow s (chanName s p) (v % 256), idx := v % 256, due := some (s.cell p).eng.s })
  ∧ (∀ (p v : Nat) (s : State), EngAt s p 0x03 v → Due s p → v % 256 < 192 → fetchedHop (s.cell p).eng (v % 256) = none →
      fetch s p (chanName s p) (v % 256) = .ok →
      ∃ t, exec (.hopl p) s = .next t ∧ Moved s t p 1 ∧ (t.cell p).eng.st = .waiting ∧ (t.cell p).eng.wait = .lock ∧ OnlyCell s t p
        ∧ (t.cell p).hop.eng = some { words := profRow s (chanName s p) (v % 256), idx := v % 256, due := some (s.cell p).eng.s })
  ∧ (∀ (p v : Nat) (s : State), EngAt s p 0x09 v → Due s p → (s.cell p).hop.hostPhaseAt ≠ some (nowEdge s p) →
      (s.cell p).hop.phaseTag = none → mirrorOf s p = none → (s.cell p).cfg.step = true →
      ∃ t, exec (.phs p) s = .next t ∧ Moved s t p 1 ∧ OnlyCell s t p
        ∧ (t.cell p).vals.ofs = (s.cell p).vals.ofs
            + BitVec.ofInt 36 (if (s.cell p).eng.extN = 0 then sgn v 13 * 2 ^ 23 else sgn v 26 * 2 ^ 10)
        ∧ (t.cell p).vals.phi = (t.cell p).vals.ofs ∧ (t.cell p).vals.freq = (s.cell p).vals.freq)
  ∧ (∀ (p v : Nat) (s : State), EngAt s p 0x0A v → Due s p → (s.cell p).hop.hostCtlAt ≠ some (nowEdge s p) → mirrorOf s p = none →
      ∃ t, exec (.seto p) s = .next t ∧ Moved s t p 1 ∧ (∀ q, q ≠ p → t.cell q = s.cell q)
        ∧ (t.cell p).cfg.ctl = { (s.cell p).cfg.ctl with
            outEn := if v.testBit 3 then v.testBit 0 else (s.cell p).cfg.ctl.outEn,
            mute := if v.testBit 4 then v.testBit 1 else (s.cell p).cfg.ctl.mute,
            hold := if v.testBit 5 then v.testBit 2 else (s.cell p).cfg.ctl.hold })
  ∧ (∀ (p v : Nat) (s : State), EngAt s p 0x08 v → Due s p → v / 256 % 16 = 0 →
      ∃ t, exec (.mark p) s = .next t ∧ Moved s t p 1 ∧ EngineOnly s t p)
  ∧ (∀ (p v : Nat) (s : State), EngAt s p 0x08 v → Due s p → v / 256 % 16 = 8 →
      tabGet (0, 0) s.pins.marko (v % 4) = (0, 0) →
      ∃ t, exec (.mark p) s = .next t ∧ Moved s t p 1
        ∧ tabGet (0, 0) t.pins.marko (v % 4) = ((s.cell p).eng.s + 8, cellRegion p) ∧ t.mbx = s.mbx ∧ t.acqs = s.acqs)
  ∧ (∀ (p v : Nat) (s : State), EngAt s p 0x0F v → (s.cell p).eng.held = none → cqAccepts s = true →
      ∃ t, exec (.irq p) s = .next t ∧ Moved s t p 0 ∧ t.mbx.cmds = s.mbx.cmds ∧ (∀ q, q ≠ p → t.cell q = s.cell q)
        ∧ t.mbx.cq = s.mbx.cq ++ [untaggedRecord 1 OK (unitWord 3 (chanName s p)) 0 0 (v / 2 ^ 18 % 2 ^ 8) (wd (v % 2 ^ 18))
            (stampWords (timeAt (s.region (cellRegion p)) (s.cell p).eng.s) 0)])
  ∧ (∀ (p v : Nat) (s : State), EngAt s p 0x0F v → (s.cell p).eng.held = none → cqAccepts s = false →
      ∃ t, exec (.irq p) s = .next t ∧ Moved s t p 0 ∧ t.mbx.cq = s.mbx.cq ∧ (t.cell p).eng.held.isSome = true)
  ∧ (∀ (p v : Nat) (s : State), EngAt s p 0x00 v → v % 2 = 1 → (s.cell p).eng.held = none → cqAccepts s = true →
      ∃ t, exec (.halt p) s = .next t ∧ (t.cell p).eng.st = .halted ∧ (t.cell p).eng.pc = (s.cell p).eng.pc + 1
        ∧ t.mbx.cq = s.mbx.cq ++ [untaggedRecord 1 OK (unitWord 3 (chanName s p)) 1 0 0 0
            (stampWords (timeAt (s.region (cellRegion p)) (s.cell p).eng.s) 0)])
  ∧ (∀ (p : Nat) (h : HeldRec) (s : State), (s.cell p).eng.held = some h → cqAccepts s = true →
      ∃ t, exec (.heldRecordPost false p) s = .next t ∧ (t.cell p).eng.held = none ∧ t.mbx.cq = s.mbx.cq ++ [withLost h.words h.lost]
        ∧ t.mbx.cmds = s.mbx.cmds)

/-- An opcode 0x10 to 0x1E and 4,096 words without the schedule advancing put the engine into FAULT at the first
word of its chain with an engine record. An action that is late sets the late bit and counts; with late_halt the
engine stops LATE at the chain, without it the engine goes on behind the chain with S plus one. A WAITE or SYNC
time-out resumes the engine at S = time-out edge plus 256 behind the skipped chain. A single step in an Owner
session of a stopped engine at a NOP advances ENG_PC by one and leaves it stopped. -/
def Obligations.EngineFaultsAndTimeouts : Prop :=
  (∀ (p v o : Nat) (s : State), 0x10 ≤ o → o ≤ 0x1E → EngAt s p o v → (s.cell p).eng.held = none → cqAccepts s = true →
      ∃ t, exec (.illegalOpcode p) s = .next t ∧ (t.cell p).eng.st = .fault ∧ (t.cell p).eng.fault = (s.cell p).eng.fault
        ∧ (t.cell p).eng.pc = (if 0 < (s.cell p).eng.extN then (s.cell p).eng.chain else (s.cell p).eng.pc)
        ∧ t.mbx.cq.length = s.mbx.cq.length + 1 ∧ ∀ q, q ≠ p → t.cell q = s.cell q)
  ∧ (∀ (p : Nat) (s : State), (s.cell p).eng.st = .running → 4096 ≤ (s.cell p).eng.noAdv → (s.cell p).eng.held = none → cqAccepts s = true →
      ∃ t, exec (.engineRunaway p) s = .next t ∧ (t.cell p).eng.st = .fault ∧ t.mbx.cq.length = s.mbx.cq.length + 1
        ∧ ∀ q, q ≠ p → t.cell q = s.cell q)
  ∧ (∀ (p : Nat) (s : State), (s.cell p).eng.st = .running → (s.cell p).eng.s ≤ nowEdge s p → actionAhead s p = true →
      (s.cell p).cfg.lateHalt = true →
      ∃ t, exec (.engineLate p) s = .next t ∧ (t.cell p).eng.st = .late ∧ (t.cell p).eng.late = true
        ∧ (t.cell p).eng.lateCnt = satAdd 0x3FFFF (s.cell p).eng.lateCnt 1
        ∧ (t.cell p).eng.pc = (if 0 < (s.cell p).eng.extN then (s.cell p).eng.chain else (s.cell p).eng.pc)
        ∧ (t.cell p).vals = (s.cell p).vals ∧ ∀ q, q ≠ p → t.cell q = s.cell q)
  ∧ (∀ (p : Nat) (s : State), (s.cell p).eng.st = .running → (s.cell p).eng.s ≤ nowEdge s p → actionAhead s p = true →
      (s.cell p).cfg.lateHalt = false →
      ∃ t, exec (.engineLate p) s = .next t ∧ (t.cell p).eng.st = .running ∧ (t.cell p).eng.late = true
        ∧ (t.cell p).eng.lateCnt = satAdd 0x3FFFF (s.cell p).eng.lateCnt 1 ∧ (t.cell p).eng.s = (s.cell p).eng.s + 1
        ∧ (s.cell p).eng.pc < (t.cell p).eng.pc ∧ (t.cell p).vals = (s.cell p).vals ∧ (t.cell p).hop = (s.cell p).hop
        ∧ ∀ q, q ≠ p → t.cell q = s.cell q)
  ∧ (∀ (p e c i : Nat) (s : State), (s.cell p).eng.st = .waiting → (s.cell p).eng.wait = .event c i (some e) → e ≤ nowEdge s p →
      ∃ t, exec (.waitTimeout p) s = .next t ∧ EngineOnly s t p ∧ (t.cell p).eng.st = .running ∧ (t.cell p).eng.s = e + 256
        ∧ (s.cell p).eng.pc < (t.cell p).eng.pc)
  ∧ (∀ (p e : Nat) (s : State), (s.cell p).eng.st = .waiting → (s.cell p).eng.wait = .sync (some e) → e ≤ nowEdge s p →
      ∃ t, exec (.waitTimeout p) s = .next t ∧ EngineOnly s t p ∧ (t.cell p).eng.st = .running ∧ (t.cell p).eng.s = e + 256
        ∧ (s.cell p).eng.pc < (t.cell p).eng.pc)
  ∧ (∀ (p : Nat) (v : Word) (s : State), 2 ≤ s.sec.host → cellReach s p = .ok → p < 256 → seatedIn s p ≠ some (cellIdx p) →
      (s.cell p).eng.st = .stopped → (s.cell p).eng.extN = 0 →
      (s.cell p).eng.pc < engLen s p → s.flt.badWords = [] → engOpc (hopWord s p (s.cell p).eng.pc) = 0x01 →
      ∃ t, exec (.engCtlStep p v) s = .next t ∧ (t.cell p).eng.st = .stopped ∧ (t.cell p).eng.pc = (s.cell p).eng.pc + 1
        ∧ (t.cell p).eng.s = (s.cell p).eng.s ∧ (t.cell p).cfg.lateHalt = v.getLsbD 2 ∧ (t.cell p).vals = (s.cell p).vals
        ∧ ∀ q, q ≠ p → windowMirror s p ≠ some q → t.cell q = s.cell q)

/-- A begun PROG_LOAD inside the channel's partition stores its words there and nothing else, and completes OK with
their number; past the partition it is BADARG. ENGINE_START of an idle engine that may start gives it its first
schedule edge, 256 edges on or that of the time named, and its counter; a time already reached is TIMEOUT.
ENGINE_STOP leaves the engine stopped, and one with nothing due on the edge at its instruction. ENGINE_STATUS
answers the five words. A staged HOPTABLE_PARTITION part is kept; an applied equal partition waits and
PARTITION_COMPLETE puts the lengths in force, keeps the words of unmoved partitions and completes OK. -/
def Obligations.EngineCommandsLoadStartAndStop : Prop :=
  (∀ (s : State) (tag : Nat) (c : Cmd), Begins s tag 0x030 c → partWords s c.unit ≠ 0 →
      fld (c.arg 0) 0 15 + (c.args.drop 1).length ≤ partWords s c.unit →
      ∃ t, exec (.progLoad tag) s = .next t ∧ Answered s t c OK [wd (c.args.drop 1).length]
        ∧ (∀ k, k < (c.args.drop 1).length →
            tabGet 0 t.hopTab (cellRegion c.unit * 32768 + partBase s c.unit + fld (c.arg 0) 0 15 + k) = c.arg (k + 1))
        ∧ (∀ a, a < cellRegion c.unit * 32768 + partBase s c.unit + fld (c.arg 0) 0 15 ∨
              cellRegion c.unit * 32768 + partBase s c.unit + fld (c.arg 0) 0 15 + (c.args.drop 1).length ≤ a →
            tabGet 0 t.hopTab a = tabGet 0 s.hopTab a)
        ∧ t.profiles = s.profiles ∧ t.cells = s.cells ∧ t.regions = s.regions)
  ∧ (∀ (s : State) (tag : Nat) (c : Cmd), Begins s tag 0x030 c → partWords s c.unit ≠ 0 →
      partWords s c.unit < fld (c.arg 0) 0 15 + (c.args.drop 1).length →
      exec (.progLoad tag) s = .next (complete (begun s tag) tag BADARG []))
  ∧ (∀ (s : State) (tag : Nat) (c : Cmd), Begins s tag 0x031 c → (s.cell (inService s c.unit)).eng.active = false →
      engCanStart s (inService s c.unit) = true → (c.arg 0).getLsbD 17 = false →
      ∃ t, exec (.engineStart tag) s = .next t ∧ (t.cell (inService s c.unit)).eng.st = .running
        ∧ (t.cell (inService s c.unit)).eng.s = nowEdge s (inService s c.unit) + 256 ∧ findCmd t tag = none
        ∧ (t.cell (inService s c.unit)).eng.pc
            = (if (c.arg 0).getLsbD 16 then fld (c.arg 0) 0 15 else (s.cell (inService s c.unit)).eng.pc)
        ∧ (t.cell (inService s c.unit)).eng.ctr = [] ∧ (t.cell (inService s c.unit)).eng.lateCnt = 0
        ∧ t.hopTab = s.hopTab ∧ ∀ q, q ≠ inService s c.unit → t.cell q = s.cell q)
  ∧ (∀ (s : State) (tag : Nat) (c : Cmd), Begins s tag 0x031 c →
      (s.cell (inService s c.unit)).eng.active = true ∨ engCanStart s (inService s c.unit) = false →
      exec (.engineStart tag) s = .next (complete (begun s tag) tag PRECOND []))
  ∧ (∀ (s : State) (tag : Nat) (c : Cmd) (p : Nat), Begins s tag 0x031 c → p = inService s c.unit → (s.cell p).eng.active = false →
      engCanStart s p = true → (c.arg 0).getLsbD 17 = true →
      reached (s.region (cellRegion p)).time (c.arg 1 ++ c.arg 2 ++ c.arg 3) = false →
      ∃ t, exec (.engineStart tag) s = .next t ∧ (t.cell p).eng.st = .running ∧ findCmd t tag = none
        ∧ (t.cell p).eng.s = nowEdge s p + (c.arg 1 ++ c.arg 2 ++ c.arg 3 - (s.region (cellRegion p)).time).toNat)
  ∧ (∀ (s : State) (tag : Nat) (c : Cmd) (p : Nat), Begins s tag 0x031 c → p = inService s c.unit → (s.cell p).eng.active = false →
      engCanStart s p = true → (c.arg 0).getLsbD 17 = true →
      reached (s.region (cellRegion p)).time (c.arg 1 ++ c.arg 2 ++ c.arg 3) = true →
      exec (.engineStart tag) s = .next (complete (begun s tag) tag TIMEOUT []))
  ∧ (∀ (s : State) (tag : Nat) (c : Cmd), Begins s tag 0x032 c →
      ∃ t, exec (.engineStop tag) s = .next t ∧ (t.cell (inService s c.unit)).eng.st = .stopped ∧ findCmd t tag = none)
  ∧ (∀ (s : State) (tag : Nat) (c : Cmd) (p : Nat), Begins s tag 0x032 c → p = inService s c.unit →
      ((s.cell p).eng.st = .running → nowEdge s p < (s.cell p).eng.s) →
      ∃ t, exec (.engineStop tag) s = .next t ∧ (t.cell p).eng.st = .stopped
        ∧ (t.cell p).eng.pc = (if 0 < (s.cell p).eng.extN then (s.cell p).eng.chain else (s.cell p).eng.pc)
        ∧ t.hopTab = s.hopTab ∧ ∀ q, q ≠ p → t.cell q = s.cell q)
  ∧ (∀ (s : State) (tag : Nat) (c : Cmd), Begins s tag 0x033 c →
      exec (.engineStatus tag) s = .next (complete (begun s tag) tag OK
        [engStatus (s.cell (inService s c.unit)).eng, wd (s.cell (inService s c.unit)).eng.pc, wd (s.cell (inService s c.unit)).eng.lateCnt,
         wd (partBase s c.unit / 64), wd (partWords s c.unit / 64)]))
  ∧ (∀ (s : State) (tag : Nat) (c : Cmd), Begins s tag 0x034 c → (c.arg 0).getLsbD 16 = false → (c.arg 0).getLsbD 17 = false →
      ∃ t, exec (.hoptablePartition tag) s = .next t ∧ Answered s t c OK [0] ∧ t.hopTab = s.hopTab
        ∧ (fld (c.arg 0) 0 3, (c.args.drop 1).map (fun w => fld w 0 10)) ∈ (t.mem c.unit).partStage
        ∧ (t.mem c.unit).partLen = (s.mem c.unit).partLen ∧ ∀ r, r ≠ c.unit → t.mem r = s.mem r)
  ∧ (∀ (s : State) (tag : Nat) (c : Cmd), Begins s tag 0x034 c → (c.arg 0).getLsbD 16 = true → regionEngineActive s c.unit = false →
      ∃ t, exec (.hoptablePartition tag) s = .next t ∧ (t.mem c.unit).partBusy = some (tag, List.replicate 64 8)
        ∧ t.hopTab = s.hopTab ∧ (findCmd t tag).isSome = true)
  ∧ (∀ (r tag : Nat) (lens : List Nat) (s : State), (s.mem r).partBusy = some (tag, lens) → (findCmd s tag).isSome = true →
      ∃ t, exec (.partitionComplete r) s = .next t ∧ (t.mem r).partBusy = none ∧ findCmd t tag = none
        ∧ (∀ i, i < 64 → tabGet 8 (t.mem r).partLen i = lens.getD i 0)
        ∧ (∀ i k, i < 64 → lensBase lens i = lensBase ((List.range 64).map (fun i => tabGet 8 (s.mem r).partLen i)) i →
            lens.getD i 0 = tabGet 8 (s.mem r).partLen i → k < 64 * lens.getD i 0 →
            tabGet 0 t.hopTab (r * 32768 + lensBase lens i + k) = tabGet 0 s.hopTab (r * 32768 + lensBase lens i + k))
        ∧ (∀ a, a < r * 32768 ∨ r * 32768 + 64 * lens.sum ≤ a → tabGet 0 t.hopTab a = tabGet 0 s.hopTab a)
        ∧ t.cells = s.cells ∧ t.profiles = s.profiles)

/-- On a channel without a mirror, a begun CELL_ENABLE puts the masked bits into CELL_CTL, and with wait one that
enables the cell stays until it is locked; PHASE_SET commits its offset or adds it to the one from before a PHS
of the same edge (log entry 12), and with wait stays while the phase slews; OUT_CONFIG without a divider puts
swing and lvds in force, and a refused one is BADARG with nothing changed; LOCK_CONFIG with one mask bit writes
that setting. HOP of a profile below the limit begins its fetch, for the time it names if any; a time already
reached is TIMEOUT. CELL_STATUS answers the five status words. -/
def Obligations.CellCommandsActOnTheChannel : Prop :=
  (∀ (s : State) (tag : Nat) (c : Cmd), Begins s tag 0x020 c → mirrorOf s (inService s c.unit) = none → (c.arg 0).getLsbD 17 = false → s.lk.lc ≠ 4 →
      ∃ t, exec (.cellEnable tag) s = .next t ∧ findCmd t tag = none
        ∧ (t.cell (inService s c.unit)).cfg.ctl = ctlOf ((c.arg 0 &&& c.arg 1) ||| ((s.cell (inService s c.unit)).cfg.ctl.word &&& ~~~(c.arg 1)))
        ∧ (∀ q, q ≠ inService s c.unit → t.cell q = s.cell q) ∧ t.profiles = s.profiles ∧ t.blocks = s.blocks)
  ∧ (∀ (s : State) (tag : Nat) (c : Cmd), Begins s tag 0x020 c → s.lk.lc ≠ 4 → (c.arg 0).getLsbD 17 = true →
      (c.arg 0).getLsbD 0 = true → (c.arg 1).getLsbD 0 = true → (s.cell (inService s c.unit)).cfg.ctl.en = false →
      chanLost s c.unit = false → mirrorOf s (inService s c.unit) = none →
      ∃ t, exec (.cellEnable tag) s = .next t ∧ (t.cell (inService s c.unit)).cfg.ctl.en = true
        ∧ (tag, none) ∈ (t.cell (inService s c.unit)).hop.lockTags ∧ findCmd t tag = findCmd (begun s tag) tag)
  ∧ (∀ (s : State) (tag : Nat) (c : Cmd), Begins s tag 0x023 c → fld (c.arg 0) 0 8 < profileLimit s c.unit → (c.arg 0).getLsbD 17 = true →
      reached (s.region (cellRegion (inService s c.unit))).time (c.arg 1 ++ c.arg 2 ++ c.arg 3) = false →
      exec (.hop tag) s = .next ((begun s tag).updCell (inService s c.unit) (fun x => { x with
        hop.host := some { words := [], idx := fld (c.arg 0) 0 8, due := none, at_ := some (c.arg 1 ++ c.arg 2 ++ c.arg 3), tag := some tag,
                           waitLock := (c.arg 0).getLsbD 16 } })))
  ∧ (∀ (s : State) (tag : Nat) (c : Cmd), Begins s tag 0x023 c → fld (c.arg 0) 0 8 < profileLimit s c.unit → (c.arg 0).getLsbD 17 = true →
      reached (s.region (cellRegion (inService s c.unit))).time (c.arg 1 ++ c.arg 2 ++ c.arg 3) = true →
      exec (.hop tag) s = .next (complete (begun s tag) tag TIMEOUT []))
  ∧ (∀ (s : State) (tag : Nat) (c : Cmd), Begins s tag 0x023 c → fld (c.arg 0) 0 8 < profileLimit s c.unit → (c.arg 0).getLsbD 17 = false →
      exec (.hop tag) s = .next ((begun s tag).updCell (inService s c.unit) (fun x => { x with
        hop.host := some { words := [], idx := fld (c.arg 0) 0 8, due := none, at_ := none, tag := some tag,
                           waitLock := (c.arg 0).getLsbD 16 } })))
  ∧ (∀ (s : State) (tag : Nat) (c : Cmd), Begins s tag 0x024 c → mirrorOf s (inService s c.unit) = none → (c.arg 0).getLsbD 16 = false →
      (s.cell (inService s c.unit)).hop.phaseTag = none →
      ∃ t, exec (.phaseSet tag) s = .next t ∧ findCmd t tag = none
        ∧ (t.cell (inService s c.unit)).vals.ofs
            = (if (c.arg 0).getLsbD 17 then
                ((s.cell (inService s c.unit)).undone (nowEdge s (inService s c.unit)) .phs).vals.ofs + (c.arg 1 ++ c.arg 2)
               else c.arg 1 ++ c.arg 2)
        ∧ ((s.cell (inService s c.unit)).hop.undo = none →
            (t.cell (inService s c.unit)).vals.freq = (s.cell (inService s c.unit)).vals.freq)
        ∧ (∀ q, q ≠ inService s c.unit → t.cell q = s.cell q) ∧ t.profiles = s.profiles)
  ∧ (∀ (s : State) (tag : Nat) (c : Cmd) (p : Nat), Begins s tag 0x024 c → p = inService s c.unit → mirrorOf s p = none →
      (c.arg 0).getLsbD 16 = true → (c.arg 0).getLsbD 15 = false → (c.arg 0).getLsbD 17 = false → (s.cell p).hop.undo = none →
      (s.cell p).hop.phaseTag = none → (s.cell p).cfg.step = false → (s.cell p).cfg.ctl.en = true →
      (s.cell p).vals.phi ≠ c.arg 1 ++ c.arg 2 →
      ∃ t, exec (.phaseSet tag) s = .next t ∧ (t.cell p).vals.slewing = true ∧ (t.cell p).vals.ofs = c.arg 1 ++ c.arg 2
        ∧ (t.cell p).hop.phaseTag = some tag ∧ findCmd t tag = findCmd (begun s tag) tag)
  ∧ (∀ (s : State) (tag : Nat) (c : Cmd), Begins s tag 0x025 c → mirrorOf s (inService s c.unit) = none →
      outConfigOk (s.cell (inService s c.unit)) c = true → (c.arg 0).getLsbD 17 = false →
      ∃ t, exec (.outConfig tag) s = .next t ∧ findCmd t tag = none
        ∧ (t.cell (inService s c.unit)).cfg.swing = (c.arg 0).extractLsb' 0 4 ∧ (t.cell (inService s c.unit)).cfg.lvds = (c.arg 0).getLsbD 4
        ∧ (t.cell (inService s c.unit)).vals = (s.cell (inService s c.unit)).vals ∧ ∀ q, q ≠ inService s c.unit → t.cell q = s.cell q)
  ∧ (∀ (s : State) (tag : Nat) (c : Cmd), Begins s tag 0x025 c → outConfigOk (s.cell (inService s c.unit)) c = false →
      exec (.outConfig tag) s = .next (complete (begun s tag) tag BADARG []))
  ∧ (∀ (s : State) (tag : Nat) (c : Cmd), Begins s tag 0x026 c → mirrorOf s (inService s c.unit) = none → fld (c.arg 0) 0 5 = 4 →
      fld (c.arg 3) 0 2 ≠ 3 →
      ∃ t, exec (.lockConfig tag) s = .next t ∧ Answered s t c OK []
        ∧ (t.cell (inService s c.unit)).cfg = { (s.cell (inService s c.unit)).cfg with action := (c.arg 3).extractLsb' 0 2 }
        ∧ ∀ q, q ≠ inService s c.unit → t.cell q = s.cell q)
  ∧ (∀ (s : State) (tag : Nat) (c : Cmd), Begins s tag 0x026 c → lockConfigOk c = false →
      exec (.lockConfig tag) s = .next (complete (begun s tag) tag BADARG []))
  ∧ (∀ (s : State) (tag : Nat) (c : Cmd), Begins s tag 0x027 c →
      exec (.cellStatus tag) s = .next (complete (begun s tag) tag OK
        [cellStatus s (cellNamed s c.unit), profileActive (s.cell (cellNamed s c.unit)), (s.cell (cellNamed s c.unit)).loop.pherr,
         engStatus (s.cell (cellNamed s c.unit)).eng, dcoBand (s.cell (cellNamed s c.unit))]))

/-- A begun PROFILE_WRITE of an index below the limit with acceptable words stores the nine words, valid set and
reserved bits zero, followed by their check word, and answers it; unacceptable words are BADARG and change
nothing. A begun PROFILE_READ of a readable profile sends the stored words in continuation records, tells a
corrected error and changes no profile. -/
def Obligations.ProfilesAreStoredWithTheirCheckWord : Prop :=
  (∀ (s : State) (tag : Nat) (c : Cmd), Begins s tag 0x021 c → c.args.length = 10 → fld (c.arg 0) 0 8 < profileLimit s c.unit →
      profileOk (profileStored ((c.arg 0).getLsbD 17) (c.args.drop 1)) = true →
      ∃ t, exec (.profileWrite tag) s = .next t
        ∧ Answered s t c OK [checkWord c.unit (fld (c.arg 0) 0 8) (profileStored ((c.arg 0).getLsbD 17) (c.args.drop 1))]
        ∧ profRow t c.unit (fld (c.arg 0) 0 8) = profileStored ((c.arg 0).getLsbD 17) (c.args.drop 1)
            ++ [checkWord c.unit (fld (c.arg 0) 0 8) (profileStored ((c.arg 0).getLsbD 17) (c.args.drop 1))]
        ∧ (∀ k, k < profKey c.unit (fld (c.arg 0) 0 8) ∨ profKey c.unit (fld (c.arg 0) 0 8) + 10 ≤ k →
            tabGet 0 t.profiles k = tabGet 0 s.profiles k)
        ∧ t.hopTab = s.hopTab ∧ t.cells = s.cells)
  ∧ (∀ (s : State) (tag : Nat) (c : Cmd), Begins s tag 0x021 c →
      profileLimit s c.unit ≤ fld (c.arg 0) 0 8 ∨ profileOk (profileStored ((c.arg 0).getLsbD 17) (c.args.drop 1)) = false →
      exec (.profileWrite tag) s = .next (complete (begun s tag) tag BADARG []))
  ∧ (∀ (s : State) (tag : Nat) (soft : Bool) (c : Cmd), Begins s tag 0x022 c → fld (c.arg 0) 0 8 < profileLimit s c.unit →
      profBad s c.unit (fld (c.arg 0) 0 8) = false → s.mbx.streaming = none → c.tun = false → 3 ≤ cqFree s → c.out = none →
      ∃ t, exec (.profileRead tag soft) s = .next t ∧ findCmd t tag = none ∧ t.profiles = s.profiles ∧ t.cells = s.cells
        ∧ t.mbx.cq = s.mbx.cq
          ++ [contRecord tag 0 ((profRow s c.unit (fld (c.arg 0) 0 8)).take 7), contRecord tag 1 ((profRow s c.unit (fld (c.arg 0) 0 8)).drop 7),
              cmdRecord c (finalStatus c OK) false [10, wd (b2n (decide (checkWord c.unit (fld (c.arg 0) 0 8)
                (profRow s c.unit (fld (c.arg 0) 0 8)) = (profRow s c.unit (fld (c.arg 0) 0 8)).getD 9 0)) + 2 * b2n soft)]])

/-- complete, with which every command ends, takes the command of the tag out of execution and, for a command that
came through the host port, appends exactly one completion record to the queue with DEFERRED for an OK of a held
command; for one that came through a tunnel it gives the record to the transmitter of port 0. Every other part
of the state stays. -/
def Obligations.CompletionsTakeTheCommandOut : Prop :=
  (∀ (s : State) (c : Cmd) (status : Nat) (res : List Word), findCmd s c.tag = some c → c.tun = false →
      (complete s c.tag status res).mbx.cq = s.mbx.cq ++ [cmdRecord c (if c.held = true ∧ status = OK then DEFERRED else status) false res]
      ∧ (complete s c.tag status res).mbx.cmds = s.mbx.cmds.filter (fun x => x.tag != c.tag)
      ∧ findCmd (complete s c.tag status res) c.tag = none
      ∧ { complete s c.tag status res with mbx := s.mbx } = s)
  ∧ (∀ (s : State) (c : Cmd) (status : Nat) (res : List Word), findCmd s c.tag = some c → c.tun = true →
      (complete s c.tag status res).mbx.cq = s.mbx.cq
      ∧ (complete s c.tag status res).mbx.cmds = s.mbx.cmds.filter (fun x => x.tag != c.tag)
      ∧ { complete s c.tag status res with mbx := s.mbx, ports := s.ports } = s
      ∧ ((complete s c.tag status res).port 0).tx.length = (s.port 0).tx.length + 1
      ∧ ∀ i, i ≠ 0 → (complete s c.tag status res).port i = s.port i)

/-- An arm, in an Owner session, of an idle unit that may arm latches the configuration into PRECAL with its edges
cleared; an abort of a busy one ends it INCOMPLETE. A good pre-calibration makes an untimed measurement READY
and a timed one wait for its arm time, on which it becomes READY; a bad one ends it with FAULT. An edge of a
live source, seen from two cycles after READY, makes an ORDERED measurement RUNNING with its stamp; a stop edge
before it only counts as early; in FREQ mode the first edge is stamp 0. With both stamps the result is stored as
one item and the unit is IDLE; a time-out ends it. A refused mode or gate sets cfg_err, is reported as ignored
and keeps the value. Only that unit changes, but for the command that waits. In a lower session the three writes
are denied, and at a held unit they are busy. -/
def Obligations.TiuMeasurementsRunTheirSteps : Prop :=
  (∀ (t : Nat) (v : Word) (s : State), 2 ≤ s.sec.host → tiuReach s t = .ok → fld (v ||| 0x80) 4 2 ≠ 3 → (s.tiu t).busy = false →
      (s.tiu t).st ≠ .outOfUse →
      { s.tiu t with cfg.mode := fld (v ||| 0x80) 4 2, cfg.atTime := (v ||| 0x80).getLsbD 6, cfgErr := false }.canArm = true →
      ∃ u, exec (.tiuCtlArm t v) s = .next u ∧ OnlyTiu (s.parityFresh (tiuBase t)) u t ∧ (u.tiu t).st = .precal ∧ (u.tiu t).tag = none
        ∧ (u.tiu t).cfgErr = false
        ∧ (u.tiu t).run = { (s.tiu t).cfg with mode := fld (v ||| 0x80) 4 2, atTime := (v ||| 0x80).getLsbD 6 } ∧ (u.tiu t).sStart = none
        ∧ (u.tiu t).sStop = none ∧ (u.tiu t).early = 0)
  ∧ (∀ (t : Nat) (v : Word) (s : State), 2 ≤ s.sec.host → tiuReach s t = .ok → fld (v ||| 0x80) 4 2 = 3 →
      exec (.tiuCtlArm t v) s = .next { (s.parityFresh (tiuBase t)).updTiu t (fun x => { x with cfgErr := true }) with hp.ign := true })
  ∧ (∀ (t : Nat) (s : State), 2 ≤ s.sec.host → tiuReach s t = .ok → (s.tiu t).cfg.mode < 3 → (s.tiu t).busy = true → (s.tiu t).tag = none →
      ∃ u, exec (.tiuCtlAbort t) s = .next u ∧ OnlyTiu (s.parityFresh (tiuBase t)) u t ∧ (u.tiu t).st = .idle
        ∧ (u.tiu t).last = INCOMPLETE ∧ (u.tiu t).res = (s.tiu t).result INCOMPLETE)
  ∧ (∀ (t : Nat) (hi : Word) (s : State), 2 ≤ s.sec.host → tiuReach s t = .ok → gateOk (hi ++ (s.tiu t).gateLo).toNat = true →
      exec (.gateCommit t hi) s = .next ((s.parityFresh (tiuBase t + 7)).updTiu t (fun x => { x with
        cfg.gate := (hi ++ (s.tiu t).gateLo).toNat, gateBad := false, cfgErr := false })))
  ∧ (∀ (t : Nat) (hi : Word) (s : State), 2 ≤ s.sec.host → tiuReach s t = .ok → gateOk (hi ++ (s.tiu t).gateLo).toNat = false →
      exec (.gateCommit t hi) s = .next { (s.parityFresh (tiuBase t + 7)).updTiu t (fun x => { x with gateBad := true, cfgErr := true }) with
        hp.ign := true })
  ∧ (∀ (t : Nat) (v : Word) (s : State), s.sec.host < 2 →
      exec (.tiuCtlArm t v) s = .next { s with hp.denied := true } ∧ exec (.tiuCtlAbort t) s = .next { s with hp.denied := true }
      ∧ exec (.gateCommit t v) s = .next { s with hp.denied := true })
  ∧ (∀ (t : Nat) (v : Word) (s : State), 2 ≤ s.sec.host → tiuReach s t = .busy →
      exec (.tiuCtlArm t v) s = .next { s with hp.busy := true } ∧ exec (.tiuCtlAbort t) s = .next { s with hp.busy := true }
      ∧ exec (.gateCommit t v) s = .next { s with hp.busy := true })
  ∧ (∀ (t a1 a2 b1 b2 : Nat) (s : State), (s.tiu t).st = .precal → (s.tiu t).waitArm = false → precalOk (a1 % 2048) (a2 % 2048) = true →
      precalOk (b1 % 2048) (b2 % 2048) = true → (s.tiu t).run.atTime = false →
      ∃ u, exec (.tiuPrecalDone t a1 a2 b1 b2) s = .next u ∧ OnlyTiu s u t ∧ (u.tiu t).st = .ready
        ∧ (u.tiu t).readyAt = (s.region (tiuRegion t)).edge ∧ (u.tiu t).a1 = a1 % 2048 ∧ (u.tiu t).b2 = b2 % 2048)
  ∧ (∀ (t a1 a2 b1 b2 : Nat) (s : State), (s.tiu t).st = .precal → (s.tiu t).waitArm = false → precalOk (a1 % 2048) (a2 % 2048) = true →
      precalOk (b1 % 2048) (b2 % 2048) = true → (s.tiu t).run.atTime = true → reached (s.region (tiuRegion t)).time (s.tiu t).run.armTime = false →
      ∃ u, exec (.tiuPrecalDone t a1 a2 b1 b2) s = .next u ∧ OnlyTiu s u t ∧ (u.tiu t).st = .precal ∧ (u.tiu t).waitArm = true)
  ∧ (∀ (t a1 a2 b1 b2 : Nat) (s : State), (s.tiu t).st = .precal → (s.tiu t).waitArm = false →
      precalOk (a1 % 2048) (a2 % 2048) = false ∨ precalOk (b1 % 2048) (b2 % 2048) = false → (s.tiu t).faults = 0 → (s.tiu t).tag = none →
      ∃ u, exec (.tiuPrecalDone t a1 a2 b1 b2) s = .next u ∧ OnlyTiu s u t ∧ (u.tiu t).st = .idle ∧ (u.tiu t).last = FAULT
        ∧ (u.tiu t).faults = 1)
  ∧ (∀ (t : Nat) (s : State), (s.tiu t).st = .precal → (s.tiu t).waitArm = true → (s.region (tiuRegion t)).time = (s.tiu t).run.armTime →
      ∃ u, exec (.tiuReadyAtTime t) s = .next u ∧ OnlyTiu s u t ∧ (u.tiu t).st = .ready ∧ (u.tiu t).waitArm = false)
  ∧ (∀ (t code : Nat) (s : State), (s.tiu t).st = .ready → (s.tiu t).run.mode = 0 →
      sameSource (s.tiu t).run.start (s.tiu t).run.stop = false → srcLive s (tiuBlock t) (s.tiu t).run.start = true →
      (s.tiu t).readyAt + 2 ≤ (s.region (tiuRegion t)).edge → (s.tiu t).sStart = none → code ≤ 1600 →
      ∃ u, exec (.tiuSourceEdge t false code) s = .next u ∧ OnlyTiu s u t ∧ (u.tiu t).st = .running
        ∧ (u.tiu t).sStart = some (if srcExact (s.tiu t).run.start then exactStamp (s.region (tiuRegion t)).time
            else stampOf (s.region (tiuRegion t)).time code (s.tiu t).a1 (s.tiu t).a2 (s.tiu t).dly.1) ∧ (u.tiu t).sStop = (s.tiu t).sStop)
  ∧ (∀ (t code : Nat) (s : State), (s.tiu t).st = .ready → (s.tiu t).run.mode = 0 →
      sameSource (s.tiu t).run.start (s.tiu t).run.stop = false → srcLive s (tiuBlock t) (s.tiu t).run.stop = true →
      (s.tiu t).readyAt + 2 ≤ (s.region (tiuRegion t)).edge →
      (s.tiu t).sStart = none → (s.tiu t).sStop = none → (s.tiu t).early < 0x3FFFE →
      ∃ u, exec (.tiuSourceEdge t true code) s = .next u ∧ OnlyTiu s u t ∧ (u.tiu t).st = .ready
        ∧ (u.tiu t).early = (s.tiu t).early + 1 ∧ (u.tiu t).sStop = none)
  ∧ (∀ (t code : Nat) (s : State), (s.tiu t).st = .ready → (s.tiu t).run.mode = 2 → (s.tiu t).run.pre = 0 →
      srcLive s (tiuBlock t) (s.tiu t).run.start = true → (s.tiu t).readyAt + 2 ≤ (s.region (tiuRegion t)).edge →
      (s.tiu t).stamps = [] → code ≤ 1600 →
      ∃ u, exec (.tiuSourceEdge t false code) s = .next u ∧ OnlyTiu s u t ∧ (u.tiu t).st = .running
        ∧ (u.tiu t).stamps = [(0, (if srcExact (s.tiu t).run.start then exactStamp (s.region (tiuRegion t)).time
            else stampOf (s.region (tiuRegion t)).time code (s.tiu t).a1 (s.tiu t).a2 (s.tiu t).dly.1).toNat)])
  ∧ (∀ (t : Nat) (s : State), (s.tiu t).st = .running → (s.tiu t).full = true → (s.tiu t).run.mode ≠ 2 → (s.tiu t).tag = none →
      ∃ u, exec (.tiuResult t) s = .next u ∧ OnlyTiu s u t ∧ (u.tiu t).st = .idle ∧ (u.tiu t).last = OK
        ∧ (u.tiu t).res = (s.tiu t).interval OK ∧ (u.tiu t).faults = 0 ∧ (u.tiu t).sStart = none)
  ∧ (∀ (t : Nat) (s : State), (s.tiu t).st = .ready → (s.tiu t).full = false → tiuExpired s t = true → (s.tiu t).run.mode ≠ 2 → (s.tiu t).tag = none →
      ∃ u, exec (.tiuTimeout t) s = .next u ∧ OnlyTiu s u t ∧ (u.tiu t).st = .idle ∧ (u.tiu t).last = TIMEOUT
        ∧ (u.tiu t).res = (s.tiu t).interval TIMEOUT)

/-- On a unit that nobody holds and that is in use, a begun TIU_CONFIG with accepted values puts all of them in
force and completes OK; with a refused one it is BADARG and nothing changes. TIU_ARM of an idle unit that may
arm, and that no waiting request needs, starts the measurement with its tag, at the time it names if any; on a
busy unit with no_wait it is BUSY. FREQ_MEASURE with accepted operands starts mode 2 with its gate. TIU_READ
answers the last five result words, with stamps behind two continuation records. -/
def Obligations.TiuCommandsConfigureArmAndRead : Prop :=
  (∀ (s : State) (tag : Nat) (c : Cmd), Begins s tag 0x040 c → tiuHeld s c.unit = false → (s.tiu c.unit).st ≠ .outOfUse → fld (c.arg 0) 4 2 ≠ 3 →
      srcOk (c.arg 1) = true → srcOk (c.arg 2) = true → c.arg 3 ≠ 0 → freqCfgOk (c.arg 4) = true → gateOk (c.arg 5 ++ c.arg 6).toNat = true →
      ∃ t, exec (.tiuConfig tag) s = .next t ∧ Answered s t c OK [] ∧ (t.tiu c.unit).cfgErr = false
        ∧ (t.tiu c.unit).cfg = { (s.tiu c.unit).cfg.setFreq (c.arg 4) with
            mode := fld (c.arg 0) 4 2, atTime := (c.arg 0).getLsbD 6, start := wd (fld (c.arg 1) 0 12), stop := wd (fld (c.arg 2) 0 12),
            timeout := c.arg 3, gate := (c.arg 5 ++ c.arg 6).toNat }
        ∧ (t.tiu c.unit).st = (s.tiu c.unit).st ∧ ∀ k, k ≠ c.unit → t.tiu k = s.tiu k)
  ∧ (∀ (s : State) (tag : Nat) (c : Cmd), Begins s tag 0x040 c → tiuHeld s c.unit = false → (s.tiu c.unit).st ≠ .outOfUse →
      fld (c.arg 0) 4 2 = 3 ∨ srcOk (c.arg 1) = false ∨ srcOk (c.arg 2) = false ∨ c.arg 3 = 0 ∨ freqCfgOk (c.arg 4) = false
        ∨ gateOk (c.arg 5 ++ c.arg 6).toNat = false →
      exec (.tiuConfig tag) s = .next (complete (begun s tag) tag BADARG []))
  ∧ (∀ (s : State) (tag : Nat) (c : Cmd), Begins s tag 0x041 c → tiuHeld s c.unit = false → (s.tiu c.unit).st = .idle →
      (s.tiu c.unit).canArm = true → (c.arg 0).getLsbD 17 = false →
      (∀ w ∈ (s.block (tiuBlock c.unit)).waiting, w ≠ (.host, tag) → c.unit % 4 ∉ needs s (tiuBlock c.unit) w) →
      ∃ t, exec (.tiuArm tag) s = .next t ∧ (t.tiu c.unit).st = .precal ∧ (t.tiu c.unit).tag = some tag
        ∧ (t.tiu c.unit).run = { (s.tiu c.unit).cfg with atTime := false } ∧ t.mbx = (begun s tag).mbx ∧ ∀ k, k ≠ c.unit → t.tiu k = s.tiu k)
  ∧ (∀ (s : State) (tag : Nat) (c : Cmd), Begins s tag 0x041 c → tiuHeld s c.unit = false → (s.tiu c.unit).st = .idle →
      (s.tiu c.unit).canArm = true → (c.arg 0).getLsbD 17 = true →
      (∀ w ∈ (s.block (tiuBlock c.unit)).waiting, w ≠ (.host, tag) → c.unit % 4 ∉ needs s (tiuBlock c.unit) w) →
      ∃ t, exec (.tiuArm tag) s = .next t ∧ (t.tiu c.unit).st = .precal ∧ (t.tiu c.unit).tag = some tag
        ∧ (t.tiu c.unit).run = { (s.tiu c.unit).cfg with atTime := true, armTime := c.arg 1 ++ c.arg 2 ++ c.arg 3 }
        ∧ ∀ k, k ≠ c.unit → t.tiu k = s.tiu k)
  ∧ (∀ (s : State) (tag : Nat) (c : Cmd), Begins s tag 0x041 c → tiuHeld s c.unit = false → (s.tiu c.unit).st ≠ .outOfUse →
      (s.tiu c.unit).busy = true → c.noWait = true →
      exec (.tiuArm tag) s = .next (complete (unqueue (begun s tag) c) tag BUSY []))
  ∧ (∀ (s : State) (tag : Nat) (c : Cmd), Begins s tag 0x042 c → tiuHeld s c.unit = false → (s.tiu c.unit).st = .idle →
      freqCfgOk (c.arg 1) = true → gateOk (c.arg 2 ++ c.arg 3).toNat = true → srcOk (c.arg 4) = true →
      200 ≤ (c.arg 2 ++ c.arg 3).toNat / (fld (c.arg 1) 0 11 - 1) →
      (∀ w ∈ (s.block (tiuBlock c.unit)).waiting, w ≠ (.host, tag) → c.unit % 4 ∉ needs s (tiuBlock c.unit) w) →
      ∃ t, exec (.freqMeasure tag) s = .next t ∧ (t.tiu c.unit).st = .precal ∧ (t.tiu c.unit).tag = some tag
        ∧ (t.tiu c.unit).run.mode = 2 ∧ (t.tiu c.unit).run.gate = (c.arg 2 ++ c.arg 3).toNat
        ∧ (t.tiu c.unit).run.start = wd (fld (c.arg 4) 0 12) ∧ ∀ k, k ≠ c.unit → t.tiu k = s.tiu k)
  ∧ (∀ (s : State) (tag : Nat) (c : Cmd), Begins s tag 0x043 c → (s.tiu c.unit).st ≠ .outOfUse → (c.arg 0).getLsbD 16 = false →
      exec (.tiuRead tag) s = .next (complete (begun s tag) tag OK (s.tiu c.unit).res.words))
  ∧ (∀ (s : State) (tag : Nat) (c : Cmd), Begins s tag 0x043 c → (s.tiu c.unit).st ≠ .outOfUse → (c.arg 0).getLsbD 16 = true →
      s.mbx.streaming = none → c.tun = false → 3 ≤ cqFree s → c.out = none →
      ∃ t, exec (.tiuRead tag) s = .next t ∧ findCmd t tag = none ∧ t.tius = s.tius
        ∧ t.mbx.cq = s.mbx.cq ++ [contRecord tag 0 ((stampStream s c.unit).take 7), contRecord tag 1 ((stampStream s c.unit).drop 7),
            cmdRecord c (finalStatus c OK) false (s.tiu c.unit).res.words])

/-- A write of EVIN_CTL in an Owner session puts its fields into the register, in force from the next edge, and an
enable settles 64 edges on; a threshold that would cross the other is refused with cfg_err and reported as
ignored. A comparator change gives the input its voltage, and each comparator of a unit in force is above its
threshold by half the hysteresis, below it by as much, or as before; only that input changes while the region is
not armed. A refused TRIGn_CTL sets cfg_err alone, an accepted one is stored and in force from the next edge. A
quiet time that runs out in the first sample not yet taken, its input unchanged, restarts and registers its
trigger 25 edges on. EVIN_CONFIG of one cell with accepted values writes thresholds and control; TRIG_CONFIG
stores its condition. -/
def Obligations.EventInputsAndTriggersFollowTheirRegisters : Prop :=
  (∀ (i : Nat) (v : Word) (s : State), 2 ≤ s.sec.host → evinReach s i = .ok → (s.evin i).en = false →
      ∃ t, exec (.evinCtlWrite i v) s = .next t ∧ (t.evin i).en = v.getLsbD 0 ∧ (t.evin i).store = v.getLsbD 7 ∧ (t.evin i).term = v.getLsbD 6
        ∧ (t.evin i).hyst = v.extractLsb' 2 4 ∧ (t.evin i).cfgErr = false ∧ (t.evin i).applyAt = some ((s.region (i / 64)).edge + 1)
        ∧ (t.evin i).settleAt = (if v.getLsbD 0 then some ((s.region (i / 64)).edge + 64) else none)
        ∧ OnlyEvin (s.parityFresh (evinBase i)) t i)
  ∧ (∀ (i : Nat) (v : Word) (s : State), 2 ≤ s.sec.host → evinReach s i = .ok → (s.evin i).thrLo.toNat ≤ fld v 0 10 →
      exec (.thresholdWrite i true v) s = .next ((s.parityFresh (evinBase i + 1)).updEvin i (fun e => { e with
        thrHi := v.extractLsb' 0 10, thrLo := e.thrLo, cfgErr := false, applyAt := some ((s.region (i / 64)).edge + 1) })))
  ∧ (∀ (i : Nat) (v : Word) (s : State), 2 ≤ s.sec.host → evinReach s i = .ok → fld v 0 10 ≤ (s.evin i).thrHi.toNat →
      exec (.thresholdWrite i false v) s = .next ((s.parityFresh (evinBase i + 2)).updEvin i (fun e => { e with
        thrHi := e.thrHi, thrLo := v.extractLsb' 0 10, cfgErr := false, applyAt := some ((s.region (i / 64)).edge + 1) })))
  ∧ (∀ (i : Nat) (hi : Bool) (v : Word) (s : State), 2 ≤ s.sec.host → evinReach s i = .ok →
      (if hi then fld v 0 10 < (s.evin i).thrLo.toNat else (s.evin i).thrHi.toNat < fld v 0 10) →
      exec (.thresholdWrite i hi v) s = .next { (s.parityFresh (evinBase i + if hi then 1 else 2)).updEvin i
        (fun e => { e with cfgErr := true }) with hp.ign := true })
  ∧ (∀ (i e : Nat) (s : State), (s.evin i).settleAt = some e → e ≤ (s.region (i / 64)).edge →
      exec (.evinEnableSettle i) s = .next (s.updEvin i (fun x => { x with settleAt := none })))
  ∧ (∀ (r slot k : Nat) (v : Int) (s : State), Runs s r → k < 64 →
      ∃ t, exec (.evinComparatorChange r slot [(k, v)]) s = .next t ∧ (t.evin (64 * r + k)).volt = v
        ∧ (t.evin (64 * r + k)).hi = ((s.evin (64 * r + k)).force.on
            && compared v ((s.evin (64 * r + k)).force.hiV + Config.evinOffset (64 * r + k) true) (s.evin (64 * r + k)).force.half (s.evin (64 * r + k)).hi)
        ∧ (t.evin (64 * r + k)).lo = ((s.evin (64 * r + k)).force.on
            && compared v ((s.evin (64 * r + k)).force.loV + Config.evinOffset (64 * r + k) false) (s.evin (64 * r + k)).force.half (s.evin (64 * r + k)).lo)
        ∧ ((s.acq r).armed = false → OnlyEvin s t (64 * r + k)))
  ∧ (∀ (r slot n x : Nat) (s : State), x = 8 * (s.region r).edge + slot % 8 → (s.acq r).armed = true → (s.acq r).run.next = x →
      (s.acq r).run.postEnd = none → ((s.acq r).trig (n % 8)).fromEdge = none → ((s.acq r).trig (n % 8)).typ = 3 →
      ((s.acq r).trig (n % 8)).due x = true →
      shown s (64 * r + ((s.acq r).trig (n % 8)).input) x = (s.evin (64 * r + ((s.acq r).trig (n % 8)).input)).smp →
      ∃ t, exec (.triggerQuietTime r slot n) s = .next t ∧ ((t.acq r).trig (n % 8)) = { (s.acq r).trig (n % 8) with from_ := some x }
        ∧ (t.acq r).run.next = x + 1 ∧ (r, 4, n % 8, (s.region r).edge + 25) ∈ t.evRegs)
  ∧ (∀ (r n : Nat) (v : Word) (s : State), 2 ≤ s.sec.host → acqReach s r = .ok → n < 8 →
      trigOk v ((s.acq r).trig n).t1 ((s.acq r).trig n).t2 = false →
      exec (.trigRegisterWrite r (0x10 + 4 * n) v) s = .next { (s.parityFresh (regionBase r + 0x5000 + (0x10 + 4 * n))).updAcq r
        (fun a => { a with regs.cfgErr := true }) with hp.ign := true })
  ∧ (∀ (r n : Nat) (v : Word) (s : State), 2 ≤ s.sec.host → acqReach s r = .ok → n < 8 →
      trigOk v ((s.acq r).trig n).t1 ((s.acq r).trig n).t2 = true →
      ∃ t, exec (.trigRegisterWrite r (0x10 + 4 * n) v) s = .next t ∧ ((t.acq r).trig n).ctl = v &&& 0x3FF3F
        ∧ ((t.acq r).trig n).fromEdge = some ((s.region r).edge + 1) ∧ (t.acq r).regs.cfgErr = false
        ∧ ∀ m, m ≠ n → (t.acq r).trig m = (s.acq r).trig m)
  ∧ (∀ (s : State) (tag : Nat) (c : Cmd), Begins s tag 0x050 c → tgtScope c.target = 3 → (c.arg 0 &&& 0x3FF02) = 0 → (c.arg 1 &&& 0x3FC00) = 0 →
      (c.arg 2 &&& 0x3FC00) = 0 → (c.arg 2).toNat ≤ (c.arg 1).toNat → (s.evin c.unit).en = false →
      ∃ t, exec (.evinConfig tag) s = .next t ∧ findCmd t tag = none ∧ (t.evin c.unit).thrHi = (c.arg 1).extractLsb' 0 10
        ∧ (t.evin c.unit).thrLo = (c.arg 2).extractLsb' 0 10 ∧ (t.evin c.unit).en = (c.arg 0).getLsbD 0 ∧ ∀ k, k ≠ c.unit → t.evin k = s.evin k)
  ∧ (∀ (s : State) (tag : Nat) (c : Cmd), Begins s tag 0x051 c → trigOk (c.arg 1) (c.arg 2) (c.arg 3) = true →
      ∃ t, exec (.trigConfig tag) s = .next t ∧ Answered s t c OK [] ∧ ((t.acq c.unit).trig (fld (c.arg 0) 0 3)).ctl = c.arg 1 &&& 0x3FF3F
        ∧ ((t.acq c.unit).trig (fld (c.arg 0) 0 3)).t1 = c.arg 2 ∧ ((t.acq c.unit).trig (fld (c.arg 0) 0 3)).t2 = c.arg 3)

/-- An accepted arm in an Owner session clears the counters and sets A0 eight edges on; on A0 a strand opens in
WAIT. POST_TIME_EXPIRY, with the samples up to its end taken, ends the strand: done counts it, and the engine
re-arms while strands remain and is DONE after the last. REARM_END opens the next strand. A stop of a waiting
acquisition makes it DONE. A gap closes with its beads counted in a quiet sample, no condition, mark or stored
input adding to it, once the FIFO has room for 72 beads. ACQ_ARM with refused sizes is BADARG, and of an armed
region PRECOND. ACQ_STREAM without UP in RUN is PRECOND, and off completes OK. ACQ_READ answers header and
beads. A packet takes one credit and waits without one. -/
def Obligations.AcquisitionsOpenAndEndStrands : Prop :=
  (∀ (r : Nat) (v : Word) (s : State), 2 ≤ s.sec.host → acqReach s r = .ok → (s.acq r).armed = false →
      armOk (s.acq r).regs.l.toNat (s.acq r).regs.p.toNat (s.acq r).regs.c.toNat = true →
      ∃ t, exec (.acqCtlArm r v) s = .next t ∧ (t.acq r).run.a0 = some ((s.region r).edge + 8) ∧ (t.acq r).regs.done = 0
        ∧ (t.acq r).regs.missed = 0 ∧ (t.acq r).mem.headers = [] ∧ (t.acq r).armed = true
        ∧ (t.acq r).run.lat = ((s.acq r).regs.l.toNat, (s.acq r).regs.p.toNat, (s.acq r).regs.c.toNat, (s.acq r).regs.post)
        ∧ t.evins = s.evins ∧ ∀ q, q ≠ r → t.acq q = s.acq q)
  ∧ (∀ (r : Nat) (v : Word) (s : State), 2 ≤ s.sec.host → acqReach s r = .ok → (s.acq r).armed = false →
      armOk (s.acq r).regs.l.toNat (s.acq r).regs.p.toNat (s.acq r).regs.c.toNat = false →
      exec (.acqCtlArm r v) s = .next { (s.parityFresh (regionBase r + 0x5000)).updAcq r (fun a => { a with regs.cfgErr := true }) with
        hp.ign := true })
  ∧ (∀ (r : Nat) (s : State), 2 ≤ s.sec.host → acqReach s r = .ok → (s.acq r).regs.st = .wait → (s.acq r).run.armTag = none →
      ∃ t, exec (.acqCtlStop r) s = .next t ∧ (t.acq r).regs.st = .done ∧ (t.acq r).armed = false ∧ (t.acq r).regs.done = (s.acq r).regs.done
        ∧ (t.acq r).mem.beads = (s.acq r).mem.beads ∧ ∀ q, q ≠ r → t.acq q = s.acq q)
  ∧ (∀ (r e : Nat) (s : State), (s.acq r).run.a0 = some e → e ≤ (s.region r).edge → (s.acq r).run.armTag = none →
      ∃ t, exec (.acqStartEdge r) s = .next t ∧ (t.acq r).regs.st = .wait ∧ (t.acq r).run.a0 = none ∧ (t.acq r).run.beads = []
        ∧ t.mbx = s.mbx ∧ ∀ q, q ≠ r → t.acq q = s.acq q)
  ∧ (∀ (r e : Nat) (tr : Nat × List Word × Nat × Nat) (s : State), (s.acq r).run.postEnd = some e → (s.acq r).run.trig = some tr →
      (s.acq r).regs.st = .post → e ≤ (s.region r).edge →
      tr.1 + 8 * (s.acq r).run.lat.2.2.2 ≤ (s.acq r).run.next → (s.acq r).regs.done + 1 < (s.acq r).run.lat.2.2.1 →
      tr.2.1.length = 4 →
      ∃ t, exec (.postTimeExpiry r) s = .next t ∧ (t.acq r).regs.done = (s.acq r).regs.done + 1 ∧ (t.acq r).regs.st = .rearm
        ∧ (t.acq r).run.beads = [] ∧ (tabGet [] (t.acq r).mem.headers (s.acq r).regs.done).length = 18
        ∧ ∀ k, k < (s.acq r).regs.done * (s.acq r).run.lat.1 → tabGet 0 (t.acq r).mem.beads k = tabGet 0 (s.acq r).mem.beads k)
  ∧ (∀ (r e : Nat) (tr : Nat × List Word × Nat × Nat) (s : State), (s.acq r).run.postEnd = some e → (s.acq r).run.trig = some tr →
      (s.acq r).regs.st = .post → e ≤ (s.region r).edge →
      tr.1 + 8 * (s.acq r).run.lat.2.2.2 ≤ (s.acq r).run.next → (s.acq r).run.lat.2.2.1 ≤ (s.acq r).regs.done + 1 →
      ∃ t, exec (.postTimeExpiry r) s = .next t ∧ (t.acq r).regs.done = (s.acq r).regs.done + 1 ∧ (t.acq r).regs.st = .done
        ∧ (t.acq r).armed = false)
  ∧ (∀ (r : Nat) (s : State), (s.acq r).regs.st = .rearm →
      ∃ t, exec (.rearmEnd r) s = .next t ∧ (t.acq r).regs.st = .wait ∧ (t.acq r).regs.done = (s.acq r).regs.done
        ∧ (t.acq r).run.blind = (s.region r).edge - (s.acq r).run.endAt ∧ t.mbx = s.mbx ∧ ∀ q, q ≠ r → t.acq q = s.acq q)
  ∧ (∀ (r slot f n : Nat) (s : State), (s.acq r).run.gap = some (f, n) → (s.acq r).regs.st = .wait → (s.acq r).room72 = true →
      (s.acq r).run.next = 8 * (s.region r).edge + slot % 8 → (s.acq r).run.marks = [] → (s.acq r).run.forced = [] →
      (s.acq r).regs.trigs = [] →
      (s.acq r).regs.gapCount < 0x3FFFE → (s.acq r).regs.lostBeads + n < 0x3FFFF → (∀ i, i < 64 → (s.evin (64 * r + i)).store = false) →
      ∃ t, exec (.gapClose r slot) s = .next t ∧ (t.acq r).run.gap = none ∧ (t.acq r).regs.gapCount = (s.acq r).regs.gapCount + 1
        ∧ (t.acq r).regs.lostBeads = (s.acq r).regs.lostBeads + n ∧ (t.acq r).regs.st = .wait)
  ∧ (∀ (s : State) (tag : Nat) (c : Cmd), Begins s tag 0x052 c → armOk (c.arg 0).toNat (c.arg 1).toNat (c.arg 2).toNat = true →
      (s.acq c.unit).armed = false →
      ∃ t, exec (.acqArm tag) s = .next t ∧ (t.acq c.unit).run.a0 = some ((s.region c.unit).edge + 8) ∧ (t.acq c.unit).run.armTag = some tag
        ∧ (t.acq c.unit).run.lat = ((c.arg 0).toNat, (c.arg 1).toNat, (c.arg 2).toNat, (c.arg 3 ++ c.arg 4).toNat) ∧ t.mbx = (begun s tag).mbx)
  ∧ (∀ (s : State) (tag : Nat) (c : Cmd), Begins s tag 0x052 c → armOk (c.arg 0).toNat (c.arg 1).toNat (c.arg 2).toNat = true →
      (s.acq c.unit).armed = true → exec (.acqArm tag) s = .next (complete (begun s tag) tag PRECOND []))
  ∧ (∀ (s : State) (tag : Nat) (c : Cmd), Begins s tag 0x053 c → (s.acq c.unit).armed = false →
      exec (.acqStop tag) s = .next (complete (begun s tag) tag OK [wd (s.acq c.unit).regs.done]))
  ∧ (∀ (s : State) (tag : Nat) (soft : Bool) (c : Cmd), Begins s tag 0x054 c → (s.acq c.unit).storing = false →
      fld (c.arg 0) 0 12 < (s.acq c.unit).regs.done → 1 ≤ (c.arg 2).toNat → (c.arg 2).toNat ≤ 65536 →
      (c.arg 1).toNat + (c.arg 2).toNat ≤ (s.acq c.unit).run.lat.1 → s.flt.badWords = [] →
      ∃ u data, exec (.acqRead tag soft) s = .next (completeWith u tag OK data
          [wd data.length, (strandHeader s c.unit (fld (c.arg 0) 0 12)).getD 6 0])
        ∧ data.take 18 = strandHeader s c.unit (fld (c.arg 0) 0 12) ∧ data.length = 18 + 2 * (c.arg 2).toNat
        ∧ u.mbx = (begun s tag).mbx ∧ u.acqs = s.acqs)
  ∧ (∀ (s : State) (tag : Nat) (c : Cmd), Begins s tag 0x055 c → (c.arg 0).getLsbD 0 = true → portPresent s 0 = false ∨ (s.port 0).st ≠ .run →
      exec (.acqStream tag) s = .next (complete (begun s tag) tag PRECOND []))
  ∧ (∀ (s : State) (tag : Nat) (c : Cmd), Begins s tag 0x055 c → (c.arg 0).getLsbD 0 = false →
      exec (.acqStream tag) s = .next (complete ((begun s tag).updAcq c.unit (fun a => { a with mem.stream := false })) tag OK [0]))
  ∧ (∀ (r : Nat) (s : State), (s.port 0).st = .run → streamTurn s r = true → (s.acq r).mem.lostQ ≠ [] → (s.port 0).credits = 0 →
      ∃ t, exec (.streamPacketSend r) s = .next t ∧ (t.port 0).events = (s.port 0).events.postBit 5 ∧ t.acqs = s.acqs)
  ∧ (∀ (r l : Nat) (ls : List Nat) (s : State), (s.port 0).st = .run → streamTurn s r = true → (s.acq r).mem.lostQ = l :: ls → 0 < (s.port 0).credits →
      ∃ t, exec (.streamPacketSend r) s = .next t ∧ (t.port 0).credits = (s.port 0).credits - 1 ∧ (t.acq r).mem.lostQ = ls
        ∧ (t.port 0).tx.length = (s.port 0).tx.length + 1)
  ∧ (∀ (r k : Nat) (ks : List Nat) (s : State), (s.port 0).st = .run → streamTurn s r = true → (s.acq r).mem.lostQ = [] →
      (s.acq r).mem.sendQ = k :: ks → (s.acq r).mem.stream = true → 0 < (s.port 0).credits → s.flt.badWords = [] →
      2 + 9 * ((18 + 2 * ((strandHeader s r k).getD 6 0).toNat + 31) / 32) ≤ (s.acq r).mem.sent + 64 →
      ∃ t, exec (.streamPacketSend r) s = .next t ∧ (t.port 0).credits = (s.port 0).credits - 1 ∧ (t.acq r).mem.sendQ = ks
        ∧ (t.acq r).mem.sent = 0 ∧ (t.port 0).tx.length = (s.port 0).tx.length + 1)
  ∧ (∀ (r : Nat) (h : HeldRec) (s : State), (s.acq r).mem.held = some h → cqAccepts s = true →
      ∃ t, exec (.heldRecordPost true r) s = .next t ∧ (t.acq r).mem.held = none ∧ t.mbx.cq = s.mbx.cq ++ [withLost h.words h.lost])

/-- For every row of a Hitan command: an accepted command of its opcode whose turn has come and that fails one of
the dispatch checks completes with the status of the first, ABSENT for a tree target that no device answers at
(log entries 3 and 42), and with no other effect than that a host measurement leaves its arbiter's queue; one
that passes the checks after its deadline completes with TIMEOUT in the same way; one that passes and must wait
for a predecessor or a fence only becomes waiting; one that meets a hold becomes waiting with the held mark, or
completes BUSY with no_wait. RESET is checked the same way but waits for nothing, and an EPOCH_SET that passes
while an earlier one has its load edge ahead completes with BUSY at once (log entry 20). -/
def Obligations.RefusedCommandsOnlyAnswer : Prop :=
  ∀ (i : Instr) (tag op : Nat) (s : State) (c : Cmd), hitanOp i = some (tag, op) → findCmd s tag = some c → c.opcode = op → c.st = .accepted →
    mayDispatch s c = true →
    (∀ st, checkReach s c (unreached i s c) = some st → exec i s = .next (complete (unqueue s c) tag st []))
    ∧ (checkReach s c (unreached i s c) = none → deadlinePassed s c = true → exec i s = .next (complete (unqueue s c) tag TIMEOUT []))
    ∧ (epochLate s c = true → exec i s = .next (complete s tag BUSY []))
    ∧ (op ≠ 0x002 → checkReach s c (unreached i s c) = none → deadlinePassed s c = false → epochLate s c = false → mustWait s c = true →
        exec i s = .next (setCmd s tag (fun c => { c with st := .waiting })))
    ∧ (op ≠ 0x002 → checkReach s c (unreached i s c) = none → deadlinePassed s c = false → epochLate s c = false → mustWait s c = false →
        onHold s c = true →
        exec i s = .next (
          if c.noWait then complete (setCmd s tag (fun c => { c with st := .waiting, held := true })) tag BUSY []
          else setCmd s tag (fun c => { c with st := .waiting, held := true })))

/-- A word pushed with room joins the batch; without room the batch is bad and the word is discarded and counted. A
doorbell that names the batch's length hands it to the parser; another length discards it and posts event 2, and
a doorbell of count 0 with no words has no effect. Parsing a batch of one well-formed descriptor of a free tag
accepts its command; a malformed one is answered BADARG with event 3; without room for a record parsing stops,
and PARSE_RESUME goes on once there is room. A pop moves through the eight words and at the last removes the
record and keeps it for MBX_REPOP. An age expiry with records and a coalescing time marks them aged. A stopped
stream with nothing left completes. A command of no known opcode is BADARG, and one whose deadline is reached
TIMEOUT. -/
def Obligations.TheMailboxQueuesParsesAndPops : Prop :=
  (∀ (w : Word) (s : State), s.pwr.wiped = true → sqFree s ≠ 0 →
      exec (.mbxPushWrite w) s = .next { s with mbx.batch := s.mbx.batch ++ [w] })
  ∧ (∀ (w : Word) (s : State), s.pwr.wiped = true → sqFree s = 0 →
      ∃ t, exec (.mbxPushWrite w) s = .next t ∧ t.mbx.batchBad = true ∧ t.mbx.batch = s.mbx.batch
        ∧ t.mbx.discard = satAdd 0x3FFFF s.mbx.discard 1 ∧ t.mbx.cmds = s.mbx.cmds ∧ t.mbx.cq = s.mbx.cq)
  ∧ (∀ (w : Word) (s : State), s.pwr.wiped = true → s.mbx.batch ≠ [] → s.mbx.batchBad = false → fld w 0 14 = s.mbx.batch.length →
      exec (.mbxDoorbellWrite w) s = .next { s with mbx.batch := [], mbx.batchBad := false, mbx.unparsed := s.mbx.unparsed ++ [s.mbx.batch] })
  ∧ (∀ (w : Word) (s : State), s.pwr.wiped = true → s.mbx.batch ≠ [] → fld w 0 14 ≠ s.mbx.batch.length →
      ∃ t, exec (.mbxDoorbellWrite w) s = .next t ∧ t.mbx.batch = [] ∧ t.mbx.unparsed = s.mbx.unparsed
        ∧ t.mbx.discard = satAdd 0x3FFFF s.mbx.discard s.mbx.batch.length ∧ t.mbx.status = s.mbx.status.postBit 2)
  ∧ (∀ (w : Word) (s : State), s.mbx.batch = [] → fld w 0 14 = 0 → exec (.mbxDoorbellWrite w) s = .next s)
  ∧ (∀ (b : List Word) (s : State), s.mbx.unparsed = [b] → cqFree s ≠ 0 → malformed b = false → tagInFlight s (cmdOf b false).tag = false →
      fld (b.getD 2 0) 0 5 = b.length →
      exec .batchParse s = .next { s with mbx.cmds := s.mbx.cmds ++ [cmdOf b false], mbx.unparsed := [] })
  ∧ (∀ (b : List Word) (s : State), s.mbx.unparsed = [b] → b ≠ [] → cqFree s ≠ 0 → malformed b = true → tagInFlight s (cmdOf b false).tag = false →
      ∃ t, exec .batchParse s = .next t ∧ t.mbx.unparsed = [] ∧ t.mbx.cmds = s.mbx.cmds
        ∧ t.mbx.cq = s.mbx.cq ++ [cmdRecord (cmdOf b false) BADARG false []] ∧ t.mbx.status = s.mbx.status.postBit 3)
  ∧ (∀ (b : List Word) (s : State), s.mbx.unparsed = [b] → cqFree s ≠ 0 → malformed b = false → tagInFlight s (cmdOf b false).tag = false →
      fld (b.getD 2 0) 0 5 = b.length →
      exec .parseResume s = .next { s with mbx.cmds := s.mbx.cmds ++ [cmdOf b false], mbx.unparsed := [] })
  ∧ (∀ s : State, cqFree s = 0 → exec .parseResume s = .next s)
  ∧ (∀ (r : List Word) (rs : List (List Word)) (s : State), s.pwr.wiped = true → s.mbx.cq = r :: rs → s.mbx.popPos = 7 →
      exec .mbxPopRead s = .next { s with mbx.cq := rs, mbx.popPos := 0, mbx.repop := r, mbx.aged := false })
  ∧ (∀ s : State, s.pwr.wiped = true → s.mbx.cq ≠ [] → s.mbx.popPos ≠ 7 →
      exec .mbxPopRead s = .next { s with mbx.popPos := s.mbx.popPos + 1 })
  ∧ (∀ s : State, s.mbx.cq ≠ [] → s.mbx.coalTime ≠ 0 → exec .coalesceAgeExpiry s = .next { s with mbx.aged := true })
  ∧ (∀ (s : State) (tag n st : Nat) (c : Cmd) (res : List Word), findCmd s tag = some c → c.out = some (n, [], st, res) →
      s.mbx.streaming = none ∨ s.mbx.streaming = some tag →
      exec (.continuationResume tag) s = .next (complete s tag st res))
  ∧ (∀ (s : State) (tag : Nat) (c : Cmd), findCmd s tag = some c → formOf c.opcode = none → mayDispatch s c = true →
      exec (.unknownOpcode tag) s = .next (complete s tag BADARG []))
  ∧ (∀ (s : State) (tag : Nat) (c : Cmd), findCmd s tag = some c → s.mbx.mpRestart = false → c.st ≠ .executing → deadlinePassed s c = true →
      exec (.deadlineExpiry tag) s = .next (complete (unqueue s c) tag TIMEOUT []))

/-- With firmware running and room in the FIFO, a watchdog, lockstep or MP RAM fault begins an MP restart with its
record 0x30, 0x31 or 0x32, while no three restarts are remembered; a fourth whose time since the first is within
ten seconds of RC time (log entry 24) resets the chip. MP_RESTART without runs ends it: executing commands
leave, the others are accepted anew and event 0 is posted. A deadlock of segment 6 drops the calibration commit.
A scrubbed new uncorrectable word of event memory is marked, and a corrected one counted in its region.
LOG_OVERFLOW records and clears the dropped count. MIRROR_WRITE moves the mirror on, or marks it bad. A parity
fault found by REGISTER_SCRUB is recorded, once until the register is written, and FAULT_LOG_READ sends the
records asked for. -/
def Obligations.FaultsAreRecordedAndMpRestarts : Prop :=
  let Restarts := fun (i : Instr) (cause qual : Nat) (detail : Word) (s : State) =>
    mpRuns s = true → s.flt.fifo.length < 32 → s.flt.restarts.length < 3 →
    ∃ t, exec i s = .next t ∧ t.mbx = { s.mbx with mpRestart := true } ∧ t.cells = s.cells ∧ t.regions = s.regions
      ∧ t.flt.restarts = leadEdge s :: s.flt.restarts
      ∧ t.flt.fifo = s.flt.fifo ++ [faultRecord s.flt.entry 3 cause 10 qual 0 (chipStamp s) detail]
  (∀ (s : State) (a : Word), Restarts (.mpWatchdog) 0x30 0 0 s ∧ Restarts (.mpLockstep a) 0x31 0 a s ∧ Restarts (.mpRamEcc a) 0x32 11 a s)
  ∧ (∀ (a b c : Nat) (s : State), mpRuns s = true → s.flt.restarts = [a, b, c] → withinRc s (leadEdge s - c) 8000000000 = true →
      ∃ t, exec .mpWatchdog s = .next t ∧ t.pwr.phase = .reset ∧ t.pwr.latch = 2)
  ∧ (∀ s : State, s.mbx.mpRestart = true → s.cal.runs = [] → s.bist.runs = [] →
      ∃ t, exec .mpRestart s = .next t ∧ t.mbx.mpRestart = false ∧ (∀ c ∈ t.mbx.cmds, c.st = .accepted ∧ c.held = false)
        ∧ (∀ c ∈ s.mbx.cmds, c.st = .executing → findCmd t c.tag = none) ∧ t.sec.pinTag = none ∧ t.bist.burn = none ∧ t.cal.commit = none
        ∧ t.profiles = s.profiles ∧ t.hopTab = s.hopTab ∧ t.lk.lc = s.lk.lc ∧ t.fuses = s.fuses)
  ∧ (∀ (u : Nat) (s : State), s.pwr.phase ≠ .reset → (∀ c ∈ s.mbx.cmds, c.opcode ≠ 0x062 ∧ c.opcode ≠ 0x063) →
      ∃ t, exec (.fabricDeadlock 6 u) s = .next t ∧ t.cal.commit = none ∧ t.cal.user = s.cal.user ∧ t.mbx = s.mbx ∧ t.cells = s.cells)
  ∧ (∀ (r mem addr : Nat) (b : Bool) (s : State), Runs s r → mem < 9 → addr < memSize mem → (mem, r * memSize mem + addr) ∉ s.flt.badWords →
      exec (.eccScrub r mem addr true b) s = .next { s with flt.badWords := s.flt.badWords ++ [(mem, r * memSize mem + addr)] })
  ∧ (∀ (r mem addr : Nat) (s : State), Runs s r → mem ≤ 10 → addr < memSize mem → (mem, r * memSize mem + addr) ∉ s.flt.badWords →
      (s.region r).eccCorr < 0x3FFFE →
      ∃ t, exec (.eccScrub r mem addr false true) s = .next t ∧ (t.region r).eccCorr = (s.region r).eccCorr + 1
        ∧ t.flt.badWords = s.flt.badWords ∧ t.profiles = s.profiles ∧ t.hopTab = s.hopTab ∧ t.acqs = s.acqs)
  ∧ (∀ s : State, 0 < s.flt.dropped → s.flt.fifo.length < 32 → ∃ t, exec .logOverflow s = .next t ∧ t.flt.dropped = 0
        ∧ t.flt.entry = s.flt.entry + 1 ∧ t.mbx = s.mbx ∧ t.cells = s.cells)
  ∧ (∀ (x : List Word) (xs : List (List Word)) (s : State), mpRuns s = true → s.flt.toMirror = x :: xs →
      ∃ t, exec (.mirrorWrite true) s = .next t ∧ t.flt.toMirror = xs ∧ t.flt.mirrorPos = (s.flt.mirrorPos + 1) % 8192 ∧ t.flt.mirrorBad = false
        ∧ t.cells = s.cells ∧ t.mbx = s.mbx ∧ t.lk = s.lk)
  ∧ (∀ (x : List Word) (xs : List (List Word)) (s : State), mpRuns s = true → s.flt.toMirror = x :: xs →
      ∃ t, exec (.mirrorWrite false) s = .next t ∧ t.flt.mirrorBad = true ∧ t.flt.mirrorPos = s.flt.mirrorPos ∧ t.fl = s.fl)
  ∧ (∀ (a : Nat) (s : State), hasParity (locate true a) = true → regPresent s (locate true a) = true → regReach s (locate true a) ≠ .gated →
      let told := ((locate true a).addr, regVal s (locate true a))
      (told ∉ s.hc.scrubbed → exec (.registerScrub a true) s = .next (parityFault
        { s with hc.scrubbed := s.hc.scrubbed.filter (fun y => decide (y.1 ≠ told.1)) ++ [told] } (locate true a) a))
      ∧ (told ∈ s.hc.scrubbed → exec (.registerScrub a true) s = .next s))
  ∧ (∀ (a : Nat) (s : State), exec (.registerScrub a false) s = .next s)
  ∧ (∀ (s : State) (tag : Nat) (c : Cmd), Begins s tag 0x0A3 c → 1 ≤ (c.arg 1).toNat → (c.arg 1).toNat ≤ 256 →
      ∃ data, exec (.faultLogRead tag) s = .next (completeWith (begun s tag) tag OK data [wd data.length, wd s.flt.logged])
        ∧ ∀ k, k < (c.arg 1).toNat → (∀ x ∈ s.flt.ring, x.length = 8) →
            (data.drop (8 * k)).take 8 = s.flt.ring.getD ((c.arg 0).toNat + k) (List.replicate 8 0))

/-- A begun CAL_RUN of a TIU whose conditions hold queues its unit at the block's arbiter; bad operands are BADARG
and failed conditions PRECOND. A measured TIU item that agrees at its point enters the pending set and the run,
with nothing left, completes OK with one item entered. CAL_STATUS answers its five words. CAL_COMMIT without a
pending set is PRECOND, with discard drops it, and else stages the merged set; CAL_COMMIT_WRITTEN puts it in
force in the other bank, or fails with the set in force unchanged; it also makes every cell of the device
deferred and gives every running region its application edge, at an aligned edge. On an aligned edge
CAL_DEFERRED_APPLY takes every enabled cell of its region out of the deferred ones. On an application edge the
edge is consumed: a commit that is not immediate moves no cell, a change of TH64 mode moves the element
selection of its own region's cells alone. On another edge neither row does anything. CAL_EXPORT of an absent
USER set is PRECOND. CAL_IMPORT_TH64 outside TH64 mode is PRECOND and stages its parts inside. -/
def Obligations.CalibrationRunsUnitsAndCommits : Prop :=
  (∀ (s : State) (tag : Nat) (c : Cmd), Begins s tag 0x060 c → tgtScope c.target = 4 → calArgOk c.target (c.arg 0) = true →
      calPrecond s c.target (c.arg 0) = true → c.noWait = false → (c.arg 0).getLsbD 1 = true → (c.arg 0).getLsbD 0 = false →
      (c.arg 0).getLsbD 2 = false → blockPresent s (tiuBlock c.unit) = true →
      ∃ t, exec (.calRun tag) s = .next t ∧ (t.block (tiuBlock c.unit)).waiting = (s.block (tiuBlock c.unit)).waiting ++ [(.cal, tag)]
        ∧ t.cal.runs = s.cal.runs ++ [{ tag := tag, items := wd (fld (c.arg 0) 0 3), point := fld (c.arg 0) 4 3, todo := [(tiuBlock c.unit, [{ kind := 0, unit := c.unit }])] }]
        ∧ t.cells = s.cells ∧ t.tius = s.tius ∧ t.mbx = (begun s tag).mbx)
  ∧ (∀ (s : State) (tag : Nat) (c : Cmd), Begins s tag 0x060 c → calArgOk c.target (c.arg 0) = false →
      exec (.calRun tag) s = .next (complete (begun s tag) tag BADARG []))
  ∧ (∀ (s : State) (tag : Nat) (c : Cmd), Begins s tag 0x060 c → calArgOk c.target (c.arg 0) = true → calPrecond s c.target (c.arg 0) = false →
      exec (.calRun tag) s = .next (complete (begun s tag) tag PRECOND []))
  ∧ (∀ (b n : Nat) (r : CalRun) (m : Meas) (v : List Int) (c : Cmd) (s : State), s.cal.runs = [r] → r.granted = [b] →
      r.todo = [(b, [{ kind := 0, unit := n }])] → r.done = [] → r.counts = (0, 0, 0) → r.early = none → m.code = 0x10 → m.unit = n →
      nearPoint s b r.point = true → judge m = some v → findCmd s r.tag = some c →
      ∃ t, exec (.calUnitMeasured b true [m]) s = .next t ∧ t.cal.runs = []
        ∧ (t.cal.pend.getD []).any (fun e => decide (e.1 = calKey 0x10 n r.point) && decide (e.2.vals = v)) = true
        ∧ (t.block b).tiuHeld = [] ∧ Answered s t c OK [1, 0, 0] ∧ t.cells = s.cells)
  ∧ (∀ (s : State) (tag : Nat) (c : Cmd), Begins s tag 0x061 c →
      exec (.calStatus tag) s = .next (complete (begun s tag) tag OK
        [wd (b2n s.cal.pend.isSome * 2 + b2n (decide (s.cal.user ≠ []))), wd s.cal.seq, wd (s.cal.pend.getD []).length,
         if s.cal.facOk then s.cal.facSeq else 0, wd s.cal.bank]))
  ∧ (∀ (s : State) (tag : Nat) (c : Cmd), Begins s tag 0x062 c → s.flt.locketBad = false → s.cal.pend = none →
      exec (.calCommit tag) s = .next (complete (begun s tag) tag PRECOND []))
  ∧ (∀ (s : State) (tag : Nat) (c : Cmd) (p : CalSet), Begins s tag 0x062 c → s.flt.locketBad = false → s.cal.pend = some p → s.cal.runs = [] →
      (c.arg 0).getLsbD 1 = true →
      exec (.calCommit tag) s = .next (complete { begun s tag with cal.pend := none, cal.pendRefin := 0 } tag OK []))
  ∧ (∀ (s : State) (tag : Nat) (c : Cmd) (p : CalSet), Begins s tag 0x062 c → s.flt.locketBad = false → s.cal.pend = some p → s.cal.runs = [] →
      (c.arg 0).getLsbD 1 = false →
      ∃ t, exec (.calCommit tag) s = .next t ∧ t.cal.user = s.cal.user ∧ t.cal.bank = s.cal.bank ∧ t.cal.pend = some p
        ∧ t.cal.commit = some (tag, (c.arg 0).getLsbD 0, mergeSet s.cal.user p, 1 - s.cal.bank, (s.cal.counter + 1) % 2 ^ 36)
        ∧ (calBank t (1 - s.cal.bank)).userOk = false ∧ t.mbx = (begun s tag).mbx)
  ∧ (∀ (s : State) (tag B n : Nat) (imm : Bool) (set : CalSet) (c : Cmd), s.cal.commit = some (tag, imm, set, B, n) → B ≤ 1 → findCmd s tag = some c →
      ∃ t, exec (.calCommitWritten true) s = .next t ∧ t.cal.user = set ∧ t.cal.prev = s.cal.user ∧ t.cal.bank = B ∧ t.cal.seq = n
        ∧ t.cal.pend = none ∧ t.cal.commit = none ∧ (calBank t B).user = set ∧ (calBank t B).userOk = true
        ∧ (calBank t (1 - B)).user = (calBank s (1 - B)).user ∧ Answered s t c OK [wd (n / 2 ^ 18), wd (n % 2 ^ 18)] ∧ t.cells = s.cells
        ∧ t.cal.deferred.map (fun d => d.1) = allCells s
        ∧ t.cal.applyAt = s.cal.applyAt ++ (runningRegions s).map (fun r => (r, alignedEdge (s.region r) 1024, some imm)))
  ∧ (∀ (s : State) (tag B n : Nat) (imm : Bool) (set : CalSet), s.cal.commit = some (tag, imm, set, B, n) →
      exec (.calCommitWritten false) s = .next (complete { s with cal.commit := none } tag FAULT []))
  ∧ (∀ (r : Nat) (s : State), (s.region r).time.toNat % 1024 = 0 →
      ∃ t, exec (.calDeferredApply r) s = .next t ∧ (∀ x ∈ t.cal.deferred, x ∈ s.cal.deferred ∧ (cellRegion x.1 = r → (s.cell x.1).cfg.ctl.en = false))
        ∧ (∀ p, cellRegion p ≠ r → t.cell p = s.cell p) ∧ t.cal.user = s.cal.user)
  ∧ (∀ (r : Nat) (s : State), (s.region r).time.toNat % 1024 ≠ 0 → exec (.calDeferredApply r) s = .next s)
  ∧ (∀ (r : Nat) (imm : Bool) (s : State), s.cal.applyAt = [(r, (s.region r).edge, some imm)] →
      ∃ t, exec (.calApplicationEdge r) s = .next t ∧ t.cal.applyAt = [] ∧ t.cal.user = s.cal.user
        ∧ (imm = false → t.cells = s.cells) ∧ ∀ i, i / 64 ≠ r → t.evin i = s.evin i)
  ∧ (∀ (r : Nat) (s : State), s.cal.applyAt = [(r, (s.region r).edge, none)] → (s.mem r).th64.getLsbD 17 ≠ (s.mem r).th64.getLsbD 0 →
      ∃ t, exec (.calApplicationEdge r) s = .next t ∧ t.cal.applyAt = [] ∧ t.evins = s.evins
        ∧ (t.mem r).th64.getLsbD 17 = (s.mem r).th64.getLsbD 0 ∧ (t.mem r).th64.getLsbD 0 = (s.mem r).th64.getLsbD 0
        ∧ ∀ p, cellRegion p ≠ r → t.cell p = s.cell p)
  ∧ (∀ (r : Nat) (s : State), (∀ x ∈ s.cal.applyAt, x.1 = r → x.2.1 ≠ (s.region r).edge) → exec (.calApplicationEdge r) s = .next s)
  ∧ (∀ (s : State) (tag : Nat) (c : Cmd), Begins s tag 0x063 c → s.flt.locketBad = false → (c.arg 0).getLsbD 0 = true → s.cal.user = [] →
      exec (.calExport tag) s = .next (complete (begun s tag) tag PRECOND []))
  ∧ (∀ (s : State) (tag : Nat) (c : Cmd), Begins s tag 0x063 c → s.flt.locketBad = false → (c.arg 0).getLsbD 0 = false → s.cal.facOk = true →
      exec (.calExport tag) s = .next (completeWith (begun s tag) tag OK (packBytes (signRecord s (facBody s)))
        [wd (packBytes (signRecord s (facBody s))).length, wd (signRecord s (facBody s)).length]))
  ∧ (∀ (s : State) (tag : Nat) (c : Cmd), Begins s tag 0x064 c → s.th64On c.unit = false →
      exec (.calImportTh64 tag) s = .next (complete (begun s tag) tag PRECOND []))
  ∧ (∀ (s : State) (tag : Nat) (c : Cmd), Begins s tag 0x064 c → s.th64On c.unit = true → (c.arg 0).getLsbD 17 = false →
      fld (c.arg 0) 0 12 = (s.mem c.unit).thStage.2 →
      exec (.calImportTh64 tag) s = .next (complete ((begun s tag).updMem c.unit (fun m => { m with
        thStage := (m.thStage.1 ++ c.args.drop 1, m.thStage.2 + 1) })) tag OK []))

/-- A begun BIST_RUN with an accepted mask, unbarred, joins the queue of runs without completing; a refused mask is
BADARG. A slot grant in a steady pace at P2 or above asks the arbiter for the run's block. OFFLINE_START with
every grant puts the block OFFLINE and saves its cells; OFFLINE_RESTORE ends that. The end of an ONLINE test
outside service records its outcomes and completes the run. BIST_RESULT answers the stored outcome; a test above
5 is BADARG. -/
def Obligations.SelfTestsTakeSlotsAndRestore : Prop :=
  (∀ (s : State) (tag : Nat) (c : Cmd), Begins s tag 0x070 c → bistMaskOk (tgtScope c.target) (BitVec.ofNat 6 (c.arg 0).toNat) = true →
      bistBarred s (tgtScope c.target) c.unit (BitVec.ofNat 6 (c.arg 0).toNat) = false → c.noWait = false →
      exec (.bistRun tag) s = .next { begun s tag with
        bist.runs := s.bist.runs ++ [{ tag := tag, tests := BitVec.ofNat 6 (c.arg 0).toNat, periods := bistPeriods (tgtScope c.target) c.unit (BitVec.ofNat 6 (c.arg 0).toNat) }] })
  ∧ (∀ (s : State) (tag : Nat) (c : Cmd), Begins s tag 0x070 c → bistMaskOk (tgtScope c.target) (BitVec.ofNat 6 (c.arg 0).toNat) = false →
      exec (.bistRun tag) s = .next (complete (begun s tag) tag BADARG []))
  ∧ (∀ (B : Nat) (r : BistRun) (s : State), s.bist.runs = [r] → r.stage = .waitSlot → r.periods = [.block B] → s.pace.st = .steady → 2 ≤ s.pace.level →
      ∃ t, exec .selfTestSlotGrant s = .next t ∧ t.bist.runs = [{ r with stage := .waitGrant }] ∧ t.bist.paceHold = true
        ∧ (t.block B).waiting = (s.block B).waiting ++ [(.offline, r.tag)] ∧ (t.block B).bistState = 1 ∧ t.cells = s.cells)
  ∧ (∀ (B : Nat) (r : BistRun) (s : State), s.bist.runs = [r] → r.stage = .waitGrant → r.periods = [.block B] → (s.block B).waiting = [] →
      ∃ t, exec (.offlineStart (B / 4)) s = .next t ∧ (t.block B).offline = true ∧ (t.block B).bistState = 3
        ∧ (t.block B).offAt = (s.region (B / 4)).edge ∧ (t.block B).saved = (blockCells B).map (fun p => (p, s.cell p))
        ∧ t.bist.runs = [{ r with stage := .testing, faulted := [] }] ∧ ∀ C, C ≠ B → t.block C = s.block C)
  ∧ (∀ (B dur : Nat) (r : BistRun) (s : State), B < 16 → s.bist.runs = [r] → r.stage = .testing → r.periods = [.block B] →
      (s.block B).failed = [] → (s.block B).waiting = [] →
      ∃ t, exec (.offlineRestore (B / 4) [] dur) s = .next t ∧ (t.block B).offline = false ∧ (t.block B).bistState = 0 ∧ (t.block B).saved = []
        ∧ (t.block B).tiuHeld = [] ∧ t.bist.runs = [] ∧ findCmd t r.tag = none)
  ∧ (∀ (b n dur : Nat) (ps : List SlotKind) (r : BistRun) (s : State), s.bist.runs = [r] → r.stage = .testing → r.periods = .online n :: ps → n / 16 = b →
      r.seated = false →
      ∃ t, exec (.bistTestsDone b [] dur) s = .next t ∧ t.bist.runs = [] ∧ (t.block b).bistState = 0 ∧ findCmd t r.tag = none
        ∧ ∀ k ∈ testsOf r.tests, (getResult t 3 n k).out = 3)
  ∧ (∀ (s : State) (tag : Nat) (c : Cmd), Begins s tag 0x071 c → 6 ≤ fld (c.arg 0) 0 3 →
      exec (.bistResult tag) s = .next (complete (begun s tag) tag BADARG []))
  ∧ (∀ (s : State) (tag : Nat) (c : Cmd) (x : TestRes), Begins s tag 0x071 c → 2 ≤ fld (c.arg 0) 0 3 → fld (c.arg 0) 0 3 < 6 →
      getResult s (tgtScope c.target) c.unit (fld (c.arg 0) 0 3) = x →
      exec (.bistResult tag) s = .next (complete (begun s tag) tag OK
        [wd (x.out + 4 * b2n x.soft), wd x.passed, wd x.failed, wd (x.count / 2 ^ 18), wd (x.count % 2 ^ 18)]))

/-- With no recovery and no ONLINE test in the block, action 3 is BADARG, action 1 of a faulty spare PRECOND, action
1 with a free spare starts to seat it with the soft map set, and action 2 clears the soft map and completes OK.
REPAIR_BURN with CLASP not open is PRECOND and leaves it; with it open and entries to burn it shuts CLASP and
starts. Each burned entry joins the antifuse bank, the last completes OK, and a failed one FAULT. -/
def Obligations.RepairsMapAndBurn : Prop :=
  (∀ (s : State) (tag : Nat) (c : Cmd), Begins s tag 0x072 c → fld (c.arg 0) 16 2 = 3 →
      exec (.repairApply tag) s = .next (complete (begun s tag) tag BADARG []))
  ∧ (∀ (s : State) (tag : Nat) (c : Cmd), Begins s tag 0x072 c → fld (c.arg 0) 16 2 = 1 → recovering s c.unit = false → onlineRunOf s c.unit = none →
      (s.block c.unit).spareFaulty = true → exec (.repairApply tag) s = .next (complete (begun s tag) tag PRECOND []))
  ∧ (∀ (s : State) (tag : Nat) (c : Cmd), Begins s tag 0x072 c → fld (c.arg 0) 16 2 = 1 → recovering s c.unit = false → onlineRunOf s c.unit = none →
      (s.block c.unit).spareFaulty = false → (s.block c.unit).fusedMap = none → spareFree s c.unit = true →
      ∃ t, exec (.repairApply tag) s = .next t ∧ (t.block c.unit).softMap = some (fld (c.arg 0) 0 4) ∧ (t.block c.unit).holder = some .map
        ∧ (t.block c.unit).seating.map (fun q => (q.c, q.req, q.ret)) = some (fld (c.arg 0) 0 4, .map, false)
        ∧ t.mbx = (begun s tag).mbx)
  ∧ (∀ (s : State) (tag : Nat) (c : Cmd), Begins s tag 0x072 c → fld (c.arg 0) 16 2 = 2 → recovering s c.unit = false → onlineRunOf s c.unit = none →
      ∃ t, exec (.repairApply tag) s = .next t ∧ (t.block c.unit).softMap = none ∧ (t.block c.unit).fusedMap = (s.block c.unit).fusedMap
        ∧ (t.block c.unit).seated = (s.block c.unit).seated ∧ t.cells = s.cells ∧ findCmd t tag = none)
  ∧ (∀ (s : State) (tag : Nat) (c : Cmd), Begins s tag 0x073 c → s.hc.clasp ≠ .opened →
      exec (.repairBurn tag) s = .next (complete (begun s tag) tag PRECOND []))
  ∧ (∀ (s : State) (tag m : Nat) (c : Cmd), Begins s tag 0x073 c → s.hc.clasp = .opened → (c.arg 0).getLsbD 0 = true →
      (s.block (fld (c.arg 1) 0 4)).softMap = some m → fuseUsed s < 128 → s.lk.lc ≠ 4 → slotHeld s = false →
      exec (.repairBurn tag) s = .next { begun s tag with
        hc.clasp := .shut, bist.burn := some (tag, [mapEntry (fld (c.arg 1) 0 4) m], some (fld (c.arg 1) 0 4)) })
  ∧ (∀ (s : State) (tag : Nat) (e f : BitVec 32) (es : List (BitVec 32)) (m : Option Nat), s.bist.burn = some (tag, e :: f :: es, m) →
      exec (.fuseEntryBurned true) s = .next { s with
        bist.fuse := tabSet 0 s.bist.fuse (fuseUsed s) e, bist.burn := some (tag, f :: es, m) })
  ∧ (∀ (s : State) (tag : Nat) (e : BitVec 32) (c : Cmd), s.bist.burn = some (tag, [e], none) → findCmd s tag = some c → e ≠ 0 →
      ∃ t, exec (.fuseEntryBurned true) s = .next t ∧ t.bist.burn = none ∧ tabGet 0 t.bist.fuse (fuseUsed s) = e
        ∧ findCmd t tag = none ∧ t.blocks = s.blocks)
  ∧ (∀ (s : State) (tag : Nat) (e : BitVec 32) (es : List (BitVec 32)) (m : Option Nat) (c : Cmd), s.bist.burn = some (tag, e :: es, m) →
      findCmd s tag = some c →
      ∃ t, exec (.fuseEntryBurned false) s = .next t ∧ t.bist.burn = none ∧ findCmd t tag = none ∧ t.blocks = s.blocks)

/-- With a sound LOCKET a begun SESSION_OPEN of a level that cannot be opened is PRECOND; an Operator request with
the right PIN opens level 1 and clears the count, with a wrong one counts it and waits, after which it is
DENIED, and when locked it is DENIED; step 0 of an Owner or Vendor request sets a challenge; a wrong signature
at step 3 drops it. SESSION_END returns to level 0. PIN_SET stores the hash of good digits. PROT_SET replaces
one row, the Owner row keeping classes 24 to 26, and PROT_READ reads one. With a failed LOCKET check every one
of them is FAULT. -/
def Obligations.SessionsPinAndProtection : Prop :=
  (∀ (s : State) (tag : Nat) (c : Cmd), Begins s tag 0x083 c → s.flt.locketBad = false → fld (c.arg 0) 0 2 ≠ 0 →
      openable s.lk (fld (c.arg 0) 0 2) = false → exec (.sessionOpen tag) s = .next (complete (begun s tag) tag PRECOND []))
  ∧ (∀ (s : State) (tag : Nat) (c : Cmd) (h : BitVec 256) (salt : BitVec 128), Begins s tag 0x083 c → s.flt.locketBad = false →
      fld (c.arg 0) 0 2 = 1 → openable s.lk 1 = true → s.sec.locked = false → s.lk.pin = some (h, salt) →
      pinHash s.lk (c.arg 1) (c.arg 2) salt = h → c.tun = false →
      exec (.sessionOpen tag) s = .next (complete { begun s tag with lk.fails := 0, sec.host := 1 } tag OK [1]))
  ∧ (∀ (s : State) (tag : Nat) (c : Cmd) (h : BitVec 256) (salt : BitVec 128), Begins s tag 0x083 c → s.flt.locketBad = false →
      fld (c.arg 0) 0 2 = 1 → openable s.lk 1 = true → s.sec.locked = false → s.lk.pin = some (h, salt) →
      pinHash s.lk (c.arg 1) (c.arg 2) salt ≠ h →
      ∃ t, exec (.sessionOpen tag) s = .next t ∧ t.sec.host = s.sec.host ∧ t.sec.tunnel = s.sec.tunnel ∧ t.sec.pinTag = some tag
        ∧ (s.lk.fails < 15 → t.lk.fails = s.lk.fails + 1) ∧ t.sec.locked = decide (8 ≤ s.lk.fails + 1) ∧ t.mbx = (begun s tag).mbx)
  ∧ (∀ (s : State) (t : Nat), s.sec.pinTag = some t → exec .pinFailDelayEnd s = .next (complete { s with sec.pinTag := none } t DENIED []))
  ∧ (∀ (s : State) (tag : Nat) (c : Cmd), Begins s tag 0x083 c → s.flt.locketBad = false → fld (c.arg 0) 0 2 = 1 → openable s.lk 1 = true →
      s.sec.locked = true → exec (.sessionOpen tag) s = .next (complete (begun s tag) tag DENIED []))
  ∧ (∀ (s : State) (tag l : Nat) (c : Cmd), Begins s tag 0x083 c → s.flt.locketBad = false → 2 ≤ l → fld (c.arg 0) 0 2 = l →
      openable s.lk l = true → fld (c.arg 0) 2 3 = 0 →
      ∃ t, exec (.sessionOpen tag) s = .next t ∧ t.sec.chal = some (l, rand256 s) ∧ t.sec.sig = [] ∧ t.sec.host = s.sec.host ∧ t.lk = s.lk)
  ∧ (∀ (s : State) (tag l : Nat) (ch : BitVec 256) (c : Cmd), Begins s tag 0x083 c → s.flt.locketBad = false → 2 ≤ l → fld (c.arg 0) 0 2 = l →
      openable s.lk l = true → fld (c.arg 0) 2 3 = 3 → s.sec.chal = some (l, ch) → s.sec.sig.length = 24 →
      ecdsaVerify (sessionKeyOf s.lk l) (sessionMsg s.lk l ch) (unpackWords (s.sec.sig ++ c.args.drop 1)) = false →
      exec (.sessionOpen tag) s = .next (complete { begun s tag with sec.chal := none, sec.sig := [] } tag DENIED []))
  ∧ (∀ (s : State) (tag l : Nat) (ch : BitVec 256) (c : Cmd), Begins s tag 0x083 c → s.flt.locketBad = false → 2 ≤ l → fld (c.arg 0) 0 2 = l →
      openable s.lk l = true → fld (c.arg 0) 2 3 = 3 → s.sec.chal = some (l, ch) → s.sec.sig.length = 24 → c.tun = false →
      ecdsaVerify (sessionKeyOf s.lk l) (sessionMsg s.lk l ch) (unpackWords (s.sec.sig ++ c.args.drop 1)) = true →
      exec (.sessionOpen tag) s = .next (complete { begun s tag with sec.sig := [], sec.host := l } tag OK [wd l]))
  ∧ (∀ s : State, exec .challengeExpiry s = .next { s with sec.chal := none, sec.sig := [] })
  ∧ (∀ (s : State) (tag : Nat) (c : Cmd), Begins s tag 0x084 c → s.flt.locketBad = false → c.tun = false →
      exec (.sessionEnd tag) s = .next (complete { begun s tag with sec.host := 0, sec.chal := none, sec.sig := [] } tag OK [0]))
  ∧ (∀ (s : State) (tag : Nat) (c : Cmd), Begins s tag 0x085 c → s.flt.locketBad = false → bcdOk (c.arg 0) = true → bcdOk (c.arg 1) = true →
      ∃ t, exec (.pinSet tag) s = .next t ∧ t.lk.pin = some (pinHash s.lk (c.arg 0) (c.arg 1) (rand128 s), rand128 s) ∧ t.lk.fails = 0
        ∧ t.sec.locked = false ∧ t.lk.owner = s.lk.owner ∧ Answered s t c OK [])
  ∧ (∀ (s : State) (tag : Nat) (c : Cmd), Begins s tag 0x086 c → s.flt.locketBad = false → fld (c.arg 0) 0 2 = 2 →
      ∃ t, exec (.protSet tag) s = .next t ∧ t.lk.prot2.getLsbD 24 = true ∧ t.lk.prot2.getLsbD 25 = true ∧ t.lk.prot2.getLsbD 26 = true
        ∧ t.lk.prot0 = s.lk.prot0 ∧ t.lk.prot1 = s.lk.prot1 ∧ Answered s t c OK (protWords s.lk.prot2))
  ∧ (∀ (s : State) (tag : Nat) (c : Cmd), Begins s tag 0x086 c → s.flt.locketBad = false → fld (c.arg 0) 0 2 = 1 →
      ∃ t, exec (.protSet tag) s = .next t ∧ t.lk.prot1 = BitVec.ofNat 32 (fld (c.arg 1) 0 16 * 2 ^ 16 + fld (c.arg 2) 0 16)
        ∧ t.lk.prot0 = s.lk.prot0 ∧ t.lk.prot2 = s.lk.prot2 ∧ Answered s t c OK (protWords s.lk.prot1))
  ∧ (∀ (s : State) (tag : Nat) (c : Cmd), Begins s tag 0x087 c → s.flt.locketBad = false → fld (c.arg 0) 0 2 ≠ 3 →
      exec (.protRead tag) s = .next (complete (begun s tag) tag OK (protWords (protRow s.lk (fld (c.arg 0) 0 2)))))
  ∧ (∀ (i : Instr) (s : State) (tag op : Nat) (c : Cmd), hitanOp i = some (tag, op) → op ∈ [0x081, 0x082, 0x083, 0x084, 0x085, 0x086, 0x087, 0x088, 0x089] →
      Begins s tag op c → s.flt.locketBad = true → exec i s = .next (complete (begun s tag) tag FAULT []))

/-- A begun ID_READ answers the eleven identity words, CERT_READ the certificate and HALLMARK its report of 288
bytes with a signature. A LIFECYCLE_SET to the next state with the right serial word writes the state, sets the
pending flag and wipes owner, PIN, table and USER areas; to another state it is PRECOND. Part 0 and the last
part of OWNER_TRANSFER stage the key and start the wipe. LIFECYCLE_WIPE_DONE erases the user area, clears the
flag and completes OK, or reports the failure; outside FACTORY it ends a Vendor session and leaves every other
session. An hour out of reset counts. -/
def Obligations.IdentityAndLifeCycle : Prop :=
  (∀ (s : State) (tag : Nat) (c : Cmd), Begins s tag 0x080 c →
      exec (.idRead tag) s = .next (completeWith (begun s tag) tag OK
        (serialWords s.lk ++ [s.lk.lot.extractLsb' 18 18, s.lk.lot.extractLsb' 0 18, wd s.lk.wafer.toNat, wd s.lk.dieX.toNat,
          wd s.lk.dieY.toNat, lifecycleWord s, s.fuses.replClass]) [11]))
  ∧ (∀ (s : State) (tag : Nat) (c : Cmd), Begins s tag 0x081 c → s.flt.locketBad = false →
      exec (.certRead tag) s = .next (completeWith (begun s tag) tag OK (packBytes s.lk.cert) [wd (packBytes s.lk.cert).length, wd s.lk.cert.length]))
  ∧ (∀ (s : State) (tag : Nat) (c : Cmd), Begins s tag 0x082 c → s.flt.locketBad = false →
      ∃ body, exec (.hallmark tag) s = .next (completeWith (begun s tag) tag OK (packBytes (body ++ ecdsaSign s.lk.priv body))
          [wd (packBytes (body ++ ecdsaSign s.lk.priv body)).length, 0x00160])
        ∧ body.take 7 = [0x4D, 0x51, 0x48, 0x4D, 0x01, BitVec.ofNat 8 s.lk.lc, BitVec.ofNat 8 (sessionOf s c)]
        ∧ (body.drop 8).take 9 = beBytes 9 s.lk.serial.toNat)
  ∧ (∀ (s : State) (tag : Nat) (c : Cmd), Begins s tag 0x088 c → s.flt.locketBad = false → fld (c.arg 0) 0 3 = s.lk.lc + 1 →
      c.arg 1 = s.lk.serial.extractLsb' 54 18 →
      ∃ t, exec (.lifecycleSet tag) s = .next t ∧ t.lk.lc = s.lk.lc + 1 ∧ t.lk.wipe = true ∧ t.lk.owner = none ∧ t.lk.pin = none ∧ t.lk.fails = 0
        ∧ t.lk.prot0 = 0x20005201 ∧ t.lk.prot1 = 0x381FFFFF ∧ t.lk.prot2 = 0xFFFFFFFF ∧ t.cal.bank0.user = [] ∧ t.cal.bank1.user = []
        ∧ t.cal.pend = none ∧ t.sec.wiping = some (some tag, none) ∧ t.lk.serial = s.lk.serial ∧ t.lk.hours = s.lk.hours ∧ t.fl = s.fl)
  ∧ (∀ (s : State) (tag : Nat) (c : Cmd), Begins s tag 0x088 c → s.flt.locketBad = false → fld (c.arg 0) 0 3 ≠ s.lk.lc + 1 →
      exec (.lifecycleSet tag) s = .next (complete (begun s tag) tag PRECOND []))
  ∧ (∀ (s : State) (tag : Nat) (c : Cmd), Begins s tag 0x089 c → s.flt.locketBad = false → s.lk.lc = 2 → fld (c.arg 0) 0 2 = 0 → s.sec.ownStage.2 = 0 →
      exec (.ownerTransfer tag) s = .next (complete { begun s tag with
        sec.ownStage := (s.sec.ownStage.1 ++ c.args.drop 1, 1) } tag OK []))
  ∧ (∀ (s : State) (tag : Nat) (c : Cmd), Begins s tag 0x089 c → s.flt.locketBad = false → s.lk.lc = 2 → fld (c.arg 0) 0 2 = 2 → s.sec.ownStage.2 = 2 →
      onCurve (keyOf (s.sec.ownStage.1 ++ c.args.drop 1)) = true →
      ∃ t, exec (.ownerTransfer tag) s = .next t ∧ t.lk.wipe = true ∧ t.lk.owner = none ∧ t.sec.ownStage = ([], 0)
        ∧ t.sec.wiping = some (some tag, some (keyOf (s.sec.ownStage.1 ++ c.args.drop 1))) ∧ t.lk.lc = s.lk.lc)
  ∧ (∀ (s : State) (tag : Nat) (k : BitVec 512) (c : Cmd), s.sec.wiping = some (some tag, some k) → findCmd s tag = some c →
      ∃ t, exec (.lifecycleWipeDone true) s = .next t ∧ t.lk.wipe = false ∧ t.lk.owner = some k ∧ t.sec.wiping = none ∧ Answered s t c OK []
        ∧ ∀ a, 0x400000 ≤ a → a < 2 ^ 32 → tabGet 0xFF t.fl.mem a = 0xFF)
  ∧ (∀ (s : State) (tag : Nat) (k : Option (BitVec 512)) (c : Cmd), s.sec.wiping = some (some tag, k) → findCmd s tag = some c →
      ∃ t, exec (.lifecycleWipeDone false) s = .next t ∧ t.lk.wipe = s.lk.wipe ∧ t.lk.owner = s.lk.owner ∧ t.sec.wiping = none ∧ findCmd t tag = none
        ∧ t.fl = s.fl)
  ∧ (∀ (s : State) (tag : Nat) (c : Cmd) (ok : Bool), s.sec.wiping = some (some tag, none) → findCmd s tag = some c → s.lk.lc ≠ 1 →
      ∃ t, exec (.lifecycleWipeDone ok) s = .next t ∧ t.sec.host = (if s.sec.host = 3 then 0 else s.sec.host)
        ∧ t.sec.tunnel = (if s.sec.tunnel = 3 then 0 else s.sec.tunnel))
  ∧ (∀ s : State, s.pwr.phase ≠ .reset → exec .hoursTick s = .next { s with lk.hours := satAdd 0xFFFFFFFF s.lk.hours 1 })

/-- A signal on a port that may run starts LOCKING; block lock sends the IDENT block; an agreed IDENT starts
MEASURE, and at UP assigns the path; a DN partner that is no worker stops the port; the end of MEASURE brings
RUN with 16 credits. A loss of signal or a retrain of a live port counts it, empties its transmitter and leaves
it in LOS or LOCKING; a bad block is counted, and the sixteenth bad header in 64 blocks retrains. Only that port
changes where no tunnel or reference hangs on it. PL_CTL_RETRAIN is a register write: it refreshes the
register's parity, needs an Owner or Vendor session of the host port, and below that is denied and does nothing. -/
def Obligations.LinksComeUpAndFall : Prop :=
  (∀ (i : Nat) (s : State), portOn s i = true → (s.port i).st = .los →
      exec (.signalDetect i) s = .next (s.updPort i (fun p => { p with st := .locking, stopped := false, badHdr := [] })))
  ∧ (∀ (i : Nat) (s : State), (s.port i).st = .locking →
      ∃ t, exec (.blockLock i) s = .next t ∧ OnlyPort s t i ∧ (t.port i).st = .ident ∧ (t.port i).tx = txAdd (identBlock s i) (s.port i).tx)
  ∧ (∀ (s3 : Word) (role d p : Nat) (s : State), (s.port 0).st = .ident → (s.port 0).stopped = false → (s.port 0).upMode = 0 →
      ∃ t, exec (.identBlockReceive 0 s3 role d p) s = .next t ∧ (t.port 0).st = .measure ∧ (t.port 0).ident = s3
        ∧ t.tree.path = d % 4 * 64 + p % 64 ∧ t.cells = s.cells ∧ t.regions = s.regions)
  ∧ (∀ (i : Nat) (s3 : Word) (d p : Nat) (s : State), i ≠ 0 → (s.port i).st = .ident → (s.port i).stopped = false → ownDepth s < 3 →
      exec (.identBlockReceive i s3 roleWorker d p) s = .next (s.updPort i (fun x => { x with st := .measure, ident := s3 })))
  ∧ (∀ (i : Nat) (s3 : Word) (role d p : Nat) (s : State), i ≠ 0 → (s.port i).st = .ident → (s.port i).stopped = false → role ≠ roleWorker →
      exec (.identBlockReceive i s3 role d p) s = .next (s.updPort i (fun x => { x with stopped := true, tx := [], part := [] })))
  ∧ (∀ (i : Nat) (ow as : Word) (s : State), i ≠ 0 → (s.port i).st = .measure →
      ∃ t, exec (.measureComplete i ow as) s = .next t ∧ OnlyPort s t i ∧ (t.port i).st = .run ∧ (t.port i).credits = 16
        ∧ (t.port i).partner = (s.port i).ident ∧ (t.port i).asymInt = as ∧ (t.port i).xnum = 0)
  ∧ (∀ (ow as : Word) (s : State), (s.port 0).st = .measure → (s.port 0).upMode = 0 →
      ∃ t, exec (.measureComplete 0 ow as) s = .next t ∧ (t.port 0).st = .run ∧ t.tree.st = 1
        ∧ t.ref.upState = (if s.ref.xoQual then 2 else 1) ∧ t.cells = s.cells)
  ∧ (∀ (i : Nat) (s : State), (s.port i).st.live = true → (s.port i).crcErr < 0x3FFFE →
      ∃ t, exec (.invalidBlock i false) s = .next t ∧ OnlyPort s t i ∧ (t.port i).crcErr = (s.port i).crcErr + 1
        ∧ (t.port i).st = (s.port i).st ∧ (t.port i).events = (s.port i).events.postBit 3)
  ∧ (∀ (i : Nat) (s : State), i ≠ 0 → s.tree.tunnels = [] → (s.port i).st.live = true →
      15 ≤ ((s.port i).badHdr.filter (fun e => decide (leadEdge s ≤ e + 322))).length →
      ∃ t, exec (.invalidBlock i true) s = .next t ∧ OnlyPort s t i ∧ (t.port i).st = .locking ∧ (t.port i).tx = [])
  ∧ (∀ (i : Nat) (s : State), i ≠ 0 → s.tree.tunnels = [] → (s.port i).st.live = true →
      ∃ t, exec (.lossOfSignal i) s = .next t ∧ OnlyPort s t i ∧ (t.port i).st = .los ∧ (t.port i).tx = [] ∧ (t.port i).credits = 0
        ∧ (t.port i).retrains = satAdd 0x3FFFF (s.port i).retrains 1)
  ∧ (∀ (i : Nat) (s : State), i ≠ 0 → s.tree.tunnels = [] → (s.port i).st.live = true → 2 ≤ s.sec.host →
      ∃ t, exec (.plCtlRetrain i) s = .next t ∧ OnlyPort (s.parityFresh (0x18800 + 0x40 * i)) t i ∧ (t.port i).st = .locking ∧ (t.port i).tx = []
        ∧ (t.port i).retrains = satAdd 0x3FFFF (s.port i).retrains 1)
  ∧ (∀ (i : Nat) (s : State), (s.port i).st.live = false →
      exec (.lossOfSignal i) s = .next s ∧ exec (.invalidBlock i true) s = .next s
        ∧ (2 ≤ s.sec.host → exec (.plCtlRetrain i) s = .next (s.parityFresh (0x18800 + 0x40 * i))))
  ∧ (∀ (i : Nat) (s : State), s.sec.host < 2 → exec (.plCtlRetrain i) s = .next { s with hp.denied := true })

/-- A time exchange stamps and numbers its block. A parent's time block at UP updates the worker's offsets. A
manager keeps and broadcasts a new event, an event due registers in every running region, one past its time is
counted late, and a TEV edge registers two or three edges on in each. A worker forwards an epoch and loads it at
its time, takes the join boundary and on it, not on another edge of the parent's time, begins steering, or with
100 ns or more between the two times loads the parent's time in every running region. A tunnel frame for this
device enters its inbox, and one batch is parsed when delivered. A packet waits for credits. Tree commands
answer, and TREE_TUNNEL sends its frame on. -/
def Obligations.TheTreeSharesTimeEventsAndTunnels : Prop :=
  (∀ (r : Nat) (s : State), leadRegion s = some r → (s.port 0).st = .run →
      ∃ t, exec (.timeExchange 0) s = .next t ∧ OnlyPort s t 0 ∧ (t.port 0).xnum = (s.port 0).xnum + 1 ∧ (t.port 0).t1 = (s.region r).time
        ∧ (t.port 0).tx = txAdd (.time (s.port 0).xnum (s.region r).time (s.port 0).oneway) (s.port 0).tx)
  ∧ (∀ (t1 t2 t3 t4 : Int) (al : Bool) (s : State), (s.port 0).st = .run → isWorker s = true →
      ∃ t, exec (.timeBlockReceive 0 t1 t2 t3 t4 al) s = .next t ∧ t.tree.theta = ((t2 - t1 - t3) :: s.tree.theta).take 16
        ∧ t.tree.parentAligned = al ∧ t.tree.alignErr = alignOf t.tree.theta ∧ (s.tree.st < 2 → t.tree.st = s.tree.st)
        ∧ (2 ≤ s.tree.st → al = false → t.tree.st = 2) ∧ t.cells = s.cells)
  ∧ (∀ (i m : Nat) (e : BitVec 10) (r : Nat) (s : State), i ≠ 0 → (s.port i).st = .run → isWorker s = false → leadRegion s = some r →
      s.tree.fab = [] → s.tree.passed = [] → s.tree.evtEn = false → ((s.region r).time.toNat + 1024 - e.toNat) % 1024 ≤ 160 →
      ∃ t, exec (.eventBlockReceive i m e) s = .next t ∧ t.ports = s.ports ∧ t.tree.fab.map (fun x => (x.m, x.due))
        = [(m, (s.region r).edge + 160 - ((s.region r).time.toNat + 1024 - e.toNat) % 1024)])
  ∧ (∀ (m : Nat) (c : BitVec 54) (x : FabEvent) (s : State), s.tree.fab = [x] → x.m = m → x.at_ = c → (s.region x.r).edge = x.due →
      ∃ t, exec (.eventDelivery m c) s = .next t ∧ t.tree.fab = []
        ∧ ∀ q ∈ runningRegions s, (q, 1, m, sameEdge s x.r q x.due) ∈ t.evRegs)
  ∧ (∀ (m : Nat) (c : BitVec 54) (x : FabEvent) (s : State), s.tree.fab = [x] → x.m = m → x.at_ = c → x.due < (s.region x.r).edge →
      ∃ t, exec (.eventDelivery m c) s = .next t ∧ t.tree.fab = [] ∧ t.tree.evtLate = satAdd 0x3FFFF s.tree.evtLate 1 ∧ t.evRegs = s.evRegs)
  ∧ (∀ (i : Nat) (up : Bool) (s : State), i < 8 → s.pins.tevOn = true → s.pins.tev.getLsbD i ≠ up →
      ∃ t, exec (.tevEdge i up) s = .next t ∧ t.pins.tev.getLsbD i = up
        ∧ ∀ q ∈ runningRegions s, ∃ d, d ≤ 1 ∧ (q, (if up then 2 else 3), i, (s.region q).edge + 2 + d) ∈ t.evRegs)
  ∧ (∀ (v tl : BitVec 54) (r : Nat) (s : State), isWorker s = true → s.tree.lastEpoch ≠ some (v, tl) → leadRegion s = some r → 2 ≤ s.tree.st →
      reached (s.region r).time tl = false →
      ∃ t, exec (.epochBlockReceive v tl) s = .next t ∧ t.tree.lastEpoch = some (v, tl) ∧ t.ref.epoch = some (v, tl, r) ∧ t.regions = s.regions)
  ∧ (∀ (b : BitVec 54) (s : State), isWorker s = true → exec (.joinBlockReceive b) s = .next { s with tree.joinAt := some b })
  ∧ (∀ (b : BitVec 54) (d : Nat) (s : State), s.tree.joinAt = some b → joinReady s = true → 100000 ≤ d →
      ∃ t, exec (.joinBoundary b d) s = .next t ∧ t.tree.st = 2 ∧ t.tree.joinAt = none ∧ t.tree.theta = []
        ∧ ∀ q ∈ runningRegions s, (t.region q).time = b)
  ∧ (∀ (b now : BitVec 54) (d : Nat) (s : State), s.tree.joinAt = some b → now ≠ b → exec (.joinBoundary now d) s = .next s)
  ∧ (∀ (b : BitVec 54) (d : Nat) (s : State), s.tree.joinAt = some b → joinReady s = true → d < 100000 →
      ∃ t, exec (.joinBoundary b d) s = .next t ∧ t.tree.st = 2 ∧ t.tree.joinAt = none ∧ (∀ q ∈ runningRegions s, (t.region q).steering = true)
        ∧ t.cells = s.cells)
  ∧ (∀ (i : Nat) (ws : List Word) (s : State), (s.port i).st = .run → isWorker s = true →
      exec (.tunnelFrameReceive i s.tree.path false ws) s = .next { s with tree.inbox := s.tree.inbox ++ [ws] })
  ∧ (∀ (ws : List Word) (rest : List (List Word)) (s : State), s.tree.inbox = ws :: rest → ws.length ≤ sqFree s → cqFree s ≠ 0 →
      malformed ws = false → tagInFlight s (cmdOf ws true).tag = false → fld (ws.getD 2 0) 0 5 = ws.length →
      ∃ t, exec .tunnelDeliver s = .next t ∧ t.tree.inbox = rest ∧ t.mbx.cmds = s.mbx.cmds ++ [cmdOf ws true] ∧ t.mbx.cq = s.mbx.cq)
  ∧ (∀ (i p r k : Nat) (lost : Bool) (ws : List Word) (s : State), i ≠ 0 → (s.port i).st = .run → s.tree.packets = [] →
      (s.port 0).credits < packetCredits ws →
      exec (.streamPacketReceive i p r k lost ws) s = .next { s with tree.packets := [(p, r, k, lost, ws)] })
  ∧ (∀ (i n : Nat) (s : State), i ≠ 0 → (s.port i).st = .run →
      exec (.creditBlockReceive i n) s = .next (s.updPort i (fun p => { p with credits := p.credits + n })))
  ∧ (∀ (s : State) (tag : Nat) (c : Cmd) (f : List (Nat × Word × Nat)), Begins s tag 0x090 c → runDn s = [] →
      exec (.treeScan tag f) s = .next (complete (begun s tag) tag PRECOND []))
  ∧ (∀ (s : State) (tag p x : Nat) (w : Word) (c : Cmd), Begins s tag 0x090 c → runDn s ≠ [] → pathOk p = true →
      exec (.treeScan tag [(p, w, x)]) s = .next (completeWith (begun s tag) tag OK [wd p, w, wd (x % 8)] [3, 1, wd (max 0 (p / 64 % 4))]))
  ∧ (∀ (s : State) (tag : Nat) (c : Cmd), Begins s tag 0x091 c → tgtScope c.target ≠ 0 →
      exec (.treeStatus tag []) s = .next (complete s tag ABSENT []))
  ∧ (∀ (s : State) (tag : Nat) (a : List Word) (c : Cmd), Begins s tag 0x091 c → tgtScope c.target ≠ 0 → a ≠ [] → pathAbsent s c = false →
      exec (.treeStatus tag a) s = .next (complete (begun s tag) tag OK (padTo 4 a)))
  ∧ (∀ (s : State) (tag : Nat) (a : List Word) (c : Cmd), Begins s tag 0x091 c → tgtScope c.target = 0 →
      exec (.treeStatus tag a) s = .next (complete (begun s tag) tag OK [wd (treeState s), wd (unsgn s.tree.alignErr 18),
        wd (([0, 1, 2, 3, 4].filter (fun i => portPresent s i && decide ((s.port i).st = .run))).length),
        wd (min 0x3FFFF ([0, 1, 2, 3, 4].map (fun i => (s.port i).retrains)).sum)]))
  ∧ (∀ (s : State) (tag j : Nat) (c : Cmd), Begins s tag 0x092 c → fld (c.arg 0) 9 9 ≠ 0x090 → fld (c.arg 0) 9 9 ≠ 0x092 → runDn s ≠ [] →
      (ownDigits s).length + (pathDigits c.unit).length ≤ 3 → portTowards s (pathOf (ownDigits s ++ pathDigits c.unit)) = some j →
      ∃ t, exec (.treeTunnel tag true) s = .next t ∧ t.mbx = (begun s tag).mbx
        ∧ t.tree.tunnels = s.tree.tunnels ++ [{ tag := tag, path := pathOf (ownDigits s ++ pathDigits c.unit) }]
        ∧ (t.port j).tx = txAdd (.tunnel (pathOf (ownDigits s ++ pathDigits c.unit)) false c.args) (s.port j).tx)

/-- While the port serves frames with no HOST_CFG pending, a write that reaches its register refreshes its parity,
and: a write to an absent register does nothing; to an RO register a session may reach, sets ign alone;
IRQ_ENABLE takes six bits, and an alias one of them. HOST_CFG takes effect at the release, a wlen outside 4 to
32 refused. CLASP opens with its key, shuts with 0 or a wrong value, and locks at the sixteenth wrong one; its
time-out shuts it. An RWC write with CLASP shut only posts event 0; with it open it is taken and CLASP shuts.
RESET_CTL resets the chip. A second WO1 write is recorded. An SQC write-back clears the masked events only with
the matching sequence and fewer than 64 changes. -/
def Obligations.RegisterWritesObeyTheirTypes : Prop :=
  (∀ (a : Nat) (v : Word) (s : State), Serves s → whole (locate s.hp.strict a) = true → regPresent s (locate s.hp.strict a) = false →
      exec (.registerWrite a v) s = .next s)
  ∧ (∀ (a : Nat) (v : Word) (s : State), Serves s → whole (locate s.hp.strict a) = true → Open s a →
      (locate s.hp.strict a).kind = .ro →
      exec (.registerWrite a v) s = .next { s.parityFresh (locate s.hp.strict a).addr with hp.ign := true })
  ∧ (∀ (a : Nat) (v : Word) (s : State), Serves s → (locate s.hp.strict a).owned = true → regPresent s (locate s.hp.strict a) = true →
      s.sec.host < 2 → exec (.registerWrite a v) s = .next { s with hp.denied := true })
  ∧ (∀ (v : Word) (s : State), Serves s → exec (.registerWrite 0x102 v) s = .next { s.parityFresh 0x102 with hc.irqEnable := v.extractLsb' 0 6 })
  ∧ (∀ (k : Nat) (v : Word) (s : State), Serves s → k < 6 →
      ∃ t, exec (.bitAliasWrite (0x1040 + k) v) s = .next t ∧ { t with hc.irqEnable := s.hc.irqEnable } = s.parityFresh 0x102
        ∧ ∀ j, j < 6 → t.hc.irqEnable.getLsbD j = if j = k then v.getLsbD 0 else s.hc.irqEnable.getLsbD j)
  ∧ (∀ (v : Word) (s : State), Serves s → 4 ≤ fld v 0 6 → fld v 0 6 ≤ 32 →
      exec (.hostCfgWrite v) s = .next { s.parityFresh 0x100 with
        hp.strict := v.getLsbD 17, hp.lanes := v.getLsbD 16, hp.lat := v.extractLsb' 8 8, hp.wlen := v.extractLsb' 0 6 })
  ∧ (∀ (v : Word) (s : State), Serves s → fld v 0 6 < 4 ∨ 32 < fld v 0 6 → exec (.hostCfgWrite v) s = .next { s.parityFresh 0x100 with hp.ign := true })
  ∧ (∀ s : State, Serves s → s.hc.clasp ≠ .locked →
      exec (.claspWrite 0x2D5A6) s = .next { s.parityFresh 0x110 with hc.clasp := .opened, hc.consec := 0 }
      ∧ exec (.claspWrite 0) s = .next { s.parityFresh 0x110 with hc.clasp := .shut })
  ∧ (∀ (v : Word) (s : State), Serves s → s.hc.clasp ≠ .locked → v ≠ 0x2D5A6 → v ≠ 0 →
      ∃ t, exec (.claspWrite v) s = .next t ∧ { t with hc := s.hc } = s
        ∧ (s.hc.consec < 15 → t.hc.clasp = .shut ∧ t.hc.consec = s.hc.consec + 1)
        ∧ (15 ≤ s.hc.consec → t.hc.clasp = .locked ∧ t.hc.events = s.hc.events.postBit 1))
  ∧ (∀ (v : Word) (s : State), Serves s → s.hc.clasp = .locked → exec (.claspWrite v) s = .next { s.parityFresh 0x110 with hp.ign := true })
  ∧ (∀ s : State, s.hc.clasp = .opened → exec .claspTimeout s = .next { s with hc.clasp := .shut })
  ∧ (∀ (a : Nat) (v : Word) (s : State), Serves s → whole (locate s.hp.strict a) = true → Open s a →
      (locate s.hp.strict a).kind = .rwc → s.hc.clasp ≠ .opened →
      exec (.rwcWrite a v) s = .next { s with hc.events := s.hc.events.postBit 0, hp.ign := true })
  ∧ (∀ (a p : Nat) (v : Word) (s : State), Serves s → locate s.hp.strict a = .cell p 0x1A → Open s a → regReach s (.cell p 0x1A) = .ok →
      s.hc.clasp = .opened →
      ∃ t, exec (.rwcWrite a v) s = .next t ∧ t.hc.clasp = .shut ∧ (t.cell p).trim.tdc = v ∧ ∀ q, q ≠ p → t.cell q = s.cell q)
  ∧ (∀ (v : Word) (s : State), Serves s → s.hc.clasp = .opened → mayResetChip s s.sec.host = true → v.getLsbD 0 = true → s.pwr.phase ≠ .reset →
      ∃ t, exec (.resetCtlWrite v) s = .next t ∧ t.pwr.phase = .reset ∧ t.pwr.latch = 4 ∧ t.pwr.readyPin = false ∧ t.hc.clasp = .shut
        ∧ t.fl.mem = s.fl.mem ∧ t.fuses = s.fuses ∧ t.lk = s.lk)
  ∧ (∀ (v : Word) (s : State), Serves s → s.hc.clasp ≠ .opened →
      exec (.resetCtlWrite v) s = .next { s with hc.events := s.hc.events.postBit 0, hp.ign := true })
  ∧ (∀ (a : Nat) (v : Word) (s : State), Serves s → whole (locate s.hp.strict a) = true → Open s a → (locate s.hp.strict a).kind = .wo1 →
      woWritten s (locate s.hp.strict a) = true →
      exec (.wo1Write a v) s = .next { s.parityFresh (locate s.hp.strict a).addr with hc.woAddr := wd a, hc.events := s.hc.events.postBit 2, hp.ign := true })
  ∧ (∀ (v : Word) (s : State), Serves s → s.hc.pinWritten = false →
      exec (.wo1Write 0x109 v) s = .next { s.parityFresh 0x109 with hc.irqPp := v.getLsbD 0, hc.pinWritten := true })

/-- A host-port read of an SQC register that it reaches sets its read mark and restarts its count, changing neither
sequence nor events. A write-back with the sequence of the register and fewer than 64 occurrences since the read
clears exactly the masked events; any other clears nothing and sets ign. A read of a snapshot word that it
reaches takes every word of its value into the host latch at their addresses and changes nothing else. -/
def Obligations.SqcWriteBacksAndSnapshots : Prop :=
  (∀ (a : Nat) (q : Sqc) (s : State), Serves s → s.hp.strict = true → Open s a → (locate true a).kind = .sqc → regReach s (locate true a) = .ok →
      sqcOf s (locate true a) = some q →
      ∃ t, exec (.sqcRead a) s = .next t ∧ sqcOf t (locate true a) = some { q with readMark := true, count := 0 } ∧ t.cells = s.cells
        ∧ t.mbx.cq = s.mbx.cq ∧ t.profiles = s.profiles)
  ∧ (∀ (a : Nat) (v : Word) (q : Sqc) (s : State), Serves s → s.hp.strict = true → whole (locate true a) = true → Open s a →
      (locate true a).kind = .sqc → regReach s (locate true a) = .ok → sqcOf s (locate true a) = some q →
      ∃ t, exec (.sqcWriteBack a v) s = .next t
        ∧ (v.extractLsb' 12 6 = q.seq → q.count < 64 → sqcOf t (locate true a) = some { q with ev := q.ev &&& ~~~(v.extractLsb' 0 12) }
            ∧ t.hp.ign = s.hp.ign)
        ∧ (¬ (v.extractLsb' 12 6 = q.seq ∧ q.count < 64) → sqcOf t (locate true a) = some q ∧ t.hp.ign = true))
  ∧ (∀ (a : Nat) (s : State), Serves s → s.hp.strict = true → Open s a → regReach s (locate true a) ≠ .gated → (locate true a).group ≠ [] →
      (locate true a).group.head? = some (locate true a) →
      ∃ t, exec (.snapshotRead a) s = .next t ∧ { t with hc.snapHost := s.hc.snapHost } = s
        ∧ tabGet 0 t.hc.snapHost (locate true a).addr = regVal s (locate true a))

/-- Through an Owner or Vendor session, TH64_CTL of a running region without active engine, armed acquisition or
maintenance takes its enable bit, which the checks of commands use from the next edge on (log entry 72), and
sets an application edge on a multiple of 1,024 cycles; with one of them, a change is ignored with ign set;
writing the value it has changes nothing. -/
def Obligations.Th64ModeChangesWhenQuiet : Prop :=
  (∀ (r : Nat) (v : Word) (s : State), r < 4 → Serves s → 2 ≤ s.sec.host → Runs s r → v.getLsbD 0 ≠ (s.mem r).th64.getLsbD 0 →
      regionEngineActive s r = false → (s.acq r).armed = false → maintIn s r = false →
      ∃ t, exec (.th64CtlWrite r v) s = .next t ∧ (t.mem r).th64.getLsbD 0 = v.getLsbD 0 ∧ (t.mem r).th64.getLsbD 17 = (s.mem r).th64.getLsbD 17
        ∧ t.th64On r = s.th64On r
        ∧ t.cal.applyAt = s.cal.applyAt ++ [(r, alignedEdge (s.region r) 1024, none)] ∧ t.cells = s.cells)
  ∧ (∀ (r : Nat) (v : Word) (s : State), r < 4 → Serves s → 2 ≤ s.sec.host → Runs s r → v.getLsbD 0 ≠ (s.mem r).th64.getLsbD 0 →
      regionEngineActive s r = true ∨ (s.acq r).armed = true ∨ maintIn s r = true →
      exec (.th64CtlWrite r v) s = .next { s.parityFresh (regionBase r + 0x4018) with hp.ign := true })
  ∧ (∀ (r : Nat) (v : Word) (s : State), r < 4 → Serves s → 2 ≤ s.sec.host → Runs s r → v.getLsbD 0 = (s.mem r).th64.getLsbD 0 →
      exec (.th64CtlWrite r v) s = .next (s.parityFresh (regionBase r + 0x4018)))

/-- Below four bits a frame is rejected for its length alone. A frame with a whole request and a wrong CRC is
rejected with reason 1, one with a wrong alive value with reason 2; each leaves everything but the port's own
registers unchanged. A good NULL and a good READ leave prev = 0 and the alive counter one on; a good WRITE does
what its writes do in order and reports their flags. An empty frame counts, and the sixteenth recovers the port
to its reset framing with event 5. -/
def Obligations.FramesAreCheckedBeforeTheyAct : Prop :=
  (∀ (bits : List Bool) (s : State), portServes s = true → bits ≠ [] → bits.length < 4 →
      ∃ t, exec (.nullFrame bits) s = .next t ∧ { t with hp := s.hp } = s ∧ t.hp.prev = 3 ∧ t.hp.lastRej = 3 ∧ t.hp.alive = s.hp.alive)
  ∧ (∀ (i : Instr) (bits : List Bool) (s : State), portServes s = true → i = .readFrame bits [] ∨ i = .writeFrame bits →
      frameOp bits = (if i = .writeFrame bits then some 2 else some 1) → (hdrOf bits).reqLen ≤ bits.length →
      (crc16 (bits.take ((hdrOf bits).reqLen - 16))).toNat ≠ bitsAt bits ((hdrOf bits).reqLen - 16) 16 →
      ∃ t, exec i s = .next t ∧ { t with hp := s.hp } = s ∧ t.hp.prev = 1 ∧ t.hp.empties = 0 ∧ t.hp.hsdo = List.replicate bits.length false)
  ∧ (∀ (i : Instr) (bits : List Bool) (s : State), portServes s = true → i = .readFrame bits [] ∨ i = .writeFrame bits →
      frameOp bits = (if i = .writeFrame bits then some 2 else some 1) → (hdrOf bits).reqLen ≤ bits.length →
      (crc16 (bits.take ((hdrOf bits).reqLen - 16))).toNat = bitsAt bits ((hdrOf bits).reqLen - 16) 16 → s.hp.anyAlive = false →
      (hdrOf bits).alive ≠ s.hp.alive.toNat →
      ∃ t, exec i s = .next t ∧ { t with hp := s.hp } = s ∧ t.hp.prev = 2)
  ∧ (∀ (bits : List Bool) (s : State), portServes s = true → frameOp bits = some 0 → (hdrOf bits).reqLen ≤ bits.length → endCheck s (hdrOf bits) bits = 0 →
      lengthOk s (hdrOf bits) bits.length = true → s.hp.next = none →
      ∃ t, exec (.nullFrame bits) s = .next t ∧ { t with hp := s.hp } = s ∧ t.hp.prev = 0 ∧ t.hp.alive = BitVec.ofNat 4 ((hdrOf bits).alive + 1)
        ∧ t.hp.anyAlive = false ∧ t.hp.ign = false)
  ∧ (∀ (bits : List Bool) (late : List Nat) (s : State), portServes s = true → frameOp bits = some 1 → (hdrOf bits).reqLen ≤ bits.length →
      endCheck s (hdrOf bits) bits = 0 → lengthOk s (hdrOf bits) bits.length = true →
      ∃ t, exec (.readFrame bits late) s = .next t ∧ t.hp.prev = 0 ∧ t.hp.alive = BitVec.ofNat 4 ((hdrOf bits).alive + 1)
        ∧ t.cells = (doReads { s with hp.empties := 0 } (hdrOf bits)).st.cells ∧ t.mbx = (doReads { s with hp.empties := 0 } (hdrOf bits)).st.mbx
        ∧ t.hp.hsdo.length = bits.length)
  ∧ (∀ (bits : List Bool) (s : State), portServes s = true → frameOp bits = some 1 → (hdrOf bits).reqLen ≤ bits.length →
      endCheck s (hdrOf bits) bits = 0 → lengthOk s (hdrOf bits) bits.length = false →
      ∃ t, exec (.readFrame bits []) s = .next t ∧ t.hp.prev = 3 ∧ t.mbx = s.mbx ∧ t.cells = s.cells ∧ t.regions = s.regions ∧ t.fl = s.fl)
  ∧ (∀ (bits : List Bool) (s : State), portServes s = true → frameOp bits = some 2 → (hdrOf bits).reqLen ≤ bits.length → endCheck s (hdrOf bits) bits = 0 →
      lengthOk s (hdrOf bits) bits.length = true → (hdrOf bits).size = 0 → (hdrOf bits).fixed = false → (hdrOf bits).count = 0 →
      (hdrOf bits).addr = 0x102 → s.hp.next = none →
      ∃ t, exec (.writeFrame bits) s = .next t ∧ t.hc.irqEnable = (itemAt bits 0).extractLsb' 0 6 ∧ t.hp.prev = 0
        ∧ { t with hp := s.hp, hc.irqEnable := s.hc.irqEnable } = s.parityFresh 0x102)
  ∧ (∀ (bits : List Bool) (s : State), portServes s = true → frameOp bits = some 2 → (hdrOf bits).reqLen ≤ bits.length → endCheck s (hdrOf bits) bits = 0 →
      lengthOk s (hdrOf bits) bits.length = false →
      ∃ t, exec (.writeFrame bits) s = .next t ∧ { t with hp := s.hp } = s ∧ t.hp.prev = 3)
  ∧ (∀ s : State, portServes s = true → s.hp.empties ≠ 15 → exec .emptyFrame s = .next { s with hp.empties := s.hp.empties + 1 })
  ∧ (∀ s : State, portServes s = true → s.hp.empties = 15 →
      ∃ t, exec .emptyFrame s = .next t ∧ t.hp.lanes = false ∧ t.hp.lat = 16 ∧ t.hp.wlen = 18 ∧ t.hp.anyAlive = true ∧ t.hp.prev = 7
        ∧ t.hp.empties = 0 ∧ t.hc.events = s.hc.events.postBit 5 ∧ t.cells = s.cells)

/-- With one select asserted and no poll, a read command fills the FIFO, a page program clears bits of the bytes
written and takes them from the FIFO, and a protected address sets wp_err and changes no byte; with no select it
sets sel_err. FLASH_DATA writes two bytes and reads two. FLASH_SEL and FLASH_CFG take effect at once, or wait
for a poll in progress; refused FLASH_CFG values only set ign. Each register row is an access of the host port
(log entry 72): it needs an Owner or Vendor session, a write is denied below it and a read does nothing, and a
write of FLASH_SEL or FLASH_CFG refreshes the register's parity. A window read answers the byte; a write to
protected sectors is a bus error. A poll ends when WIP clears, and its time-out ends the waiting accesses with
errors. -/
def Obligations.FlashPortRunsItsAccesses : Prop :=
  (∀ (v : Word) (resp : List Byte) (eff : List (Nat × Byte)) (g : Nat) (s : State), 2 ≤ s.sec.host → fld v 15 2 = 1 → v.getLsbD 14 = false → v.getLsbD 13 = false →
      v.getLsbD 12 = false → flashBusy s = false → flashSel s = some g → s.fl.dead.getLsbD g = false →
      ∃ t, exec (.flashCmdGo v resp eff) s = .next t ∧ t.fl.fifo = resp.take s.fl.len.toNat ∧ t.fl.mem = s.fl.mem ∧ t.fl.selErr = false)
  ∧ (∀ (v : Word) (g i : Nat) (s : State), 2 ≤ s.sec.host → fld v 15 2 = 2 → v.getLsbD 14 = true → v.getLsbD 12 = true → fld v 0 8 = 0x12 → flashBusy s = false →
      flashSel s = some g → s.fl.dead.getLsbD g = false → flashProtected s (seqAddr s) = false → seqAddr s + s.fl.fifo.length ≤ 2 ^ 32 →
      i < s.fl.len.toNat → i < s.fl.fifo.length →
      ∃ t, exec (.flashCmdGo v [] []) s = .next t ∧ t.fl.fifo = s.fl.fifo.drop s.fl.len.toNat ∧ t.fl.wpErr = false
        ∧ flashByte t g (seqAddr s + i) = flashByte s g (seqAddr s + i) &&& s.fl.fifo.getD i 0)
  ∧ (∀ (v : Word) (resp : List Byte) (eff : List (Nat × Byte)) (g : Nat) (s : State), 2 ≤ s.sec.host → fld v 15 2 ≠ 3 → v.getLsbD 14 = true → v.getLsbD 12 = true →
      flashBusy s = false → flashSel s = some g → flashProtected s (seqAddr s) = true →
      ∃ t, exec (.flashCmdGo v resp eff) s = .next t ∧ t.fl.wpErr = true ∧ t.fl.mem = s.fl.mem ∧ t.fl.fifo = s.fl.fifo)
  ∧ (∀ (v : Word) (resp : List Byte) (eff : List (Nat × Byte)) (s : State), 2 ≤ s.sec.host → fld v 15 2 ≠ 3 → flashBusy s = false → flashSel s = none →
      ∃ t, exec (.flashCmdGo v resp eff) s = .next t ∧ t.fl.selErr = true ∧ t.fl.mem = s.fl.mem)
  ∧ (∀ (v : Word) (s : State), 2 ≤ s.sec.host → s.fl.fifo.length ≤ 254 →
      ∃ t, exec (.flashDataWrite v) s = .next t ∧ t.fl.fifo = s.fl.fifo ++ unpackWords [v] ∧ t.fl.fifoOvf = s.fl.fifoOvf ∧ t.fl.mem = s.fl.mem)
  ∧ (∀ s : State, 2 ≤ s.sec.host → exec .flashDataRead s = .next { s with fl.fifo := s.fl.fifo.drop 2 })
  ∧ (∀ (v : Word) (s : State), 2 ≤ s.sec.host → flashBusy s = false →
      exec (.flashSelWrite v) s = .next { s.parityFresh 0x19002 with
        fl.sel := v.extractLsb' 0 4, pwr.gpio := s.pwr.gpio &&& 0xFFF0 ||| (v.extractLsb' 0 4).zeroExtend 16 })
  ∧ (∀ (v : Word) (s : State), 2 ≤ s.sec.host → flashBusy s = true →
      exec (.flashSelWrite v) s = .next { s.parityFresh 0x19002 with fl.selHeld := some (v.extractLsb' 0 4) })
  ∧ (∀ (v : Word) (s : State), 2 ≤ s.sec.host → fld v 3 3 ≤ 5 → fld v 0 2 ≤ 1 → flashBusy s = false →
      ∃ t, exec (.flashCfgWrite v) s = .next t ∧ t.fl.div = v.extractLsb' 3 3 ∧ t.fl.mode = v.extractLsb' 0 2 ∧ t.fl.dummy = v.extractLsb' 8 5
        ∧ t.fl.pollTo = false ∧ t.fl.dead = 0 ∧ t.fl.mem = s.fl.mem)
  ∧ (∀ (v : Word) (s : State), 2 ≤ s.sec.host → fld v 3 3 ≤ 5 → fld v 0 2 ≤ 1 → flashBusy s = true →
      ∃ t, exec (.flashCfgWrite v) s = .next t ∧ t.fl.cfgNext = some v ∧ t.fl.div = s.fl.div ∧ t.fl.mode = s.fl.mode)
  ∧ (∀ (v : Word) (s : State), 2 ≤ s.sec.host → 5 < fld v 3 3 ∨ 1 < fld v 0 2 →
      exec (.flashCfgWrite v) s = .next { s.parityFresh 0x19000 with hp.ign := true })
  ∧ (∀ (v : Word) (resp : List Byte) (eff : List (Nat × Byte)) (s : State), s.sec.host < 2 →
      (∀ i ∈ [Instr.flashCmdGo v resp eff, .flashDataWrite v, .flashSelWrite v, .flashCfgWrite v], exec i s = .next { s with hp.denied := true })
      ∧ exec .flashDataRead s = .next s)
  ∧ (∀ (a g : Nat) (s : State), inWindow a = true → flashBusy s = false → flashSel s = some g → s.fl.dead.getLsbD g = false →
      ∃ t, exec (.flashWindowRead a) s = .next t ∧ t.fl.busData = some (flashByte s g (windowAddr s a)) ∧ t.fl.busErr = false ∧ t.fl.mem = s.fl.mem)
  ∧ (∀ (a : Nat) (b : Byte) (s : State), inWindow a = true → (flashSel s).isSome = true → flashProtected s (windowAddr s a) = true →
      s.fl.queue = [] →
      ∃ t, exec (.flashWindowWrite a [b]) s = .next t ∧ t.fl.wpErr = true ∧ t.fl.busErr = true ∧ t.fl.mem = s.fl.mem)
  ∧ (∀ (a g : Nat) (b : Byte) (s : State), inWindow a = true → flashSel s = some g → s.fl.dead.getLsbD g = false → flashBusy s = false →
      flashProtected s (windowAddr s a) = false → s.fl.queue = [] →
      ∃ t, exec (.flashWindowWrite a [b]) s = .next t ∧ flashByte t g (windowAddr s a) = flashByte s g (windowAddr s a) &&& b
        ∧ t.fl.polling = some false ∧ t.fl.wpErr = false)
  ∧ (∀ s : State, flashBusy s = true → s.fl.queue = [] → s.fl.selHeld = none → s.fl.cfgNext = none →
      exec (.flashWipPoll false) s = .next { s with fl.polling := none })
  ∧ (∀ s : State, exec (.flashWipPoll true) s = .next s)
  ∧ (∀ s : State, flashBusy s = true → s.fl.cfgNext = none →
      ∃ t, exec .flashPollTimeout s = .next t ∧ t.fl.polling = none ∧ t.fl.pollTo = true ∧ t.fl.queue = [] ∧ t.fl.mem = s.fl.mem
        ∧ t.fl.dead.getLsbD ((flashSel s).getD 0 % 4) = true)

/-- FW_INFO answers slot, versions and update state. FW_UPDATE_BEGIN erases the other slot and starts; while one
runs it is PRECOND. FW_UPDATE_DATA at a wrong offset is BADARG and ends the update, at the right one counts its
bytes; FW_UPDATE_END before all bytes is FAULT with 0. PLAN_CHECK with every channel left out answers zeros,
with a bad code BADARG, and with two enabled channels in force and no other the entry of their pair when it is
in class PULL. REG_READ and REG_WRITE of one word read and write it, and of none or too many are BADARG. LOUPE
changes no cell. A JTAG instruction is loaded, one that takes the pins puts every live port to LOS, and one that
returns them leaves every toggling output muted until its next edge. A register burst or LOUPE at cell scope
goes to the cell in service of the channel. -/
def Obligations.FirmwareUpdatesAndDiagnostics : Prop :=
  (∀ (s : State) (tag : Nat) (c : Cmd), Begins s tag 0x0B0 c → slotValid (bootSel s) (otherSlot s) = false →
      exec (.fwInfo tag) s = .next (complete (begun s tag) tag OK
        [wd (s.boot.slot.getD 0 + 4 * b2n s.boot.upd.isSome), 0, s.boot.version, 0, 0]))
  ∧ (∀ (s : State) (tag : Nat) (c : Cmd), Begins s tag 0x0B1 c → s.boot.upd.isSome = true →
      exec (.fwUpdateBegin tag) s = .next (complete (begun s tag) tag PRECOND []))
  ∧ (∀ (s : State) (tag : Nat) (c : Cmd), Begins s tag 0x0B1 c → s.boot.upd = none → (c.arg 0 ++ c.arg 1).toNat ≤ 0x100000 →
      ∃ t, exec (.fwUpdateBegin tag) s = .next t ∧ Answered s t c OK [] ∧ t.boot.upd = some (c.arg 0 ++ c.arg 1).toNat ∧ t.boot.got = 0
        ∧ t.boot.buf = [] ∧ (∀ a, a < 0x100000 → flashByte t 0 (slotAddr (otherSlot s) + a) = 0xFF)
        ∧ ∀ a, a < 0x100000 → flashByte t 0 (slotAddr (1 - otherSlot s) + a) = flashByte s 0 (slotAddr (1 - otherSlot s) + a))
  ∧ (∀ (s : State) (tag n : Nat) (c : Cmd), Begins s tag 0x0B2 c → s.boot.upd = some n → (c.arg 0 ++ c.arg 1).toNat ≠ s.boot.got →
      exec (.fwUpdateData tag) s = .next (complete { begun s tag with boot.upd := none, boot.got := 0, boot.buf := [] } tag BADARG []))
  ∧ (∀ (s : State) (tag n : Nat) (c : Cmd), Begins s tag 0x0B2 c → s.boot.upd = some n → (c.arg 0 ++ c.arg 1).toNat = s.boot.got →
      ∃ t, exec (.fwUpdateData tag) s = .next t ∧ t.boot.got = s.boot.got + min (unpackWords (c.args.drop 2)).length (n - s.boot.got)
        ∧ t.boot.upd = some n ∧ Answered s t c OK [wd t.boot.got])
  ∧ (∀ (s : State) (tag n : Nat) (c : Cmd), Begins s tag 0x0B3 c → s.boot.upd = some n → s.boot.got < n →
      ∃ t, exec (.fwUpdateEnd tag) s = .next t ∧ t.boot.upd = none ∧ t.boot.got = 0 ∧ Answered s t c FAULT [0] ∧ t.boot.slot = s.boot.slot)
  ∧ (∀ (s : State) (tag : Nat) (c : Cmd), Begins s tag 0x038 c → (c.arg 0).getLsbD 0 = false → (∀ k ∈ [1, 2, 3, 4, 5, 6, 7, 8], c.arg k = 0x3FFFF) →
      exec (.planCheck tag) s = .next (complete (begun s tag) tag OK [0, 0, 0, 0, 0]))
  ∧ (∀ (s : State) (tag : Nat) (c : Cmd), Begins s tag 0x038 c → (c.arg 0).getLsbD 0 = false → fld (c.arg 1) 9 9 = 0x101 →
      exec (.planCheck tag) s = .next (complete (begun s tag) tag BADARG []))
  ∧ (∀ (s : State) (tag i j : Nat) (c : Cmd), Begins s tag 0x038 c → (c.arg 0).getLsbD 0 = false → i < j → j < 16 →
      (∀ k, k < 16 → fld (c.arg (1 + k / 2)) (if k % 2 = 0 then 9 else 0) 9 = if k = i ∨ k = j then 0x100 else 0x1FF) →
      (s.cell (inService s (16 * c.unit + i))).cfg.ctl.en = true → (s.cell (inService s (16 * c.unit + j))).cfg.ctl.en = true →
      let fx := ratio (s.cell (inService s (16 * c.unit + i))).vals.freq
      let fy := ratio (s.cell (inService s (16 * c.unit + j))).vals.freq
      let data := if isPull fx fy then planEntry { c := i, prof := 0xFF, f := fx } { c := j, prof := 0xFF, f := fy } else []
      exec (.planCheck tag) s = .next (completeWith (begun s tag) tag OK data
        [wd data.length, wd (b2n (isPull fx fy)), wd (b2n (decide (minOffset fx fy = 0))), 0, wd (b2n (isPull fx fy))]))
  ∧ (∀ (s : State) (tag : Nat) (c : Cmd), Begins s tag 0x0A0 c → fld (c.arg 1) 0 10 = 0 ∨ 512 < fld (c.arg 1) 0 10 →
      exec (.regRead tag) s = .next (complete (begun s tag) tag BADARG []))
  ∧ (∀ (s : State) (tag : Nat) (c : Cmd), Begins s tag 0x0A0 c → tgtScope c.target = 0 → fld (c.arg 1) 0 10 = 1 →
      exec (.regRead tag) s = .next (completeWith (readAt (begun s tag) true (sessionOf s c) (c.arg 0).toNat).2.2 tag
        (if (readAt (begun s tag) true (sessionOf s c) (c.arg 0).toNat).2.1.fault then FAULT else OK)
        [(readAt (begun s tag) true (sessionOf s c) (c.arg 0).toNat).1] [1]))
  ∧ (∀ (s : State) (tag : Nat) (c : Cmd), Begins s tag 0x0A0 c → tgtScope c.target = 3 → fld (c.arg 1) 0 10 = 1 → (c.arg 0).toNat ≤ 63 →
      let a := cellBase (cellNamed (begun s tag) c.unit) + (c.arg 0).toNat
      exec (.regRead tag) s = .next (completeWith (readAt (begun s tag) true (sessionOf s c) a).2.2 tag
        (if (readAt (begun s tag) true (sessionOf s c) a).2.1.fault then FAULT else OK) [(readAt (begun s tag) true (sessionOf s c) a).1] [1]))
  ∧ (∀ (s : State) (tag : Nat) (v : Word) (c : Cmd), Begins s tag 0x0A1 c → tgtScope c.target = 0 → c.args.drop 2 = [v] → c.arg 0 = 0x102 →
      s.hp.next = none → s.pwr.wiped = true →
      exec (.regWrite tag) s = .next (complete { (begun s tag).parityFresh 0x102 with hc.irqEnable := v.extractLsb' 0 6 } tag OK [1, 0]))
  ∧ (∀ (s : State) (tag : Nat) (c : Cmd), Begins s tag 0x0A2 c → tgtScope c.target = 3 →
      ∃ t ws, exec (.loupe tag) s = .next (completeWith t tag OK ws [wd ws.length]) ∧ ws.length = 44
        ∧ ws.drop 32 = loupeCell (begun s tag) (cellNamed (begun s tag) c.unit) ∧ t.cells = s.cells ∧ t.tius = s.tius)
  ∧ (∀ (code : Byte) (s : State), pinsTaken code = pinsTaken s.pins.jtag → exec (.jtagInstructionUpdate code) s = .next { s with pins.jtag := code })
  ∧ (∀ (code : Byte) (s : State), pinsTaken s.pins.jtag = false → pinsTaken code = true →
      ∃ t, exec (.jtagInstructionUpdate code) s = .next t ∧ t.pins.jtag = code ∧ ∀ i, i < 5 → (t.port i).st.live = false)
  ∧ (∀ (code : Byte) (s : State), pinsTaken s.pins.jtag = true → pinsTaken code = false →
      ∃ t, exec (.jtagInstructionUpdate code) s = .next t ∧ t.pins.jtag = code ∧ t.ports = s.ports
        ∧ (∀ p, (s.cell p).out.drv ≠ .toggling → t.cell p = s.cell p)
        ∧ ∀ p, (s.cell p).out.drv = .toggling → (t.cell p).out.drv = .muted ∧ (t.cell p).out.activeAfter.isSome = true)
  ∧ (∀ s : State, ∃ t, exec .tapReset s = .next t ∧ t.pins.jtag = 0x02)
  ∧ (∀ s : State, pinsTaken s.pins.jtag = false → exec .tapReset s = .next { s with pins.jtag := 0x02 })

/-- From every state whatever, with any command at the front of the queue or none, a step answers a next state. The
block has no access to storage that does not exist: an absent or reserved address reads zero and ignores writes,
and a command that cannot act is answered with a status. -/
def Obligations.EveryCommandCompletes : Prop :=
  ∀ s : State, Completes s

/-- State.reset has every memory in canonical form, its completion queue within its reservations, its fault FIFO and
log ring within their depths, a life cycle of at most SCRAPPED and every event threshold pair in order. -/
def Obligations.ResetMeetsTheInvariants : Prop :=
  State.reset.memWf ∧ State.reset.cqWf ∧ State.reset.logWf ∧ State.reset.lk.lc ≤ 4
  ∧ ∀ i, (State.reset.evin i).thrLo.toNat ≤ (State.reset.evin i).thrHi.toNat

/-- From every state whose memories are in canonical form (keys strictly rising, no entry equal to what an unlisted
key reads as), whatever step is made, the memories of the next state are in canonical form. -/
def Obligations.MemoriesStayCanonical : Prop :=
  ∀ s t : State, s.memWf → step s = .next t → t.memWf

/-- Whatever command is executed, in every state: ID_VARIANT, ID_STEPPING and REPLACEMENT_CLASS keep their values,
and so do LOCKET's private and public key, certificate, serial number, lot, wafer and die position. The life-
cycle state stays or advances by one, and the minimum security epoch never falls. -/
def Obligations.FusesAndIdentityNeverChange : Prop :=
  ∀ s t : State, step s = .next t →
    t.fuses = s.fuses ∧ t.lk.factory = s.lk.factory ∧ s.lk.lc ≤ t.lk.lc ∧ t.lk.lc ≤ s.lk.lc + 1
    ∧ s.lk.minEpoch.toNat ≤ t.lk.minEpoch.toNat

/-- From every state with at most 32 records in the fault FIFO and at most 256 in the log ring, whatever step is
made, the next state is again within both depths: a record that finds the FIFO full is counted and not stored,
and the ring overwrites its oldest entries. -/
def Obligations.FaultLogKeepsItsDepths : Prop :=
  ∀ s t : State, s.logWf → step s = .next t → t.logWf

/-- From every state in which the records of the completion queue and the accepted commands, each of which reserves
one record, together are at most 1,024, whatever step is made, the same holds of the next state: no completion
is ever lost for lack of space. -/
def Obligations.CompletionQueueKeepsItsReservations : Prop :=
  ∀ s t : State, s.cqWf → step s = .next t → t.cqWf

/-- A write of THR_HI below THR_LO or of THR_LO above THR_HI, by the row or by any path that reaches the register,
changes nothing of the input but cfg_err, which it sets, and is reported as ignored; an acceptable one changes
that input alone and leaves the pair in order. Either refreshes the register's parity. Below an Owner session of
the host port the row is denied (log entry 72). A begun EVIN_CONFIG whose THR_LO exceeds its THR_HI completes
with BADARG and changes no input. -/
def Obligations.ThresholdsKeepTheirOrder : Prop :=
  let Crosses := fun (e : EvinSt) (hi : Bool) (v : Word) => if hi then fld v 0 10 < e.thrLo.toNat else e.thrHi.toNat < fld v 0 10
  let Fresh := fun (s : State) (i : Nat) (hi : Bool) => s.parityFresh (evinBase i + if hi then 1 else 2)
  (∀ (i : Nat) (hi : Bool) (v : Word) (s : State), 2 ≤ s.sec.host → evinReach s i = .ok → Crosses (s.evin i) hi v →
      exec (.thresholdWrite i hi v) s = .next { (Fresh s i hi).updEvin i (fun e => { e with cfgErr := true }) with hp.ign := true })
  ∧ (∀ (i : Nat) (hi : Bool) (v : Word) (s : State), s.sec.host < 2 → exec (.thresholdWrite i hi v) s = .next { s with hp.denied := true })
  ∧ (∀ (i a level : Nat) (hi : Bool) (v : Word) (s : State), locate s.hp.strict a = .evin i (if hi then 1 else 2) →
      regPresent s (.evin i (if hi then 1 else 2)) = true → writeDenied (.evin i (if hi then 1 else 2)) level = false → evinReach s i = .ok →
      Crosses (s.evin i) hi v →
      (writeAt s level a v).1 = (Fresh s i hi).updEvin i (fun e => { e with cfgErr := true }) ∧ (writeAt s level a v).2 = wrIgn)
  ∧ (∀ (i : Nat) (hi : Bool) (v : Word) (s : State), 2 ≤ s.sec.host → evinReach s i = .ok → (s.evin i).thrLo.toNat ≤ (s.evin i).thrHi.toNat →
      ∃ t, exec (.thresholdWrite i hi v) s = .next t ∧ (t.evin i).thrLo.toNat ≤ (t.evin i).thrHi.toNat 
        ∧ (if Crosses (s.evin i) hi v then t.hp.ign = true else OnlyEvin (Fresh s i hi) t i))
  ∧ (∀ (s : State) (tag : Nat) (c : Cmd), Begins s tag 0x050 c → (c.arg 1).toNat < (c.arg 2).toNat →
      exec (.evinConfig tag) s = .next (complete (begun s tag) tag BADARG [])
      ∧ (complete (begun s tag) tag BADARG []).evins = s.evins ∧ Answered s (complete (begun s tag) tag BADARG []) c BADARG [])

/-- While the port serves frames with no HOST_CFG pending: with CLASP open and class 3 permitted to the host's
session, a write of RESET_CTL with chip_rst set makes a chip reset; with CLASP open and class 3 not permitted it
does nothing but report prev_denied, consume CLASP and refresh the register's parity; with CLASP not open it
does nothing but post CLASP_FAIL and report prev_ign. -/
def Obligations.ResetCtlTakesClaspAndPermission : Prop :=
  let Permitted := fun (s : State) => s.sec.host = 3 ∨ (protRow s.lk s.sec.host).getLsbD 3 = true
  (∀ (v : Word) (s : State), Serves s → s.hc.clasp = .opened → Permitted s → v.getLsbD 0 = true → s.pwr.phase ≠ .reset →
      ∃ t, exec (.resetCtlWrite v) s = .next t ∧ t.pwr.phase = .reset ∧ t.pwr.latch = 4 ∧ t.mbx = {} ∧ t.cells = [] ∧ t.sec = {})
  ∧ (∀ (v : Word) (s : State), Serves s → s.hc.clasp = .opened → ¬ Permitted s →
      exec (.resetCtlWrite v) s = .next { s.parityFresh 0x120 with hc.clasp := .shut, hp.denied := true })
  ∧ (∀ (v : Word) (s : State), Serves s → s.hc.clasp ≠ .opened →
      exec (.resetCtlWrite v) s = .next { s with hc.events := s.hc.events.postBit 0, hp.ign := true })

/-- The check word of nine words for profile p of channel n is the exclusive or of word k rotated left by k, of 256n
+ p and of 0x15555. The same nine words have different check words in two different rows, so a row whose words
are a sound row's words copied from another channel or index is refused at fetch. A zero-filled row is refused
at every fetch, whatever the cell, because its valid bit is clear. -/
def Obligations.CheckWordBindsAProfileToItsRow : Prop :=
  (∀ (n p : Nat) (w0 w1 w2 w3 w4 w5 w6 w7 w8 : Word), checkWord n p [w0, w1, w2, w3, w4, w5, w6, w7, w8] =
      w0.rotateLeft 0 ^^^ w1.rotateLeft 1 ^^^ w2.rotateLeft 2 ^^^ w3.rotateLeft 3 ^^^ w4.rotateLeft 4 ^^^ w5.rotateLeft 5
        ^^^ w6.rotateLeft 6 ^^^ w7.rotateLeft 7 ^^^ w8.rotateLeft 8 ^^^ BitVec.ofNat 18 (256 * n + p) ^^^ 0x15555)
  ∧ (∀ (s : State) (c c' n n' p p' : Nat), n < 256 → n' < 256 → p < 192 → p' < 192 → (n, p) ≠ (n', p') → fetch s c n p = .ok →
      profRow s n' p' = profRow s n p → fetch s c' n' p' ≠ .ok)
  ∧ (∀ (s : State) (c n p : Nat), profRow s n p = List.replicate 10 0 → fetch s c n p ≠ .ok)

/-- A descriptor whose word 0 is x times 0x200 plus a tag has opcode x and that tag, with every opcode and tag of
nine bits. Of the 512 opcodes the device decodes exactly the 63 listed. An accepted command of any other opcode,
0x000 included, fails its dispatch checks with BADARG, and its dispatch completes it with BADARG and does
nothing else. -/
def Obligations.UndefinedOpcodesAreBadArgAtDispatch : Prop :=
  let Listed : List Nat :=
    [0x001, 0x002, 0x003, 0x004, 0x010, 0x011, 0x012, 0x013, 0x014, 0x020, 0x021, 0x022, 0x023, 0x024, 0x025, 0x026, 0x027,
     0x030, 0x031, 0x032, 0x033, 0x034, 0x038, 0x040, 0x041, 0x042, 0x043, 0x050, 0x051, 0x052, 0x053, 0x054, 0x055,
     0x060, 0x061, 0x062, 0x063, 0x064, 0x070, 0x071, 0x072, 0x073, 0x080, 0x081, 0x082, 0x083, 0x084, 0x085, 0x086, 0x087,
     0x088, 0x089, 0x090, 0x091, 0x092, 0x0A0, 0x0A1, 0x0A2, 0x0A3, 0x0B0, 0x0B1, 0x0B2, 0x0B3]
  (∀ (x tag : Nat) (ws : List Word) (tun : Bool), x < 512 → tag < 512 →
      (cmdOf (wd (x * 0x200 + tag) :: ws) tun).opcode = x ∧ (cmdOf (wd (x * 0x200 + tag) :: ws) tun).tag = tag)
  ∧ (∀ op : Nat, (formOf op).isSome = true ↔ op ∈ Listed)
  ∧ (∀ (s : State) (tag : Nat) (c : Cmd), findCmd s tag = some c → c.opcode ∉ Listed → mayDispatch s c = true →
      dispatchCheck s c = some BADARG ∧ exec (.unknownOpcode tag) s = .next (complete s tag BADARG []))

/-- The addresses of an auto-increment frame go up by one access each without wrapping. An access beyond 0x3FFFF
reads zero and changes nothing, or discards its write and reports nothing. The trailer shows BEYOND when a word
lies beyond the end, and the number of those words. A WRITE frame that passes its checks and its length is
accepted wherever its words lie. A fixed-address frame with its address in the space has no word beyond it. -/
def Obligations.AccessesBeyondTheEndAreHarmless : Prop :=
  (∀ (h : Hdr) (i : Nat), h.fixed = false → i ≤ h.count → h.addrs[i]? = some (h.addr + h.itemsPer * i))
  ∧ (∀ (x : ReadRun) (a : Nat), 0x3FFFF < a → x.word a = (0, x))
  ∧ (∀ (h : Hdr) (l : List Bool) (x : State × WrFlags) (i a : Nat), 0x3FFFF < a → doWrite h l x i a = x)
  ∧ (∀ (h : Hdr) (u : Bool) (f : RdFlags), h.count < 128 → h.op ≠ 0 →
      h.beyond = ((h.addrs.flatMap h.words).filter (fun a => decide (0x3FFFF < a))).length
      ∧ (trailerWord u h.beyond f).getLsbD 16 = decide (h.beyond ≠ 0) ∧ fld (trailerWord u h.beyond f) 0 14 = h.beyond)
  ∧ (∀ (bits : List Bool) (s : State), portServes s = true → 36 ≤ bits.length → (hdrOf bits).op = 2 → (hdrOf bits).reqLen ≤ bits.length →
      endCheck { s with hp.empties := 0 } (hdrOf bits) bits = 0 → lengthOk { s with hp.empties := 0 } (hdrOf bits) bits.length = true →
      ∃ t, exec (.writeFrame bits) s = .next t ∧ (t.pwr.wiped = true → t.hp.prev = 0))
  ∧ (∀ h : Hdr, h.fixed = true → h.addr ≤ 0x3FFFF → (h.size = 1 → h.addr % 2 = 0) → h.beyond = 0)

/-- With the ID_VARIANT of MQ256-S in either form: EVIN_CONFIG of each of the 256 inputs passes the target check.
TRIG_CONFIG, ACQ_ARM, ACQ_STOP, ACQ_READ and ACQ_STREAM that their session may send, and every command so
permitted whose target is TIU 2 or 3 of a block, complete with BADTARGET and do nothing else than leave the
arbiter's queue. -/
def Obligations.VariantSLacksAcquisitionAndHalfItsTius : Prop :=
  ∀ s : State, s.fuses.variant = 0x1E07F ∨ s.fuses.variant = 0x3E07F →
    (∀ (c : Cmd) (f : Form), formOf 0x050 = some f → tgtScope c.target = 3 → tgtIndex c.target < 256 → targetOk s c f = true)
    ∧ (∀ (i : Instr) (tag op : Nat) (c : Cmd) (f : Form), hitanOp i = some (tag, op) → findCmd s tag = some c → c.opcode = op → c.st = .accepted →
        mayDispatch s c = true → formOf op = some f → inRom s = true ∨ permitted s c f = true →
        op ∈ [0x051, 0x052, 0x053, 0x054, 0x055] ∨ (tgtScope c.target = 4 ∧ 2 ≤ tgtIndex c.target % 4) →
        exec i s = .next (complete (unqueue s c) tag BADTARGET []))
end

