-- ==== Sys2Proof/Laws/Tables.lean ====
section
/-! SUPPORT. The laws of tables: a read after a write, and that every table operation keeps the canonical form. -/
namespace Sys2Proof.Machine
open Sys2Proof

variable {α : Type}

theorem tabGet_tabIns_self (d : α) (t : Tab α) (k : Nat) (v : α) : tabGet d (tabIns t k v) k = v := by
  induction t with
  | nil => simp [tabIns, tabGet]
  | cons e t ih =>
    obtain ⟨k', v'⟩ := e
    simp only [tabIns]
    split
    · simp [tabGet]
    · split
      · simp [tabGet]
      · have : k' ≠ k := fun h => by simp_all
        simp [tabGet, this, ih]

theorem tabGet_tabIns_ne (d : α) (t : Tab α) {j k : Nat} (v : α) (h : j ≠ k) :
    tabGet d (tabIns t k v) j = tabGet d t j := by
  induction t with
  | nil => simp [tabIns, tabGet, Ne.symm h]
  | cons e t ih =>
    obtain ⟨k', v'⟩ := e
    simp only [tabIns]
    split
    · simp [tabGet, Ne.symm h]
    · split
      · subst_vars; simp [tabGet, Ne.symm h]
      · simp [tabGet, ih]

theorem tabGet_filter_of_not (d : α) (f : Nat → Bool) (t : Tab α) {k : Nat} (h : f k = false) :
    tabGet d (t.filter (fun e => f e.1)) k = d := by
  induction t with
  | nil => rfl
  | cons e t ih =>
    by_cases he : f e.1 = true
    · have : e.1 ≠ k := fun hk => by simp_all
      simp [he, tabGet, this, ih]
    · simp [he, ih]

theorem tabGet_filter_of (d : α) (f : Nat → Bool) (t : Tab α) {k : Nat} (h : f k = true) :
    tabGet d (t.filter (fun e => f e.1)) k = tabGet d t k := by
  induction t with
  | nil => rfl
  | cons e t ih =>
    by_cases he : f e.1 = true
    · simp [he, tabGet, ih]
    · have : e.1 ≠ k := fun hk => by simp_all
      simp [he, tabGet, this, ih]

/-- A read of the entry written gives the value written. -/
@[simp] theorem tabGet_tabSet_self [DecidableEq α] (d : α) (t : Tab α) (k : Nat) (v : α) :
    tabGet d (tabSet d t k v) k = v := by
  unfold tabSet
  split
  · subst_vars
    exact tabGet_filter_of_not _ (fun j => decide (j ≠ k)) t (by simp)
  · exact tabGet_tabIns_self ..

/-- A write leaves every other entry alone. -/
theorem tabGet_tabSet_ne [DecidableEq α] (d : α) (t : Tab α) {j k : Nat} (v : α) (h : j ≠ k) :
    tabGet d (tabSet d t k v) j = tabGet d t j := by
  unfold tabSet
  split
  · exact tabGet_filter_of _ (fun j => decide (j ≠ k)) t (by simp [h])
  · exact tabGet_tabIns_ne _ _ _ h

/-- A read after a write, whichever entry is read. -/
theorem tabGet_tabSet [DecidableEq α] (d : α) (t : Tab α) (j k : Nat) (v : α) :
    tabGet d (tabSet d t k v) j = if j = k then v else tabGet d t j := by
  split
  · subst_vars; exact tabGet_tabSet_self ..
  · exact tabGet_tabSet_ne _ _ _ ‹_›

/-- A dropped entry reads as the default again; the others stay. -/
theorem tabGet_tabDrop (d : α) (f : Nat → Bool) (t : Tab α) (k : Nat) :
    tabGet d (tabDrop f t) k = if f k = true then d else tabGet d t k := by
  unfold tabDrop
  split
  · exact tabGet_filter_of_not _ (fun j => ! f j) t (by simp [*])
  · exact tabGet_filter_of _ (fun j => ! f j) t (by simp_all)

@[simp] theorem tabGet_nil (d : α) (k : Nat) : tabGet d [] k = d := rfl

/-! ### The canonical form -/

@[simp] theorem tabWf_nil [DecidableEq α] (d : α) : tabWf d ([] : Tab α) := by simp [tabWf]

theorem tabWf_filter [DecidableEq α] {d : α} {t : Tab α} (f : Nat × α → Bool) (h : tabWf d t) : tabWf d (t.filter f) :=
  ⟨h.1.filter f, fun e he => h.2 e (List.mem_filter.mp he).1⟩

theorem tabWf_tabDrop [DecidableEq α] {d : α} {t : Tab α} (f : Nat → Bool) (h : tabWf d t) : tabWf d (tabDrop f t) :=
  tabWf_filter _ h

theorem mem_tabIns {t : Tab α} {k : Nat} {v : α} {e : Nat × α} (h : e ∈ tabIns t k v) : e = (k, v) ∨ e ∈ t := by
  induction t with
  | nil => simpa [tabIns] using h
  | cons x t ih =>
    obtain ⟨k', v'⟩ := x
    simp only [tabIns] at h
    split at h
    · simpa using h
    · split at h
      · rcases List.mem_cons.mp h with h | h
        · exact .inl h
        · exact .inr (List.mem_cons_of_mem _ h)
      · rcases List.mem_cons.mp h with h | h
        · exact .inr (h ▸ List.mem_cons_self ..)
        · rcases ih h with h | h
          · exact .inl h
          · exact .inr (List.mem_cons_of_mem _ h)

theorem pairwise_tabIns {t : Tab α} (k : Nat) (v : α) (h : t.Pairwise (fun a b => a.1 < b.1)) :
    (tabIns t k v).Pairwise (fun a b => a.1 < b.1) := by
  induction t with
  | nil => simp [tabIns]
  | cons x t ih =>
    obtain ⟨k', v'⟩ := x
    simp only [tabIns]
    have hx := List.pairwise_cons.mp h
    split
    · rename_i hk
      refine List.pairwise_cons.mpr ⟨fun e he => ?_, h⟩
      rcases List.mem_cons.mp he with he | he
      · simpa [he] using hk
      · exact Nat.lt_trans hk (hx.1 e he)
    · split
      · rename_i hk; subst hk
        exact List.pairwise_cons.mpr ⟨hx.1, hx.2⟩
      · refine List.pairwise_cons.mpr ⟨fun e he => ?_, ih hx.2⟩
        rcases mem_tabIns he with he | he
        · subst he; show k' < k; omega
        · exact hx.1 e he

theorem tabWf_tabSet [DecidableEq α] {d : α} {t : Tab α} (k : Nat) (v : α) (h : tabWf d t) : tabWf d (tabSet d t k v) := by
  unfold tabSet
  split
  · exact tabWf_filter _ h
  · refine ⟨pairwise_tabIns k v h.1, fun e he => ?_⟩
    rcases mem_tabIns he with he | he
    · subst he; assumption
    · exact h.2 e he

theorem tabWf_tabMap [DecidableEq α] {d : α} {t : Tab α} (f : Nat → α → α) (h : tabWf d t) : tabWf d (tabMap d f t) := by
  refine ⟨List.Pairwise.filter _ ?_, fun e he => by simpa using (List.mem_filter.mp he).2⟩
  rw [List.pairwise_map]
  exact h.1

theorem tabWf_tabPut {t : Tab Word} (k : Nat) (ws : List Word) (h : tabWf 0 t) : tabWf 0 (tabPut t k ws) := by
  induction ws generalizing t k with
  | nil => exact h
  | cons w ws ih => exact ih _ (tabWf_tabSet _ _ h)

/-- What stands in a table after a write stood there before, or is the value written. -/
theorem mem_tabSet [DecidableEq α] {d : α} {t : Tab α} {k : Nat} {v : α} {e : Nat × α} (h : e ∈ tabSet d t k v) :
    e = (k, v) ∨ e ∈ t := by
  unfold tabSet at h
  split at h
  · exact .inr (List.mem_filter.mp h).1
  · exact mem_tabIns h

theorem mem_of_mem_tabDrop {f : Nat → Bool} {t : Tab α} {e : Nat × α} (h : e ∈ tabDrop f t) : e ∈ t :=
  (List.mem_filter.mp h).1

/-- An entry read from a table is the default or stands in it. -/
theorem tabGet_eq_or_mem (d : α) (t : Tab α) (k : Nat) : tabGet d t k = d ∨ (k, tabGet d t k) ∈ t := by
  induction t with
  | nil => exact .inl rfl
  | cons e t ih =>
    obtain ⟨k', v⟩ := e
    by_cases h : k' = k
    · subst h; simp [tabGet]
    · simp only [tabGet, h, if_false]
      rcases ih with ih | ih
      · exact .inl ih
      · exact .inr (List.mem_cons_of_mem _ ih)

/-- A property of every entry and of the default holds of every entry after a write of a value that has it. -/
theorem tabSet_forall [DecidableEq α] {d : α} {t : Tab α} {P : α → Prop} (k : Nat) {v : α} (h : ∀ e ∈ t, P e.2) (hv : P v) :
    ∀ e ∈ tabSet d t k v, P e.2 := fun e he => by
  rcases mem_tabSet he with he | he
  · subst he; exact hv
  · exact h e he

theorem tabGet_prop {d : α} {t : Tab α} {P : α → Prop} (k : Nat) (h : ∀ e ∈ t, P e.2) (hd : P d) : P (tabGet d t k) := by
  rcases tabGet_eq_or_mem d t k with e | e
  · rw [e]; exact hd
  · exact h _ e

/-! ### Consecutive words -/

theorem tabGet_tabPut_lt (t : Tab Word) {j k : Nat} (ws : List Word) (h : j < k) : tabGet 0 (tabPut t k ws) j = tabGet 0 t j := by
  induction ws generalizing t k with
  | nil => rfl
  | cons w ws ih =>
    rw [tabPut, ih _ (Nat.lt_succ_of_lt h), tabGet_tabSet_ne _ _ _ (Nat.ne_of_lt h)]

theorem tabGet_tabPut_ge (t : Tab Word) {j k : Nat} (ws : List Word) (h : k + ws.length ≤ j) :
    tabGet 0 (tabPut t k ws) j = tabGet 0 t j := by
  induction ws generalizing t k with
  | nil => rfl
  | cons w ws ih =>
    simp only [List.length_cons] at h
    rw [tabPut, ih _ (by omega), tabGet_tabSet_ne _ _ _ (by omega)]

theorem tabGet_tabPut_in (t : Tab Word) {j k : Nat} (ws : List Word) (h : k ≤ j) (h' : j < k + ws.length) :
    tabGet 0 (tabPut t k ws) j = ws.getD (j - k) 0 := by
  induction ws generalizing t k with
  | nil => simp at h'; omega
  | cons w ws ih =>
    by_cases e : j = k
    · subst e; rw [tabPut, tabGet_tabPut_lt _ _ (Nat.lt_succ_self _)]; simp
    · simp only [List.length_cons] at h'
      rw [tabPut, ih _ (by omega) (by omega)]
      have : j - k = (j - (k + 1)) + 1 := by omega
      rw [this]; simp

end Sys2Proof.Machine
end

