-- ==== Sys2Proof/Laws/State.lean ====
section
/-! SUPPORT. What each named update of the state leaves alone, field by field and unit by unit, and what it puts in
place: no later proof unfolds a record update. -/
namespace Sys2Proof.Machine
set_option Elab.async false
open Sys2Proof

/-! ### updRegion -/

@[simp] theorem State.updRegion_pending (s : State) (k : Nat) f : (s.updRegion k f).pending = s.pending := rfl
@[simp] theorem State.updRegion_free (s : State) (k : Nat) f : (s.updRegion k f).free = s.free := rfl
@[simp] theorem State.updRegion_fuses (s : State) (k : Nat) f : (s.updRegion k f).fuses = s.fuses := rfl
@[simp] theorem State.updRegion_pwr (s : State) (k : Nat) f : (s.updRegion k f).pwr = s.pwr := rfl
@[simp] theorem State.updRegion_pace (s : State) (k : Nat) f : (s.updRegion k f).pace = s.pace := rfl
@[simp] theorem State.updRegion_ref (s : State) (k : Nat) f : (s.updRegion k f).ref = s.ref := rfl
@[simp] theorem State.updRegion_rmem (s : State) (k : Nat) f : (s.updRegion k f).rmem = s.rmem := rfl
@[simp] theorem State.updRegion_blocks (s : State) (k : Nat) f : (s.updRegion k f).blocks = s.blocks := rfl
@[simp] theorem State.updRegion_cells (s : State) (k : Nat) f : (s.updRegion k f).cells = s.cells := rfl
@[simp] theorem State.updRegion_tius (s : State) (k : Nat) f : (s.updRegion k f).tius = s.tius := rfl
@[simp] theorem State.updRegion_evins (s : State) (k : Nat) f : (s.updRegion k f).evins = s.evins := rfl
@[simp] theorem State.updRegion_acqs (s : State) (k : Nat) f : (s.updRegion k f).acqs = s.acqs := rfl
@[simp] theorem State.updRegion_profiles (s : State) (k : Nat) f : (s.updRegion k f).profiles = s.profiles := rfl
@[simp] theorem State.updRegion_hopTab (s : State) (k : Nat) f : (s.updRegion k f).hopTab = s.hopTab := rfl
@[simp] theorem State.updRegion_mbx (s : State) (k : Nat) f : (s.updRegion k f).mbx = s.mbx := rfl
@[simp] theorem State.updRegion_flt (s : State) (k : Nat) f : (s.updRegion k f).flt = s.flt := rfl
@[simp] theorem State.updRegion_hc (s : State) (k : Nat) f : (s.updRegion k f).hc = s.hc := rfl
@[simp] theorem State.updRegion_cal (s : State) (k : Nat) f : (s.updRegion k f).cal = s.cal := rfl
@[simp] theorem State.updRegion_bist (s : State) (k : Nat) f : (s.updRegion k f).bist = s.bist := rfl
@[simp] theorem State.updRegion_hp (s : State) (k : Nat) f : (s.updRegion k f).hp = s.hp := rfl
@[simp] theorem State.updRegion_fl (s : State) (k : Nat) f : (s.updRegion k f).fl = s.fl := rfl
@[simp] theorem State.updRegion_boot (s : State) (k : Nat) f : (s.updRegion k f).boot = s.boot := rfl
@[simp] theorem State.updRegion_lk (s : State) (k : Nat) f : (s.updRegion k f).lk = s.lk := rfl
@[simp] theorem State.updRegion_sec (s : State) (k : Nat) f : (s.updRegion k f).sec = s.sec := rfl
@[simp] theorem State.updRegion_ports (s : State) (k : Nat) f : (s.updRegion k f).ports = s.ports := rfl
@[simp] theorem State.updRegion_tree (s : State) (k : Nat) f : (s.updRegion k f).tree = s.tree := rfl
@[simp] theorem State.updRegion_pins (s : State) (k : Nat) f : (s.updRegion k f).pins = s.pins := rfl
@[simp] theorem State.updRegion_evRegs (s : State) (k : Nat) f : (s.updRegion k f).evRegs = s.evRegs := rfl
@[simp] theorem State.region_updRegion_self (s : State) (k : Nat) f : (s.updRegion k f).region k = f (s.region k) := tabGet_tabSet_self ..
theorem State.region_updRegion_ne (s : State) {j k : Nat} f (h : j ≠ k) : (s.updRegion k f).region j = s.region j := tabGet_tabSet_ne _ _ _ h
theorem State.region_updRegion (s : State) (j k : Nat) f : (s.updRegion k f).region j = if j = k then f (s.region k) else s.region j :=
  tabGet_tabSet ..
/-- An update of one unit changes that table alone. -/
theorem State.updRegion_only (s : State) (k : Nat) f : { s.updRegion k f with regions := s.regions } = s := rfl
@[simp] theorem State.mem_updRegion (s : State) (j k : Nat) f : (s.updRegion k f).mem j = s.mem j := rfl
@[simp] theorem State.block_updRegion (s : State) (j k : Nat) f : (s.updRegion k f).block j = s.block j := rfl
@[simp] theorem State.cell_updRegion (s : State) (j k : Nat) f : (s.updRegion k f).cell j = s.cell j := rfl
@[simp] theorem State.tiu_updRegion (s : State) (j k : Nat) f : (s.updRegion k f).tiu j = s.tiu j := rfl
@[simp] theorem State.evin_updRegion (s : State) (j k : Nat) f : (s.updRegion k f).evin j = s.evin j := rfl
@[simp] theorem State.acq_updRegion (s : State) (j k : Nat) f : (s.updRegion k f).acq j = s.acq j := rfl
@[simp] theorem State.port_updRegion (s : State) (j k : Nat) f : (s.updRegion k f).port j = s.port j := rfl

/-! ### updMem -/

@[simp] theorem State.updMem_pending (s : State) (k : Nat) f : (s.updMem k f).pending = s.pending := rfl
@[simp] theorem State.updMem_free (s : State) (k : Nat) f : (s.updMem k f).free = s.free := rfl
@[simp] theorem State.updMem_fuses (s : State) (k : Nat) f : (s.updMem k f).fuses = s.fuses := rfl
@[simp] theorem State.updMem_pwr (s : State) (k : Nat) f : (s.updMem k f).pwr = s.pwr := rfl
@[simp] theorem State.updMem_pace (s : State) (k : Nat) f : (s.updMem k f).pace = s.pace := rfl
@[simp] theorem State.updMem_ref (s : State) (k : Nat) f : (s.updMem k f).ref = s.ref := rfl
@[simp] theorem State.updMem_regions (s : State) (k : Nat) f : (s.updMem k f).regions = s.regions := rfl
@[simp] theorem State.updMem_blocks (s : State) (k : Nat) f : (s.updMem k f).blocks = s.blocks := rfl
@[simp] theorem State.updMem_cells (s : State) (k : Nat) f : (s.updMem k f).cells = s.cells := rfl
@[simp] theorem State.updMem_tius (s : State) (k : Nat) f : (s.updMem k f).tius = s.tius := rfl
@[simp] theorem State.updMem_evins (s : State) (k : Nat) f : (s.updMem k f).evins = s.evins := rfl
@[simp] theorem State.updMem_acqs (s : State) (k : Nat) f : (s.updMem k f).acqs = s.acqs := rfl
@[simp] theorem State.updMem_profiles (s : State) (k : Nat) f : (s.updMem k f).profiles = s.profiles := rfl
@[simp] theorem State.updMem_hopTab (s : State) (k : Nat) f : (s.updMem k f).hopTab = s.hopTab := rfl
@[simp] theorem State.updMem_mbx (s : State) (k : Nat) f : (s.updMem k f).mbx = s.mbx := rfl
@[simp] theorem State.updMem_flt (s : State) (k : Nat) f : (s.updMem k f).flt = s.flt := rfl
@[simp] theorem State.updMem_hc (s : State) (k : Nat) f : (s.updMem k f).hc = s.hc := rfl
@[simp] theorem State.updMem_cal (s : State) (k : Nat) f : (s.updMem k f).cal = s.cal := rfl
@[simp] theorem State.updMem_bist (s : State) (k : Nat) f : (s.updMem k f).bist = s.bist := rfl
@[simp] theorem State.updMem_hp (s : State) (k : Nat) f : (s.updMem k f).hp = s.hp := rfl
@[simp] theorem State.updMem_fl (s : State) (k : Nat) f : (s.updMem k f).fl = s.fl := rfl
@[simp] theorem State.updMem_boot (s : State) (k : Nat) f : (s.updMem k f).boot = s.boot := rfl
@[simp] theorem State.updMem_lk (s : State) (k : Nat) f : (s.updMem k f).lk = s.lk := rfl
@[simp] theorem State.updMem_sec (s : State) (k : Nat) f : (s.updMem k f).sec = s.sec := rfl
@[simp] theorem State.updMem_ports (s : State) (k : Nat) f : (s.updMem k f).ports = s.ports := rfl
@[simp] theorem State.updMem_tree (s : State) (k : Nat) f : (s.updMem k f).tree = s.tree := rfl
@[simp] theorem State.updMem_pins (s : State) (k : Nat) f : (s.updMem k f).pins = s.pins := rfl
@[simp] theorem State.updMem_evRegs (s : State) (k : Nat) f : (s.updMem k f).evRegs = s.evRegs := rfl
@[simp] theorem State.mem_updMem_self (s : State) (k : Nat) f : (s.updMem k f).mem k = f (s.mem k) := tabGet_tabSet_self ..
theorem State.mem_updMem_ne (s : State) {j k : Nat} f (h : j ≠ k) : (s.updMem k f).mem j = s.mem j := tabGet_tabSet_ne _ _ _ h
theorem State.mem_updMem (s : State) (j k : Nat) f : (s.updMem k f).mem j = if j = k then f (s.mem k) else s.mem j :=
  tabGet_tabSet ..
/-- An update of one unit changes that table alone. -/
theorem State.updMem_only (s : State) (k : Nat) f : { s.updMem k f with rmem := s.rmem } = s := rfl
@[simp] theorem State.region_updMem (s : State) (j k : Nat) f : (s.updMem k f).region j = s.region j := rfl
@[simp] theorem State.block_updMem (s : State) (j k : Nat) f : (s.updMem k f).block j = s.block j := rfl
@[simp] theorem State.cell_updMem (s : State) (j k : Nat) f : (s.updMem k f).cell j = s.cell j := rfl
@[simp] theorem State.tiu_updMem (s : State) (j k : Nat) f : (s.updMem k f).tiu j = s.tiu j := rfl
@[simp] theorem State.evin_updMem (s : State) (j k : Nat) f : (s.updMem k f).evin j = s.evin j := rfl
@[simp] theorem State.acq_updMem (s : State) (j k : Nat) f : (s.updMem k f).acq j = s.acq j := rfl
@[simp] theorem State.port_updMem (s : State) (j k : Nat) f : (s.updMem k f).port j = s.port j := rfl

/-! ### updBlock -/

@[simp] theorem State.updBlock_pending (s : State) (k : Nat) f : (s.updBlock k f).pending = s.pending := rfl
@[simp] theorem State.updBlock_free (s : State) (k : Nat) f : (s.updBlock k f).free = s.free := rfl
@[simp] theorem State.updBlock_fuses (s : State) (k : Nat) f : (s.updBlock k f).fuses = s.fuses := rfl
@[simp] theorem State.updBlock_pwr (s : State) (k : Nat) f : (s.updBlock k f).pwr = s.pwr := rfl
@[simp] theorem State.updBlock_pace (s : State) (k : Nat) f : (s.updBlock k f).pace = s.pace := rfl
@[simp] theorem State.updBlock_ref (s : State) (k : Nat) f : (s.updBlock k f).ref = s.ref := rfl
@[simp] theorem State.updBlock_regions (s : State) (k : Nat) f : (s.updBlock k f).regions = s.regions := rfl
@[simp] theorem State.updBlock_rmem (s : State) (k : Nat) f : (s.updBlock k f).rmem = s.rmem := rfl
@[simp] theorem State.updBlock_cells (s : State) (k : Nat) f : (s.updBlock k f).cells = s.cells := rfl
@[simp] theorem State.updBlock_tius (s : State) (k : Nat) f : (s.updBlock k f).tius = s.tius := rfl
@[simp] theorem State.updBlock_evins (s : State) (k : Nat) f : (s.updBlock k f).evins = s.evins := rfl
@[simp] theorem State.updBlock_acqs (s : State) (k : Nat) f : (s.updBlock k f).acqs = s.acqs := rfl
@[simp] theorem State.updBlock_profiles (s : State) (k : Nat) f : (s.updBlock k f).profiles = s.profiles := rfl
@[simp] theorem State.updBlock_hopTab (s : State) (k : Nat) f : (s.updBlock k f).hopTab = s.hopTab := rfl
@[simp] theorem State.updBlock_mbx (s : State) (k : Nat) f : (s.updBlock k f).mbx = s.mbx := rfl
@[simp] theorem State.updBlock_flt (s : State) (k : Nat) f : (s.updBlock k f).flt = s.flt := rfl
@[simp] theorem State.updBlock_hc (s : State) (k : Nat) f : (s.updBlock k f).hc = s.hc := rfl
@[simp] theorem State.updBlock_cal (s : State) (k : Nat) f : (s.updBlock k f).cal = s.cal := rfl
@[simp] theorem State.updBlock_bist (s : State) (k : Nat) f : (s.updBlock k f).bist = s.bist := rfl
@[simp] theorem State.updBlock_hp (s : State) (k : Nat) f : (s.updBlock k f).hp = s.hp := rfl
@[simp] theorem State.updBlock_fl (s : State) (k : Nat) f : (s.updBlock k f).fl = s.fl := rfl
@[simp] theorem State.updBlock_boot (s : State) (k : Nat) f : (s.updBlock k f).boot = s.boot := rfl
@[simp] theorem State.updBlock_lk (s : State) (k : Nat) f : (s.updBlock k f).lk = s.lk := rfl
@[simp] theorem State.updBlock_sec (s : State) (k : Nat) f : (s.updBlock k f).sec = s.sec := rfl
@[simp] theorem State.updBlock_ports (s : State) (k : Nat) f : (s.updBlock k f).ports = s.ports := rfl
@[simp] theorem State.updBlock_tree (s : State) (k : Nat) f : (s.updBlock k f).tree = s.tree := rfl
@[simp] theorem State.updBlock_pins (s : State) (k : Nat) f : (s.updBlock k f).pins = s.pins := rfl
@[simp] theorem State.updBlock_evRegs (s : State) (k : Nat) f : (s.updBlock k f).evRegs = s.evRegs := rfl
@[simp] theorem State.block_updBlock_self (s : State) (k : Nat) f : (s.updBlock k f).block k = f (s.block k) := tabGet_tabSet_self ..
theorem State.block_updBlock_ne (s : State) {j k : Nat} f (h : j ≠ k) : (s.updBlock k f).block j = s.block j := tabGet_tabSet_ne _ _ _ h
theorem State.block_updBlock (s : State) (j k : Nat) f : (s.updBlock k f).block j = if j = k then f (s.block k) else s.block j :=
  tabGet_tabSet ..
/-- An update of one unit changes that table alone. -/
theorem State.updBlock_only (s : State) (k : Nat) f : { s.updBlock k f with blocks := s.blocks } = s := rfl
@[simp] theorem State.region_updBlock (s : State) (j k : Nat) f : (s.updBlock k f).region j = s.region j := rfl
@[simp] theorem State.mem_updBlock (s : State) (j k : Nat) f : (s.updBlock k f).mem j = s.mem j := rfl
@[simp] theorem State.cell_updBlock (s : State) (j k : Nat) f : (s.updBlock k f).cell j = s.cell j := rfl
@[simp] theorem State.tiu_updBlock (s : State) (j k : Nat) f : (s.updBlock k f).tiu j = s.tiu j := rfl
@[simp] theorem State.evin_updBlock (s : State) (j k : Nat) f : (s.updBlock k f).evin j = s.evin j := rfl
@[simp] theorem State.acq_updBlock (s : State) (j k : Nat) f : (s.updBlock k f).acq j = s.acq j := rfl
@[simp] theorem State.port_updBlock (s : State) (j k : Nat) f : (s.updBlock k f).port j = s.port j := rfl

/-! ### updCell -/

@[simp] theorem State.updCell_pending (s : State) (k : Nat) f : (s.updCell k f).pending = s.pending := rfl
@[simp] theorem State.updCell_free (s : State) (k : Nat) f : (s.updCell k f).free = s.free := rfl
@[simp] theorem State.updCell_fuses (s : State) (k : Nat) f : (s.updCell k f).fuses = s.fuses := rfl
@[simp] theorem State.updCell_pwr (s : State) (k : Nat) f : (s.updCell k f).pwr = s.pwr := rfl
@[simp] theorem State.updCell_pace (s : State) (k : Nat) f : (s.updCell k f).pace = s.pace := rfl
@[simp] theorem State.updCell_ref (s : State) (k : Nat) f : (s.updCell k f).ref = s.ref := rfl
@[simp] theorem State.updCell_regions (s : State) (k : Nat) f : (s.updCell k f).regions = s.regions := rfl
@[simp] theorem State.updCell_rmem (s : State) (k : Nat) f : (s.updCell k f).rmem = s.rmem := rfl
@[simp] theorem State.updCell_blocks (s : State) (k : Nat) f : (s.updCell k f).blocks = s.blocks := rfl
@[simp] theorem State.updCell_tius (s : State) (k : Nat) f : (s.updCell k f).tius = s.tius := rfl
@[simp] theorem State.updCell_evins (s : State) (k : Nat) f : (s.updCell k f).evins = s.evins := rfl
@[simp] theorem State.updCell_acqs (s : State) (k : Nat) f : (s.updCell k f).acqs = s.acqs := rfl
@[simp] theorem State.updCell_profiles (s : State) (k : Nat) f : (s.updCell k f).profiles = s.profiles := rfl
@[simp] theorem State.updCell_hopTab (s : State) (k : Nat) f : (s.updCell k f).hopTab = s.hopTab := rfl
@[simp] theorem State.updCell_mbx (s : State) (k : Nat) f : (s.updCell k f).mbx = s.mbx := rfl
@[simp] theorem State.updCell_flt (s : State) (k : Nat) f : (s.updCell k f).flt = s.flt := rfl
@[simp] theorem State.updCell_hc (s : State) (k : Nat) f : (s.updCell k f).hc = s.hc := rfl
@[simp] theorem State.updCell_cal (s : State) (k : Nat) f : (s.updCell k f).cal = s.cal := rfl
@[simp] theorem State.updCell_bist (s : State) (k : Nat) f : (s.updCell k f).bist = s.bist := rfl
@[simp] theorem State.updCell_hp (s : State) (k : Nat) f : (s.updCell k f).hp = s.hp := rfl
@[simp] theorem State.updCell_fl (s : State) (k : Nat) f : (s.updCell k f).fl = s.fl := rfl
@[simp] theorem State.updCell_boot (s : State) (k : Nat) f : (s.updCell k f).boot = s.boot := rfl
@[simp] theorem State.updCell_lk (s : State) (k : Nat) f : (s.updCell k f).lk = s.lk := rfl
@[simp] theorem State.updCell_sec (s : State) (k : Nat) f : (s.updCell k f).sec = s.sec := rfl
@[simp] theorem State.updCell_ports (s : State) (k : Nat) f : (s.updCell k f).ports = s.ports := rfl
@[simp] theorem State.updCell_tree (s : State) (k : Nat) f : (s.updCell k f).tree = s.tree := rfl
@[simp] theorem State.updCell_pins (s : State) (k : Nat) f : (s.updCell k f).pins = s.pins := rfl
@[simp] theorem State.updCell_evRegs (s : State) (k : Nat) f : (s.updCell k f).evRegs = s.evRegs := rfl
@[simp] theorem State.cell_updCell_self (s : State) (k : Nat) f : (s.updCell k f).cell k = f (s.cell k) := tabGet_tabSet_self ..
theorem State.cell_updCell_ne (s : State) {j k : Nat} f (h : j ≠ k) : (s.updCell k f).cell j = s.cell j := tabGet_tabSet_ne _ _ _ h
theorem State.cell_updCell (s : State) (j k : Nat) f : (s.updCell k f).cell j = if j = k then f (s.cell k) else s.cell j :=
  tabGet_tabSet ..
/-- An update of one unit changes that table alone. -/
theorem State.updCell_only (s : State) (k : Nat) f : { s.updCell k f with cells := s.cells } = s := rfl
@[simp] theorem State.region_updCell (s : State) (j k : Nat) f : (s.updCell k f).region j = s.region j := rfl
@[simp] theorem State.mem_updCell (s : State) (j k : Nat) f : (s.updCell k f).mem j = s.mem j := rfl
@[simp] theorem State.block_updCell (s : State) (j k : Nat) f : (s.updCell k f).block j = s.block j := rfl
@[simp] theorem State.tiu_updCell (s : State) (j k : Nat) f : (s.updCell k f).tiu j = s.tiu j := rfl
@[simp] theorem State.evin_updCell (s : State) (j k : Nat) f : (s.updCell k f).evin j = s.evin j := rfl
@[simp] theorem State.acq_updCell (s : State) (j k : Nat) f : (s.updCell k f).acq j = s.acq j := rfl
@[simp] theorem State.port_updCell (s : State) (j k : Nat) f : (s.updCell k f).port j = s.port j := rfl

/-! ### updTiu -/

@[simp] theorem State.updTiu_pending (s : State) (k : Nat) f : (s.updTiu k f).pending = s.pending := rfl
@[simp] theorem State.updTiu_free (s : State) (k : Nat) f : (s.updTiu k f).free = s.free := rfl
@[simp] theorem State.updTiu_fuses (s : State) (k : Nat) f : (s.updTiu k f).fuses = s.fuses := rfl
@[simp] theorem State.updTiu_pwr (s : State) (k : Nat) f : (s.updTiu k f).pwr = s.pwr := rfl
@[simp] theorem State.updTiu_pace (s : State) (k : Nat) f : (s.updTiu k f).pace = s.pace := rfl
@[simp] theorem State.updTiu_ref (s : State) (k : Nat) f : (s.updTiu k f).ref = s.ref := rfl
@[simp] theorem State.updTiu_regions (s : State) (k : Nat) f : (s.updTiu k f).regions = s.regions := rfl
@[simp] theorem State.updTiu_rmem (s : State) (k : Nat) f : (s.updTiu k f).rmem = s.rmem := rfl
@[simp] theorem State.updTiu_blocks (s : State) (k : Nat) f : (s.updTiu k f).blocks = s.blocks := rfl
@[simp] theorem State.updTiu_cells (s : State) (k : Nat) f : (s.updTiu k f).cells = s.cells := rfl
@[simp] theorem State.updTiu_evins (s : State) (k : Nat) f : (s.updTiu k f).evins = s.evins := rfl
@[simp] theorem State.updTiu_acqs (s : State) (k : Nat) f : (s.updTiu k f).acqs = s.acqs := rfl
@[simp] theorem State.updTiu_profiles (s : State) (k : Nat) f : (s.updTiu k f).profiles = s.profiles := rfl
@[simp] theorem State.updTiu_hopTab (s : State) (k : Nat) f : (s.updTiu k f).hopTab = s.hopTab := rfl
@[simp] theorem State.updTiu_mbx (s : State) (k : Nat) f : (s.updTiu k f).mbx = s.mbx := rfl
@[simp] theorem State.updTiu_flt (s : State) (k : Nat) f : (s.updTiu k f).flt = s.flt := rfl
@[simp] theorem State.updTiu_hc (s : State) (k : Nat) f : (s.updTiu k f).hc = s.hc := rfl
@[simp] theorem State.updTiu_cal (s : State) (k : Nat) f : (s.updTiu k f).cal = s.cal := rfl
@[simp] theorem State.updTiu_bist (s : State) (k : Nat) f : (s.updTiu k f).bist = s.bist := rfl
@[simp] theorem State.updTiu_hp (s : State) (k : Nat) f : (s.updTiu k f).hp = s.hp := rfl
@[simp] theorem State.updTiu_fl (s : State) (k : Nat) f : (s.updTiu k f).fl = s.fl := rfl
@[simp] theorem State.updTiu_boot (s : State) (k : Nat) f : (s.updTiu k f).boot = s.boot := rfl
@[simp] theorem State.updTiu_lk (s : State) (k : Nat) f : (s.updTiu k f).lk = s.lk := rfl
@[simp] theorem State.updTiu_sec (s : State) (k : Nat) f : (s.updTiu k f).sec = s.sec := rfl
@[simp] theorem State.updTiu_ports (s : State) (k : Nat) f : (s.updTiu k f).ports = s.ports := rfl
@[simp] theorem State.updTiu_tree (s : State) (k : Nat) f : (s.updTiu k f).tree = s.tree := rfl
@[simp] theorem State.updTiu_pins (s : State) (k : Nat) f : (s.updTiu k f).pins = s.pins := rfl
@[simp] theorem State.updTiu_evRegs (s : State) (k : Nat) f : (s.updTiu k f).evRegs = s.evRegs := rfl
@[simp] theorem State.tiu_updTiu_self (s : State) (k : Nat) f : (s.updTiu k f).tiu k = f (s.tiu k) := tabGet_tabSet_self ..
theorem State.tiu_updTiu_ne (s : State) {j k : Nat} f (h : j ≠ k) : (s.updTiu k f).tiu j = s.tiu j := tabGet_tabSet_ne _ _ _ h
theorem State.tiu_updTiu (s : State) (j k : Nat) f : (s.updTiu k f).tiu j = if j = k then f (s.tiu k) else s.tiu j :=
  tabGet_tabSet ..
/-- An update of one unit changes that table alone. -/
theorem State.updTiu_only (s : State) (k : Nat) f : { s.updTiu k f with tius := s.tius } = s := rfl
@[simp] theorem State.region_updTiu (s : State) (j k : Nat) f : (s.updTiu k f).region j = s.region j := rfl
@[simp] theorem State.mem_updTiu (s : State) (j k : Nat) f : (s.updTiu k f).mem j = s.mem j := rfl
@[simp] theorem State.block_updTiu (s : State) (j k : Nat) f : (s.updTiu k f).block j = s.block j := rfl
@[simp] theorem State.cell_updTiu (s : State) (j k : Nat) f : (s.updTiu k f).cell j = s.cell j := rfl
@[simp] theorem State.evin_updTiu (s : State) (j k : Nat) f : (s.updTiu k f).evin j = s.evin j := rfl
@[simp] theorem State.acq_updTiu (s : State) (j k : Nat) f : (s.updTiu k f).acq j = s.acq j := rfl
@[simp] theorem State.port_updTiu (s : State) (j k : Nat) f : (s.updTiu k f).port j = s.port j := rfl

/-! ### updEvin -/

@[simp] theorem State.updEvin_pending (s : State) (k : Nat) f : (s.updEvin k f).pending = s.pending := rfl
@[simp] theorem State.updEvin_free (s : State) (k : Nat) f : (s.updEvin k f).free = s.free := rfl
@[simp] theorem State.updEvin_fuses (s : State) (k : Nat) f : (s.updEvin k f).fuses = s.fuses := rfl
@[simp] theorem State.updEvin_pwr (s : State) (k : Nat) f : (s.updEvin k f).pwr = s.pwr := rfl
@[simp] theorem State.updEvin_pace (s : State) (k : Nat) f : (s.updEvin k f).pace = s.pace := rfl
@[simp] theorem State.updEvin_ref (s : State) (k : Nat) f : (s.updEvin k f).ref = s.ref := rfl
@[simp] theorem State.updEvin_regions (s : State) (k : Nat) f : (s.updEvin k f).regions = s.regions := rfl
@[simp] theorem State.updEvin_rmem (s : State) (k : Nat) f : (s.updEvin k f).rmem = s.rmem := rfl
@[simp] theorem State.updEvin_blocks (s : State) (k : Nat) f : (s.updEvin k f).blocks = s.blocks := rfl
@[simp] theorem State.updEvin_cells (s : State) (k : Nat) f : (s.updEvin k f).cells = s.cells := rfl
@[simp] theorem State.updEvin_tius (s : State) (k : Nat) f : (s.updEvin k f).tius = s.tius := rfl
@[simp] theorem State.updEvin_acqs (s : State) (k : Nat) f : (s.updEvin k f).acqs = s.acqs := rfl
@[simp] theorem State.updEvin_profiles (s : State) (k : Nat) f : (s.updEvin k f).profiles = s.profiles := rfl
@[simp] theorem State.updEvin_hopTab (s : State) (k : Nat) f : (s.updEvin k f).hopTab = s.hopTab := rfl
@[simp] theorem State.updEvin_mbx (s : State) (k : Nat) f : (s.updEvin k f).mbx = s.mbx := rfl
@[simp] theorem State.updEvin_flt (s : State) (k : Nat) f : (s.updEvin k f).flt = s.flt := rfl
@[simp] theorem State.updEvin_hc (s : State) (k : Nat) f : (s.updEvin k f).hc = s.hc := rfl
@[simp] theorem State.updEvin_cal (s : State) (k : Nat) f : (s.updEvin k f).cal = s.cal := rfl
@[simp] theorem State.updEvin_bist (s : State) (k : Nat) f : (s.updEvin k f).bist = s.bist := rfl
@[simp] theorem State.updEvin_hp (s : State) (k : Nat) f : (s.updEvin k f).hp = s.hp := rfl
@[simp] theorem State.updEvin_fl (s : State) (k : Nat) f : (s.updEvin k f).fl = s.fl := rfl
@[simp] theorem State.updEvin_boot (s : State) (k : Nat) f : (s.updEvin k f).boot = s.boot := rfl
@[simp] theorem State.updEvin_lk (s : State) (k : Nat) f : (s.updEvin k f).lk = s.lk := rfl
@[simp] theorem State.updEvin_sec (s : State) (k : Nat) f : (s.updEvin k f).sec = s.sec := rfl
@[simp] theorem State.updEvin_ports (s : State) (k : Nat) f : (s.updEvin k f).ports = s.ports := rfl
@[simp] theorem State.updEvin_tree (s : State) (k : Nat) f : (s.updEvin k f).tree = s.tree := rfl
@[simp] theorem State.updEvin_pins (s : State) (k : Nat) f : (s.updEvin k f).pins = s.pins := rfl
@[simp] theorem State.updEvin_evRegs (s : State) (k : Nat) f : (s.updEvin k f).evRegs = s.evRegs := rfl
@[simp] theorem State.evin_updEvin_self (s : State) (k : Nat) f : (s.updEvin k f).evin k = f (s.evin k) := tabGet_tabSet_self ..
theorem State.evin_updEvin_ne (s : State) {j k : Nat} f (h : j ≠ k) : (s.updEvin k f).evin j = s.evin j := tabGet_tabSet_ne _ _ _ h
theorem State.evin_updEvin (s : State) (j k : Nat) f : (s.updEvin k f).evin j = if j = k then f (s.evin k) else s.evin j :=
  tabGet_tabSet ..
/-- An update of one unit changes that table alone. -/
theorem State.updEvin_only (s : State) (k : Nat) f : { s.updEvin k f with evins := s.evins } = s := rfl
@[simp] theorem State.region_updEvin (s : State) (j k : Nat) f : (s.updEvin k f).region j = s.region j := rfl
@[simp] theorem State.mem_updEvin (s : State) (j k : Nat) f : (s.updEvin k f).mem j = s.mem j := rfl
@[simp] theorem State.block_updEvin (s : State) (j k : Nat) f : (s.updEvin k f).block j = s.block j := rfl
@[simp] theorem State.cell_updEvin (s : State) (j k : Nat) f : (s.updEvin k f).cell j = s.cell j := rfl
@[simp] theorem State.tiu_updEvin (s : State) (j k : Nat) f : (s.updEvin k f).tiu j = s.tiu j := rfl
@[simp] theorem State.acq_updEvin (s : State) (j k : Nat) f : (s.updEvin k f).acq j = s.acq j := rfl
@[simp] theorem State.port_updEvin (s : State) (j k : Nat) f : (s.updEvin k f).port j = s.port j := rfl

/-! ### updAcq -/

@[simp] theorem State.updAcq_pending (s : State) (k : Nat) f : (s.updAcq k f).pending = s.pending := rfl
@[simp] theorem State.updAcq_free (s : State) (k : Nat) f : (s.updAcq k f).free = s.free := rfl
@[simp] theorem State.updAcq_fuses (s : State) (k : Nat) f : (s.updAcq k f).fuses = s.fuses := rfl
@[simp] theorem State.updAcq_pwr (s : State) (k : Nat) f : (s.updAcq k f).pwr = s.pwr := rfl
@[simp] theorem State.updAcq_pace (s : State) (k : Nat) f : (s.updAcq k f).pace = s.pace := rfl
@[simp] theorem State.updAcq_ref (s : State) (k : Nat) f : (s.updAcq k f).ref = s.ref := rfl
@[simp] theorem State.updAcq_regions (s : State) (k : Nat) f : (s.updAcq k f).regions = s.regions := rfl
@[simp] theorem State.updAcq_rmem (s : State) (k : Nat) f : (s.updAcq k f).rmem = s.rmem := rfl
@[simp] theorem State.updAcq_blocks (s : State) (k : Nat) f : (s.updAcq k f).blocks = s.blocks := rfl
@[simp] theorem State.updAcq_cells (s : State) (k : Nat) f : (s.updAcq k f).cells = s.cells := rfl
@[simp] theorem State.updAcq_tius (s : State) (k : Nat) f : (s.updAcq k f).tius = s.tius := rfl
@[simp] theorem State.updAcq_evins (s : State) (k : Nat) f : (s.updAcq k f).evins = s.evins := rfl
@[simp] theorem State.updAcq_profiles (s : State) (k : Nat) f : (s.updAcq k f).profiles = s.profiles := rfl
@[simp] theorem State.updAcq_hopTab (s : State) (k : Nat) f : (s.updAcq k f).hopTab = s.hopTab := rfl
@[simp] theorem State.updAcq_mbx (s : State) (k : Nat) f : (s.updAcq k f).mbx = s.mbx := rfl
@[simp] theorem State.updAcq_flt (s : State) (k : Nat) f : (s.updAcq k f).flt = s.flt := rfl
@[simp] theorem State.updAcq_hc (s : State) (k : Nat) f : (s.updAcq k f).hc = s.hc := rfl
@[simp] theorem State.updAcq_cal (s : State) (k : Nat) f : (s.updAcq k f).cal = s.cal := rfl
@[simp] theorem State.updAcq_bist (s : State) (k : Nat) f : (s.updAcq k f).bist = s.bist := rfl
@[simp] theorem State.updAcq_hp (s : State) (k : Nat) f : (s.updAcq k f).hp = s.hp := rfl
@[simp] theorem State.updAcq_fl (s : State) (k : Nat) f : (s.updAcq k f).fl = s.fl := rfl
@[simp] theorem State.updAcq_boot (s : State) (k : Nat) f : (s.updAcq k f).boot = s.boot := rfl
@[simp] theorem State.updAcq_lk (s : State) (k : Nat) f : (s.updAcq k f).lk = s.lk := rfl
@[simp] theorem State.updAcq_sec (s : State) (k : Nat) f : (s.updAcq k f).sec = s.sec := rfl
@[simp] theorem State.updAcq_ports (s : State) (k : Nat) f : (s.updAcq k f).ports = s.ports := rfl
@[simp] theorem State.updAcq_tree (s : State) (k : Nat) f : (s.updAcq k f).tree = s.tree := rfl
@[simp] theorem State.updAcq_pins (s : State) (k : Nat) f : (s.updAcq k f).pins = s.pins := rfl
@[simp] theorem State.updAcq_evRegs (s : State) (k : Nat) f : (s.updAcq k f).evRegs = s.evRegs := rfl
@[simp] theorem State.acq_updAcq_self (s : State) (k : Nat) f : (s.updAcq k f).acq k = f (s.acq k) := tabGet_tabSet_self ..
theorem State.acq_updAcq_ne (s : State) {j k : Nat} f (h : j ≠ k) : (s.updAcq k f).acq j = s.acq j := tabGet_tabSet_ne _ _ _ h
theorem State.acq_updAcq (s : State) (j k : Nat) f : (s.updAcq k f).acq j = if j = k then f (s.acq k) else s.acq j :=
  tabGet_tabSet ..
/-- An update of one unit changes that table alone. -/
theorem State.updAcq_only (s : State) (k : Nat) f : { s.updAcq k f with acqs := s.acqs } = s := rfl
@[simp] theorem State.region_updAcq (s : State) (j k : Nat) f : (s.updAcq k f).region j = s.region j := rfl
@[simp] theorem State.mem_updAcq (s : State) (j k : Nat) f : (s.updAcq k f).mem j = s.mem j := rfl
@[simp] theorem State.block_updAcq (s : State) (j k : Nat) f : (s.updAcq k f).block j = s.block j := rfl
@[simp] theorem State.cell_updAcq (s : State) (j k : Nat) f : (s.updAcq k f).cell j = s.cell j := rfl
@[simp] theorem State.tiu_updAcq (s : State) (j k : Nat) f : (s.updAcq k f).tiu j = s.tiu j := rfl
@[simp] theorem State.evin_updAcq (s : State) (j k : Nat) f : (s.updAcq k f).evin j = s.evin j := rfl
@[simp] theorem State.port_updAcq (s : State) (j k : Nat) f : (s.updAcq k f).port j = s.port j := rfl

/-! ### updPort -/

@[simp] theorem State.updPort_pending (s : State) (k : Nat) f : (s.updPort k f).pending = s.pending := rfl
@[simp] theorem State.updPort_free (s : State) (k : Nat) f : (s.updPort k f).free = s.free := rfl
@[simp] theorem State.updPort_fuses (s : State) (k : Nat) f : (s.updPort k f).fuses = s.fuses := rfl
@[simp] theorem State.updPort_pwr (s : State) (k : Nat) f : (s.updPort k f).pwr = s.pwr := rfl
@[simp] theorem State.updPort_pace (s : State) (k : Nat) f : (s.updPort k f).pace = s.pace := rfl
@[simp] theorem State.updPort_ref (s : State) (k : Nat) f : (s.updPort k f).ref = s.ref := rfl
@[simp] theorem State.updPort_regions (s : State) (k : Nat) f : (s.updPort k f).regions = s.regions := rfl
@[simp] theorem State.updPort_rmem (s : State) (k : Nat) f : (s.updPort k f).rmem = s.rmem := rfl
@[simp] theorem State.updPort_blocks (s : State) (k : Nat) f : (s.updPort k f).blocks = s.blocks := rfl
@[simp] theorem State.updPort_cells (s : State) (k : Nat) f : (s.updPort k f).cells = s.cells := rfl
@[simp] theorem State.updPort_tius (s : State) (k : Nat) f : (s.updPort k f).tius = s.tius := rfl
@[simp] theorem State.updPort_evins (s : State) (k : Nat) f : (s.updPort k f).evins = s.evins := rfl
@[simp] theorem State.updPort_acqs (s : State) (k : Nat) f : (s.updPort k f).acqs = s.acqs := rfl
@[simp] theorem State.updPort_profiles (s : State) (k : Nat) f : (s.updPort k f).profiles = s.profiles := rfl
@[simp] theorem State.updPort_hopTab (s : State) (k : Nat) f : (s.updPort k f).hopTab = s.hopTab := rfl
@[simp] theorem State.updPort_mbx (s : State) (k : Nat) f : (s.updPort k f).mbx = s.mbx := rfl
@[simp] theorem State.updPort_flt (s : State) (k : Nat) f : (s.updPort k f).flt = s.flt := rfl
@[simp] theorem State.updPort_hc (s : State) (k : Nat) f : (s.updPort k f).hc = s.hc := rfl
@[simp] theorem State.updPort_cal (s : State) (k : Nat) f : (s.updPort k f).cal = s.cal := rfl
@[simp] theorem State.updPort_bist (s : State) (k : Nat) f : (s.updPort k f).bist = s.bist := rfl
@[simp] theorem State.updPort_hp (s : State) (k : Nat) f : (s.updPort k f).hp = s.hp := rfl
@[simp] theorem State.updPort_fl (s : State) (k : Nat) f : (s.updPort k f).fl = s.fl := rfl
@[simp] theorem State.updPort_boot (s : State) (k : Nat) f : (s.updPort k f).boot = s.boot := rfl
@[simp] theorem State.updPort_lk (s : State) (k : Nat) f : (s.updPort k f).lk = s.lk := rfl
@[simp] theorem State.updPort_sec (s : State) (k : Nat) f : (s.updPort k f).sec = s.sec := rfl
@[simp] theorem State.updPort_tree (s : State) (k : Nat) f : (s.updPort k f).tree = s.tree := rfl
@[simp] theorem State.updPort_pins (s : State) (k : Nat) f : (s.updPort k f).pins = s.pins := rfl
@[simp] theorem State.updPort_evRegs (s : State) (k : Nat) f : (s.updPort k f).evRegs = s.evRegs := rfl
@[simp] theorem State.port_updPort_self (s : State) (k : Nat) f : (s.updPort k f).port k = f (s.port k) := tabGet_tabSet_self ..
theorem State.port_updPort_ne (s : State) {j k : Nat} f (h : j ≠ k) : (s.updPort k f).port j = s.port j := tabGet_tabSet_ne _ _ _ h
theorem State.port_updPort (s : State) (j k : Nat) f : (s.updPort k f).port j = if j = k then f (s.port k) else s.port j :=
  tabGet_tabSet ..
/-- An update of one unit changes that table alone. -/
theorem State.updPort_only (s : State) (k : Nat) f : { s.updPort k f with ports := s.ports } = s := rfl
@[simp] theorem State.region_updPort (s : State) (j k : Nat) f : (s.updPort k f).region j = s.region j := rfl
@[simp] theorem State.mem_updPort (s : State) (j k : Nat) f : (s.updPort k f).mem j = s.mem j := rfl
@[simp] theorem State.block_updPort (s : State) (j k : Nat) f : (s.updPort k f).block j = s.block j := rfl
@[simp] theorem State.cell_updPort (s : State) (j k : Nat) f : (s.updPort k f).cell j = s.cell j := rfl
@[simp] theorem State.tiu_updPort (s : State) (j k : Nat) f : (s.updPort k f).tiu j = s.tiu j := rfl
@[simp] theorem State.evin_updPort (s : State) (j k : Nat) f : (s.updPort k f).evin j = s.evin j := rfl
@[simp] theorem State.acq_updPort (s : State) (j k : Nat) f : (s.updPort k f).acq j = s.acq j := rfl

/-! ### tick -/

@[simp] theorem State.tick_pending (s : State) : (s.tick).pending = s.pending := rfl
@[simp] theorem State.tick_fuses (s : State) : (s.tick).fuses = s.fuses := rfl
@[simp] theorem State.tick_pwr (s : State) : (s.tick).pwr = s.pwr := rfl
@[simp] theorem State.tick_pace (s : State) : (s.tick).pace = s.pace := rfl
@[simp] theorem State.tick_ref (s : State) : (s.tick).ref = s.ref := rfl
@[simp] theorem State.tick_regions (s : State) : (s.tick).regions = s.regions := rfl
@[simp] theorem State.tick_rmem (s : State) : (s.tick).rmem = s.rmem := rfl
@[simp] theorem State.tick_blocks (s : State) : (s.tick).blocks = s.blocks := rfl
@[simp] theorem State.tick_cells (s : State) : (s.tick).cells = s.cells := rfl
@[simp] theorem State.tick_tius (s : State) : (s.tick).tius = s.tius := rfl
@[simp] theorem State.tick_evins (s : State) : (s.tick).evins = s.evins := rfl
@[simp] theorem State.tick_acqs (s : State) : (s.tick).acqs = s.acqs := rfl
@[simp] theorem State.tick_profiles (s : State) : (s.tick).profiles = s.profiles := rfl
@[simp] theorem State.tick_hopTab (s : State) : (s.tick).hopTab = s.hopTab := rfl
@[simp] theorem State.tick_mbx (s : State) : (s.tick).mbx = s.mbx := rfl
@[simp] theorem State.tick_flt (s : State) : (s.tick).flt = s.flt := rfl
@[simp] theorem State.tick_hc (s : State) : (s.tick).hc = s.hc := rfl
@[simp] theorem State.tick_cal (s : State) : (s.tick).cal = s.cal := rfl
@[simp] theorem State.tick_bist (s : State) : (s.tick).bist = s.bist := rfl
@[simp] theorem State.tick_hp (s : State) : (s.tick).hp = s.hp := rfl
@[simp] theorem State.tick_fl (s : State) : (s.tick).fl = s.fl := rfl
@[simp] theorem State.tick_boot (s : State) : (s.tick).boot = s.boot := rfl
@[simp] theorem State.tick_lk (s : State) : (s.tick).lk = s.lk := rfl
@[simp] theorem State.tick_sec (s : State) : (s.tick).sec = s.sec := rfl
@[simp] theorem State.tick_ports (s : State) : (s.tick).ports = s.ports := rfl
@[simp] theorem State.tick_tree (s : State) : (s.tick).tree = s.tree := rfl
@[simp] theorem State.tick_pins (s : State) : (s.tick).pins = s.pins := rfl
@[simp] theorem State.tick_evRegs (s : State) : (s.tick).evRegs = s.evRegs := rfl
@[simp] theorem State.region_tick (s : State) (j : Nat) : (s.tick).region j = s.region j := rfl
@[simp] theorem State.mem_tick (s : State) (j : Nat) : (s.tick).mem j = s.mem j := rfl
@[simp] theorem State.block_tick (s : State) (j : Nat) : (s.tick).block j = s.block j := rfl
@[simp] theorem State.cell_tick (s : State) (j : Nat) : (s.tick).cell j = s.cell j := rfl
@[simp] theorem State.tiu_tick (s : State) (j : Nat) : (s.tick).tiu j = s.tiu j := rfl
@[simp] theorem State.evin_tick (s : State) (j : Nat) : (s.tick).evin j = s.evin j := rfl
@[simp] theorem State.acq_tick (s : State) (j : Nat) : (s.tick).acq j = s.acq j := rfl
@[simp] theorem State.port_tick (s : State) (j : Nat) : (s.tick).port j = s.port j := rfl

/-! ### postHost -/

@[simp] theorem State.postHost_pending (s : State) (k : Nat) : (s.postHost k).pending = s.pending := rfl
@[simp] theorem State.postHost_free (s : State) (k : Nat) : (s.postHost k).free = s.free := rfl
@[simp] theorem State.postHost_fuses (s : State) (k : Nat) : (s.postHost k).fuses = s.fuses := rfl
@[simp] theorem State.postHost_pwr (s : State) (k : Nat) : (s.postHost k).pwr = s.pwr := rfl
@[simp] theorem State.postHost_pace (s : State) (k : Nat) : (s.postHost k).pace = s.pace := rfl
@[simp] theorem State.postHost_ref (s : State) (k : Nat) : (s.postHost k).ref = s.ref := rfl
@[simp] theorem State.postHost_regions (s : State) (k : Nat) : (s.postHost k).regions = s.regions := rfl
@[simp] theorem State.postHost_rmem (s : State) (k : Nat) : (s.postHost k).rmem = s.rmem := rfl
@[simp] theorem State.postHost_blocks (s : State) (k : Nat) : (s.postHost k).blocks = s.blocks := rfl
@[simp] theorem State.postHost_cells (s : State) (k : Nat) : (s.postHost k).cells = s.cells := rfl
@[simp] theorem State.postHost_tius (s : State) (k : Nat) : (s.postHost k).tius = s.tius := rfl
@[simp] theorem State.postHost_evins (s : State) (k : Nat) : (s.postHost k).evins = s.evins := rfl
@[simp] theorem State.postHost_acqs (s : State) (k : Nat) : (s.postHost k).acqs = s.acqs := rfl
@[simp] theorem State.postHost_profiles (s : State) (k : Nat) : (s.postHost k).profiles = s.profiles := rfl
@[simp] theorem State.postHost_hopTab (s : State) (k : Nat) : (s.postHost k).hopTab = s.hopTab := rfl
@[simp] theorem State.postHost_mbx (s : State) (k : Nat) : (s.postHost k).mbx = s.mbx := rfl
@[simp] theorem State.postHost_flt (s : State) (k : Nat) : (s.postHost k).flt = s.flt := rfl
@[simp] theorem State.postHost_cal (s : State) (k : Nat) : (s.postHost k).cal = s.cal := rfl
@[simp] theorem State.postHost_bist (s : State) (k : Nat) : (s.postHost k).bist = s.bist := rfl
@[simp] theorem State.postHost_hp (s : State) (k : Nat) : (s.postHost k).hp = s.hp := rfl
@[simp] theorem State.postHost_fl (s : State) (k : Nat) : (s.postHost k).fl = s.fl := rfl
@[simp] theorem State.postHost_boot (s : State) (k : Nat) : (s.postHost k).boot = s.boot := rfl
@[simp] theorem State.postHost_lk (s : State) (k : Nat) : (s.postHost k).lk = s.lk := rfl
@[simp] theorem State.postHost_sec (s : State) (k : Nat) : (s.postHost k).sec = s.sec := rfl
@[simp] theorem State.postHost_ports (s : State) (k : Nat) : (s.postHost k).ports = s.ports := rfl
@[simp] theorem State.postHost_tree (s : State) (k : Nat) : (s.postHost k).tree = s.tree := rfl
@[simp] theorem State.postHost_pins (s : State) (k : Nat) : (s.postHost k).pins = s.pins := rfl
@[simp] theorem State.postHost_evRegs (s : State) (k : Nat) : (s.postHost k).evRegs = s.evRegs := rfl
@[simp] theorem State.region_postHost (s : State) (k : Nat) (j : Nat) : (s.postHost k).region j = s.region j := rfl
@[simp] theorem State.mem_postHost (s : State) (k : Nat) (j : Nat) : (s.postHost k).mem j = s.mem j := rfl
@[simp] theorem State.block_postHost (s : State) (k : Nat) (j : Nat) : (s.postHost k).block j = s.block j := rfl
@[simp] theorem State.cell_postHost (s : State) (k : Nat) (j : Nat) : (s.postHost k).cell j = s.cell j := rfl
@[simp] theorem State.tiu_postHost (s : State) (k : Nat) (j : Nat) : (s.postHost k).tiu j = s.tiu j := rfl
@[simp] theorem State.evin_postHost (s : State) (k : Nat) (j : Nat) : (s.postHost k).evin j = s.evin j := rfl
@[simp] theorem State.acq_postHost (s : State) (k : Nat) (j : Nat) : (s.postHost k).acq j = s.acq j := rfl
@[simp] theorem State.port_postHost (s : State) (k : Nat) (j : Nat) : (s.postHost k).port j = s.port j := rfl

/-! ### postMbx -/

@[simp] theorem State.postMbx_pending (s : State) (k : Nat) : (s.postMbx k).pending = s.pending := rfl
@[simp] theorem State.postMbx_free (s : State) (k : Nat) : (s.postMbx k).free = s.free := rfl
@[simp] theorem State.postMbx_fuses (s : State) (k : Nat) : (s.postMbx k).fuses = s.fuses := rfl
@[simp] theorem State.postMbx_pwr (s : State) (k : Nat) : (s.postMbx k).pwr = s.pwr := rfl
@[simp] theorem State.postMbx_pace (s : State) (k : Nat) : (s.postMbx k).pace = s.pace := rfl
@[simp] theorem State.postMbx_ref (s : State) (k : Nat) : (s.postMbx k).ref = s.ref := rfl
@[simp] theorem State.postMbx_regions (s : State) (k : Nat) : (s.postMbx k).regions = s.regions := rfl
@[simp] theorem State.postMbx_rmem (s : State) (k : Nat) : (s.postMbx k).rmem = s.rmem := rfl
@[simp] theorem State.postMbx_blocks (s : State) (k : Nat) : (s.postMbx k).blocks = s.blocks := rfl
@[simp] theorem State.postMbx_cells (s : State) (k : Nat) : (s.postMbx k).cells = s.cells := rfl
@[simp] theorem State.postMbx_tius (s : State) (k : Nat) : (s.postMbx k).tius = s.tius := rfl
@[simp] theorem State.postMbx_evins (s : State) (k : Nat) : (s.postMbx k).evins = s.evins := rfl
@[simp] theorem State.postMbx_acqs (s : State) (k : Nat) : (s.postMbx k).acqs = s.acqs := rfl
@[simp] theorem State.postMbx_profiles (s : State) (k : Nat) : (s.postMbx k).profiles = s.profiles := rfl
@[simp] theorem State.postMbx_hopTab (s : State) (k : Nat) : (s.postMbx k).hopTab = s.hopTab := rfl
@[simp] theorem State.postMbx_flt (s : State) (k : Nat) : (s.postMbx k).flt = s.flt := rfl
@[simp] theorem State.postMbx_hc (s : State) (k : Nat) : (s.postMbx k).hc = s.hc := rfl
@[simp] theorem State.postMbx_cal (s : State) (k : Nat) : (s.postMbx k).cal = s.cal := rfl
@[simp] theorem State.postMbx_bist (s : State) (k : Nat) : (s.postMbx k).bist = s.bist := rfl
@[simp] theorem State.postMbx_hp (s : State) (k : Nat) : (s.postMbx k).hp = s.hp := rfl
@[simp] theorem State.postMbx_fl (s : State) (k : Nat) : (s.postMbx k).fl = s.fl := rfl
@[simp] theorem State.postMbx_boot (s : State) (k : Nat) : (s.postMbx k).boot = s.boot := rfl
@[simp] theorem State.postMbx_lk (s : State) (k : Nat) : (s.postMbx k).lk = s.lk := rfl
@[simp] theorem State.postMbx_sec (s : State) (k : Nat) : (s.postMbx k).sec = s.sec := rfl
@[simp] theorem State.postMbx_ports (s : State) (k : Nat) : (s.postMbx k).ports = s.ports := rfl
@[simp] theorem State.postMbx_tree (s : State) (k : Nat) : (s.postMbx k).tree = s.tree := rfl
@[simp] theorem State.postMbx_pins (s : State) (k : Nat) : (s.postMbx k).pins = s.pins := rfl
@[simp] theorem State.postMbx_evRegs (s : State) (k : Nat) : (s.postMbx k).evRegs = s.evRegs := rfl
@[simp] theorem State.region_postMbx (s : State) (k : Nat) (j : Nat) : (s.postMbx k).region j = s.region j := rfl
@[simp] theorem State.mem_postMbx (s : State) (k : Nat) (j : Nat) : (s.postMbx k).mem j = s.mem j := rfl
@[simp] theorem State.block_postMbx (s : State) (k : Nat) (j : Nat) : (s.postMbx k).block j = s.block j := rfl
@[simp] theorem State.cell_postMbx (s : State) (k : Nat) (j : Nat) : (s.postMbx k).cell j = s.cell j := rfl
@[simp] theorem State.tiu_postMbx (s : State) (k : Nat) (j : Nat) : (s.postMbx k).tiu j = s.tiu j := rfl
@[simp] theorem State.evin_postMbx (s : State) (k : Nat) (j : Nat) : (s.postMbx k).evin j = s.evin j := rfl
@[simp] theorem State.acq_postMbx (s : State) (k : Nat) (j : Nat) : (s.postMbx k).acq j = s.acq j := rfl
@[simp] theorem State.port_postMbx (s : State) (k : Nat) (j : Nat) : (s.postMbx k).port j = s.port j := rfl

/-! ### postPace -/

@[simp] theorem State.postPace_pending (s : State) (k : Nat) : (s.postPace k).pending = s.pending := rfl
@[simp] theorem State.postPace_free (s : State) (k : Nat) : (s.postPace k).free = s.free := rfl
@[simp] theorem State.postPace_fuses (s : State) (k : Nat) : (s.postPace k).fuses = s.fuses := rfl
@[simp] theorem State.postPace_pwr (s : State) (k : Nat) : (s.postPace k).pwr = s.pwr := rfl
@[simp] theorem State.postPace_ref (s : State) (k : Nat) : (s.postPace k).ref = s.ref := rfl
@[simp] theorem State.postPace_regions (s : State) (k : Nat) : (s.postPace k).regions = s.regions := rfl
@[simp] theorem State.postPace_rmem (s : State) (k : Nat) : (s.postPace k).rmem = s.rmem := rfl
@[simp] theorem State.postPace_blocks (s : State) (k : Nat) : (s.postPace k).blocks = s.blocks := rfl
@[simp] theorem State.postPace_cells (s : State) (k : Nat) : (s.postPace k).cells = s.cells := rfl
@[simp] theorem State.postPace_tius (s : State) (k : Nat) : (s.postPace k).tius = s.tius := rfl
@[simp] theorem State.postPace_evins (s : State) (k : Nat) : (s.postPace k).evins = s.evins := rfl
@[simp] theorem State.postPace_acqs (s : State) (k : Nat) : (s.postPace k).acqs = s.acqs := rfl
@[simp] theorem State.postPace_profiles (s : State) (k : Nat) : (s.postPace k).profiles = s.profiles := rfl
@[simp] theorem State.postPace_hopTab (s : State) (k : Nat) : (s.postPace k).hopTab = s.hopTab := rfl
@[simp] theorem State.postPace_mbx (s : State) (k : Nat) : (s.postPace k).mbx = s.mbx := rfl
@[simp] theorem State.postPace_flt (s : State) (k : Nat) : (s.postPace k).flt = s.flt := rfl
@[simp] theorem State.postPace_hc (s : State) (k : Nat) : (s.postPace k).hc = s.hc := rfl
@[simp] theorem State.postPace_cal (s : State) (k : Nat) : (s.postPace k).cal = s.cal := rfl
@[simp] theorem State.postPace_bist (s : State) (k : Nat) : (s.postPace k).bist = s.bist := rfl
@[simp] theorem State.postPace_hp (s : State) (k : Nat) : (s.postPace k).hp = s.hp := rfl
@[simp] theorem State.postPace_fl (s : State) (k : Nat) : (s.postPace k).fl = s.fl := rfl
@[simp] theorem State.postPace_boot (s : State) (k : Nat) : (s.postPace k).boot = s.boot := rfl
@[simp] theorem State.postPace_lk (s : State) (k : Nat) : (s.postPace k).lk = s.lk := rfl
@[simp] theorem State.postPace_sec (s : State) (k : Nat) : (s.postPace k).sec = s.sec := rfl
@[simp] theorem State.postPace_ports (s : State) (k : Nat) : (s.postPace k).ports = s.ports := rfl
@[simp] theorem State.postPace_tree (s : State) (k : Nat) : (s.postPace k).tree = s.tree := rfl
@[simp] theorem State.postPace_pins (s : State) (k : Nat) : (s.postPace k).pins = s.pins := rfl
@[simp] theorem State.postPace_evRegs (s : State) (k : Nat) : (s.postPace k).evRegs = s.evRegs := rfl
@[simp] theorem State.region_postPace (s : State) (k : Nat) (j : Nat) : (s.postPace k).region j = s.region j := rfl
@[simp] theorem State.mem_postPace (s : State) (k : Nat) (j : Nat) : (s.postPace k).mem j = s.mem j := rfl
@[simp] theorem State.block_postPace (s : State) (k : Nat) (j : Nat) : (s.postPace k).block j = s.block j := rfl
@[simp] theorem State.cell_postPace (s : State) (k : Nat) (j : Nat) : (s.postPace k).cell j = s.cell j := rfl
@[simp] theorem State.tiu_postPace (s : State) (k : Nat) (j : Nat) : (s.postPace k).tiu j = s.tiu j := rfl
@[simp] theorem State.evin_postPace (s : State) (k : Nat) (j : Nat) : (s.postPace k).evin j = s.evin j := rfl
@[simp] theorem State.acq_postPace (s : State) (k : Nat) (j : Nat) : (s.postPace k).acq j = s.acq j := rfl
@[simp] theorem State.port_postPace (s : State) (k : Nat) (j : Nat) : (s.postPace k).port j = s.port j := rfl

/-! ### postRef -/

@[simp] theorem State.postRef_pending (s : State) (r k : Nat) : (s.postRef r k).pending = s.pending := rfl
@[simp] theorem State.postRef_free (s : State) (r k : Nat) : (s.postRef r k).free = s.free := rfl
@[simp] theorem State.postRef_fuses (s : State) (r k : Nat) : (s.postRef r k).fuses = s.fuses := rfl
@[simp] theorem State.postRef_pwr (s : State) (r k : Nat) : (s.postRef r k).pwr = s.pwr := rfl
@[simp] theorem State.postRef_pace (s : State) (r k : Nat) : (s.postRef r k).pace = s.pace := rfl
@[simp] theorem State.postRef_ref (s : State) (r k : Nat) : (s.postRef r k).ref = s.ref := rfl
@[simp] theorem State.postRef_rmem (s : State) (r k : Nat) : (s.postRef r k).rmem = s.rmem := rfl
@[simp] theorem State.postRef_blocks (s : State) (r k : Nat) : (s.postRef r k).blocks = s.blocks := rfl
@[simp] theorem State.postRef_cells (s : State) (r k : Nat) : (s.postRef r k).cells = s.cells := rfl
@[simp] theorem State.postRef_tius (s : State) (r k : Nat) : (s.postRef r k).tius = s.tius := rfl
@[simp] theorem State.postRef_evins (s : State) (r k : Nat) : (s.postRef r k).evins = s.evins := rfl
@[simp] theorem State.postRef_acqs (s : State) (r k : Nat) : (s.postRef r k).acqs = s.acqs := rfl
@[simp] theorem State.postRef_profiles (s : State) (r k : Nat) : (s.postRef r k).profiles = s.profiles := rfl
@[simp] theorem State.postRef_hopTab (s : State) (r k : Nat) : (s.postRef r k).hopTab = s.hopTab := rfl
@[simp] theorem State.postRef_mbx (s : State) (r k : Nat) : (s.postRef r k).mbx = s.mbx := rfl
@[simp] theorem State.postRef_flt (s : State) (r k : Nat) : (s.postRef r k).flt = s.flt := rfl
@[simp] theorem State.postRef_hc (s : State) (r k : Nat) : (s.postRef r k).hc = s.hc := rfl
@[simp] theorem State.postRef_cal (s : State) (r k : Nat) : (s.postRef r k).cal = s.cal := rfl
@[simp] theorem State.postRef_bist (s : State) (r k : Nat) : (s.postRef r k).bist = s.bist := rfl
@[simp] theorem State.postRef_hp (s : State) (r k : Nat) : (s.postRef r k).hp = s.hp := rfl
@[simp] theorem State.postRef_fl (s : State) (r k : Nat) : (s.postRef r k).fl = s.fl := rfl
@[simp] theorem State.postRef_boot (s : State) (r k : Nat) : (s.postRef r k).boot = s.boot := rfl
@[simp] theorem State.postRef_lk (s : State) (r k : Nat) : (s.postRef r k).lk = s.lk := rfl
@[simp] theorem State.postRef_sec (s : State) (r k : Nat) : (s.postRef r k).sec = s.sec := rfl
@[simp] theorem State.postRef_ports (s : State) (r k : Nat) : (s.postRef r k).ports = s.ports := rfl
@[simp] theorem State.postRef_tree (s : State) (r k : Nat) : (s.postRef r k).tree = s.tree := rfl
@[simp] theorem State.postRef_pins (s : State) (r k : Nat) : (s.postRef r k).pins = s.pins := rfl
@[simp] theorem State.postRef_evRegs (s : State) (r k : Nat) : (s.postRef r k).evRegs = s.evRegs := rfl
@[simp] theorem State.mem_postRef (s : State) (r k : Nat) (j : Nat) : (s.postRef r k).mem j = s.mem j := rfl
@[simp] theorem State.block_postRef (s : State) (r k : Nat) (j : Nat) : (s.postRef r k).block j = s.block j := rfl
@[simp] theorem State.cell_postRef (s : State) (r k : Nat) (j : Nat) : (s.postRef r k).cell j = s.cell j := rfl
@[simp] theorem State.tiu_postRef (s : State) (r k : Nat) (j : Nat) : (s.postRef r k).tiu j = s.tiu j := rfl
@[simp] theorem State.evin_postRef (s : State) (r k : Nat) (j : Nat) : (s.postRef r k).evin j = s.evin j := rfl
@[simp] theorem State.acq_postRef (s : State) (r k : Nat) (j : Nat) : (s.postRef r k).acq j = s.acq j := rfl
@[simp] theorem State.port_postRef (s : State) (r k : Nat) (j : Nat) : (s.postRef r k).port j = s.port j := rfl

/-! ### postRegion -/

@[simp] theorem State.postRegion_pending (s : State) (r k : Nat) : (s.postRegion r k).pending = s.pending := rfl
@[simp] theorem State.postRegion_free (s : State) (r k : Nat) : (s.postRegion r k).free = s.free := rfl
@[simp] theorem State.postRegion_fuses (s : State) (r k : Nat) : (s.postRegion r k).fuses = s.fuses := rfl
@[simp] theorem State.postRegion_pwr (s : State) (r k : Nat) : (s.postRegion r k).pwr = s.pwr := rfl
@[simp] theorem State.postRegion_pace (s : State) (r k : Nat) : (s.postRegion r k).pace = s.pace := rfl
@[simp] theorem State.postRegion_ref (s : State) (r k : Nat) : (s.postRegion r k).ref = s.ref := rfl
@[simp] theorem State.postRegion_rmem (s : State) (r k : Nat) : (s.postRegion r k).rmem = s.rmem := rfl
@[simp] theorem State.postRegion_blocks (s : State) (r k : Nat) : (s.postRegion r k).blocks = s.blocks := rfl
@[simp] theorem State.postRegion_cells (s : State) (r k : Nat) : (s.postRegion r k).cells = s.cells := rfl
@[simp] theorem State.postRegion_tius (s : State) (r k : Nat) : (s.postRegion r k).tius = s.tius := rfl
@[simp] theorem State.postRegion_evins (s : State) (r k : Nat) : (s.postRegion r k).evins = s.evins := rfl
@[simp] theorem State.postRegion_acqs (s : State) (r k : Nat) : (s.postRegion r k).acqs = s.acqs := rfl
@[simp] theorem State.postRegion_profiles (s : State) (r k : Nat) : (s.postRegion r k).profiles = s.profiles := rfl
@[simp] theorem State.postRegion_hopTab (s : State) (r k : Nat) : (s.postRegion r k).hopTab = s.hopTab := rfl
@[simp] theorem State.postRegion_mbx (s : State) (r k : Nat) : (s.postRegion r k).mbx = s.mbx := rfl
@[simp] theorem State.postRegion_flt (s : State) (r k : Nat) : (s.postRegion r k).flt = s.flt := rfl
@[simp] theorem State.postRegion_hc (s : State) (r k : Nat) : (s.postRegion r k).hc = s.hc := rfl
@[simp] theorem State.postRegion_cal (s : State) (r k : Nat) : (s.postRegion r k).cal = s.cal := rfl
@[simp] theorem State.postRegion_bist (s : State) (r k : Nat) : (s.postRegion r k).bist = s.bist := rfl
@[simp] theorem State.postRegion_hp (s : State) (r k : Nat) : (s.postRegion r k).hp = s.hp := rfl
@[simp] theorem State.postRegion_fl (s : State) (r k : Nat) : (s.postRegion r k).fl = s.fl := rfl
@[simp] theorem State.postRegion_boot (s : State) (r k : Nat) : (s.postRegion r k).boot = s.boot := rfl
@[simp] theorem State.postRegion_lk (s : State) (r k : Nat) : (s.postRegion r k).lk = s.lk := rfl
@[simp] theorem State.postRegion_sec (s : State) (r k : Nat) : (s.postRegion r k).sec = s.sec := rfl
@[simp] theorem State.postRegion_ports (s : State) (r k : Nat) : (s.postRegion r k).ports = s.ports := rfl
@[simp] theorem State.postRegion_tree (s : State) (r k : Nat) : (s.postRegion r k).tree = s.tree := rfl
@[simp] theorem State.postRegion_pins (s : State) (r k : Nat) : (s.postRegion r k).pins = s.pins := rfl
@[simp] theorem State.postRegion_evRegs (s : State) (r k : Nat) : (s.postRegion r k).evRegs = s.evRegs := rfl
@[simp] theorem State.mem_postRegion (s : State) (r k : Nat) (j : Nat) : (s.postRegion r k).mem j = s.mem j := rfl
@[simp] theorem State.block_postRegion (s : State) (r k : Nat) (j : Nat) : (s.postRegion r k).block j = s.block j := rfl
@[simp] theorem State.cell_postRegion (s : State) (r k : Nat) (j : Nat) : (s.postRegion r k).cell j = s.cell j := rfl
@[simp] theorem State.tiu_postRegion (s : State) (r k : Nat) (j : Nat) : (s.postRegion r k).tiu j = s.tiu j := rfl
@[simp] theorem State.evin_postRegion (s : State) (r k : Nat) (j : Nat) : (s.postRegion r k).evin j = s.evin j := rfl
@[simp] theorem State.acq_postRegion (s : State) (r k : Nat) (j : Nat) : (s.postRegion r k).acq j = s.acq j := rfl
@[simp] theorem State.port_postRegion (s : State) (r k : Nat) (j : Nat) : (s.postRegion r k).port j = s.port j := rfl

/-! ### postBlock -/

@[simp] theorem State.postBlock_pending (s : State) (B k : Nat) : (s.postBlock B k).pending = s.pending := rfl
@[simp] theorem State.postBlock_free (s : State) (B k : Nat) : (s.postBlock B k).free = s.free := rfl
@[simp] theorem State.postBlock_fuses (s : State) (B k : Nat) : (s.postBlock B k).fuses = s.fuses := rfl
@[simp] theorem State.postBlock_pwr (s : State) (B k : Nat) : (s.postBlock B k).pwr = s.pwr := rfl
@[simp] theorem State.postBlock_pace (s : State) (B k : Nat) : (s.postBlock B k).pace = s.pace := rfl
@[simp] theorem State.postBlock_ref (s : State) (B k : Nat) : (s.postBlock B k).ref = s.ref := rfl
@[simp] theorem State.postBlock_regions (s : State) (B k : Nat) : (s.postBlock B k).regions = s.regions := rfl
@[simp] theorem State.postBlock_rmem (s : State) (B k : Nat) : (s.postBlock B k).rmem = s.rmem := rfl
@[simp] theorem State.postBlock_cells (s : State) (B k : Nat) : (s.postBlock B k).cells = s.cells := rfl
@[simp] theorem State.postBlock_tius (s : State) (B k : Nat) : (s.postBlock B k).tius = s.tius := rfl
@[simp] theorem State.postBlock_evins (s : State) (B k : Nat) : (s.postBlock B k).evins = s.evins := rfl
@[simp] theorem State.postBlock_acqs (s : State) (B k : Nat) : (s.postBlock B k).acqs = s.acqs := rfl
@[simp] theorem State.postBlock_profiles (s : State) (B k : Nat) : (s.postBlock B k).profiles = s.profiles := rfl
@[simp] theorem State.postBlock_hopTab (s : State) (B k : Nat) : (s.postBlock B k).hopTab = s.hopTab := rfl
@[simp] theorem State.postBlock_mbx (s : State) (B k : Nat) : (s.postBlock B k).mbx = s.mbx := rfl
@[simp] theorem State.postBlock_flt (s : State) (B k : Nat) : (s.postBlock B k).flt = s.flt := rfl
@[simp] theorem State.postBlock_hc (s : State) (B k : Nat) : (s.postBlock B k).hc = s.hc := rfl
@[simp] theorem State.postBlock_cal (s : State) (B k : Nat) : (s.postBlock B k).cal = s.cal := rfl
@[simp] theorem State.postBlock_bist (s : State) (B k : Nat) : (s.postBlock B k).bist = s.bist := rfl
@[simp] theorem State.postBlock_hp (s : State) (B k : Nat) : (s.postBlock B k).hp = s.hp := rfl
@[simp] theorem State.postBlock_fl (s : State) (B k : Nat) : (s.postBlock B k).fl = s.fl := rfl
@[simp] theorem State.postBlock_boot (s : State) (B k : Nat) : (s.postBlock B k).boot = s.boot := rfl
@[simp] theorem State.postBlock_lk (s : State) (B k : Nat) : (s.postBlock B k).lk = s.lk := rfl
@[simp] theorem State.postBlock_sec (s : State) (B k : Nat) : (s.postBlock B k).sec = s.sec := rfl
@[simp] theorem State.postBlock_ports (s : State) (B k : Nat) : (s.postBlock B k).ports = s.ports := rfl
@[simp] theorem State.postBlock_tree (s : State) (B k : Nat) : (s.postBlock B k).tree = s.tree := rfl
@[simp] theorem State.postBlock_pins (s : State) (B k : Nat) : (s.postBlock B k).pins = s.pins := rfl
@[simp] theorem State.postBlock_evRegs (s : State) (B k : Nat) : (s.postBlock B k).evRegs = s.evRegs := rfl
@[simp] theorem State.region_postBlock (s : State) (B k : Nat) (j : Nat) : (s.postBlock B k).region j = s.region j := rfl
@[simp] theorem State.mem_postBlock (s : State) (B k : Nat) (j : Nat) : (s.postBlock B k).mem j = s.mem j := rfl
@[simp] theorem State.cell_postBlock (s : State) (B k : Nat) (j : Nat) : (s.postBlock B k).cell j = s.cell j := rfl
@[simp] theorem State.tiu_postBlock (s : State) (B k : Nat) (j : Nat) : (s.postBlock B k).tiu j = s.tiu j := rfl
@[simp] theorem State.evin_postBlock (s : State) (B k : Nat) (j : Nat) : (s.postBlock B k).evin j = s.evin j := rfl
@[simp] theorem State.acq_postBlock (s : State) (B k : Nat) (j : Nat) : (s.postBlock B k).acq j = s.acq j := rfl
@[simp] theorem State.port_postBlock (s : State) (B k : Nat) (j : Nat) : (s.postBlock B k).port j = s.port j := rfl

/-! ### postAcq -/

@[simp] theorem State.postAcq_pending (s : State) (r k : Nat) : (s.postAcq r k).pending = s.pending := rfl
@[simp] theorem State.postAcq_free (s : State) (r k : Nat) : (s.postAcq r k).free = s.free := rfl
@[simp] theorem State.postAcq_fuses (s : State) (r k : Nat) : (s.postAcq r k).fuses = s.fuses := rfl
@[simp] theorem State.postAcq_pwr (s : State) (r k : Nat) : (s.postAcq r k).pwr = s.pwr := rfl
@[simp] theorem State.postAcq_pace (s : State) (r k : Nat) : (s.postAcq r k).pace = s.pace := rfl
@[simp] theorem State.postAcq_ref (s : State) (r k : Nat) : (s.postAcq r k).ref = s.ref := rfl
@[simp] theorem State.postAcq_regions (s : State) (r k : Nat) : (s.postAcq r k).regions = s.regions := rfl
@[simp] theorem State.postAcq_rmem (s : State) (r k : Nat) : (s.postAcq r k).rmem = s.rmem := rfl
@[simp] theorem State.postAcq_blocks (s : State) (r k : Nat) : (s.postAcq r k).blocks = s.blocks := rfl
@[simp] theorem State.postAcq_cells (s : State) (r k : Nat) : (s.postAcq r k).cells = s.cells := rfl
@[simp] theorem State.postAcq_tius (s : State) (r k : Nat) : (s.postAcq r k).tius = s.tius := rfl
@[simp] theorem State.postAcq_evins (s : State) (r k : Nat) : (s.postAcq r k).evins = s.evins := rfl
@[simp] theorem State.postAcq_profiles (s : State) (r k : Nat) : (s.postAcq r k).profiles = s.profiles := rfl
@[simp] theorem State.postAcq_hopTab (s : State) (r k : Nat) : (s.postAcq r k).hopTab = s.hopTab := rfl
@[simp] theorem State.postAcq_mbx (s : State) (r k : Nat) : (s.postAcq r k).mbx = s.mbx := rfl
@[simp] theorem State.postAcq_flt (s : State) (r k : Nat) : (s.postAcq r k).flt = s.flt := rfl
@[simp] theorem State.postAcq_hc (s : State) (r k : Nat) : (s.postAcq r k).hc = s.hc := rfl
@[simp] theorem State.postAcq_cal (s : State) (r k : Nat) : (s.postAcq r k).cal = s.cal := rfl
@[simp] theorem State.postAcq_bist (s : State) (r k : Nat) : (s.postAcq r k).bist = s.bist := rfl
@[simp] theorem State.postAcq_hp (s : State) (r k : Nat) : (s.postAcq r k).hp = s.hp := rfl
@[simp] theorem State.postAcq_fl (s : State) (r k : Nat) : (s.postAcq r k).fl = s.fl := rfl
@[simp] theorem State.postAcq_boot (s : State) (r k : Nat) : (s.postAcq r k).boot = s.boot := rfl
@[simp] theorem State.postAcq_lk (s : State) (r k : Nat) : (s.postAcq r k).lk = s.lk := rfl
@[simp] theorem State.postAcq_sec (s : State) (r k : Nat) : (s.postAcq r k).sec = s.sec := rfl
@[simp] theorem State.postAcq_ports (s : State) (r k : Nat) : (s.postAcq r k).ports = s.ports := rfl
@[simp] theorem State.postAcq_tree (s : State) (r k : Nat) : (s.postAcq r k).tree = s.tree := rfl
@[simp] theorem State.postAcq_pins (s : State) (r k : Nat) : (s.postAcq r k).pins = s.pins := rfl
@[simp] theorem State.postAcq_evRegs (s : State) (r k : Nat) : (s.postAcq r k).evRegs = s.evRegs := rfl
@[simp] theorem State.region_postAcq (s : State) (r k : Nat) (j : Nat) : (s.postAcq r k).region j = s.region j := rfl
@[simp] theorem State.mem_postAcq (s : State) (r k : Nat) (j : Nat) : (s.postAcq r k).mem j = s.mem j := rfl
@[simp] theorem State.block_postAcq (s : State) (r k : Nat) (j : Nat) : (s.postAcq r k).block j = s.block j := rfl
@[simp] theorem State.cell_postAcq (s : State) (r k : Nat) (j : Nat) : (s.postAcq r k).cell j = s.cell j := rfl
@[simp] theorem State.tiu_postAcq (s : State) (r k : Nat) (j : Nat) : (s.postAcq r k).tiu j = s.tiu j := rfl
@[simp] theorem State.evin_postAcq (s : State) (r k : Nat) (j : Nat) : (s.postAcq r k).evin j = s.evin j := rfl
@[simp] theorem State.port_postAcq (s : State) (r k : Nat) (j : Nat) : (s.postAcq r k).port j = s.port j := rfl

/-! ### setCmd -/

@[simp] theorem setCmd_pending (s : State) (tag : Nat) (f : Cmd → Cmd) : (setCmd s tag f).pending = s.pending := rfl
@[simp] theorem setCmd_free (s : State) (tag : Nat) (f : Cmd → Cmd) : (setCmd s tag f).free = s.free := rfl
@[simp] theorem setCmd_fuses (s : State) (tag : Nat) (f : Cmd → Cmd) : (setCmd s tag f).fuses = s.fuses := rfl
@[simp] theorem setCmd_pwr (s : State) (tag : Nat) (f : Cmd → Cmd) : (setCmd s tag f).pwr = s.pwr := rfl
@[simp] theorem setCmd_pace (s : State) (tag : Nat) (f : Cmd → Cmd) : (setCmd s tag f).pace = s.pace := rfl
@[simp] theorem setCmd_ref (s : State) (tag : Nat) (f : Cmd → Cmd) : (setCmd s tag f).ref = s.ref := rfl
@[simp] theorem setCmd_regions (s : State) (tag : Nat) (f : Cmd → Cmd) : (setCmd s tag f).regions = s.regions := rfl
@[simp] theorem setCmd_rmem (s : State) (tag : Nat) (f : Cmd → Cmd) : (setCmd s tag f).rmem = s.rmem := rfl
@[simp] theorem setCmd_blocks (s : State) (tag : Nat) (f : Cmd → Cmd) : (setCmd s tag f).blocks = s.blocks := rfl
@[simp] theorem setCmd_cells (s : State) (tag : Nat) (f : Cmd → Cmd) : (setCmd s tag f).cells = s.cells := rfl
@[simp] theorem setCmd_tius (s : State) (tag : Nat) (f : Cmd → Cmd) : (setCmd s tag f).tius = s.tius := rfl
@[simp] theorem setCmd_evins (s : State) (tag : Nat) (f : Cmd → Cmd) : (setCmd s tag f).evins = s.evins := rfl
@[simp] theorem setCmd_acqs (s : State) (tag : Nat) (f : Cmd → Cmd) : (setCmd s tag f).acqs = s.acqs := rfl
@[simp] theorem setCmd_profiles (s : State) (tag : Nat) (f : Cmd → Cmd) : (setCmd s tag f).profiles = s.profiles := rfl
@[simp] theorem setCmd_hopTab (s : State) (tag : Nat) (f : Cmd → Cmd) : (setCmd s tag f).hopTab = s.hopTab := rfl
@[simp] theorem setCmd_flt (s : State) (tag : Nat) (f : Cmd → Cmd) : (setCmd s tag f).flt = s.flt := rfl
@[simp] theorem setCmd_hc (s : State) (tag : Nat) (f : Cmd → Cmd) : (setCmd s tag f).hc = s.hc := rfl
@[simp] theorem setCmd_cal (s : State) (tag : Nat) (f : Cmd → Cmd) : (setCmd s tag f).cal = s.cal := rfl
@[simp] theorem setCmd_bist (s : State) (tag : Nat) (f : Cmd → Cmd) : (setCmd s tag f).bist = s.bist := rfl
@[simp] theorem setCmd_hp (s : State) (tag : Nat) (f : Cmd → Cmd) : (setCmd s tag f).hp = s.hp := rfl
@[simp] theorem setCmd_fl (s : State) (tag : Nat) (f : Cmd → Cmd) : (setCmd s tag f).fl = s.fl := rfl
@[simp] theorem setCmd_boot (s : State) (tag : Nat) (f : Cmd → Cmd) : (setCmd s tag f).boot = s.boot := rfl
@[simp] theorem setCmd_lk (s : State) (tag : Nat) (f : Cmd → Cmd) : (setCmd s tag f).lk = s.lk := rfl
@[simp] theorem setCmd_sec (s : State) (tag : Nat) (f : Cmd → Cmd) : (setCmd s tag f).sec = s.sec := rfl
@[simp] theorem setCmd_ports (s : State) (tag : Nat) (f : Cmd → Cmd) : (setCmd s tag f).ports = s.ports := rfl
@[simp] theorem setCmd_tree (s : State) (tag : Nat) (f : Cmd → Cmd) : (setCmd s tag f).tree = s.tree := rfl
@[simp] theorem setCmd_pins (s : State) (tag : Nat) (f : Cmd → Cmd) : (setCmd s tag f).pins = s.pins := rfl
@[simp] theorem setCmd_evRegs (s : State) (tag : Nat) (f : Cmd → Cmd) : (setCmd s tag f).evRegs = s.evRegs := rfl
@[simp] theorem region_setCmd (s : State) (tag : Nat) (f : Cmd → Cmd) (j : Nat) : (setCmd s tag f).region j = s.region j := rfl
@[simp] theorem mem_setCmd (s : State) (tag : Nat) (f : Cmd → Cmd) (j : Nat) : (setCmd s tag f).mem j = s.mem j := rfl
@[simp] theorem block_setCmd (s : State) (tag : Nat) (f : Cmd → Cmd) (j : Nat) : (setCmd s tag f).block j = s.block j := rfl
@[simp] theorem cell_setCmd (s : State) (tag : Nat) (f : Cmd → Cmd) (j : Nat) : (setCmd s tag f).cell j = s.cell j := rfl
@[simp] theorem tiu_setCmd (s : State) (tag : Nat) (f : Cmd → Cmd) (j : Nat) : (setCmd s tag f).tiu j = s.tiu j := rfl
@[simp] theorem evin_setCmd (s : State) (tag : Nat) (f : Cmd → Cmd) (j : Nat) : (setCmd s tag f).evin j = s.evin j := rfl
@[simp] theorem acq_setCmd (s : State) (tag : Nat) (f : Cmd → Cmd) (j : Nat) : (setCmd s tag f).acq j = s.acq j := rfl
@[simp] theorem port_setCmd (s : State) (tag : Nat) (f : Cmd → Cmd) (j : Nat) : (setCmd s tag f).port j = s.port j := rfl

/-! ### cqPush -/

@[simp] theorem cqPush_pending (s : State) (r : List Word) : (cqPush s r).pending = s.pending := rfl
@[simp] theorem cqPush_free (s : State) (r : List Word) : (cqPush s r).free = s.free := rfl
@[simp] theorem cqPush_fuses (s : State) (r : List Word) : (cqPush s r).fuses = s.fuses := rfl
@[simp] theorem cqPush_pwr (s : State) (r : List Word) : (cqPush s r).pwr = s.pwr := rfl
@[simp] theorem cqPush_pace (s : State) (r : List Word) : (cqPush s r).pace = s.pace := rfl
@[simp] theorem cqPush_ref (s : State) (r : List Word) : (cqPush s r).ref = s.ref := rfl
@[simp] theorem cqPush_regions (s : State) (r : List Word) : (cqPush s r).regions = s.regions := rfl
@[simp] theorem cqPush_rmem (s : State) (r : List Word) : (cqPush s r).rmem = s.rmem := rfl
@[simp] theorem cqPush_blocks (s : State) (r : List Word) : (cqPush s r).blocks = s.blocks := rfl
@[simp] theorem cqPush_cells (s : State) (r : List Word) : (cqPush s r).cells = s.cells := rfl
@[simp] theorem cqPush_tius (s : State) (r : List Word) : (cqPush s r).tius = s.tius := rfl
@[simp] theorem cqPush_evins (s : State) (r : List Word) : (cqPush s r).evins = s.evins := rfl
@[simp] theorem cqPush_acqs (s : State) (r : List Word) : (cqPush s r).acqs = s.acqs := rfl
@[simp] theorem cqPush_profiles (s : State) (r : List Word) : (cqPush s r).profiles = s.profiles := rfl
@[simp] theorem cqPush_hopTab (s : State) (r : List Word) : (cqPush s r).hopTab = s.hopTab := rfl
@[simp] theorem cqPush_flt (s : State) (r : List Word) : (cqPush s r).flt = s.flt := rfl
@[simp] theorem cqPush_hc (s : State) (r : List Word) : (cqPush s r).hc = s.hc := rfl
@[simp] theorem cqPush_cal (s : State) (r : List Word) : (cqPush s r).cal = s.cal := rfl
@[simp] theorem cqPush_bist (s : State) (r : List Word) : (cqPush s r).bist = s.bist := rfl
@[simp] theorem cqPush_hp (s : State) (r : List Word) : (cqPush s r).hp = s.hp := rfl
@[simp] theorem cqPush_fl (s : State) (r : List Word) : (cqPush s r).fl = s.fl := rfl
@[simp] theorem cqPush_boot (s : State) (r : List Word) : (cqPush s r).boot = s.boot := rfl
@[simp] theorem cqPush_lk (s : State) (r : List Word) : (cqPush s r).lk = s.lk := rfl
@[simp] theorem cqPush_sec (s : State) (r : List Word) : (cqPush s r).sec = s.sec := rfl
@[simp] theorem cqPush_ports (s : State) (r : List Word) : (cqPush s r).ports = s.ports := rfl
@[simp] theorem cqPush_tree (s : State) (r : List Word) : (cqPush s r).tree = s.tree := rfl
@[simp] theorem cqPush_pins (s : State) (r : List Word) : (cqPush s r).pins = s.pins := rfl
@[simp] theorem cqPush_evRegs (s : State) (r : List Word) : (cqPush s r).evRegs = s.evRegs := rfl
@[simp] theorem region_cqPush (s : State) (r : List Word) (j : Nat) : (cqPush s r).region j = s.region j := rfl
@[simp] theorem mem_cqPush (s : State) (r : List Word) (j : Nat) : (cqPush s r).mem j = s.mem j := rfl
@[simp] theorem block_cqPush (s : State) (r : List Word) (j : Nat) : (cqPush s r).block j = s.block j := rfl
@[simp] theorem cell_cqPush (s : State) (r : List Word) (j : Nat) : (cqPush s r).cell j = s.cell j := rfl
@[simp] theorem tiu_cqPush (s : State) (r : List Word) (j : Nat) : (cqPush s r).tiu j = s.tiu j := rfl
@[simp] theorem evin_cqPush (s : State) (r : List Word) (j : Nat) : (cqPush s r).evin j = s.evin j := rfl
@[simp] theorem acq_cqPush (s : State) (r : List Word) (j : Nat) : (cqPush s r).acq j = s.acq j := rfl
@[simp] theorem port_cqPush (s : State) (r : List Word) (j : Nat) : (cqPush s r).port j = s.port j := rfl

/-! ### clearSnaps -/

@[simp] theorem clearSnaps_pending (s : State) (a n : Nat) : (clearSnaps s a n).pending = s.pending := rfl
@[simp] theorem clearSnaps_free (s : State) (a n : Nat) : (clearSnaps s a n).free = s.free := rfl
@[simp] theorem clearSnaps_fuses (s : State) (a n : Nat) : (clearSnaps s a n).fuses = s.fuses := rfl
@[simp] theorem clearSnaps_pwr (s : State) (a n : Nat) : (clearSnaps s a n).pwr = s.pwr := rfl
@[simp] theorem clearSnaps_pace (s : State) (a n : Nat) : (clearSnaps s a n).pace = s.pace := rfl
@[simp] theorem clearSnaps_ref (s : State) (a n : Nat) : (clearSnaps s a n).ref = s.ref := rfl
@[simp] theorem clearSnaps_regions (s : State) (a n : Nat) : (clearSnaps s a n).regions = s.regions := rfl
@[simp] theorem clearSnaps_rmem (s : State) (a n : Nat) : (clearSnaps s a n).rmem = s.rmem := rfl
@[simp] theorem clearSnaps_blocks (s : State) (a n : Nat) : (clearSnaps s a n).blocks = s.blocks := rfl
@[simp] theorem clearSnaps_cells (s : State) (a n : Nat) : (clearSnaps s a n).cells = s.cells := rfl
@[simp] theorem clearSnaps_tius (s : State) (a n : Nat) : (clearSnaps s a n).tius = s.tius := rfl
@[simp] theorem clearSnaps_evins (s : State) (a n : Nat) : (clearSnaps s a n).evins = s.evins := rfl
@[simp] theorem clearSnaps_acqs (s : State) (a n : Nat) : (clearSnaps s a n).acqs = s.acqs := rfl
@[simp] theorem clearSnaps_profiles (s : State) (a n : Nat) : (clearSnaps s a n).profiles = s.profiles := rfl
@[simp] theorem clearSnaps_hopTab (s : State) (a n : Nat) : (clearSnaps s a n).hopTab = s.hopTab := rfl
@[simp] theorem clearSnaps_mbx (s : State) (a n : Nat) : (clearSnaps s a n).mbx = s.mbx := rfl
@[simp] theorem clearSnaps_flt (s : State) (a n : Nat) : (clearSnaps s a n).flt = s.flt := rfl
@[simp] theorem clearSnaps_cal (s : State) (a n : Nat) : (clearSnaps s a n).cal = s.cal := rfl
@[simp] theorem clearSnaps_bist (s : State) (a n : Nat) : (clearSnaps s a n).bist = s.bist := rfl
@[simp] theorem clearSnaps_hp (s : State) (a n : Nat) : (clearSnaps s a n).hp = s.hp := rfl
@[simp] theorem clearSnaps_fl (s : State) (a n : Nat) : (clearSnaps s a n).fl = s.fl := rfl
@[simp] theorem clearSnaps_boot (s : State) (a n : Nat) : (clearSnaps s a n).boot = s.boot := rfl
@[simp] theorem clearSnaps_lk (s : State) (a n : Nat) : (clearSnaps s a n).lk = s.lk := rfl
@[simp] theorem clearSnaps_sec (s : State) (a n : Nat) : (clearSnaps s a n).sec = s.sec := rfl
@[simp] theorem clearSnaps_ports (s : State) (a n : Nat) : (clearSnaps s a n).ports = s.ports := rfl
@[simp] theorem clearSnaps_tree (s : State) (a n : Nat) : (clearSnaps s a n).tree = s.tree := rfl
@[simp] theorem clearSnaps_pins (s : State) (a n : Nat) : (clearSnaps s a n).pins = s.pins := rfl
@[simp] theorem clearSnaps_evRegs (s : State) (a n : Nat) : (clearSnaps s a n).evRegs = s.evRegs := rfl
@[simp] theorem region_clearSnaps (s : State) (a n : Nat) (j : Nat) : (clearSnaps s a n).region j = s.region j := rfl
@[simp] theorem mem_clearSnaps (s : State) (a n : Nat) (j : Nat) : (clearSnaps s a n).mem j = s.mem j := rfl
@[simp] theorem block_clearSnaps (s : State) (a n : Nat) (j : Nat) : (clearSnaps s a n).block j = s.block j := rfl
@[simp] theorem cell_clearSnaps (s : State) (a n : Nat) (j : Nat) : (clearSnaps s a n).cell j = s.cell j := rfl
@[simp] theorem tiu_clearSnaps (s : State) (a n : Nat) (j : Nat) : (clearSnaps s a n).tiu j = s.tiu j := rfl
@[simp] theorem evin_clearSnaps (s : State) (a n : Nat) (j : Nat) : (clearSnaps s a n).evin j = s.evin j := rfl
@[simp] theorem acq_clearSnaps (s : State) (a n : Nat) (j : Nat) : (clearSnaps s a n).acq j = s.acq j := rfl
@[simp] theorem port_clearSnaps (s : State) (a n : Nat) (j : Nat) : (clearSnaps s a n).port j = s.port j := rfl

/-! ### drainFifo -/

@[simp] theorem drainFifo_pending (s : State) : (drainFifo s).pending = s.pending := rfl
@[simp] theorem drainFifo_free (s : State) : (drainFifo s).free = s.free := rfl
@[simp] theorem drainFifo_fuses (s : State) : (drainFifo s).fuses = s.fuses := rfl
@[simp] theorem drainFifo_pwr (s : State) : (drainFifo s).pwr = s.pwr := rfl
@[simp] theorem drainFifo_pace (s : State) : (drainFifo s).pace = s.pace := rfl
@[simp] theorem drainFifo_ref (s : State) : (drainFifo s).ref = s.ref := rfl
@[simp] theorem drainFifo_regions (s : State) : (drainFifo s).regions = s.regions := rfl
@[simp] theorem drainFifo_rmem (s : State) : (drainFifo s).rmem = s.rmem := rfl
@[simp] theorem drainFifo_blocks (s : State) : (drainFifo s).blocks = s.blocks := rfl
@[simp] theorem drainFifo_cells (s : State) : (drainFifo s).cells = s.cells := rfl
@[simp] theorem drainFifo_tius (s : State) : (drainFifo s).tius = s.tius := rfl
@[simp] theorem drainFifo_evins (s : State) : (drainFifo s).evins = s.evins := rfl
@[simp] theorem drainFifo_acqs (s : State) : (drainFifo s).acqs = s.acqs := rfl
@[simp] theorem drainFifo_profiles (s : State) : (drainFifo s).profiles = s.profiles := rfl
@[simp] theorem drainFifo_hopTab (s : State) : (drainFifo s).hopTab = s.hopTab := rfl
@[simp] theorem drainFifo_mbx (s : State) : (drainFifo s).mbx = s.mbx := rfl
@[simp] theorem drainFifo_hc (s : State) : (drainFifo s).hc = s.hc := rfl
@[simp] theorem drainFifo_cal (s : State) : (drainFifo s).cal = s.cal := rfl
@[simp] theorem drainFifo_bist (s : State) : (drainFifo s).bist = s.bist := rfl
@[simp] theorem drainFifo_hp (s : State) : (drainFifo s).hp = s.hp := rfl
@[simp] theorem drainFifo_fl (s : State) : (drainFifo s).fl = s.fl := rfl
@[simp] theorem drainFifo_boot (s : State) : (drainFifo s).boot = s.boot := rfl
@[simp] theorem drainFifo_lk (s : State) : (drainFifo s).lk = s.lk := rfl
@[simp] theorem drainFifo_sec (s : State) : (drainFifo s).sec = s.sec := rfl
@[simp] theorem drainFifo_ports (s : State) : (drainFifo s).ports = s.ports := rfl
@[simp] theorem drainFifo_tree (s : State) : (drainFifo s).tree = s.tree := rfl
@[simp] theorem drainFifo_pins (s : State) : (drainFifo s).pins = s.pins := rfl
@[simp] theorem drainFifo_evRegs (s : State) : (drainFifo s).evRegs = s.evRegs := rfl
@[simp] theorem region_drainFifo (s : State) (j : Nat) : (drainFifo s).region j = s.region j := rfl
@[simp] theorem mem_drainFifo (s : State) (j : Nat) : (drainFifo s).mem j = s.mem j := rfl
@[simp] theorem block_drainFifo (s : State) (j : Nat) : (drainFifo s).block j = s.block j := rfl
@[simp] theorem cell_drainFifo (s : State) (j : Nat) : (drainFifo s).cell j = s.cell j := rfl
@[simp] theorem tiu_drainFifo (s : State) (j : Nat) : (drainFifo s).tiu j = s.tiu j := rfl
@[simp] theorem evin_drainFifo (s : State) (j : Nat) : (drainFifo s).evin j = s.evin j := rfl
@[simp] theorem acq_drainFifo (s : State) (j : Nat) : (drainFifo s).acq j = s.acq j := rfl
@[simp] theorem port_drainFifo (s : State) (j : Nat) : (drainFifo s).port j = s.port j := rfl

/-! ### sendBlock -/

@[simp] theorem sendBlock_pending (s : State) (i : Nat) (b : LinkBlock) : (sendBlock s i b).pending = s.pending := rfl
@[simp] theorem sendBlock_free (s : State) (i : Nat) (b : LinkBlock) : (sendBlock s i b).free = s.free := rfl
@[simp] theorem sendBlock_fuses (s : State) (i : Nat) (b : LinkBlock) : (sendBlock s i b).fuses = s.fuses := rfl
@[simp] theorem sendBlock_pwr (s : State) (i : Nat) (b : LinkBlock) : (sendBlock s i b).pwr = s.pwr := rfl
@[simp] theorem sendBlock_pace (s : State) (i : Nat) (b : LinkBlock) : (sendBlock s i b).pace = s.pace := rfl
@[simp] theorem sendBlock_ref (s : State) (i : Nat) (b : LinkBlock) : (sendBlock s i b).ref = s.ref := rfl
@[simp] theorem sendBlock_regions (s : State) (i : Nat) (b : LinkBlock) : (sendBlock s i b).regions = s.regions := rfl
@[simp] theorem sendBlock_rmem (s : State) (i : Nat) (b : LinkBlock) : (sendBlock s i b).rmem = s.rmem := rfl
@[simp] theorem sendBlock_blocks (s : State) (i : Nat) (b : LinkBlock) : (sendBlock s i b).blocks = s.blocks := rfl
@[simp] theorem sendBlock_cells (s : State) (i : Nat) (b : LinkBlock) : (sendBlock s i b).cells = s.cells := rfl
@[simp] theorem sendBlock_tius (s : State) (i : Nat) (b : LinkBlock) : (sendBlock s i b).tius = s.tius := rfl
@[simp] theorem sendBlock_evins (s : State) (i : Nat) (b : LinkBlock) : (sendBlock s i b).evins = s.evins := rfl
@[simp] theorem sendBlock_acqs (s : State) (i : Nat) (b : LinkBlock) : (sendBlock s i b).acqs = s.acqs := rfl
@[simp] theorem sendBlock_profiles (s : State) (i : Nat) (b : LinkBlock) : (sendBlock s i b).profiles = s.profiles := rfl
@[simp] theorem sendBlock_hopTab (s : State) (i : Nat) (b : LinkBlock) : (sendBlock s i b).hopTab = s.hopTab := rfl
@[simp] theorem sendBlock_mbx (s : State) (i : Nat) (b : LinkBlock) : (sendBlock s i b).mbx = s.mbx := rfl
@[simp] theorem sendBlock_flt (s : State) (i : Nat) (b : LinkBlock) : (sendBlock s i b).flt = s.flt := rfl
@[simp] theorem sendBlock_hc (s : State) (i : Nat) (b : LinkBlock) : (sendBlock s i b).hc = s.hc := rfl
@[simp] theorem sendBlock_cal (s : State) (i : Nat) (b : LinkBlock) : (sendBlock s i b).cal = s.cal := rfl
@[simp] theorem sendBlock_bist (s : State) (i : Nat) (b : LinkBlock) : (sendBlock s i b).bist = s.bist := rfl
@[simp] theorem sendBlock_hp (s : State) (i : Nat) (b : LinkBlock) : (sendBlock s i b).hp = s.hp := rfl
@[simp] theorem sendBlock_fl (s : State) (i : Nat) (b : LinkBlock) : (sendBlock s i b).fl = s.fl := rfl
@[simp] theorem sendBlock_boot (s : State) (i : Nat) (b : LinkBlock) : (sendBlock s i b).boot = s.boot := rfl
@[simp] theorem sendBlock_lk (s : State) (i : Nat) (b : LinkBlock) : (sendBlock s i b).lk = s.lk := rfl
@[simp] theorem sendBlock_sec (s : State) (i : Nat) (b : LinkBlock) : (sendBlock s i b).sec = s.sec := rfl
@[simp] theorem sendBlock_tree (s : State) (i : Nat) (b : LinkBlock) : (sendBlock s i b).tree = s.tree := rfl
@[simp] theorem sendBlock_pins (s : State) (i : Nat) (b : LinkBlock) : (sendBlock s i b).pins = s.pins := rfl
@[simp] theorem sendBlock_evRegs (s : State) (i : Nat) (b : LinkBlock) : (sendBlock s i b).evRegs = s.evRegs := rfl
@[simp] theorem region_sendBlock (s : State) (i : Nat) (b : LinkBlock) (j : Nat) : (sendBlock s i b).region j = s.region j := rfl
@[simp] theorem mem_sendBlock (s : State) (i : Nat) (b : LinkBlock) (j : Nat) : (sendBlock s i b).mem j = s.mem j := rfl
@[simp] theorem block_sendBlock (s : State) (i : Nat) (b : LinkBlock) (j : Nat) : (sendBlock s i b).block j = s.block j := rfl
@[simp] theorem cell_sendBlock (s : State) (i : Nat) (b : LinkBlock) (j : Nat) : (sendBlock s i b).cell j = s.cell j := rfl
@[simp] theorem tiu_sendBlock (s : State) (i : Nat) (b : LinkBlock) (j : Nat) : (sendBlock s i b).tiu j = s.tiu j := rfl
@[simp] theorem evin_sendBlock (s : State) (i : Nat) (b : LinkBlock) (j : Nat) : (sendBlock s i b).evin j = s.evin j := rfl
@[simp] theorem acq_sendBlock (s : State) (i : Nat) (b : LinkBlock) (j : Nat) : (sendBlock s i b).acq j = s.acq j := rfl

@[simp] theorem setCmd_cq (s : State) (tag : Nat) (f : Cmd → Cmd) : (setCmd s tag f).mbx.cq = s.mbx.cq := rfl
@[simp] theorem setCmd_cmds_length (s : State) (tag : Nat) (f : Cmd → Cmd) :
    (setCmd s tag f).mbx.cmds.length = s.mbx.cmds.length := by simp [setCmd]

end Sys2Proof.Machine
end

