-- ==== Sys2Proof/Laws/Ops.lean ====
section
/-! SUPPORT. Everything the shared operations can do: fault records, completions and their frames, the dispatch of a
command, and how a completion looks. Provers cite these and unfold none of the operations. -/
namespace Sys2Proof.Machine
set_option Elab.async false
open Sys2Proof

/-! ### Iteration -/

@[simp] theorem forAll_nil {α : Type} (f : State → α → State) (s : State) : forAll [] f s = s := rfl
@[simp] theorem forAll_cons {α : Type} (a : α) (l : List α) (f : State → α → State) (s : State) :
    forAll (a :: l) f s = forAll l f (f s a) := rfl

/-- A property that each application keeps holds after all of them. -/
theorem forAll_keeps {α : Type} {P : State → Prop} {l : List α} {f : State → α → State} {s : State} (h : P s)
    (hf : ∀ s, ∀ a ∈ l, P s → P (f s a)) : P (forAll l f s) := by
  induction l generalizing s with
  | nil => exact h
  | cons a l ih => exact ih (hf s a (by simp) h) (fun s b hb => hf s b (by simp [hb]))

/-- What no application changes, none of them together changes. -/
theorem forAll_same {α β : Type} (g : State → β) {l : List α} {f : State → α → State} {s : State}
    (hf : ∀ s, ∀ a ∈ l, g (f s a) = g s) : g (forAll l f s) = g s :=
  forAll_keeps (P := fun t => g t = g s) rfl (fun t a ha h => (hf t a ha).trans h)

/-! ### Continuation records -/

theorem pumpGo_frame (tun : Bool) (tag : Nat) (ds : List (List Word)) : ∀ (n : Nat) (s : State),
    ∃ m p, (pumpGo tun tag n ds s).2.2 = { s with mbx := m, ports := p } := by
  induction ds with
  | nil => intro n s; exact ⟨_, _, rfl⟩
  | cons d ds ih =>
    intro n s
    simp only [pumpGo]
    split
    · obtain ⟨m, p, h⟩ := ih (n + 1) (recordOut s tun (contRecord tag n d))
      rw [h]; unfold recordOut; split <;> exact ⟨_, _, rfl⟩
    · exact ⟨_, _, rfl⟩

/-! ### pushFault -/

/-- A fault record changes the fault log and the lifetime counters alone. -/
theorem pushFault_frame (s : State) (l c a q : Nat) (u : Word) (st : List Word) (d : Word) : ∃ flt lk, pushFault s l c a q u st d = { s with flt := flt, lk := lk } := by
  unfold pushFault; dsimp only; split <;> split <;> exact ⟨_, _, rfl⟩
@[simp] theorem pushFault_pending (s : State) (l c a q : Nat) (u : Word) (st : List Word) (d : Word) : (pushFault s l c a q u st d).pending = s.pending := by obtain ⟨_, _, h⟩ := pushFault_frame s l c a q u st d; rw [h]
@[simp] theorem pushFault_free (s : State) (l c a q : Nat) (u : Word) (st : List Word) (d : Word) : (pushFault s l c a q u st d).free = s.free := by obtain ⟨_, _, h⟩ := pushFault_frame s l c a q u st d; rw [h]
@[simp] theorem pushFault_fuses (s : State) (l c a q : Nat) (u : Word) (st : List Word) (d : Word) : (pushFault s l c a q u st d).fuses = s.fuses := by obtain ⟨_, _, h⟩ := pushFault_frame s l c a q u st d; rw [h]
@[simp] theorem pushFault_pwr (s : State) (l c a q : Nat) (u : Word) (st : List Word) (d : Word) : (pushFault s l c a q u st d).pwr = s.pwr := by obtain ⟨_, _, h⟩ := pushFault_frame s l c a q u st d; rw [h]
@[simp] theorem pushFault_pace (s : State) (l c a q : Nat) (u : Word) (st : List Word) (d : Word) : (pushFault s l c a q u st d).pace = s.pace := by obtain ⟨_, _, h⟩ := pushFault_frame s l c a q u st d; rw [h]
@[simp] theorem pushFault_ref (s : State) (l c a q : Nat) (u : Word) (st : List Word) (d : Word) : (pushFault s l c a q u st d).ref = s.ref := by obtain ⟨_, _, h⟩ := pushFault_frame s l c a q u st d; rw [h]
@[simp] theorem pushFault_regions (s : State) (l c a q : Nat) (u : Word) (st : List Word) (d : Word) : (pushFault s l c a q u st d).regions = s.regions := by obtain ⟨_, _, h⟩ := pushFault_frame s l c a q u st d; rw [h]
@[simp] theorem pushFault_rmem (s : State) (l c a q : Nat) (u : Word) (st : List Word) (d : Word) : (pushFault s l c a q u st d).rmem = s.rmem := by obtain ⟨_, _, h⟩ := pushFault_frame s l c a q u st d; rw [h]
@[simp] theorem pushFault_blocks (s : State) (l c a q : Nat) (u : Word) (st : List Word) (d : Word) : (pushFault s l c a q u st d).blocks = s.blocks := by obtain ⟨_, _, h⟩ := pushFault_frame s l c a q u st d; rw [h]
@[simp] theorem pushFault_cells (s : State) (l c a q : Nat) (u : Word) (st : List Word) (d : Word) : (pushFault s l c a q u st d).cells = s.cells := by obtain ⟨_, _, h⟩ := pushFault_frame s l c a q u st d; rw [h]
@[simp] theorem pushFault_tius (s : State) (l c a q : Nat) (u : Word) (st : List Word) (d : Word) : (pushFault s l c a q u st d).tius = s.tius := by obtain ⟨_, _, h⟩ := pushFault_frame s l c a q u st d; rw [h]
@[simp] theorem pushFault_evins (s : State) (l c a q : Nat) (u : Word) (st : List Word) (d : Word) : (pushFault s l c a q u st d).evins = s.evins := by obtain ⟨_, _, h⟩ := pushFault_frame s l c a q u st d; rw [h]
@[simp] theorem pushFault_acqs (s : State) (l c a q : Nat) (u : Word) (st : List Word) (d : Word) : (pushFault s l c a q u st d).acqs = s.acqs := by obtain ⟨_, _, h⟩ := pushFault_frame s l c a q u st d; rw [h]
@[simp] theorem pushFault_profiles (s : State) (l c a q : Nat) (u : Word) (st : List Word) (d : Word) : (pushFault s l c a q u st d).profiles = s.profiles := by obtain ⟨_, _, h⟩ := pushFault_frame s l c a q u st d; rw [h]
@[simp] theorem pushFault_hopTab (s : State) (l c a q : Nat) (u : Word) (st : List Word) (d : Word) : (pushFault s l c a q u st d).hopTab = s.hopTab := by obtain ⟨_, _, h⟩ := pushFault_frame s l c a q u st d; rw [h]
@[simp] theorem pushFault_mbx (s : State) (l c a q : Nat) (u : Word) (st : List Word) (d : Word) : (pushFault s l c a q u st d).mbx = s.mbx := by obtain ⟨_, _, h⟩ := pushFault_frame s l c a q u st d; rw [h]
@[simp] theorem pushFault_hc (s : State) (l c a q : Nat) (u : Word) (st : List Word) (d : Word) : (pushFault s l c a q u st d).hc = s.hc := by obtain ⟨_, _, h⟩ := pushFault_frame s l c a q u st d; rw [h]
@[simp] theorem pushFault_cal (s : State) (l c a q : Nat) (u : Word) (st : List Word) (d : Word) : (pushFault s l c a q u st d).cal = s.cal := by obtain ⟨_, _, h⟩ := pushFault_frame s l c a q u st d; rw [h]
@[simp] theorem pushFault_bist (s : State) (l c a q : Nat) (u : Word) (st : List Word) (d : Word) : (pushFault s l c a q u st d).bist = s.bist := by obtain ⟨_, _, h⟩ := pushFault_frame s l c a q u st d; rw [h]
@[simp] theorem pushFault_hp (s : State) (l c a q : Nat) (u : Word) (st : List Word) (d : Word) : (pushFault s l c a q u st d).hp = s.hp := by obtain ⟨_, _, h⟩ := pushFault_frame s l c a q u st d; rw [h]
@[simp] theorem pushFault_fl (s : State) (l c a q : Nat) (u : Word) (st : List Word) (d : Word) : (pushFault s l c a q u st d).fl = s.fl := by obtain ⟨_, _, h⟩ := pushFault_frame s l c a q u st d; rw [h]
@[simp] theorem pushFault_boot (s : State) (l c a q : Nat) (u : Word) (st : List Word) (d : Word) : (pushFault s l c a q u st d).boot = s.boot := by obtain ⟨_, _, h⟩ := pushFault_frame s l c a q u st d; rw [h]
@[simp] theorem pushFault_sec (s : State) (l c a q : Nat) (u : Word) (st : List Word) (d : Word) : (pushFault s l c a q u st d).sec = s.sec := by obtain ⟨_, _, h⟩ := pushFault_frame s l c a q u st d; rw [h]
@[simp] theorem pushFault_ports (s : State) (l c a q : Nat) (u : Word) (st : List Word) (d : Word) : (pushFault s l c a q u st d).ports = s.ports := by obtain ⟨_, _, h⟩ := pushFault_frame s l c a q u st d; rw [h]
@[simp] theorem pushFault_tree (s : State) (l c a q : Nat) (u : Word) (st : List Word) (d : Word) : (pushFault s l c a q u st d).tree = s.tree := by obtain ⟨_, _, h⟩ := pushFault_frame s l c a q u st d; rw [h]
@[simp] theorem pushFault_pins (s : State) (l c a q : Nat) (u : Word) (st : List Word) (d : Word) : (pushFault s l c a q u st d).pins = s.pins := by obtain ⟨_, _, h⟩ := pushFault_frame s l c a q u st d; rw [h]
@[simp] theorem pushFault_evRegs (s : State) (l c a q : Nat) (u : Word) (st : List Word) (d : Word) : (pushFault s l c a q u st d).evRegs = s.evRegs := by obtain ⟨_, _, h⟩ := pushFault_frame s l c a q u st d; rw [h]
@[simp] theorem region_pushFault (s : State) (l c a q : Nat) (u : Word) (st : List Word) (d : Word) (j : Nat) : (pushFault s l c a q u st d).region j = s.region j := by unfold State.region; rw [pushFault_regions]
@[simp] theorem mem_pushFault (s : State) (l c a q : Nat) (u : Word) (st : List Word) (d : Word) (j : Nat) : (pushFault s l c a q u st d).mem j = s.mem j := by unfold State.mem; rw [pushFault_rmem]
@[simp] theorem block_pushFault (s : State) (l c a q : Nat) (u : Word) (st : List Word) (d : Word) (j : Nat) : (pushFault s l c a q u st d).block j = s.block j := by unfold State.block; rw [pushFault_blocks]
@[simp] theorem cell_pushFault (s : State) (l c a q : Nat) (u : Word) (st : List Word) (d : Word) (j : Nat) : (pushFault s l c a q u st d).cell j = s.cell j := by unfold State.cell; rw [pushFault_cells]
@[simp] theorem tiu_pushFault (s : State) (l c a q : Nat) (u : Word) (st : List Word) (d : Word) (j : Nat) : (pushFault s l c a q u st d).tiu j = s.tiu j := by unfold State.tiu; rw [pushFault_tius]
@[simp] theorem evin_pushFault (s : State) (l c a q : Nat) (u : Word) (st : List Word) (d : Word) (j : Nat) : (pushFault s l c a q u st d).evin j = s.evin j := by unfold State.evin; rw [pushFault_evins]
@[simp] theorem acq_pushFault (s : State) (l c a q : Nat) (u : Word) (st : List Word) (d : Word) (j : Nat) : (pushFault s l c a q u st d).acq j = s.acq j := by unfold State.acq; rw [pushFault_acqs]
@[simp] theorem port_pushFault (s : State) (l c a q : Nat) (u : Word) (st : List Word) (d : Word) (j : Nat) : (pushFault s l c a q u st d).port j = s.port j := by unfold State.port; rw [pushFault_ports]

/-! ### faultCell -/

theorem faultCell_frame (s : State) (p c a q : Nat) (d : Word) : ∃ flt lk, faultCell s p c a q d = { s with flt := flt, lk := lk } := by
  exact pushFault_frame ..
@[simp] theorem faultCell_pending (s : State) (p c a q : Nat) (d : Word) : (faultCell s p c a q d).pending = s.pending := by obtain ⟨_, _, h⟩ := faultCell_frame s p c a q d; rw [h]
@[simp] theorem faultCell_free (s : State) (p c a q : Nat) (d : Word) : (faultCell s p c a q d).free = s.free := by obtain ⟨_, _, h⟩ := faultCell_frame s p c a q d; rw [h]
@[simp] theorem faultCell_fuses (s : State) (p c a q : Nat) (d : Word) : (faultCell s p c a q d).fuses = s.fuses := by obtain ⟨_, _, h⟩ := faultCell_frame s p c a q d; rw [h]
@[simp] theorem faultCell_pwr (s : State) (p c a q : Nat) (d : Word) : (faultCell s p c a q d).pwr = s.pwr := by obtain ⟨_, _, h⟩ := faultCell_frame s p c a q d; rw [h]
@[simp] theorem faultCell_pace (s : State) (p c a q : Nat) (d : Word) : (faultCell s p c a q d).pace = s.pace := by obtain ⟨_, _, h⟩ := faultCell_frame s p c a q d; rw [h]
@[simp] theorem faultCell_ref (s : State) (p c a q : Nat) (d : Word) : (faultCell s p c a q d).ref = s.ref := by obtain ⟨_, _, h⟩ := faultCell_frame s p c a q d; rw [h]
@[simp] theorem faultCell_regions (s : State) (p c a q : Nat) (d : Word) : (faultCell s p c a q d).regions = s.regions := by obtain ⟨_, _, h⟩ := faultCell_frame s p c a q d; rw [h]
@[simp] theorem faultCell_rmem (s : State) (p c a q : Nat) (d : Word) : (faultCell s p c a q d).rmem = s.rmem := by obtain ⟨_, _, h⟩ := faultCell_frame s p c a q d; rw [h]
@[simp] theorem faultCell_blocks (s : State) (p c a q : Nat) (d : Word) : (faultCell s p c a q d).blocks = s.blocks := by obtain ⟨_, _, h⟩ := faultCell_frame s p c a q d; rw [h]
@[simp] theorem faultCell_cells (s : State) (p c a q : Nat) (d : Word) : (faultCell s p c a q d).cells = s.cells := by obtain ⟨_, _, h⟩ := faultCell_frame s p c a q d; rw [h]
@[simp] theorem faultCell_tius (s : State) (p c a q : Nat) (d : Word) : (faultCell s p c a q d).tius = s.tius := by obtain ⟨_, _, h⟩ := faultCell_frame s p c a q d; rw [h]
@[simp] theorem faultCell_evins (s : State) (p c a q : Nat) (d : Word) : (faultCell s p c a q d).evins = s.evins := by obtain ⟨_, _, h⟩ := faultCell_frame s p c a q d; rw [h]
@[simp] theorem faultCell_acqs (s : State) (p c a q : Nat) (d : Word) : (faultCell s p c a q d).acqs = s.acqs := by obtain ⟨_, _, h⟩ := faultCell_frame s p c a q d; rw [h]
@[simp] theorem faultCell_profiles (s : State) (p c a q : Nat) (d : Word) : (faultCell s p c a q d).profiles = s.profiles := by obtain ⟨_, _, h⟩ := faultCell_frame s p c a q d; rw [h]
@[simp] theorem faultCell_hopTab (s : State) (p c a q : Nat) (d : Word) : (faultCell s p c a q d).hopTab = s.hopTab := by obtain ⟨_, _, h⟩ := faultCell_frame s p c a q d; rw [h]
@[simp] theorem faultCell_mbx (s : State) (p c a q : Nat) (d : Word) : (faultCell s p c a q d).mbx = s.mbx := by obtain ⟨_, _, h⟩ := faultCell_frame s p c a q d; rw [h]
@[simp] theorem faultCell_hc (s : State) (p c a q : Nat) (d : Word) : (faultCell s p c a q d).hc = s.hc := by obtain ⟨_, _, h⟩ := faultCell_frame s p c a q d; rw [h]
@[simp] theorem faultCell_cal (s : State) (p c a q : Nat) (d : Word) : (faultCell s p c a q d).cal = s.cal := by obtain ⟨_, _, h⟩ := faultCell_frame s p c a q d; rw [h]
@[simp] theorem faultCell_bist (s : State) (p c a q : Nat) (d : Word) : (faultCell s p c a q d).bist = s.bist := by obtain ⟨_, _, h⟩ := faultCell_frame s p c a q d; rw [h]
@[simp] theorem faultCell_hp (s : State) (p c a q : Nat) (d : Word) : (faultCell s p c a q d).hp = s.hp := by obtain ⟨_, _, h⟩ := faultCell_frame s p c a q d; rw [h]
@[simp] theorem faultCell_fl (s : State) (p c a q : Nat) (d : Word) : (faultCell s p c a q d).fl = s.fl := by obtain ⟨_, _, h⟩ := faultCell_frame s p c a q d; rw [h]
@[simp] theorem faultCell_boot (s : State) (p c a q : Nat) (d : Word) : (faultCell s p c a q d).boot = s.boot := by obtain ⟨_, _, h⟩ := faultCell_frame s p c a q d; rw [h]
@[simp] theorem faultCell_sec (s : State) (p c a q : Nat) (d : Word) : (faultCell s p c a q d).sec = s.sec := by obtain ⟨_, _, h⟩ := faultCell_frame s p c a q d; rw [h]
@[simp] theorem faultCell_ports (s : State) (p c a q : Nat) (d : Word) : (faultCell s p c a q d).ports = s.ports := by obtain ⟨_, _, h⟩ := faultCell_frame s p c a q d; rw [h]
@[simp] theorem faultCell_tree (s : State) (p c a q : Nat) (d : Word) : (faultCell s p c a q d).tree = s.tree := by obtain ⟨_, _, h⟩ := faultCell_frame s p c a q d; rw [h]
@[simp] theorem faultCell_pins (s : State) (p c a q : Nat) (d : Word) : (faultCell s p c a q d).pins = s.pins := by obtain ⟨_, _, h⟩ := faultCell_frame s p c a q d; rw [h]
@[simp] theorem faultCell_evRegs (s : State) (p c a q : Nat) (d : Word) : (faultCell s p c a q d).evRegs = s.evRegs := by obtain ⟨_, _, h⟩ := faultCell_frame s p c a q d; rw [h]
@[simp] theorem region_faultCell (s : State) (p c a q : Nat) (d : Word) (j : Nat) : (faultCell s p c a q d).region j = s.region j := by unfold State.region; rw [faultCell_regions]
@[simp] theorem mem_faultCell (s : State) (p c a q : Nat) (d : Word) (j : Nat) : (faultCell s p c a q d).mem j = s.mem j := by unfold State.mem; rw [faultCell_rmem]
@[simp] theorem block_faultCell (s : State) (p c a q : Nat) (d : Word) (j : Nat) : (faultCell s p c a q d).block j = s.block j := by unfold State.block; rw [faultCell_blocks]
@[simp] theorem cell_faultCell (s : State) (p c a q : Nat) (d : Word) (j : Nat) : (faultCell s p c a q d).cell j = s.cell j := by unfold State.cell; rw [faultCell_cells]
@[simp] theorem tiu_faultCell (s : State) (p c a q : Nat) (d : Word) (j : Nat) : (faultCell s p c a q d).tiu j = s.tiu j := by unfold State.tiu; rw [faultCell_tius]
@[simp] theorem evin_faultCell (s : State) (p c a q : Nat) (d : Word) (j : Nat) : (faultCell s p c a q d).evin j = s.evin j := by unfold State.evin; rw [faultCell_evins]
@[simp] theorem acq_faultCell (s : State) (p c a q : Nat) (d : Word) (j : Nat) : (faultCell s p c a q d).acq j = s.acq j := by unfold State.acq; rw [faultCell_acqs]
@[simp] theorem port_faultCell (s : State) (p c a q : Nat) (d : Word) (j : Nat) : (faultCell s p c a q d).port j = s.port j := by unfold State.port; rw [faultCell_ports]

/-! ### faultChip -/

theorem faultChip_frame (s : State) (c a q : Nat) (d : Word) : ∃ flt lk, faultChip s c a q d = { s with flt := flt, lk := lk } := by
  exact pushFault_frame ..
@[simp] theorem faultChip_pending (s : State) (c a q : Nat) (d : Word) : (faultChip s c a q d).pending = s.pending := by obtain ⟨_, _, h⟩ := faultChip_frame s c a q d; rw [h]
@[simp] theorem faultChip_free (s : State) (c a q : Nat) (d : Word) : (faultChip s c a q d).free = s.free := by obtain ⟨_, _, h⟩ := faultChip_frame s c a q d; rw [h]
@[simp] theorem faultChip_fuses (s : State) (c a q : Nat) (d : Word) : (faultChip s c a q d).fuses = s.fuses := by obtain ⟨_, _, h⟩ := faultChip_frame s c a q d; rw [h]
@[simp] theorem faultChip_pwr (s : State) (c a q : Nat) (d : Word) : (faultChip s c a q d).pwr = s.pwr := by obtain ⟨_, _, h⟩ := faultChip_frame s c a q d; rw [h]
@[simp] theorem faultChip_pace (s : State) (c a q : Nat) (d : Word) : (faultChip s c a q d).pace = s.pace := by obtain ⟨_, _, h⟩ := faultChip_frame s c a q d; rw [h]
@[simp] theorem faultChip_ref (s : State) (c a q : Nat) (d : Word) : (faultChip s c a q d).ref = s.ref := by obtain ⟨_, _, h⟩ := faultChip_frame s c a q d; rw [h]
@[simp] theorem faultChip_regions (s : State) (c a q : Nat) (d : Word) : (faultChip s c a q d).regions = s.regions := by obtain ⟨_, _, h⟩ := faultChip_frame s c a q d; rw [h]
@[simp] theorem faultChip_rmem (s : State) (c a q : Nat) (d : Word) : (faultChip s c a q d).rmem = s.rmem := by obtain ⟨_, _, h⟩ := faultChip_frame s c a q d; rw [h]
@[simp] theorem faultChip_blocks (s : State) (c a q : Nat) (d : Word) : (faultChip s c a q d).blocks = s.blocks := by obtain ⟨_, _, h⟩ := faultChip_frame s c a q d; rw [h]
@[simp] theorem faultChip_cells (s : State) (c a q : Nat) (d : Word) : (faultChip s c a q d).cells = s.cells := by obtain ⟨_, _, h⟩ := faultChip_frame s c a q d; rw [h]
@[simp] theorem faultChip_tius (s : State) (c a q : Nat) (d : Word) : (faultChip s c a q d).tius = s.tius := by obtain ⟨_, _, h⟩ := faultChip_frame s c a q d; rw [h]
@[simp] theorem faultChip_evins (s : State) (c a q : Nat) (d : Word) : (faultChip s c a q d).evins = s.evins := by obtain ⟨_, _, h⟩ := faultChip_frame s c a q d; rw [h]
@[simp] theorem faultChip_acqs (s : State) (c a q : Nat) (d : Word) : (faultChip s c a q d).acqs = s.acqs := by obtain ⟨_, _, h⟩ := faultChip_frame s c a q d; rw [h]
@[simp] theorem faultChip_profiles (s : State) (c a q : Nat) (d : Word) : (faultChip s c a q d).profiles = s.profiles := by obtain ⟨_, _, h⟩ := faultChip_frame s c a q d; rw [h]
@[simp] theorem faultChip_hopTab (s : State) (c a q : Nat) (d : Word) : (faultChip s c a q d).hopTab = s.hopTab := by obtain ⟨_, _, h⟩ := faultChip_frame s c a q d; rw [h]
@[simp] theorem faultChip_mbx (s : State) (c a q : Nat) (d : Word) : (faultChip s c a q d).mbx = s.mbx := by obtain ⟨_, _, h⟩ := faultChip_frame s c a q d; rw [h]
@[simp] theorem faultChip_hc (s : State) (c a q : Nat) (d : Word) : (faultChip s c a q d).hc = s.hc := by obtain ⟨_, _, h⟩ := faultChip_frame s c a q d; rw [h]
@[simp] theorem faultChip_cal (s : State) (c a q : Nat) (d : Word) : (faultChip s c a q d).cal = s.cal := by obtain ⟨_, _, h⟩ := faultChip_frame s c a q d; rw [h]
@[simp] theorem faultChip_bist (s : State) (c a q : Nat) (d : Word) : (faultChip s c a q d).bist = s.bist := by obtain ⟨_, _, h⟩ := faultChip_frame s c a q d; rw [h]
@[simp] theorem faultChip_hp (s : State) (c a q : Nat) (d : Word) : (faultChip s c a q d).hp = s.hp := by obtain ⟨_, _, h⟩ := faultChip_frame s c a q d; rw [h]
@[simp] theorem faultChip_fl (s : State) (c a q : Nat) (d : Word) : (faultChip s c a q d).fl = s.fl := by obtain ⟨_, _, h⟩ := faultChip_frame s c a q d; rw [h]
@[simp] theorem faultChip_boot (s : State) (c a q : Nat) (d : Word) : (faultChip s c a q d).boot = s.boot := by obtain ⟨_, _, h⟩ := faultChip_frame s c a q d; rw [h]
@[simp] theorem faultChip_sec (s : State) (c a q : Nat) (d : Word) : (faultChip s c a q d).sec = s.sec := by obtain ⟨_, _, h⟩ := faultChip_frame s c a q d; rw [h]
@[simp] theorem faultChip_ports (s : State) (c a q : Nat) (d : Word) : (faultChip s c a q d).ports = s.ports := by obtain ⟨_, _, h⟩ := faultChip_frame s c a q d; rw [h]
@[simp] theorem faultChip_tree (s : State) (c a q : Nat) (d : Word) : (faultChip s c a q d).tree = s.tree := by obtain ⟨_, _, h⟩ := faultChip_frame s c a q d; rw [h]
@[simp] theorem faultChip_pins (s : State) (c a q : Nat) (d : Word) : (faultChip s c a q d).pins = s.pins := by obtain ⟨_, _, h⟩ := faultChip_frame s c a q d; rw [h]
@[simp] theorem faultChip_evRegs (s : State) (c a q : Nat) (d : Word) : (faultChip s c a q d).evRegs = s.evRegs := by obtain ⟨_, _, h⟩ := faultChip_frame s c a q d; rw [h]
@[simp] theorem region_faultChip (s : State) (c a q : Nat) (d : Word) (j : Nat) : (faultChip s c a q d).region j = s.region j := by unfold State.region; rw [faultChip_regions]
@[simp] theorem mem_faultChip (s : State) (c a q : Nat) (d : Word) (j : Nat) : (faultChip s c a q d).mem j = s.mem j := by unfold State.mem; rw [faultChip_rmem]
@[simp] theorem block_faultChip (s : State) (c a q : Nat) (d : Word) (j : Nat) : (faultChip s c a q d).block j = s.block j := by unfold State.block; rw [faultChip_blocks]
@[simp] theorem cell_faultChip (s : State) (c a q : Nat) (d : Word) (j : Nat) : (faultChip s c a q d).cell j = s.cell j := by unfold State.cell; rw [faultChip_cells]
@[simp] theorem tiu_faultChip (s : State) (c a q : Nat) (d : Word) (j : Nat) : (faultChip s c a q d).tiu j = s.tiu j := by unfold State.tiu; rw [faultChip_tius]
@[simp] theorem evin_faultChip (s : State) (c a q : Nat) (d : Word) (j : Nat) : (faultChip s c a q d).evin j = s.evin j := by unfold State.evin; rw [faultChip_evins]
@[simp] theorem acq_faultChip (s : State) (c a q : Nat) (d : Word) (j : Nat) : (faultChip s c a q d).acq j = s.acq j := by unfold State.acq; rw [faultChip_acqs]
@[simp] theorem port_faultChip (s : State) (c a q : Nat) (d : Word) (j : Nat) : (faultChip s c a q d).port j = s.port j := by unfold State.port; rw [faultChip_ports]

/-! ### faultBlock -/

theorem faultBlock_frame (s : State) (B c a q : Nat) (d : Word) (k : Nat) : ∃ flt lk bl, faultBlock s B c a q d k = { s with flt := flt, lk := lk, blocks := bl } := by
  unfold faultBlock; obtain ⟨x, y, h⟩ := pushFault_frame s 1 c a q (unitWord 2 B) (nowStamp s (B / 4)) d; rw [h]; exact ⟨_, _, _, rfl⟩
@[simp] theorem faultBlock_pending (s : State) (B c a q : Nat) (d : Word) (k : Nat) : (faultBlock s B c a q d k).pending = s.pending := by obtain ⟨_, _, _, h⟩ := faultBlock_frame s B c a q d k; rw [h]
@[simp] theorem faultBlock_free (s : State) (B c a q : Nat) (d : Word) (k : Nat) : (faultBlock s B c a q d k).free = s.free := by obtain ⟨_, _, _, h⟩ := faultBlock_frame s B c a q d k; rw [h]
@[simp] theorem faultBlock_fuses (s : State) (B c a q : Nat) (d : Word) (k : Nat) : (faultBlock s B c a q d k).fuses = s.fuses := by obtain ⟨_, _, _, h⟩ := faultBlock_frame s B c a q d k; rw [h]
@[simp] theorem faultBlock_pwr (s : State) (B c a q : Nat) (d : Word) (k : Nat) : (faultBlock s B c a q d k).pwr = s.pwr := by obtain ⟨_, _, _, h⟩ := faultBlock_frame s B c a q d k; rw [h]
@[simp] theorem faultBlock_pace (s : State) (B c a q : Nat) (d : Word) (k : Nat) : (faultBlock s B c a q d k).pace = s.pace := by obtain ⟨_, _, _, h⟩ := faultBlock_frame s B c a q d k; rw [h]
@[simp] theorem faultBlock_ref (s : State) (B c a q : Nat) (d : Word) (k : Nat) : (faultBlock s B c a q d k).ref = s.ref := by obtain ⟨_, _, _, h⟩ := faultBlock_frame s B c a q d k; rw [h]
@[simp] theorem faultBlock_regions (s : State) (B c a q : Nat) (d : Word) (k : Nat) : (faultBlock s B c a q d k).regions = s.regions := by obtain ⟨_, _, _, h⟩ := faultBlock_frame s B c a q d k; rw [h]
@[simp] theorem faultBlock_rmem (s : State) (B c a q : Nat) (d : Word) (k : Nat) : (faultBlock s B c a q d k).rmem = s.rmem := by obtain ⟨_, _, _, h⟩ := faultBlock_frame s B c a q d k; rw [h]
@[simp] theorem faultBlock_cells (s : State) (B c a q : Nat) (d : Word) (k : Nat) : (faultBlock s B c a q d k).cells = s.cells := by obtain ⟨_, _, _, h⟩ := faultBlock_frame s B c a q d k; rw [h]
@[simp] theorem faultBlock_tius (s : State) (B c a q : Nat) (d : Word) (k : Nat) : (faultBlock s B c a q d k).tius = s.tius := by obtain ⟨_, _, _, h⟩ := faultBlock_frame s B c a q d k; rw [h]
@[simp] theorem faultBlock_evins (s : State) (B c a q : Nat) (d : Word) (k : Nat) : (faultBlock s B c a q d k).evins = s.evins := by obtain ⟨_, _, _, h⟩ := faultBlock_frame s B c a q d k; rw [h]
@[simp] theorem faultBlock_acqs (s : State) (B c a q : Nat) (d : Word) (k : Nat) : (faultBlock s B c a q d k).acqs = s.acqs := by obtain ⟨_, _, _, h⟩ := faultBlock_frame s B c a q d k; rw [h]
@[simp] theorem faultBlock_profiles (s : State) (B c a q : Nat) (d : Word) (k : Nat) : (faultBlock s B c a q d k).profiles = s.profiles := by obtain ⟨_, _, _, h⟩ := faultBlock_frame s B c a q d k; rw [h]
@[simp] theorem faultBlock_hopTab (s : State) (B c a q : Nat) (d : Word) (k : Nat) : (faultBlock s B c a q d k).hopTab = s.hopTab := by obtain ⟨_, _, _, h⟩ := faultBlock_frame s B c a q d k; rw [h]
@[simp] theorem faultBlock_mbx (s : State) (B c a q : Nat) (d : Word) (k : Nat) : (faultBlock s B c a q d k).mbx = s.mbx := by obtain ⟨_, _, _, h⟩ := faultBlock_frame s B c a q d k; rw [h]
@[simp] theorem faultBlock_hc (s : State) (B c a q : Nat) (d : Word) (k : Nat) : (faultBlock s B c a q d k).hc = s.hc := by obtain ⟨_, _, _, h⟩ := faultBlock_frame s B c a q d k; rw [h]
@[simp] theorem faultBlock_cal (s : State) (B c a q : Nat) (d : Word) (k : Nat) : (faultBlock s B c a q d k).cal = s.cal := by obtain ⟨_, _, _, h⟩ := faultBlock_frame s B c a q d k; rw [h]
@[simp] theorem faultBlock_bist (s : State) (B c a q : Nat) (d : Word) (k : Nat) : (faultBlock s B c a q d k).bist = s.bist := by obtain ⟨_, _, _, h⟩ := faultBlock_frame s B c a q d k; rw [h]
@[simp] theorem faultBlock_hp (s : State) (B c a q : Nat) (d : Word) (k : Nat) : (faultBlock s B c a q d k).hp = s.hp := by obtain ⟨_, _, _, h⟩ := faultBlock_frame s B c a q d k; rw [h]
@[simp] theorem faultBlock_fl (s : State) (B c a q : Nat) (d : Word) (k : Nat) : (faultBlock s B c a q d k).fl = s.fl := by obtain ⟨_, _, _, h⟩ := faultBlock_frame s B c a q d k; rw [h]
@[simp] theorem faultBlock_boot (s : State) (B c a q : Nat) (d : Word) (k : Nat) : (faultBlock s B c a q d k).boot = s.boot := by obtain ⟨_, _, _, h⟩ := faultBlock_frame s B c a q d k; rw [h]
@[simp] theorem faultBlock_sec (s : State) (B c a q : Nat) (d : Word) (k : Nat) : (faultBlock s B c a q d k).sec = s.sec := by obtain ⟨_, _, _, h⟩ := faultBlock_frame s B c a q d k; rw [h]
@[simp] theorem faultBlock_ports (s : State) (B c a q : Nat) (d : Word) (k : Nat) : (faultBlock s B c a q d k).ports = s.ports := by obtain ⟨_, _, _, h⟩ := faultBlock_frame s B c a q d k; rw [h]
@[simp] theorem faultBlock_tree (s : State) (B c a q : Nat) (d : Word) (k : Nat) : (faultBlock s B c a q d k).tree = s.tree := by obtain ⟨_, _, _, h⟩ := faultBlock_frame s B c a q d k; rw [h]
@[simp] theorem faultBlock_pins (s : State) (B c a q : Nat) (d : Word) (k : Nat) : (faultBlock s B c a q d k).pins = s.pins := by obtain ⟨_, _, _, h⟩ := faultBlock_frame s B c a q d k; rw [h]
@[simp] theorem faultBlock_evRegs (s : State) (B c a q : Nat) (d : Word) (k : Nat) : (faultBlock s B c a q d k).evRegs = s.evRegs := by obtain ⟨_, _, _, h⟩ := faultBlock_frame s B c a q d k; rw [h]
@[simp] theorem region_faultBlock (s : State) (B c a q : Nat) (d : Word) (k : Nat) (j : Nat) : (faultBlock s B c a q d k).region j = s.region j := by unfold State.region; rw [faultBlock_regions]
@[simp] theorem mem_faultBlock (s : State) (B c a q : Nat) (d : Word) (k : Nat) (j : Nat) : (faultBlock s B c a q d k).mem j = s.mem j := by unfold State.mem; rw [faultBlock_rmem]
@[simp] theorem cell_faultBlock (s : State) (B c a q : Nat) (d : Word) (k : Nat) (j : Nat) : (faultBlock s B c a q d k).cell j = s.cell j := by unfold State.cell; rw [faultBlock_cells]
@[simp] theorem tiu_faultBlock (s : State) (B c a q : Nat) (d : Word) (k : Nat) (j : Nat) : (faultBlock s B c a q d k).tiu j = s.tiu j := by unfold State.tiu; rw [faultBlock_tius]
@[simp] theorem evin_faultBlock (s : State) (B c a q : Nat) (d : Word) (k : Nat) (j : Nat) : (faultBlock s B c a q d k).evin j = s.evin j := by unfold State.evin; rw [faultBlock_evins]
@[simp] theorem acq_faultBlock (s : State) (B c a q : Nat) (d : Word) (k : Nat) (j : Nat) : (faultBlock s B c a q d k).acq j = s.acq j := by unfold State.acq; rw [faultBlock_acqs]
@[simp] theorem port_faultBlock (s : State) (B c a q : Nat) (d : Word) (k : Nat) (j : Nat) : (faultBlock s B c a q d k).port j = s.port j := by unfold State.port; rw [faultBlock_ports]

/-! ### faultRegion -/

theorem faultRegion_frame (s : State) (r c a q : Nat) (d : Word) (k : Nat) : ∃ flt lk rg, faultRegion s r c a q d k = { s with flt := flt, lk := lk, regions := rg } := by
  unfold faultRegion; obtain ⟨x, y, h⟩ := pushFault_frame s 2 c a q (unitWord 1 r) (nowStamp s r) d; rw [h]; exact ⟨_, _, _, rfl⟩
@[simp] theorem faultRegion_pending (s : State) (r c a q : Nat) (d : Word) (k : Nat) : (faultRegion s r c a q d k).pending = s.pending := by obtain ⟨_, _, _, h⟩ := faultRegion_frame s r c a q d k; rw [h]
@[simp] theorem faultRegion_free (s : State) (r c a q : Nat) (d : Word) (k : Nat) : (faultRegion s r c a q d k).free = s.free := by obtain ⟨_, _, _, h⟩ := faultRegion_frame s r c a q d k; rw [h]
@[simp] theorem faultRegion_fuses (s : State) (r c a q : Nat) (d : Word) (k : Nat) : (faultRegion s r c a q d k).fuses = s.fuses := by obtain ⟨_, _, _, h⟩ := faultRegion_frame s r c a q d k; rw [h]
@[simp] theorem faultRegion_pwr (s : State) (r c a q : Nat) (d : Word) (k : Nat) : (faultRegion s r c a q d k).pwr = s.pwr := by obtain ⟨_, _, _, h⟩ := faultRegion_frame s r c a q d k; rw [h]
@[simp] theorem faultRegion_pace (s : State) (r c a q : Nat) (d : Word) (k : Nat) : (faultRegion s r c a q d k).pace = s.pace := by obtain ⟨_, _, _, h⟩ := faultRegion_frame s r c a q d k; rw [h]
@[simp] theorem faultRegion_ref (s : State) (r c a q : Nat) (d : Word) (k : Nat) : (faultRegion s r c a q d k).ref = s.ref := by obtain ⟨_, _, _, h⟩ := faultRegion_frame s r c a q d k; rw [h]
@[simp] theorem faultRegion_rmem (s : State) (r c a q : Nat) (d : Word) (k : Nat) : (faultRegion s r c a q d k).rmem = s.rmem := by obtain ⟨_, _, _, h⟩ := faultRegion_frame s r c a q d k; rw [h]
@[simp] theorem faultRegion_blocks (s : State) (r c a q : Nat) (d : Word) (k : Nat) : (faultRegion s r c a q d k).blocks = s.blocks := by obtain ⟨_, _, _, h⟩ := faultRegion_frame s r c a q d k; rw [h]
@[simp] theorem faultRegion_cells (s : State) (r c a q : Nat) (d : Word) (k : Nat) : (faultRegion s r c a q d k).cells = s.cells := by obtain ⟨_, _, _, h⟩ := faultRegion_frame s r c a q d k; rw [h]
@[simp] theorem faultRegion_tius (s : State) (r c a q : Nat) (d : Word) (k : Nat) : (faultRegion s r c a q d k).tius = s.tius := by obtain ⟨_, _, _, h⟩ := faultRegion_frame s r c a q d k; rw [h]
@[simp] theorem faultRegion_evins (s : State) (r c a q : Nat) (d : Word) (k : Nat) : (faultRegion s r c a q d k).evins = s.evins := by obtain ⟨_, _, _, h⟩ := faultRegion_frame s r c a q d k; rw [h]
@[simp] theorem faultRegion_acqs (s : State) (r c a q : Nat) (d : Word) (k : Nat) : (faultRegion s r c a q d k).acqs = s.acqs := by obtain ⟨_, _, _, h⟩ := faultRegion_frame s r c a q d k; rw [h]
@[simp] theorem faultRegion_profiles (s : State) (r c a q : Nat) (d : Word) (k : Nat) : (faultRegion s r c a q d k).profiles = s.profiles := by obtain ⟨_, _, _, h⟩ := faultRegion_frame s r c a q d k; rw [h]
@[simp] theorem faultRegion_hopTab (s : State) (r c a q : Nat) (d : Word) (k : Nat) : (faultRegion s r c a q d k).hopTab = s.hopTab := by obtain ⟨_, _, _, h⟩ := faultRegion_frame s r c a q d k; rw [h]
@[simp] theorem faultRegion_mbx (s : State) (r c a q : Nat) (d : Word) (k : Nat) : (faultRegion s r c a q d k).mbx = s.mbx := by obtain ⟨_, _, _, h⟩ := faultRegion_frame s r c a q d k; rw [h]
@[simp] theorem faultRegion_hc (s : State) (r c a q : Nat) (d : Word) (k : Nat) : (faultRegion s r c a q d k).hc = s.hc := by obtain ⟨_, _, _, h⟩ := faultRegion_frame s r c a q d k; rw [h]
@[simp] theorem faultRegion_cal (s : State) (r c a q : Nat) (d : Word) (k : Nat) : (faultRegion s r c a q d k).cal = s.cal := by obtain ⟨_, _, _, h⟩ := faultRegion_frame s r c a q d k; rw [h]
@[simp] theorem faultRegion_bist (s : State) (r c a q : Nat) (d : Word) (k : Nat) : (faultRegion s r c a q d k).bist = s.bist := by obtain ⟨_, _, _, h⟩ := faultRegion_frame s r c a q d k; rw [h]
@[simp] theorem faultRegion_hp (s : State) (r c a q : Nat) (d : Word) (k : Nat) : (faultRegion s r c a q d k).hp = s.hp := by obtain ⟨_, _, _, h⟩ := faultRegion_frame s r c a q d k; rw [h]
@[simp] theorem faultRegion_fl (s : State) (r c a q : Nat) (d : Word) (k : Nat) : (faultRegion s r c a q d k).fl = s.fl := by obtain ⟨_, _, _, h⟩ := faultRegion_frame s r c a q d k; rw [h]
@[simp] theorem faultRegion_boot (s : State) (r c a q : Nat) (d : Word) (k : Nat) : (faultRegion s r c a q d k).boot = s.boot := by obtain ⟨_, _, _, h⟩ := faultRegion_frame s r c a q d k; rw [h]
@[simp] theorem faultRegion_sec (s : State) (r c a q : Nat) (d : Word) (k : Nat) : (faultRegion s r c a q d k).sec = s.sec := by obtain ⟨_, _, _, h⟩ := faultRegion_frame s r c a q d k; rw [h]
@[simp] theorem faultRegion_ports (s : State) (r c a q : Nat) (d : Word) (k : Nat) : (faultRegion s r c a q d k).ports = s.ports := by obtain ⟨_, _, _, h⟩ := faultRegion_frame s r c a q d k; rw [h]
@[simp] theorem faultRegion_tree (s : State) (r c a q : Nat) (d : Word) (k : Nat) : (faultRegion s r c a q d k).tree = s.tree := by obtain ⟨_, _, _, h⟩ := faultRegion_frame s r c a q d k; rw [h]
@[simp] theorem faultRegion_pins (s : State) (r c a q : Nat) (d : Word) (k : Nat) : (faultRegion s r c a q d k).pins = s.pins := by obtain ⟨_, _, _, h⟩ := faultRegion_frame s r c a q d k; rw [h]
@[simp] theorem faultRegion_evRegs (s : State) (r c a q : Nat) (d : Word) (k : Nat) : (faultRegion s r c a q d k).evRegs = s.evRegs := by obtain ⟨_, _, _, h⟩ := faultRegion_frame s r c a q d k; rw [h]
@[simp] theorem mem_faultRegion (s : State) (r c a q : Nat) (d : Word) (k : Nat) (j : Nat) : (faultRegion s r c a q d k).mem j = s.mem j := by unfold State.mem; rw [faultRegion_rmem]
@[simp] theorem block_faultRegion (s : State) (r c a q : Nat) (d : Word) (k : Nat) (j : Nat) : (faultRegion s r c a q d k).block j = s.block j := by unfold State.block; rw [faultRegion_blocks]
@[simp] theorem cell_faultRegion (s : State) (r c a q : Nat) (d : Word) (k : Nat) (j : Nat) : (faultRegion s r c a q d k).cell j = s.cell j := by unfold State.cell; rw [faultRegion_cells]
@[simp] theorem tiu_faultRegion (s : State) (r c a q : Nat) (d : Word) (k : Nat) (j : Nat) : (faultRegion s r c a q d k).tiu j = s.tiu j := by unfold State.tiu; rw [faultRegion_tius]
@[simp] theorem evin_faultRegion (s : State) (r c a q : Nat) (d : Word) (k : Nat) (j : Nat) : (faultRegion s r c a q d k).evin j = s.evin j := by unfold State.evin; rw [faultRegion_evins]
@[simp] theorem acq_faultRegion (s : State) (r c a q : Nat) (d : Word) (k : Nat) (j : Nat) : (faultRegion s r c a q d k).acq j = s.acq j := by unfold State.acq; rw [faultRegion_acqs]
@[simp] theorem port_faultRegion (s : State) (r c a q : Nat) (d : Word) (k : Nat) (j : Nat) : (faultRegion s r c a q d k).port j = s.port j := by unfold State.port; rw [faultRegion_ports]

/-! ### recordOut -/

/-- A record goes to the mailbox or to a port. -/
theorem recordOut_frame (s : State) (tun : Bool) (w : List Word) : ∃ m p, recordOut s tun w = { s with mbx := m, ports := p } := by
  unfold recordOut; split <;> exact ⟨_, _, rfl⟩
@[simp] theorem recordOut_pending (s : State) (tun : Bool) (w : List Word) : (recordOut s tun w).pending = s.pending := by obtain ⟨_, _, h⟩ := recordOut_frame s tun w; rw [h]
@[simp] theorem recordOut_free (s : State) (tun : Bool) (w : List Word) : (recordOut s tun w).free = s.free := by obtain ⟨_, _, h⟩ := recordOut_frame s tun w; rw [h]
@[simp] theorem recordOut_fuses (s : State) (tun : Bool) (w : List Word) : (recordOut s tun w).fuses = s.fuses := by obtain ⟨_, _, h⟩ := recordOut_frame s tun w; rw [h]
@[simp] theorem recordOut_pwr (s : State) (tun : Bool) (w : List Word) : (recordOut s tun w).pwr = s.pwr := by obtain ⟨_, _, h⟩ := recordOut_frame s tun w; rw [h]
@[simp] theorem recordOut_pace (s : State) (tun : Bool) (w : List Word) : (recordOut s tun w).pace = s.pace := by obtain ⟨_, _, h⟩ := recordOut_frame s tun w; rw [h]
@[simp] theorem recordOut_ref (s : State) (tun : Bool) (w : List Word) : (recordOut s tun w).ref = s.ref := by obtain ⟨_, _, h⟩ := recordOut_frame s tun w; rw [h]
@[simp] theorem recordOut_regions (s : State) (tun : Bool) (w : List Word) : (recordOut s tun w).regions = s.regions := by obtain ⟨_, _, h⟩ := recordOut_frame s tun w; rw [h]
@[simp] theorem recordOut_rmem (s : State) (tun : Bool) (w : List Word) : (recordOut s tun w).rmem = s.rmem := by obtain ⟨_, _, h⟩ := recordOut_frame s tun w; rw [h]
@[simp] theorem recordOut_blocks (s : State) (tun : Bool) (w : List Word) : (recordOut s tun w).blocks = s.blocks := by obtain ⟨_, _, h⟩ := recordOut_frame s tun w; rw [h]
@[simp] theorem recordOut_cells (s : State) (tun : Bool) (w : List Word) : (recordOut s tun w).cells = s.cells := by obtain ⟨_, _, h⟩ := recordOut_frame s tun w; rw [h]
@[simp] theorem recordOut_tius (s : State) (tun : Bool) (w : List Word) : (recordOut s tun w).tius = s.tius := by obtain ⟨_, _, h⟩ := recordOut_frame s tun w; rw [h]
@[simp] theorem recordOut_evins (s : State) (tun : Bool) (w : List Word) : (recordOut s tun w).evins = s.evins := by obtain ⟨_, _, h⟩ := recordOut_frame s tun w; rw [h]
@[simp] theorem recordOut_acqs (s : State) (tun : Bool) (w : List Word) : (recordOut s tun w).acqs = s.acqs := by obtain ⟨_, _, h⟩ := recordOut_frame s tun w; rw [h]
@[simp] theorem recordOut_profiles (s : State) (tun : Bool) (w : List Word) : (recordOut s tun w).profiles = s.profiles := by obtain ⟨_, _, h⟩ := recordOut_frame s tun w; rw [h]
@[simp] theorem recordOut_hopTab (s : State) (tun : Bool) (w : List Word) : (recordOut s tun w).hopTab = s.hopTab := by obtain ⟨_, _, h⟩ := recordOut_frame s tun w; rw [h]
@[simp] theorem recordOut_flt (s : State) (tun : Bool) (w : List Word) : (recordOut s tun w).flt = s.flt := by obtain ⟨_, _, h⟩ := recordOut_frame s tun w; rw [h]
@[simp] theorem recordOut_hc (s : State) (tun : Bool) (w : List Word) : (recordOut s tun w).hc = s.hc := by obtain ⟨_, _, h⟩ := recordOut_frame s tun w; rw [h]
@[simp] theorem recordOut_cal (s : State) (tun : Bool) (w : List Word) : (recordOut s tun w).cal = s.cal := by obtain ⟨_, _, h⟩ := recordOut_frame s tun w; rw [h]
@[simp] theorem recordOut_bist (s : State) (tun : Bool) (w : List Word) : (recordOut s tun w).bist = s.bist := by obtain ⟨_, _, h⟩ := recordOut_frame s tun w; rw [h]
@[simp] theorem recordOut_hp (s : State) (tun : Bool) (w : List Word) : (recordOut s tun w).hp = s.hp := by obtain ⟨_, _, h⟩ := recordOut_frame s tun w; rw [h]
@[simp] theorem recordOut_fl (s : State) (tun : Bool) (w : List Word) : (recordOut s tun w).fl = s.fl := by obtain ⟨_, _, h⟩ := recordOut_frame s tun w; rw [h]
@[simp] theorem recordOut_boot (s : State) (tun : Bool) (w : List Word) : (recordOut s tun w).boot = s.boot := by obtain ⟨_, _, h⟩ := recordOut_frame s tun w; rw [h]
@[simp] theorem recordOut_lk (s : State) (tun : Bool) (w : List Word) : (recordOut s tun w).lk = s.lk := by obtain ⟨_, _, h⟩ := recordOut_frame s tun w; rw [h]
@[simp] theorem recordOut_sec (s : State) (tun : Bool) (w : List Word) : (recordOut s tun w).sec = s.sec := by obtain ⟨_, _, h⟩ := recordOut_frame s tun w; rw [h]
@[simp] theorem recordOut_tree (s : State) (tun : Bool) (w : List Word) : (recordOut s tun w).tree = s.tree := by obtain ⟨_, _, h⟩ := recordOut_frame s tun w; rw [h]
@[simp] theorem recordOut_pins (s : State) (tun : Bool) (w : List Word) : (recordOut s tun w).pins = s.pins := by obtain ⟨_, _, h⟩ := recordOut_frame s tun w; rw [h]
@[simp] theorem recordOut_evRegs (s : State) (tun : Bool) (w : List Word) : (recordOut s tun w).evRegs = s.evRegs := by obtain ⟨_, _, h⟩ := recordOut_frame s tun w; rw [h]
@[simp] theorem region_recordOut (s : State) (tun : Bool) (w : List Word) (j : Nat) : (recordOut s tun w).region j = s.region j := by unfold State.region; rw [recordOut_regions]
@[simp] theorem mem_recordOut (s : State) (tun : Bool) (w : List Word) (j : Nat) : (recordOut s tun w).mem j = s.mem j := by unfold State.mem; rw [recordOut_rmem]
@[simp] theorem block_recordOut (s : State) (tun : Bool) (w : List Word) (j : Nat) : (recordOut s tun w).block j = s.block j := by unfold State.block; rw [recordOut_blocks]
@[simp] theorem cell_recordOut (s : State) (tun : Bool) (w : List Word) (j : Nat) : (recordOut s tun w).cell j = s.cell j := by unfold State.cell; rw [recordOut_cells]
@[simp] theorem tiu_recordOut (s : State) (tun : Bool) (w : List Word) (j : Nat) : (recordOut s tun w).tiu j = s.tiu j := by unfold State.tiu; rw [recordOut_tius]
@[simp] theorem evin_recordOut (s : State) (tun : Bool) (w : List Word) (j : Nat) : (recordOut s tun w).evin j = s.evin j := by unfold State.evin; rw [recordOut_evins]
@[simp] theorem acq_recordOut (s : State) (tun : Bool) (w : List Word) (j : Nat) : (recordOut s tun w).acq j = s.acq j := by unfold State.acq; rw [recordOut_acqs]

/-! ### complete -/

/-- A completion changes the mailbox, or for a tunnelled command the port it answers on, and nothing else. -/
theorem complete_frame (s : State) (tag status : Nat) (res : List Word) : ∃ m p, complete s tag status res = { s with mbx := m, ports := p } := by
  unfold complete; split
  · exact ⟨_, _, rfl⟩
  · dsimp only [recordOut]; split <;> exact ⟨_, _, rfl⟩
@[simp] theorem complete_pending (s : State) (tag status : Nat) (res : List Word) : (complete s tag status res).pending = s.pending := by obtain ⟨_, _, h⟩ := complete_frame s tag status res; rw [h]
@[simp] theorem complete_free (s : State) (tag status : Nat) (res : List Word) : (complete s tag status res).free = s.free := by obtain ⟨_, _, h⟩ := complete_frame s tag status res; rw [h]
@[simp] theorem complete_fuses (s : State) (tag status : Nat) (res : List Word) : (complete s tag status res).fuses = s.fuses := by obtain ⟨_, _, h⟩ := complete_frame s tag status res; rw [h]
@[simp] theorem complete_pwr (s : State) (tag status : Nat) (res : List Word) : (complete s tag status res).pwr = s.pwr := by obtain ⟨_, _, h⟩ := complete_frame s tag status res; rw [h]
@[simp] theorem complete_pace (s : State) (tag status : Nat) (res : List Word) : (complete s tag status res).pace = s.pace := by obtain ⟨_, _, h⟩ := complete_frame s tag status res; rw [h]
@[simp] theorem complete_ref (s : State) (tag status : Nat) (res : List Word) : (complete s tag status res).ref = s.ref := by obtain ⟨_, _, h⟩ := complete_frame s tag status res; rw [h]
@[simp] theorem complete_regions (s : State) (tag status : Nat) (res : List Word) : (complete s tag status res).regions = s.regions := by obtain ⟨_, _, h⟩ := complete_frame s tag status res; rw [h]
@[simp] theorem complete_rmem (s : State) (tag status : Nat) (res : List Word) : (complete s tag status res).rmem = s.rmem := by obtain ⟨_, _, h⟩ := complete_frame s tag status res; rw [h]
@[simp] theorem complete_blocks (s : State) (tag status : Nat) (res : List Word) : (complete s tag status res).blocks = s.blocks := by obtain ⟨_, _, h⟩ := complete_frame s tag status res; rw [h]
@[simp] theorem complete_cells (s : State) (tag status : Nat) (res : List Word) : (complete s tag status res).cells = s.cells := by obtain ⟨_, _, h⟩ := complete_frame s tag status res; rw [h]
@[simp] theorem complete_tius (s : State) (tag status : Nat) (res : List Word) : (complete s tag status res).tius = s.tius := by obtain ⟨_, _, h⟩ := complete_frame s tag status res; rw [h]
@[simp] theorem complete_evins (s : State) (tag status : Nat) (res : List Word) : (complete s tag status res).evins = s.evins := by obtain ⟨_, _, h⟩ := complete_frame s tag status res; rw [h]
@[simp] theorem complete_acqs (s : State) (tag status : Nat) (res : List Word) : (complete s tag status res).acqs = s.acqs := by obtain ⟨_, _, h⟩ := complete_frame s tag status res; rw [h]
@[simp] theorem complete_profiles (s : State) (tag status : Nat) (res : List Word) : (complete s tag status res).profiles = s.profiles := by obtain ⟨_, _, h⟩ := complete_frame s tag status res; rw [h]
@[simp] theorem complete_hopTab (s : State) (tag status : Nat) (res : List Word) : (complete s tag status res).hopTab = s.hopTab := by obtain ⟨_, _, h⟩ := complete_frame s tag status res; rw [h]
@[simp] theorem complete_flt (s : State) (tag status : Nat) (res : List Word) : (complete s tag status res).flt = s.flt := by obtain ⟨_, _, h⟩ := complete_frame s tag status res; rw [h]
@[simp] theorem complete_hc (s : State) (tag status : Nat) (res : List Word) : (complete s tag status res).hc = s.hc := by obtain ⟨_, _, h⟩ := complete_frame s tag status res; rw [h]
@[simp] theorem complete_cal (s : State) (tag status : Nat) (res : List Word) : (complete s tag status res).cal = s.cal := by obtain ⟨_, _, h⟩ := complete_frame s tag status res; rw [h]
@[simp] theorem complete_bist (s : State) (tag status : Nat) (res : List Word) : (complete s tag status res).bist = s.bist := by obtain ⟨_, _, h⟩ := complete_frame s tag status res; rw [h]
@[simp] theorem complete_hp (s : State) (tag status : Nat) (res : List Word) : (complete s tag status res).hp = s.hp := by obtain ⟨_, _, h⟩ := complete_frame s tag status res; rw [h]
@[simp] theorem complete_fl (s : State) (tag status : Nat) (res : List Word) : (complete s tag status res).fl = s.fl := by obtain ⟨_, _, h⟩ := complete_frame s tag status res; rw [h]
@[simp] theorem complete_boot (s : State) (tag status : Nat) (res : List Word) : (complete s tag status res).boot = s.boot := by obtain ⟨_, _, h⟩ := complete_frame s tag status res; rw [h]
@[simp] theorem complete_lk (s : State) (tag status : Nat) (res : List Word) : (complete s tag status res).lk = s.lk := by obtain ⟨_, _, h⟩ := complete_frame s tag status res; rw [h]
@[simp] theorem complete_sec (s : State) (tag status : Nat) (res : List Word) : (complete s tag status res).sec = s.sec := by obtain ⟨_, _, h⟩ := complete_frame s tag status res; rw [h]
@[simp] theorem complete_tree (s : State) (tag status : Nat) (res : List Word) : (complete s tag status res).tree = s.tree := by obtain ⟨_, _, h⟩ := complete_frame s tag status res; rw [h]
@[simp] theorem complete_pins (s : State) (tag status : Nat) (res : List Word) : (complete s tag status res).pins = s.pins := by obtain ⟨_, _, h⟩ := complete_frame s tag status res; rw [h]
@[simp] theorem complete_evRegs (s : State) (tag status : Nat) (res : List Word) : (complete s tag status res).evRegs = s.evRegs := by obtain ⟨_, _, h⟩ := complete_frame s tag status res; rw [h]
@[simp] theorem region_complete (s : State) (tag status : Nat) (res : List Word) (j : Nat) : (complete s tag status res).region j = s.region j := by unfold State.region; rw [complete_regions]
@[simp] theorem mem_complete (s : State) (tag status : Nat) (res : List Word) (j : Nat) : (complete s tag status res).mem j = s.mem j := by unfold State.mem; rw [complete_rmem]
@[simp] theorem block_complete (s : State) (tag status : Nat) (res : List Word) (j : Nat) : (complete s tag status res).block j = s.block j := by unfold State.block; rw [complete_blocks]
@[simp] theorem cell_complete (s : State) (tag status : Nat) (res : List Word) (j : Nat) : (complete s tag status res).cell j = s.cell j := by unfold State.cell; rw [complete_cells]
@[simp] theorem tiu_complete (s : State) (tag status : Nat) (res : List Word) (j : Nat) : (complete s tag status res).tiu j = s.tiu j := by unfold State.tiu; rw [complete_tius]
@[simp] theorem evin_complete (s : State) (tag status : Nat) (res : List Word) (j : Nat) : (complete s tag status res).evin j = s.evin j := by unfold State.evin; rw [complete_evins]
@[simp] theorem acq_complete (s : State) (tag status : Nat) (res : List Word) (j : Nat) : (complete s tag status res).acq j = s.acq j := by unfold State.acq; rw [complete_acqs]

/-! ### pump -/

/-- Continuation records change the mailbox and the ports alone. -/
theorem pump_frame (s : State) (tag : Nat) : ∃ m p, pump s tag = { s with mbx := m, ports := p } := by
  unfold pump; split
  · exact ⟨_, _, rfl⟩
  · split
    · exact ⟨_, _, rfl⟩
    · rename_i n ds st res _
      split
      · obtain ⟨m, p, h⟩ := pumpGo_frame _ tag ds n s
        split
        · rename_i s1 hg
          rw [hg] at h; dsimp only at h; rw [h]
          obtain ⟨m', p', h'⟩ := complete_frame { s with mbx := m, ports := p } tag st res
          exact ⟨m', p', h'⟩
        · rename_i s1 _ hg
          rw [hg] at h; dsimp only at h; rw [h]; exact ⟨_, _, rfl⟩
      · exact ⟨_, _, rfl⟩
@[simp] theorem pump_pending (s : State) (tag : Nat) : (pump s tag).pending = s.pending := by obtain ⟨_, _, h⟩ := pump_frame s tag; rw [h]
@[simp] theorem pump_free (s : State) (tag : Nat) : (pump s tag).free = s.free := by obtain ⟨_, _, h⟩ := pump_frame s tag; rw [h]
@[simp] theorem pump_fuses (s : State) (tag : Nat) : (pump s tag).fuses = s.fuses := by obtain ⟨_, _, h⟩ := pump_frame s tag; rw [h]
@[simp] theorem pump_pwr (s : State) (tag : Nat) : (pump s tag).pwr = s.pwr := by obtain ⟨_, _, h⟩ := pump_frame s tag; rw [h]
@[simp] theorem pump_pace (s : State) (tag : Nat) : (pump s tag).pace = s.pace := by obtain ⟨_, _, h⟩ := pump_frame s tag; rw [h]
@[simp] theorem pump_ref (s : State) (tag : Nat) : (pump s tag).ref = s.ref := by obtain ⟨_, _, h⟩ := pump_frame s tag; rw [h]
@[simp] theorem pump_regions (s : State) (tag : Nat) : (pump s tag).regions = s.regions := by obtain ⟨_, _, h⟩ := pump_frame s tag; rw [h]
@[simp] theorem pump_rmem (s : State) (tag : Nat) : (pump s tag).rmem = s.rmem := by obtain ⟨_, _, h⟩ := pump_frame s tag; rw [h]
@[simp] theorem pump_blocks (s : State) (tag : Nat) : (pump s tag).blocks = s.blocks := by obtain ⟨_, _, h⟩ := pump_frame s tag; rw [h]
@[simp] theorem pump_cells (s : State) (tag : Nat) : (pump s tag).cells = s.cells := by obtain ⟨_, _, h⟩ := pump_frame s tag; rw [h]
@[simp] theorem pump_tius (s : State) (tag : Nat) : (pump s tag).tius = s.tius := by obtain ⟨_, _, h⟩ := pump_frame s tag; rw [h]
@[simp] theorem pump_evins (s : State) (tag : Nat) : (pump s tag).evins = s.evins := by obtain ⟨_, _, h⟩ := pump_frame s tag; rw [h]
@[simp] theorem pump_acqs (s : State) (tag : Nat) : (pump s tag).acqs = s.acqs := by obtain ⟨_, _, h⟩ := pump_frame s tag; rw [h]
@[simp] theorem pump_profiles (s : State) (tag : Nat) : (pump s tag).profiles = s.profiles := by obtain ⟨_, _, h⟩ := pump_frame s tag; rw [h]
@[simp] theorem pump_hopTab (s : State) (tag : Nat) : (pump s tag).hopTab = s.hopTab := by obtain ⟨_, _, h⟩ := pump_frame s tag; rw [h]
@[simp] theorem pump_flt (s : State) (tag : Nat) : (pump s tag).flt = s.flt := by obtain ⟨_, _, h⟩ := pump_frame s tag; rw [h]
@[simp] theorem pump_hc (s : State) (tag : Nat) : (pump s tag).hc = s.hc := by obtain ⟨_, _, h⟩ := pump_frame s tag; rw [h]
@[simp] theorem pump_cal (s : State) (tag : Nat) : (pump s tag).cal = s.cal := by obtain ⟨_, _, h⟩ := pump_frame s tag; rw [h]
@[simp] theorem pump_bist (s : State) (tag : Nat) : (pump s tag).bist = s.bist := by obtain ⟨_, _, h⟩ := pump_frame s tag; rw [h]
@[simp] theorem pump_hp (s : State) (tag : Nat) : (pump s tag).hp = s.hp := by obtain ⟨_, _, h⟩ := pump_frame s tag; rw [h]
@[simp] theorem pump_fl (s : State) (tag : Nat) : (pump s tag).fl = s.fl := by obtain ⟨_, _, h⟩ := pump_frame s tag; rw [h]
@[simp] theorem pump_boot (s : State) (tag : Nat) : (pump s tag).boot = s.boot := by obtain ⟨_, _, h⟩ := pump_frame s tag; rw [h]
@[simp] theorem pump_lk (s : State) (tag : Nat) : (pump s tag).lk = s.lk := by obtain ⟨_, _, h⟩ := pump_frame s tag; rw [h]
@[simp] theorem pump_sec (s : State) (tag : Nat) : (pump s tag).sec = s.sec := by obtain ⟨_, _, h⟩ := pump_frame s tag; rw [h]
@[simp] theorem pump_tree (s : State) (tag : Nat) : (pump s tag).tree = s.tree := by obtain ⟨_, _, h⟩ := pump_frame s tag; rw [h]
@[simp] theorem pump_pins (s : State) (tag : Nat) : (pump s tag).pins = s.pins := by obtain ⟨_, _, h⟩ := pump_frame s tag; rw [h]
@[simp] theorem pump_evRegs (s : State) (tag : Nat) : (pump s tag).evRegs = s.evRegs := by obtain ⟨_, _, h⟩ := pump_frame s tag; rw [h]
@[simp] theorem region_pump (s : State) (tag : Nat) (j : Nat) : (pump s tag).region j = s.region j := by unfold State.region; rw [pump_regions]
@[simp] theorem mem_pump (s : State) (tag : Nat) (j : Nat) : (pump s tag).mem j = s.mem j := by unfold State.mem; rw [pump_rmem]
@[simp] theorem block_pump (s : State) (tag : Nat) (j : Nat) : (pump s tag).block j = s.block j := by unfold State.block; rw [pump_blocks]
@[simp] theorem cell_pump (s : State) (tag : Nat) (j : Nat) : (pump s tag).cell j = s.cell j := by unfold State.cell; rw [pump_cells]
@[simp] theorem tiu_pump (s : State) (tag : Nat) (j : Nat) : (pump s tag).tiu j = s.tiu j := by unfold State.tiu; rw [pump_tius]
@[simp] theorem evin_pump (s : State) (tag : Nat) (j : Nat) : (pump s tag).evin j = s.evin j := by unfold State.evin; rw [pump_evins]
@[simp] theorem acq_pump (s : State) (tag : Nat) (j : Nat) : (pump s tag).acq j = s.acq j := by unfold State.acq; rw [pump_acqs]

/-! ### completeWith -/

theorem completeWith_frame (s : State) (tag status : Nat) (data res : List Word) : ∃ m p, completeWith s tag status data res = { s with mbx := m, ports := p } := by
  unfold completeWith; split
  · exact complete_frame ..
  · obtain ⟨m, p, h⟩ := pump_frame (setCmd s tag (fun c => { c with out := some (0, chunks7 data.length data, status, res), st := .executing })) tag
    exact ⟨m, p, h⟩
@[simp] theorem completeWith_pending (s : State) (tag status : Nat) (data res : List Word) : (completeWith s tag status data res).pending = s.pending := by obtain ⟨_, _, h⟩ := completeWith_frame s tag status data res; rw [h]
@[simp] theorem completeWith_free (s : State) (tag status : Nat) (data res : List Word) : (completeWith s tag status data res).free = s.free := by obtain ⟨_, _, h⟩ := completeWith_frame s tag status data res; rw [h]
@[simp] theorem completeWith_fuses (s : State) (tag status : Nat) (data res : List Word) : (completeWith s tag status data res).fuses = s.fuses := by obtain ⟨_, _, h⟩ := completeWith_frame s tag status data res; rw [h]
@[simp] theorem completeWith_pwr (s : State) (tag status : Nat) (data res : List Word) : (completeWith s tag status data res).pwr = s.pwr := by obtain ⟨_, _, h⟩ := completeWith_frame s tag status data res; rw [h]
@[simp] theorem completeWith_pace (s : State) (tag status : Nat) (data res : List Word) : (completeWith s tag status data res).pace = s.pace := by obtain ⟨_, _, h⟩ := completeWith_frame s tag status data res; rw [h]
@[simp] theorem completeWith_ref (s : State) (tag status : Nat) (data res : List Word) : (completeWith s tag status data res).ref = s.ref := by obtain ⟨_, _, h⟩ := completeWith_frame s tag status data res; rw [h]
@[simp] theorem completeWith_regions (s : State) (tag status : Nat) (data res : List Word) : (completeWith s tag status data res).regions = s.regions := by obtain ⟨_, _, h⟩ := completeWith_frame s tag status data res; rw [h]
@[simp] theorem completeWith_rmem (s : State) (tag status : Nat) (data res : List Word) : (completeWith s tag status data res).rmem = s.rmem := by obtain ⟨_, _, h⟩ := completeWith_frame s tag status data res; rw [h]
@[simp] theorem completeWith_blocks (s : State) (tag status : Nat) (data res : List Word) : (completeWith s tag status data res).blocks = s.blocks := by obtain ⟨_, _, h⟩ := completeWith_frame s tag status data res; rw [h]
@[simp] theorem completeWith_cells (s : State) (tag status : Nat) (data res : List Word) : (completeWith s tag status data res).cells = s.cells := by obtain ⟨_, _, h⟩ := completeWith_frame s tag status data res; rw [h]
@[simp] theorem completeWith_tius (s : State) (tag status : Nat) (data res : List Word) : (completeWith s tag status data res).tius = s.tius := by obtain ⟨_, _, h⟩ := completeWith_frame s tag status data res; rw [h]
@[simp] theorem completeWith_evins (s : State) (tag status : Nat) (data res : List Word) : (completeWith s tag status data res).evins = s.evins := by obtain ⟨_, _, h⟩ := completeWith_frame s tag status data res; rw [h]
@[simp] theorem completeWith_acqs (s : State) (tag status : Nat) (data res : List Word) : (completeWith s tag status data res).acqs = s.acqs := by obtain ⟨_, _, h⟩ := completeWith_frame s tag status data res; rw [h]
@[simp] theorem completeWith_profiles (s : State) (tag status : Nat) (data res : List Word) : (completeWith s tag status data res).profiles = s.profiles := by obtain ⟨_, _, h⟩ := completeWith_frame s tag status data res; rw [h]
@[simp] theorem completeWith_hopTab (s : State) (tag status : Nat) (data res : List Word) : (completeWith s tag status data res).hopTab = s.hopTab := by obtain ⟨_, _, h⟩ := completeWith_frame s tag status data res; rw [h]
@[simp] theorem completeWith_flt (s : State) (tag status : Nat) (data res : List Word) : (completeWith s tag status data res).flt = s.flt := by obtain ⟨_, _, h⟩ := completeWith_frame s tag status data res; rw [h]
@[simp] theorem completeWith_hc (s : State) (tag status : Nat) (data res : List Word) : (completeWith s tag status data res).hc = s.hc := by obtain ⟨_, _, h⟩ := completeWith_frame s tag status data res; rw [h]
@[simp] theorem completeWith_cal (s : State) (tag status : Nat) (data res : List Word) : (completeWith s tag status data res).cal = s.cal := by obtain ⟨_, _, h⟩ := completeWith_frame s tag status data res; rw [h]
@[simp] theorem completeWith_bist (s : State) (tag status : Nat) (data res : List Word) : (completeWith s tag status data res).bist = s.bist := by obtain ⟨_, _, h⟩ := completeWith_frame s tag status data res; rw [h]
@[simp] theorem completeWith_hp (s : State) (tag status : Nat) (data res : List Word) : (completeWith s tag status data res).hp = s.hp := by obtain ⟨_, _, h⟩ := completeWith_frame s tag status data res; rw [h]
@[simp] theorem completeWith_fl (s : State) (tag status : Nat) (data res : List Word) : (completeWith s tag status data res).fl = s.fl := by obtain ⟨_, _, h⟩ := completeWith_frame s tag status data res; rw [h]
@[simp] theorem completeWith_boot (s : State) (tag status : Nat) (data res : List Word) : (completeWith s tag status data res).boot = s.boot := by obtain ⟨_, _, h⟩ := completeWith_frame s tag status data res; rw [h]
@[simp] theorem completeWith_lk (s : State) (tag status : Nat) (data res : List Word) : (completeWith s tag status data res).lk = s.lk := by obtain ⟨_, _, h⟩ := completeWith_frame s tag status data res; rw [h]
@[simp] theorem completeWith_sec (s : State) (tag status : Nat) (data res : List Word) : (completeWith s tag status data res).sec = s.sec := by obtain ⟨_, _, h⟩ := completeWith_frame s tag status data res; rw [h]
@[simp] theorem completeWith_tree (s : State) (tag status : Nat) (data res : List Word) : (completeWith s tag status data res).tree = s.tree := by obtain ⟨_, _, h⟩ := completeWith_frame s tag status data res; rw [h]
@[simp] theorem completeWith_pins (s : State) (tag status : Nat) (data res : List Word) : (completeWith s tag status data res).pins = s.pins := by obtain ⟨_, _, h⟩ := completeWith_frame s tag status data res; rw [h]
@[simp] theorem completeWith_evRegs (s : State) (tag status : Nat) (data res : List Word) : (completeWith s tag status data res).evRegs = s.evRegs := by obtain ⟨_, _, h⟩ := completeWith_frame s tag status data res; rw [h]
@[simp] theorem region_completeWith (s : State) (tag status : Nat) (data res : List Word) (j : Nat) : (completeWith s tag status data res).region j = s.region j := by unfold State.region; rw [completeWith_regions]
@[simp] theorem mem_completeWith (s : State) (tag status : Nat) (data res : List Word) (j : Nat) : (completeWith s tag status data res).mem j = s.mem j := by unfold State.mem; rw [completeWith_rmem]
@[simp] theorem block_completeWith (s : State) (tag status : Nat) (data res : List Word) (j : Nat) : (completeWith s tag status data res).block j = s.block j := by unfold State.block; rw [completeWith_blocks]
@[simp] theorem cell_completeWith (s : State) (tag status : Nat) (data res : List Word) (j : Nat) : (completeWith s tag status data res).cell j = s.cell j := by unfold State.cell; rw [completeWith_cells]
@[simp] theorem tiu_completeWith (s : State) (tag status : Nat) (data res : List Word) (j : Nat) : (completeWith s tag status data res).tiu j = s.tiu j := by unfold State.tiu; rw [completeWith_tius]
@[simp] theorem evin_completeWith (s : State) (tag status : Nat) (data res : List Word) (j : Nat) : (completeWith s tag status data res).evin j = s.evin j := by unfold State.evin; rw [completeWith_evins]
@[simp] theorem acq_completeWith (s : State) (tag status : Nat) (data res : List Word) (j : Nat) : (completeWith s tag status data res).acq j = s.acq j := by unfold State.acq; rw [completeWith_acqs]

/-! ### grantWait -/

theorem grantWait_frame (s : State) (c : Cmd) : ∃ m p, grantWait s c = { s with mbx := m, ports := p } := by
  unfold grantWait; split
  · exact complete_frame ..
  · exact ⟨_, _, rfl⟩
@[simp] theorem grantWait_pending (s : State) (c : Cmd) : (grantWait s c).pending = s.pending := by obtain ⟨_, _, h⟩ := grantWait_frame s c; rw [h]
@[simp] theorem grantWait_free (s : State) (c : Cmd) : (grantWait s c).free = s.free := by obtain ⟨_, _, h⟩ := grantWait_frame s c; rw [h]
@[simp] theorem grantWait_fuses (s : State) (c : Cmd) : (grantWait s c).fuses = s.fuses := by obtain ⟨_, _, h⟩ := grantWait_frame s c; rw [h]
@[simp] theorem grantWait_pwr (s : State) (c : Cmd) : (grantWait s c).pwr = s.pwr := by obtain ⟨_, _, h⟩ := grantWait_frame s c; rw [h]
@[simp] theorem grantWait_pace (s : State) (c : Cmd) : (grantWait s c).pace = s.pace := by obtain ⟨_, _, h⟩ := grantWait_frame s c; rw [h]
@[simp] theorem grantWait_ref (s : State) (c : Cmd) : (grantWait s c).ref = s.ref := by obtain ⟨_, _, h⟩ := grantWait_frame s c; rw [h]
@[simp] theorem grantWait_regions (s : State) (c : Cmd) : (grantWait s c).regions = s.regions := by obtain ⟨_, _, h⟩ := grantWait_frame s c; rw [h]
@[simp] theorem grantWait_rmem (s : State) (c : Cmd) : (grantWait s c).rmem = s.rmem := by obtain ⟨_, _, h⟩ := grantWait_frame s c; rw [h]
@[simp] theorem grantWait_blocks (s : State) (c : Cmd) : (grantWait s c).blocks = s.blocks := by obtain ⟨_, _, h⟩ := grantWait_frame s c; rw [h]
@[simp] theorem grantWait_cells (s : State) (c : Cmd) : (grantWait s c).cells = s.cells := by obtain ⟨_, _, h⟩ := grantWait_frame s c; rw [h]
@[simp] theorem grantWait_tius (s : State) (c : Cmd) : (grantWait s c).tius = s.tius := by obtain ⟨_, _, h⟩ := grantWait_frame s c; rw [h]
@[simp] theorem grantWait_evins (s : State) (c : Cmd) : (grantWait s c).evins = s.evins := by obtain ⟨_, _, h⟩ := grantWait_frame s c; rw [h]
@[simp] theorem grantWait_acqs (s : State) (c : Cmd) : (grantWait s c).acqs = s.acqs := by obtain ⟨_, _, h⟩ := grantWait_frame s c; rw [h]
@[simp] theorem grantWait_profiles (s : State) (c : Cmd) : (grantWait s c).profiles = s.profiles := by obtain ⟨_, _, h⟩ := grantWait_frame s c; rw [h]
@[simp] theorem grantWait_hopTab (s : State) (c : Cmd) : (grantWait s c).hopTab = s.hopTab := by obtain ⟨_, _, h⟩ := grantWait_frame s c; rw [h]
@[simp] theorem grantWait_flt (s : State) (c : Cmd) : (grantWait s c).flt = s.flt := by obtain ⟨_, _, h⟩ := grantWait_frame s c; rw [h]
@[simp] theorem grantWait_hc (s : State) (c : Cmd) : (grantWait s c).hc = s.hc := by obtain ⟨_, _, h⟩ := grantWait_frame s c; rw [h]
@[simp] theorem grantWait_cal (s : State) (c : Cmd) : (grantWait s c).cal = s.cal := by obtain ⟨_, _, h⟩ := grantWait_frame s c; rw [h]
@[simp] theorem grantWait_bist (s : State) (c : Cmd) : (grantWait s c).bist = s.bist := by obtain ⟨_, _, h⟩ := grantWait_frame s c; rw [h]
@[simp] theorem grantWait_hp (s : State) (c : Cmd) : (grantWait s c).hp = s.hp := by obtain ⟨_, _, h⟩ := grantWait_frame s c; rw [h]
@[simp] theorem grantWait_fl (s : State) (c : Cmd) : (grantWait s c).fl = s.fl := by obtain ⟨_, _, h⟩ := grantWait_frame s c; rw [h]
@[simp] theorem grantWait_boot (s : State) (c : Cmd) : (grantWait s c).boot = s.boot := by obtain ⟨_, _, h⟩ := grantWait_frame s c; rw [h]
@[simp] theorem grantWait_lk (s : State) (c : Cmd) : (grantWait s c).lk = s.lk := by obtain ⟨_, _, h⟩ := grantWait_frame s c; rw [h]
@[simp] theorem grantWait_sec (s : State) (c : Cmd) : (grantWait s c).sec = s.sec := by obtain ⟨_, _, h⟩ := grantWait_frame s c; rw [h]
@[simp] theorem grantWait_tree (s : State) (c : Cmd) : (grantWait s c).tree = s.tree := by obtain ⟨_, _, h⟩ := grantWait_frame s c; rw [h]
@[simp] theorem grantWait_pins (s : State) (c : Cmd) : (grantWait s c).pins = s.pins := by obtain ⟨_, _, h⟩ := grantWait_frame s c; rw [h]
@[simp] theorem grantWait_evRegs (s : State) (c : Cmd) : (grantWait s c).evRegs = s.evRegs := by obtain ⟨_, _, h⟩ := grantWait_frame s c; rw [h]
@[simp] theorem region_grantWait (s : State) (c : Cmd) (j : Nat) : (grantWait s c).region j = s.region j := by unfold State.region; rw [grantWait_regions]
@[simp] theorem mem_grantWait (s : State) (c : Cmd) (j : Nat) : (grantWait s c).mem j = s.mem j := by unfold State.mem; rw [grantWait_rmem]
@[simp] theorem block_grantWait (s : State) (c : Cmd) (j : Nat) : (grantWait s c).block j = s.block j := by unfold State.block; rw [grantWait_blocks]
@[simp] theorem cell_grantWait (s : State) (c : Cmd) (j : Nat) : (grantWait s c).cell j = s.cell j := by unfold State.cell; rw [grantWait_cells]
@[simp] theorem tiu_grantWait (s : State) (c : Cmd) (j : Nat) : (grantWait s c).tiu j = s.tiu j := by unfold State.tiu; rw [grantWait_tius]
@[simp] theorem evin_grantWait (s : State) (c : Cmd) (j : Nat) : (grantWait s c).evin j = s.evin j := by unfold State.evin; rw [grantWait_evins]
@[simp] theorem acq_grantWait (s : State) (c : Cmd) (j : Nat) : (grantWait s c).acq j = s.acq j := by unfold State.acq; rw [grantWait_acqs]

/-! ### unqueue -/

theorem unqueue_frame (s : State) (c : Cmd) : ∃ bl, unqueue s c = { s with blocks := bl } := by
  unfold unqueue; split
  · exact ⟨_, rfl⟩
  · exact ⟨_, rfl⟩
@[simp] theorem unqueue_pending (s : State) (c : Cmd) : (unqueue s c).pending = s.pending := by obtain ⟨_, h⟩ := unqueue_frame s c; rw [h]
@[simp] theorem unqueue_free (s : State) (c : Cmd) : (unqueue s c).free = s.free := by obtain ⟨_, h⟩ := unqueue_frame s c; rw [h]
@[simp] theorem unqueue_fuses (s : State) (c : Cmd) : (unqueue s c).fuses = s.fuses := by obtain ⟨_, h⟩ := unqueue_frame s c; rw [h]
@[simp] theorem unqueue_pwr (s : State) (c : Cmd) : (unqueue s c).pwr = s.pwr := by obtain ⟨_, h⟩ := unqueue_frame s c; rw [h]
@[simp] theorem unqueue_pace (s : State) (c : Cmd) : (unqueue s c).pace = s.pace := by obtain ⟨_, h⟩ := unqueue_frame s c; rw [h]
@[simp] theorem unqueue_ref (s : State) (c : Cmd) : (unqueue s c).ref = s.ref := by obtain ⟨_, h⟩ := unqueue_frame s c; rw [h]
@[simp] theorem unqueue_regions (s : State) (c : Cmd) : (unqueue s c).regions = s.regions := by obtain ⟨_, h⟩ := unqueue_frame s c; rw [h]
@[simp] theorem unqueue_rmem (s : State) (c : Cmd) : (unqueue s c).rmem = s.rmem := by obtain ⟨_, h⟩ := unqueue_frame s c; rw [h]
@[simp] theorem unqueue_cells (s : State) (c : Cmd) : (unqueue s c).cells = s.cells := by obtain ⟨_, h⟩ := unqueue_frame s c; rw [h]
@[simp] theorem unqueue_tius (s : State) (c : Cmd) : (unqueue s c).tius = s.tius := by obtain ⟨_, h⟩ := unqueue_frame s c; rw [h]
@[simp] theorem unqueue_evins (s : State) (c : Cmd) : (unqueue s c).evins = s.evins := by obtain ⟨_, h⟩ := unqueue_frame s c; rw [h]
@[simp] theorem unqueue_acqs (s : State) (c : Cmd) : (unqueue s c).acqs = s.acqs := by obtain ⟨_, h⟩ := unqueue_frame s c; rw [h]
@[simp] theorem unqueue_profiles (s : State) (c : Cmd) : (unqueue s c).profiles = s.profiles := by obtain ⟨_, h⟩ := unqueue_frame s c; rw [h]
@[simp] theorem unqueue_hopTab (s : State) (c : Cmd) : (unqueue s c).hopTab = s.hopTab := by obtain ⟨_, h⟩ := unqueue_frame s c; rw [h]
@[simp] theorem unqueue_mbx (s : State) (c : Cmd) : (unqueue s c).mbx = s.mbx := by obtain ⟨_, h⟩ := unqueue_frame s c; rw [h]
@[simp] theorem unqueue_flt (s : State) (c : Cmd) : (unqueue s c).flt = s.flt := by obtain ⟨_, h⟩ := unqueue_frame s c; rw [h]
@[simp] theorem unqueue_hc (s : State) (c : Cmd) : (unqueue s c).hc = s.hc := by obtain ⟨_, h⟩ := unqueue_frame s c; rw [h]
@[simp] theorem unqueue_cal (s : State) (c : Cmd) : (unqueue s c).cal = s.cal := by obtain ⟨_, h⟩ := unqueue_frame s c; rw [h]
@[simp] theorem unqueue_bist (s : State) (c : Cmd) : (unqueue s c).bist = s.bist := by obtain ⟨_, h⟩ := unqueue_frame s c; rw [h]
@[simp] theorem unqueue_hp (s : State) (c : Cmd) : (unqueue s c).hp = s.hp := by obtain ⟨_, h⟩ := unqueue_frame s c; rw [h]
@[simp] theorem unqueue_fl (s : State) (c : Cmd) : (unqueue s c).fl = s.fl := by obtain ⟨_, h⟩ := unqueue_frame s c; rw [h]
@[simp] theorem unqueue_boot (s : State) (c : Cmd) : (unqueue s c).boot = s.boot := by obtain ⟨_, h⟩ := unqueue_frame s c; rw [h]
@[simp] theorem unqueue_lk (s : State) (c : Cmd) : (unqueue s c).lk = s.lk := by obtain ⟨_, h⟩ := unqueue_frame s c; rw [h]
@[simp] theorem unqueue_sec (s : State) (c : Cmd) : (unqueue s c).sec = s.sec := by obtain ⟨_, h⟩ := unqueue_frame s c; rw [h]
@[simp] theorem unqueue_ports (s : State) (c : Cmd) : (unqueue s c).ports = s.ports := by obtain ⟨_, h⟩ := unqueue_frame s c; rw [h]
@[simp] theorem unqueue_tree (s : State) (c : Cmd) : (unqueue s c).tree = s.tree := by obtain ⟨_, h⟩ := unqueue_frame s c; rw [h]
@[simp] theorem unqueue_pins (s : State) (c : Cmd) : (unqueue s c).pins = s.pins := by obtain ⟨_, h⟩ := unqueue_frame s c; rw [h]
@[simp] theorem unqueue_evRegs (s : State) (c : Cmd) : (unqueue s c).evRegs = s.evRegs := by obtain ⟨_, h⟩ := unqueue_frame s c; rw [h]
@[simp] theorem region_unqueue (s : State) (c : Cmd) (j : Nat) : (unqueue s c).region j = s.region j := by unfold State.region; rw [unqueue_regions]
@[simp] theorem mem_unqueue (s : State) (c : Cmd) (j : Nat) : (unqueue s c).mem j = s.mem j := by unfold State.mem; rw [unqueue_rmem]
@[simp] theorem cell_unqueue (s : State) (c : Cmd) (j : Nat) : (unqueue s c).cell j = s.cell j := by unfold State.cell; rw [unqueue_cells]
@[simp] theorem tiu_unqueue (s : State) (c : Cmd) (j : Nat) : (unqueue s c).tiu j = s.tiu j := by unfold State.tiu; rw [unqueue_tius]
@[simp] theorem evin_unqueue (s : State) (c : Cmd) (j : Nat) : (unqueue s c).evin j = s.evin j := by unfold State.evin; rw [unqueue_evins]
@[simp] theorem acq_unqueue (s : State) (c : Cmd) (j : Nat) : (unqueue s c).acq j = s.acq j := by unfold State.acq; rw [unqueue_acqs]
@[simp] theorem port_unqueue (s : State) (c : Cmd) (j : Nat) : (unqueue s c).port j = s.port j := by unfold State.port; rw [unqueue_ports]

/-! ### abortCmds -/

theorem abortCmds_frame (s : State) (f : Cmd → Bool) : ∃ bl m p, abortCmds s f = { s with blocks := bl, mbx := m, ports := p } := by
  unfold abortCmds forAll
  generalize s.mbx.cmds.filter f = l
  induction l generalizing s with
  | nil => exact ⟨_, _, _, rfl⟩
  | cons c l ih =>
    obtain ⟨b, h0⟩ := unqueue_frame s c
    obtain ⟨m, p, h⟩ := complete_frame (unqueue s c) c.tag ABORTED []
    obtain ⟨b', m', p', h'⟩ := ih (complete (unqueue s c) c.tag ABORTED [])
    rw [List.foldl_cons, h', h, h0]; exact ⟨_, _, _, rfl⟩
@[simp] theorem abortCmds_pending (s : State) (f : Cmd → Bool) : (abortCmds s f).pending = s.pending := by obtain ⟨_, _, _, h⟩ := abortCmds_frame s f; rw [h]
@[simp] theorem abortCmds_free (s : State) (f : Cmd → Bool) : (abortCmds s f).free = s.free := by obtain ⟨_, _, _, h⟩ := abortCmds_frame s f; rw [h]
@[simp] theorem abortCmds_fuses (s : State) (f : Cmd → Bool) : (abortCmds s f).fuses = s.fuses := by obtain ⟨_, _, _, h⟩ := abortCmds_frame s f; rw [h]
@[simp] theorem abortCmds_pwr (s : State) (f : Cmd → Bool) : (abortCmds s f).pwr = s.pwr := by obtain ⟨_, _, _, h⟩ := abortCmds_frame s f; rw [h]
@[simp] theorem abortCmds_pace (s : State) (f : Cmd → Bool) : (abortCmds s f).pace = s.pace := by obtain ⟨_, _, _, h⟩ := abortCmds_frame s f; rw [h]
@[simp] theorem abortCmds_ref (s : State) (f : Cmd → Bool) : (abortCmds s f).ref = s.ref := by obtain ⟨_, _, _, h⟩ := abortCmds_frame s f; rw [h]
@[simp] theorem abortCmds_regions (s : State) (f : Cmd → Bool) : (abortCmds s f).regions = s.regions := by obtain ⟨_, _, _, h⟩ := abortCmds_frame s f; rw [h]
@[simp] theorem abortCmds_rmem (s : State) (f : Cmd → Bool) : (abortCmds s f).rmem = s.rmem := by obtain ⟨_, _, _, h⟩ := abortCmds_frame s f; rw [h]
@[simp] theorem abortCmds_cells (s : State) (f : Cmd → Bool) : (abortCmds s f).cells = s.cells := by obtain ⟨_, _, _, h⟩ := abortCmds_frame s f; rw [h]
@[simp] theorem abortCmds_tius (s : State) (f : Cmd → Bool) : (abortCmds s f).tius = s.tius := by obtain ⟨_, _, _, h⟩ := abortCmds_frame s f; rw [h]
@[simp] theorem abortCmds_evins (s : State) (f : Cmd → Bool) : (abortCmds s f).evins = s.evins := by obtain ⟨_, _, _, h⟩ := abortCmds_frame s f; rw [h]
@[simp] theorem abortCmds_acqs (s : State) (f : Cmd → Bool) : (abortCmds s f).acqs = s.acqs := by obtain ⟨_, _, _, h⟩ := abortCmds_frame s f; rw [h]
@[simp] theorem abortCmds_profiles (s : State) (f : Cmd → Bool) : (abortCmds s f).profiles = s.profiles := by obtain ⟨_, _, _, h⟩ := abortCmds_frame s f; rw [h]
@[simp] theorem abortCmds_hopTab (s : State) (f : Cmd → Bool) : (abortCmds s f).hopTab = s.hopTab := by obtain ⟨_, _, _, h⟩ := abortCmds_frame s f; rw [h]
@[simp] theorem abortCmds_flt (s : State) (f : Cmd → Bool) : (abortCmds s f).flt = s.flt := by obtain ⟨_, _, _, h⟩ := abortCmds_frame s f; rw [h]
@[simp] theorem abortCmds_hc (s : State) (f : Cmd → Bool) : (abortCmds s f).hc = s.hc := by obtain ⟨_, _, _, h⟩ := abortCmds_frame s f; rw [h]
@[simp] theorem abortCmds_cal (s : State) (f : Cmd → Bool) : (abortCmds s f).cal = s.cal := by obtain ⟨_, _, _, h⟩ := abortCmds_frame s f; rw [h]
@[simp] theorem abortCmds_bist (s : State) (f : Cmd → Bool) : (abortCmds s f).bist = s.bist := by obtain ⟨_, _, _, h⟩ := abortCmds_frame s f; rw [h]
@[simp] theorem abortCmds_hp (s : State) (f : Cmd → Bool) : (abortCmds s f).hp = s.hp := by obtain ⟨_, _, _, h⟩ := abortCmds_frame s f; rw [h]
@[simp] theorem abortCmds_fl (s : State) (f : Cmd → Bool) : (abortCmds s f).fl = s.fl := by obtain ⟨_, _, _, h⟩ := abortCmds_frame s f; rw [h]
@[simp] theorem abortCmds_boot (s : State) (f : Cmd → Bool) : (abortCmds s f).boot = s.boot := by obtain ⟨_, _, _, h⟩ := abortCmds_frame s f; rw [h]
@[simp] theorem abortCmds_lk (s : State) (f : Cmd → Bool) : (abortCmds s f).lk = s.lk := by obtain ⟨_, _, _, h⟩ := abortCmds_frame s f; rw [h]
@[simp] theorem abortCmds_sec (s : State) (f : Cmd → Bool) : (abortCmds s f).sec = s.sec := by obtain ⟨_, _, _, h⟩ := abortCmds_frame s f; rw [h]
@[simp] theorem abortCmds_tree (s : State) (f : Cmd → Bool) : (abortCmds s f).tree = s.tree := by obtain ⟨_, _, _, h⟩ := abortCmds_frame s f; rw [h]
@[simp] theorem abortCmds_pins (s : State) (f : Cmd → Bool) : (abortCmds s f).pins = s.pins := by obtain ⟨_, _, _, h⟩ := abortCmds_frame s f; rw [h]
@[simp] theorem abortCmds_evRegs (s : State) (f : Cmd → Bool) : (abortCmds s f).evRegs = s.evRegs := by obtain ⟨_, _, _, h⟩ := abortCmds_frame s f; rw [h]
@[simp] theorem region_abortCmds (s : State) (f : Cmd → Bool) (j : Nat) : (abortCmds s f).region j = s.region j := by unfold State.region; rw [abortCmds_regions]
@[simp] theorem mem_abortCmds (s : State) (f : Cmd → Bool) (j : Nat) : (abortCmds s f).mem j = s.mem j := by unfold State.mem; rw [abortCmds_rmem]
@[simp] theorem cell_abortCmds (s : State) (f : Cmd → Bool) (j : Nat) : (abortCmds s f).cell j = s.cell j := by unfold State.cell; rw [abortCmds_cells]
@[simp] theorem tiu_abortCmds (s : State) (f : Cmd → Bool) (j : Nat) : (abortCmds s f).tiu j = s.tiu j := by unfold State.tiu; rw [abortCmds_tius]
@[simp] theorem evin_abortCmds (s : State) (f : Cmd → Bool) (j : Nat) : (abortCmds s f).evin j = s.evin j := by unfold State.evin; rw [abortCmds_evins]
@[simp] theorem acq_abortCmds (s : State) (f : Cmd → Bool) (j : Nat) : (abortCmds s f).acq j = s.acq j := by unfold State.acq; rw [abortCmds_acqs]

/-! ### How a completion looks -/

/-- A tag that no accepted command holds: nothing happens. -/
theorem complete_none {s : State} {tag : Nat} (h : findCmd s tag = none) (status : Nat) (res : List Word) :
    complete s tag status res = s := by simp [complete, h]

/-- The command leaves execution. -/
theorem complete_cmds (s : State) (tag status : Nat) (res : List Word) :
    (complete s tag status res).mbx.cmds = s.mbx.cmds.filter (fun x => x.tag != tag) := by
  unfold complete
  split
  · rename_i h
    refine (List.filter_eq_self.2 fun x hx => ?_).symm
    have := List.find?_eq_none.1 h x hx
    simpa using this
  · dsimp only [recordOut]; split <;> rfl

/-- The record of a command from the host goes to the end of the completion queue. -/
theorem complete_cq {s : State} {tag : Nat} {c : Cmd} (h : findCmd s tag = some c) (ht : c.tun = false) (status : Nat)
    (res : List Word) : (complete s tag status res).mbx.cq = s.mbx.cq ++ [cmdRecord c (finalStatus c status) false res] := by
  simp [complete, h, recordOut, ht, cqPush]

/-- A tunnelled command's record leaves the completion queue as it is. -/
theorem complete_cq_tun {s : State} {tag : Nat} {c : Cmd} (h : findCmd s tag = some c) (ht : c.tun = true) (status : Nat)
    (res : List Word) : (complete s tag status res).mbx.cq = s.mbx.cq := by
  simp [complete, h, recordOut, ht, sendBlock, State.updPort]

/-- A completion of a command from the host leaves the ports as they are. -/
theorem complete_ports {s : State} {tag : Nat} {c : Cmd} (h : findCmd s tag = some c) (ht : c.tun = false) (status : Nat)
    (res : List Word) : (complete s tag status res).ports = s.ports := by
  simp [complete, h, recordOut, ht, cqPush]

/-- Nothing to stream: the completion alone. -/
@[simp] theorem completeWith_nil (s : State) (tag status : Nat) (res : List Word) :
    completeWith s tag status [] res = complete s tag status res := by simp [completeWith]

/-- The command of a tag after an update of it. -/
theorem findCmd_setCmd (s : State) (tag : Nat) (f : Cmd → Cmd) (hf : ∀ c, (f c).tag = c.tag) :
    findCmd (setCmd s tag f) tag = (findCmd s tag).map f := by
  unfold findCmd setCmd
  dsimp only
  generalize s.mbx.cmds = l
  induction l with
  | nil => rfl
  | cons c l ih =>
    by_cases h : c.tag = tag
    · simp [h, hf]
    · simp [h, ih]

/-- The commands of other tags after an update of one. -/
theorem findCmd_setCmd_ne (s : State) {t tag : Nat} (f : Cmd → Cmd) (hf : ∀ c, (f c).tag = c.tag) (ht : t ≠ tag) :
    findCmd (setCmd s tag f) t = findCmd s t := by
  unfold findCmd setCmd
  dsimp only
  generalize s.mbx.cmds = l
  induction l with
  | nil => rfl
  | cons c l ih =>
    by_cases h : c.tag = tag
    · simp only [List.map_cons, h, if_true, List.find?_cons, hf]
      have : (tag == t) = false := by simp [Ne.symm ht]
      simp [this, ih]
    · simp only [List.map_cons, h, if_false, List.find?_cons, ih]

/-! ### Fault records -/

/-- With room in the FIFO and no firmware to move it on, the record is the last in the FIFO. -/
theorem pushFault_fifo {s : State} (hr : mpRuns s = false) (hl : s.flt.fifo.length < 32) (l c a q : Nat) (u : Word) (st : List Word) (d : Word) :
    (pushFault s l c a q u st d).flt.fifo = s.flt.fifo ++ [faultRecord s.flt.entry l c a q u st d] := by
  have h : mpRuns { s with flt.fifo := s.flt.fifo ++ [faultRecord s.flt.entry l c a q u st d], flt.entry := s.flt.entry + 1, lk.faults := countFault s.lk.faults l } = false := hr
  simp only [pushFault, if_pos hl, h, Bool.false_eq_true, if_false]

/-- A record that finds the FIFO full is counted and not stored. -/
theorem pushFault_full {s : State} (hr : mpRuns s = false) (hl : 32 ≤ s.flt.fifo.length) (l c a q : Nat) (u : Word) (st : List Word) (d : Word) :
    pushFault s l c a q u st d = { s with flt.dropped := satAdd 0x3FFFF s.flt.dropped 1 } := by
  have h : mpRuns { s with flt.dropped := satAdd 0x3FFFF s.flt.dropped 1 } = false := hr
  simp only [pushFault, if_neg (Nat.not_lt.2 hl), h, Bool.false_eq_true, if_false]

/-- The log ring never holds more than 256 records. -/
theorem ringAdd_length (a b : List (List Word)) : (ringAdd a b).length ≤ 256 := by
  simp only [ringAdd, List.length_drop]; omega

/-- The depths of the FIFO and the ring are kept (R441). -/
theorem pushFault_logWf {s : State} (h1 : s.flt.fifo.length ≤ 32) (h2 : s.flt.ring.length ≤ 256) (l c a q : Nat) (u : Word) (st : List Word)
    (d : Word) : (pushFault s l c a q u st d).flt.fifo.length ≤ 32 ∧ (pushFault s l c a q u st d).flt.ring.length ≤ 256 := by
  unfold pushFault drainFifo
  dsimp only
  split
  · split
    · exact ⟨Nat.zero_le _, by dsimp only; exact ringAdd_length _ _⟩
    · refine ⟨?_, h2⟩
      simp only [List.length_append, List.length_cons, List.length_nil]; omega
  · split
    · exact ⟨Nat.zero_le _, by dsimp only; exact ringAdd_length _ _⟩
    · exact ⟨h1, h2⟩

/-! ### Writes of the host port into the region and chip control windows (R286) -/

/-- An Owner or Vendor session makes the write. -/
theorem ownerWrite_owner {s : State} (h : 2 ≤ s.sec.host) (f : State → State) : ownerWrite s f = f s := by
  unfold ownerWrite; rw [if_neg (Nat.not_lt.2 h)]

/-- Any other session is denied, and nothing else changes. -/
theorem ownerWrite_denied {s : State} (h : s.sec.host < 2) (f : State → State) :
    ownerWrite s f = { s with hp.denied := true } := by unfold ownerWrite; rw [if_pos h]

/-- An Owner or Vendor session makes the write to a chip control register, whose parity is then fresh. -/
theorem chipWrite_owner {s : State} (h : 2 ≤ s.sec.host) (a : Nat) (f : State → State) :
    chipWrite s a f = f (s.parityFresh a) := ownerWrite_owner h _

/-- Any other session is denied, and nothing else changes. -/
theorem chipWrite_denied {s : State} (h : s.sec.host < 2) (a : Nat) (f : State → State) :
    chipWrite s a f = { s with hp.denied := true } := ownerWrite_denied h _

/-! ### Dispatch (R232 to R236) -/

/-- Only a host measurement can stand in the queue of an arbiter. -/
theorem unqueue_eq {c : Cmd} (s : State) (h1 : c.opcode ≠ 0x041) (h2 : c.opcode ≠ 0x042) : unqueue s c = s := by
  unfold unqueue; rw [if_neg]; rintro (h | h) <;> contradiction

/-- A tag that no accepted command holds: nothing happens. -/
theorem hitan_none {s : State} {tag : Nat} (h : findCmd s tag = none) (op : Nat) (body : State → Cmd → State) : hitan s tag op body = s := by
  simp [hitan, hitanReach, h]

/-- Another opcode, or a command that may not be dispatched yet: nothing happens. -/
theorem hitan_other {s : State} {tag op : Nat} {c : Cmd} (h : findCmd s tag = some c) (ho : c.opcode ≠ op ∨ mayDispatch s c = false)
    (body : State → Cmd → State) : hitan s tag op body = s := by
  simp only [hitan, hitanReach, h, if_pos ho]

/-- A command that fails a check of dispatch completes with that status and does nothing else. -/
theorem hitan_refused {s : State} {tag : Nat} {c : Cmd} {st : Nat} (h : findCmd s tag = some c) (hd : mayDispatch s c = true)
    (ha : c.st = .accepted) (hc : dispatchCheck s c = some st) (body : State → Cmd → State) :
    hitan s tag c.opcode body = complete (unqueue s c) tag st [] := by
  simp [hitan, hitanReach, h, hd, ha, show checkReach s c false = some st from hc]

/-- A command whose deadline is reached before it begins completes with TIMEOUT. -/
theorem hitan_timeout {s : State} {tag : Nat} {c : Cmd} (h : findCmd s tag = some c) (hd : mayDispatch s c = true)
    (ha : c.st = .accepted) (hc : dispatchCheck s c = none) (ht : deadlinePassed s c = true) (body : State → Cmd → State) :
    hitan s tag c.opcode body = complete (unqueue s c) tag TIMEOUT [] := by
  simp [hitan, hitanReach, h, hd, ha, show checkReach s c false = none from hc, ht]

/-- A command that must wait for others or for its target is marked so. -/
theorem hitan_waits {s : State} {tag : Nat} {c : Cmd} (h : findCmd s tag = some c) (hd : mayDispatch s c = true)
    (ha : c.st = .accepted) (hc : dispatchCheck s c = none) (ht : deadlinePassed s c = false) (hw : mustWait s c = true)
    (body : State → Cmd → State) : hitan s tag c.opcode body = setCmd s tag (fun c => { c with st := .waiting }) := by
  simp [hitan, hitanReach, h, hd, ha, show checkReach s c false = none from hc, ht, hw]

/-- A command that passes every check begins: its body runs with the command marked as executing. -/
theorem hitan_runs {s : State} {tag : Nat} {c : Cmd} (h : findCmd s tag = some c) (hd : mayDispatch s c = true)
    (hc : (if c.st = .accepted then dispatchCheck s c else if regionBusy s c then some BUSY else none) = none)
    (ht : deadlinePassed s c = false) (hw : mustWait s c = false) (hh : onHold s c = false) (body : State → Cmd → State) :
    hitan s tag c.opcode body = body (setCmd s tag (fun c => { c with st := .executing })) c := by
  unfold dispatchCheck at hc
  simp [hitan, hitanReach, h, hd, hc, ht, hw, hh]

end Sys2Proof.Machine
end

