-- ==== Sys2Proof/Laws/Keeps.lean ====
section
/-! SUPPORT. What every operation keeps, whatever its operands: the relation `Keeps` between the state before and after, for the shared operations of the units. -/
set_option maxRecDepth 4000
set_option linter.unusedTactic false
set_option linter.unusedVariables false
set_option linter.unreachableTactic false
namespace Sys2Proof.Machine
set_option Elab.async false
open Sys2Proof

/-- What a change must not spoil: the fuses and LOCKET's factory items and life-cycle state are the same, the minimum
security epoch has not fallen, and the invariants of Safety.lean hold after where they held before. -/
structure Keeps (s t : State) : Prop where
  fuses : t.fuses = s.fuses
  factory : t.lk.factory = s.lk.factory
  lc : t.lk.lc = s.lk.lc
  epoch : s.lk.minEpoch.toNat ≤ t.lk.minEpoch.toNat
  mem : s.memWf → t.memWf
  log : s.logWf → t.logWf
  cq : s.cqWf → t.cqWf

theorem Keeps.refl (s : State) : Keeps s s := ⟨rfl, rfl, rfl, le_refl _, id, id, id⟩

theorem Keeps.trans {s t u : State} (h : Keeps s t) (k : Keeps t u) : Keeps s u :=
  ⟨k.fuses.trans h.fuses, k.factory.trans h.factory, k.lc.trans h.lc, h.epoch.trans k.epoch,
   fun x => k.mem (h.mem x), fun x => k.log (h.log x), fun x => k.cq (h.cq x)⟩

/-- The parts of the state that `Keeps` looks at, from the fields that hold them. -/
@[reducible] def keptOf (fuses : Fuses) (acqs : Tab AcqSt) (profiles hopTab : Tab Word) (mbx : Mailbox) (flt : FaultSt) (bist : BistSt)
    (fl : FlashSt) (lk : Locket) :=
  (fuses, acqs, profiles, hopTab, mbx.cq, mbx.cmds, flt.fifo, flt.ring, bist.fuse, fl.mem, lk.factory, lk.lc, lk.minEpoch)

/-- The parts of a state that `Keeps` looks at. -/
@[reducible] def State.kept (s : State) := keptOf s.fuses s.acqs s.profiles s.hopTab s.mbx s.flt s.bist s.fl s.lk

/-- States with the same such parts keep the same. -/
theorem Keeps.of_kept {s t u : State} (h : Keeps s t) (e : u.kept = t.kept) : Keeps s u := by
  simp only [State.kept, Prod.mk.injEq] at e
  obtain ⟨e0, e1, e2, e3, e4, e5, e6, e7, e8, e9, f1, f2, f3⟩ := e
  refine h.trans ⟨e0, f1, f2, le_of_eq (by rw [f3]), ?_, ?_, ?_⟩
  · simp only [State.memWf, e1, e2, e3, e8, e9]; exact id
  · simp only [State.logWf, e6, e7]; exact id
  · simp only [State.cqWf, e4, e5]; exact id

section
variable {s t : State} {pending : List Instr} {free : Nat} {fuses : Fuses} {pwr : Power} {pace : Pace} {ref : RefChip}
  {regions : Tab RegionSt} {rmem : Tab RegionMem} {blocks : Tab BlockSt} {cells : Tab CellSt} {tius : Tab TiuSt} {evins : Tab EvinSt}
  {acqs : Tab AcqSt} {profiles hopTab : Tab Word} {mbx : Mailbox} {flt : FaultSt} {hc : HostCtl} {cal : CalSt} {bist : BistSt}
  {hp : HostPort} {fl : FlashSt} {boot : BootSt} {lk : Locket} {sec : SecSt} {ports : Tab PortSt} {tree : TreeSt} {pins : Pins}
  {evRegs : List (Nat × Nat × Nat × Nat)}

/-- A state written out whose kept parts are those of t. -/
theorem Keeps.lit (e : keptOf fuses acqs profiles hopTab mbx flt bist fl lk = t.kept) (h : Keeps s t) :
    Keeps s ⟨pending, free, fuses, pwr, pace, ref, regions, rmem, blocks, cells, tius, evins, acqs, profiles, hopTab, mbx, flt, hc, cal,
      bist, hp, fl, boot, lk, sec, ports, tree, pins, evRegs⟩ := .of_kept h e

/-- A state written out whose kept parts are as good as those of t. -/
theorem Keeps.lit' (t : State) (h : Keeps s t) (e0 : fuses = t.fuses) (f1 : lk.factory = t.lk.factory) (f2 : lk.lc = t.lk.lc)
    (e1 : tabWf 0 t.profiles → tabWf 0 profiles) (e2 : tabWf 0 t.hopTab → tabWf 0 hopTab) (e3 : tabWf 0xFF t.fl.mem → tabWf 0xFF fl.mem)
    (e4 : tabWf 0 t.bist.fuse → tabWf 0 bist.fuse) (e5 : (∀ e ∈ t.acqs, e.2.memWf) → ∀ e ∈ acqs, e.2.memWf)
    (e6 : t.mbx.cq.length + t.mbx.cmds.length ≤ 1024 → mbx.cq.length + mbx.cmds.length ≤ 1024)
    (e8 : t.flt.fifo.length ≤ 32 → flt.fifo.length ≤ 32) (e9 : t.flt.ring.length ≤ 256 → flt.ring.length ≤ 256)
    (f3 : t.lk.minEpoch.toNat ≤ lk.minEpoch.toNat) :
    Keeps s ⟨pending, free, fuses, pwr, pace, ref, regions, rmem, blocks, cells, tius, evins, acqs, profiles, hopTab, mbx, flt, hc, cal,
      bist, hp, fl, boot, lk, sec, ports, tree, pins, evRegs⟩ :=
  h.trans ⟨e0, f1, f2, f3, fun m => ⟨e1 m.1, e2 m.2.1, e3 m.2.2.1, e4 m.2.2.2.1, e5 m.2.2.2.2⟩, fun m => ⟨e8 m.1, e9 m.2⟩, e6⟩
end

/-- New profile words keep everything else. -/
theorem Keeps.with_profiles {s0 s : State} (h : Keeps s0 s) (p : Tab Word) (hp : tabWf 0 s.profiles → tabWf 0 p) :
    Keeps s0 { s with profiles := p } := .lit' s h rfl rfl rfl hp id id id id id id id (le_refl _)

/-- New hop-table words keep everything else. -/
theorem Keeps.with_hopTab {s0 s : State} (h : Keeps s0 s) (p : Tab Word) (hp : tabWf 0 s.hopTab → tabWf 0 p) :
    Keeps s0 { s with hopTab := p } := .lit' s h rfl rfl rfl id hp id id id id id id (le_refl _)

/-- New flash bytes keep everything else. -/
theorem Keeps.with_flash {s0 s : State} (h : Keeps s0 s) (p : Tab Byte) (hp : tabWf 0xFF s.fl.mem → tabWf 0xFF p) :
    Keeps s0 { s with fl.mem := p } := .lit' s h rfl rfl rfl id id hp id id id id id (le_refl _)

theorem Keeps.ite {s a b : State} {c : Prop} [Decidable c] (ha : c → Keeps s a) (hb : ¬ c → Keeps s b) :
    Keeps s (if c then a else b) := by split <;> simp_all

theorem Keeps.fst_ite {α : Type} {s : State} {a b : State × α} {c : Prop} [Decidable c] (ha : c → Keeps s a.1) (hb : ¬ c → Keeps s b.1) :
    Keeps s (if c then a else b).1 := by split <;> simp_all

theorem Keeps.forAll {α : Type} {s0 s : State} {l : List α} {f : State → α → State} (h : Keeps s0 s)
    (hf : ∀ s a, Keeps s0 s → Keeps s0 (f s a)) : Keeps s0 (forAll l f s) :=
  forAll_keeps (P := Keeps s0) h (fun s a _ => hf s a)

theorem Keeps.foldl {α : Type} {s0 s : State} {l : List α} {f : State → α → State} (h : Keeps s0 s)
    (hf : ∀ s a, Keeps s0 s → Keeps s0 (f s a)) : Keeps s0 (l.foldl f s) := Keeps.forAll h hf

theorem Keeps.foldl_fst {α β : Type} {s0 : State} {s : State × β} {l : List α} {f : State × β → α → State × β} (h : Keeps s0 s.1)
    (hf : ∀ s a, Keeps s0 s.1 → Keeps s0 (f s a).1) : Keeps s0 (l.foldl f s).1 := by
  induction l generalizing s with
  | nil => exact h
  | cons a l ih => exact ih (hf _ _ h)

theorem AcqSt.memWf_reset : ({} : AcqSt).memWf := by simp [AcqSt.memWf, tabWf]

theorem Keeps.updAcq {s0 s : State} (h : Keeps s0 s) (r : Nat) (f : AcqSt → AcqSt) (hf : ∀ a, a.memWf → (f a).memWf) :
    Keeps s0 (s.updAcq r f) :=
  h.trans ⟨rfl, rfl, rfl, le_refl _, fun m => ⟨m.1, m.2.1, m.2.2.1, m.2.2.2.1,
    tabSet_forall _ m.2.2.2.2 (hf _ (tabGet_prop _ m.2.2.2.2 AcqSt.memWf_reset))⟩, id, id⟩

theorem Keeps.updRegion {s0 s : State} (h : Keeps s0 s) (r : Nat) (f : RegionSt → RegionSt) : Keeps s0 (s.updRegion r f) := .of_kept h rfl
theorem Keeps.updMem {s0 s : State} (h : Keeps s0 s) (r : Nat) (f : RegionMem → RegionMem) : Keeps s0 (s.updMem r f) := .of_kept h rfl
theorem Keeps.updBlock {s0 s : State} (h : Keeps s0 s) (B : Nat) (f : BlockSt → BlockSt) : Keeps s0 (s.updBlock B f) := .of_kept h rfl
theorem Keeps.updCell {s0 s : State} (h : Keeps s0 s) (p : Nat) (f : CellSt → CellSt) : Keeps s0 (s.updCell p f) := .of_kept h rfl
theorem Keeps.updTiu {s0 s : State} (h : Keeps s0 s) (t : Nat) (f : TiuSt → TiuSt) : Keeps s0 (s.updTiu t f) := .of_kept h rfl
theorem Keeps.updEvin {s0 s : State} (h : Keeps s0 s) (i : Nat) (f : EvinSt → EvinSt) : Keeps s0 (s.updEvin i f) := .of_kept h rfl
theorem Keeps.updPort {s0 s : State} (h : Keeps s0 s) (i : Nat) (f : PortSt → PortSt) : Keeps s0 (s.updPort i f) := .of_kept h rfl

theorem tabWf_putBeads {α : Type} [DecidableEq α] {d : α} {t : Tab α} (k : Nat) (bs : List α) (h : tabWf d t) :
    tabWf d (putBeads d t k bs) := by
  induction bs generalizing t k with
  | nil => exact h
  | cons b bs ih => exact ih _ (tabWf_tabSet _ _ h)

@[simp] theorem AcqSt.enter_beads (a : AcqSt) (ring counted : Bool) (idx sample : Nat) (b : BitVec 36) :
    (a.enter ring counted idx sample b).mem.beads = a.mem.beads := rfl
@[simp] theorem AcqSt.enter_banks (a : AcqSt) (ring counted : Bool) (idx sample : Nat) (b : BitVec 36) :
    (a.enter ring counted idx sample b).mem.banks = a.mem.banks := rfl
@[simp] theorem AcqSt.enter_headers (a : AcqSt) (ring counted : Bool) (idx sample : Nat) (b : BitVec 36) :
    (a.enter ring counted idx sample b).mem.headers = a.mem.headers := rfl
@[simp] theorem AcqSt.pair_beads (a : AcqSt) (ring counted : Bool) (c : BitVec 54) (sample : Nat) :
    (a.pair ring counted c sample).mem.beads = a.mem.beads := rfl
@[simp] theorem AcqSt.pair_banks (a : AcqSt) (ring counted : Bool) (c : BitVec 54) (sample : Nat) :
    (a.pair ring counted c sample).mem.banks = a.mem.banks := rfl
@[simp] theorem AcqSt.pair_headers (a : AcqSt) (ring counted : Bool) (c : BitVec 54) (sample : Nat) :
    (a.pair ring counted c sample).mem.headers = a.mem.headers := rfl

/-- A timed bead stores nothing in event memory: strands go there when they end. -/
theorem AcqSt.timed_memWf (a : AcqSt) (ring counted : Bool) (c : BitVec 54) (d : Option (BitVec 15)) (idx sample typ : Nat) (low : Word)
    (h : a.memWf) : (a.timed ring counted c d idx sample typ low).memWf := by
  unfold AcqSt.timed; cases d <;> simpa [AcqSt.memWf] using h

theorem pushFault_keeps {s0 s : State} (h : Keeps s0 s) (level cause action qual : Nat) (unit : Word) (st : List Word) (detail : Word) :
    Keeps s0 (pushFault s level cause action qual unit st detail) := by
  refine h.trans ⟨by simp, ?_, ?_, ?_, ?_, fun m => pushFault_logWf m.1 m.2 .., ?_⟩
  · unfold pushFault drainFifo; dsimp only; split <;> split <;> rfl
  · unfold pushFault drainFifo; dsimp only; split <;> split <;> rfl
  · unfold pushFault drainFifo; apply le_of_eq; dsimp only; split <;> split <;> rfl
  · intro m; simpa [State.memWf] using m
  · intro m; simpa [State.cqWf] using m

theorem drainFifo_keeps {s0 s : State} (h : Keeps s0 s) : Keeps s0 (drainFifo s) :=
  h.trans ⟨rfl, rfl, rfl, le_refl _, id, fun _ => ⟨Nat.zero_le _, by simp only [drainFifo]; exact ringAdd_length _ _⟩, id⟩

theorem setCmd_keeps {s0 s : State} (h : Keeps s0 s) (tag : Nat) (f : Cmd → Cmd) : Keeps s0 (setCmd s tag f) :=
  h.trans ⟨rfl, rfl, rfl, le_refl _, id, id, fun c => by simpa [State.cqWf] using c⟩

theorem cqPush_keeps {s0 s : State} (h : Keeps s0 s) (w : List Word) (hr : 0 < cqFree s) : Keeps s0 (cqPush s w) :=
  h.trans ⟨rfl, rfl, rfl, le_refl _, id, id, fun _ => by simp [cqPush, State.cqWf, cqFree] at *; omega⟩

theorem sendBlock_keeps {s0 s : State} (h : Keeps s0 s) (i : Nat) (b : LinkBlock) : Keeps s0 (sendBlock s i b) := .of_kept h rfl

theorem recordOut_keeps {s0 s : State} (h : Keeps s0 s) (tun : Bool) (w : List Word) (hr : tun = true ∨ 0 < cqFree s) :
    Keeps s0 (recordOut s tun w) := by
  unfold recordOut
  split
  · exact sendBlock_keeps h _ _
  · exact cqPush_keeps h _ (by simp_all)

/-- A completion takes its command out before it appends the record, so it needs no further room (R239). -/
theorem complete_keeps {s0 s : State} (h : Keeps s0 s) (tag status : Nat) (res : List Word) : Keeps s0 (complete s tag status res) := by
  refine h.trans ⟨by simp, by simp, by simp, by simp, fun m => by simpa [State.memWf] using m, fun m => by simpa [State.logWf] using m, ?_⟩
  intro x
  cases hc : findCmd s tag with
  | none => rw [complete_none hc]; exact x
  | some c =>
    have hm := List.mem_of_find?_eq_some hc
    have ht := List.find?_some hc
    have hl : (s.mbx.cmds.filter (fun x => x.tag != tag)).length < s.mbx.cmds.length :=
      (List.length_filter_lt_length_iff_exists (p := fun x : Cmd => x.tag != tag)).2 ⟨c, hm, by simpa using ht⟩
    cases hu : c.tun with
    | false =>
      simp only [State.cqWf, complete_cmds, complete_cq hc hu, List.length_append, List.length_cons, List.length_nil] at *; omega
    | true => simp only [State.cqWf, complete_cmds, complete_cq_tun hc hu] at *; omega

theorem pumpGo_keeps {s0 : State} (tun : Bool) (tag : Nat) (ds : List (List Word)) :
    ∀ (n : Nat) (s : State), Keeps s0 s → Keeps s0 (pumpGo tun tag n ds s).2.2 := by
  induction ds with
  | nil => intro n s h; exact h
  | cons d ds ih =>
    intro n s h
    simp only [pumpGo]
    split
    · rename_i hc; exact ih _ _ (recordOut_keeps h _ _ hc)
    · exact h

theorem pump_keeps {s0 s : State} (h : Keeps s0 s) (tag : Nat) : Keeps s0 (pump s tag) := by
  unfold pump
  split
  · exact h
  · rename_i c _
    split
    · exact h
    · rename_i n ds st res _
      split
      · have k := pumpGo_keeps c.tun tag ds n s h
        split
        · rename_i heq; rw [heq] at k; exact complete_keeps k _ _ _
        · rename_i heq; rw [heq] at k; apply setCmd_keeps; exact Keeps.lit rfl k
      · exact h

theorem completeWith_keeps {s0 s : State} (h : Keeps s0 s) (tag status : Nat) (data res : List Word) :
    Keeps s0 (completeWith s tag status data res) := by
  unfold completeWith
  split
  · exact complete_keeps h _ _ _
  · exact pump_keeps (setCmd_keeps h _ _) _

theorem postUntagged_keeps {s0 s : State} (h : Keeps s0 s) (held : Option HeldRec) (w : List Word) : Keeps s0 (postUntagged s held w).1 := by
  unfold postUntagged
  split
  · exact h
  · split
    · rename_i hc; simp only [cqAccepts, Bool.and_eq_true, decide_eq_true_eq] at hc; exact cqPush_keeps h _ hc.1
    · dsimp only; split
      · exact h
      · exact .of_kept h rfl

theorem unqueue_keeps {s0 s : State} (h : Keeps s0 s) (c : Cmd) : Keeps s0 (unqueue s c) := by
  unfold unqueue; exact Keeps.ite (fun _ => Keeps.updBlock h _ _) (fun _ => h)

theorem hitanReach_keeps {s0 s : State} (h : Keeps s0 s) (tag op : Nat) (absent : Cmd → Bool) (body : State → Cmd → State)
    (hb : ∀ s c, Keeps s0 s → Keeps s0 (body s c)) : Keeps s0 (hitanReach s tag op absent body) := by
  unfold hitanReach
  split
  · exact h
  · split
    · exact h
    · split
      · exact complete_keeps (unqueue_keeps h _) _ _ _
      · split
        · exact complete_keeps (unqueue_keeps h _) _ _ _
        · split
          · exact setCmd_keeps h _ _
          · split
            · dsimp only; split
              · exact complete_keeps (setCmd_keeps h _ _) _ _ _
              · exact setCmd_keeps h _ _
            · exact hb _ _ (setCmd_keeps h _ _)

theorem hitan_keeps {s0 s : State} (h : Keeps s0 s) (tag op : Nat) (body : State → Cmd → State)
    (hb : ∀ s c, Keeps s0 s → Keeps s0 (body s c)) : Keeps s0 (hitan s tag op body) := hitanReach_keeps h tag op _ body hb

/-! ### Ops -/

theorem State.tick_keeps {s0 s : State} (h : Keeps s0 s)  : Keeps s0 (State.tick s) := by
  unfold State.tick
  try dsimp only
  with_reducible repeat' first
    | assumption | intro _ | apply Keeps.ite | exact Keeps.lit rfl ‹_› | split | refine Keeps.lit rfl ?_

theorem State.postRef_keeps {s0 s : State} (h : Keeps s0 s) (r k : Nat) : Keeps s0 (State.postRef s r k) := by
  unfold State.postRef
  try dsimp only
  with_reducible repeat' first
    | assumption | intro _ | apply Keeps.updRegion | apply Keeps.ite | exact Keeps.lit rfl ‹_› | split | refine Keeps.lit rfl ?_

theorem State.postRegion_keeps {s0 s : State} (h : Keeps s0 s) (r k : Nat) : Keeps s0 (State.postRegion s r k) := by
  unfold State.postRegion
  try dsimp only
  with_reducible repeat' first
    | assumption | intro _ | apply Keeps.updRegion | apply Keeps.ite | exact Keeps.lit rfl ‹_› | split | refine Keeps.lit rfl ?_

theorem State.postBlock_keeps {s0 s : State} (h : Keeps s0 s) (B k : Nat) : Keeps s0 (State.postBlock s B k) := by
  unfold State.postBlock
  try dsimp only
  with_reducible repeat' first
    | assumption | intro _ | apply Keeps.updBlock | apply Keeps.ite | exact Keeps.lit rfl ‹_› | split | refine Keeps.lit rfl ?_

theorem State.cellSat_keeps {s0 s : State} (h : Keeps s0 s) (t : State) (ht : Keeps s0 t) (p : Nat) (f : CellSt → Nat) : Keeps s0
    (State.cellSat s t p f) := by
  unfold State.cellSat
  try dsimp only
  with_reducible repeat' first
    | assumption | intro _ | apply State.postBlock_keeps | apply Keeps.ite | exact Keeps.lit rfl ‹_› | split | refine Keeps.lit rfl ?_

theorem State.postHost_keeps {s0 s : State} (h : Keeps s0 s) (k : Nat) : Keeps s0 (State.postHost s k) := by
  unfold State.postHost
  try dsimp only
  with_reducible repeat' first
    | assumption | intro _ | apply Keeps.ite | exact Keeps.lit rfl ‹_› | split | refine Keeps.lit rfl ?_

theorem State.postMbx_keeps {s0 s : State} (h : Keeps s0 s) (k : Nat) : Keeps s0 (State.postMbx s k) := by
  unfold State.postMbx
  try dsimp only
  with_reducible repeat' first
    | assumption | intro _ | apply Keeps.ite | exact Keeps.lit rfl ‹_› | split | refine Keeps.lit rfl ?_

theorem State.postPace_keeps {s0 s : State} (h : Keeps s0 s) (k : Nat) : Keeps s0 (State.postPace s k) := by
  unfold State.postPace
  try dsimp only
  with_reducible repeat' first
    | assumption | intro _ | apply Keeps.ite | exact Keeps.lit rfl ‹_› | split | refine Keeps.lit rfl ?_

theorem State.postAcq_keeps {s0 s : State} (h : Keeps s0 s) (r k : Nat) : Keeps s0 (State.postAcq s r k) := by
  unfold State.postAcq
  try dsimp only
  with_reducible repeat' first
    | assumption | intro _ | refine Keeps.updAcq ?_ _ _ fun _ h => h | apply Keeps.ite | exact Keeps.lit rfl ‹_› | split
    | refine Keeps.lit rfl ?_

theorem clearSnaps_keeps {s0 s : State} (h : Keeps s0 s) (a n : Nat) : Keeps s0 (clearSnaps s a n) := by
  unfold clearSnaps
  try dsimp only
  with_reducible repeat' first
    | assumption | intro _ | apply Keeps.ite | exact Keeps.lit rfl ‹_› | split | refine Keeps.lit rfl ?_

theorem State.parityFresh_keeps {s0 s : State} (h : Keeps s0 s) (a : Nat) : Keeps s0 (State.parityFresh s a) := by
  unfold State.parityFresh
  try dsimp only
  with_reducible repeat' first
    | assumption | intro _ | apply Keeps.ite | exact Keeps.lit rfl ‹_› | split | refine Keeps.lit rfl ?_

theorem faultCell_keeps {s0 s : State} (h : Keeps s0 s) (p cause action qual : Nat) (detail : Word) : Keeps s0 (faultCell s p cause action
    qual detail) := by
  unfold faultCell
  try dsimp only
  with_reducible repeat' first
    | assumption | intro _ | apply pushFault_keeps | apply Keeps.ite | exact Keeps.lit rfl ‹_› | split | refine Keeps.lit rfl ?_

theorem faultBlock_keeps {s0 s : State} (h : Keeps s0 s) (B cause action qual : Nat) (detail : Word) (evBit : Nat) : Keeps s0 (faultBlock
    s B cause action qual detail evBit) := by
  unfold faultBlock
  try dsimp only
  with_reducible repeat' first
    | assumption | intro _ | apply State.postBlock_keeps | apply pushFault_keeps | apply Keeps.ite | exact Keeps.lit rfl ‹_› | split
    | refine Keeps.lit rfl ?_

theorem faultRegion_keeps {s0 s : State} (h : Keeps s0 s) (r cause action qual : Nat) (detail : Word) (evBit : Nat) : Keeps s0
    (faultRegion s r cause action qual detail evBit) := by
  unfold faultRegion
  try dsimp only
  with_reducible repeat' first
    | assumption | intro _ | apply State.postRegion_keeps | apply pushFault_keeps | apply Keeps.ite | exact Keeps.lit rfl ‹_› | split
    | refine Keeps.lit rfl ?_

theorem faultChip_keeps {s0 s : State} (h : Keeps s0 s) (cause action qual : Nat) (detail : Word) : Keeps s0 (faultChip s cause action
    qual detail) := by
  unfold faultChip
  try dsimp only
  with_reducible repeat' first
    | assumption | intro _ | apply pushFault_keeps | apply Keeps.ite | exact Keeps.lit rfl ‹_› | split | refine Keeps.lit rfl ?_

theorem ownerWrite_keeps {s0 s : State} (h : Keeps s0 s) (f : State → State) (hf : ∀ s, Keeps s0 s → Keeps s0 (f s)) : Keeps s0
    (ownerWrite s f) := by
  unfold ownerWrite
  try dsimp only
  with_reducible repeat' first
    | assumption | intro _ | apply hf | apply Keeps.ite | exact Keeps.lit rfl ‹_› | split | refine Keeps.lit rfl ?_

theorem chipWrite_keeps {s0 s : State} (h : Keeps s0 s) (a : Nat) (f : State → State) (hf : ∀ s, Keeps s0 s → Keeps s0 (f s)) : Keeps s0
    (chipWrite s a f) := by
  unfold chipWrite
  try dsimp only
  with_reducible repeat' first
    | assumption | intro _ | apply State.parityFresh_keeps | apply ownerWrite_keeps | apply hf | apply Keeps.ite | exact Keeps.lit rfl ‹_›
    | split | refine Keeps.lit rfl ?_

/-! ### CalModel -/

theorem undefer_keeps {s0 s : State} (h : Keeps s0 s) (p : Nat) : Keeps s0 (undefer s p) := by
  unfold undefer
  try dsimp only
  with_reducible repeat' first
    | assumption | intro _ | apply Keeps.ite | exact Keeps.lit rfl ‹_› | split | refine Keeps.lit rfl ?_

theorem loadCellFrom_keeps {s0 s : State} (h : Keeps s0 s) (p : Nat) (user : CalSet) : Keeps s0 (loadCellFrom s p user) := by
  unfold loadCellFrom
  try dsimp only
  with_reducible repeat' first
    | assumption | intro _ | apply Keeps.updCell | apply Keeps.ite | exact Keeps.lit rfl ‹_› | split | refine Keeps.lit rfl ?_

theorem loadCell_keeps {s0 s : State} (h : Keeps s0 s) (p : Nat) : Keeps s0 (loadCell s p) := by
  unfold loadCell
  try dsimp only
  with_reducible repeat' first
    | assumption | intro _ | apply undefer_keeps | apply loadCellFrom_keeps | apply Keeps.ite | exact Keeps.lit rfl ‹_› | split
    | refine Keeps.lit rfl ?_

theorem loadEvin_keeps {s0 s : State} (h : Keeps s0 s) (i : Nat) : Keeps s0 (loadEvin s i) := by
  unfold loadEvin
  try dsimp only
  with_reducible repeat' first
    | assumption | intro _ | apply Keeps.updEvin | apply Keeps.ite | exact Keeps.lit rfl ‹_› | split | refine Keeps.lit rfl ?_

/-! ### CellOps -/

theorem hopBoundary_keeps {s0 s : State} (h : Keeps s0 s) (p : Nat) : Keeps s0 (hopBoundary s p) := by
  unfold hopBoundary
  try dsimp only
  with_reducible repeat' first
    | assumption | intro _ | apply loadCell_keeps | apply Keeps.ite | exact Keeps.lit rfl ‹_› | split | refine Keeps.lit rfl ?_

theorem hopInCell_keeps {s0 s : State} (h : Keeps s0 s) (p idx : Nat) (w : List Word) : Keeps s0 (hopInCell s p idx w) := by
  unfold hopInCell
  try dsimp only
  with_reducible repeat' first
    | assumption | intro _ | apply Keeps.updCell | apply hopBoundary_keeps | apply hopRetime_keeps | apply Keeps.ite
    | exact Keeps.lit rfl ‹_› | split | refine Keeps.lit rfl ?_

theorem freqHop_keeps {s0 s : State} (h : Keeps s0 s) (p : Nat) (f : Freq) : Keeps s0 (freqHop s p f) := by
  unfold freqHop
  try dsimp only
  with_reducible repeat' first
    | assumption | intro _ | apply Keeps.updCell | apply hopBoundary_keeps | apply hopRetime_keeps | apply Keeps.ite
    | exact Keeps.lit rfl ‹_› | split | refine Keeps.lit rfl ?_

theorem enableCell_keeps {s0 s : State} (h : Keeps s0 s) (p : Nat) : Keeps s0 (enableCell s p) := by
  unfold enableCell
  try dsimp only
  with_reducible repeat' first
    | assumption | intro _ | apply Keeps.updCell | apply hopBoundary_keeps | apply bandChosen_keeps | apply Keeps.ite
    | exact Keeps.lit rfl ‹_› | split | refine Keeps.lit rfl ?_

theorem disableCell_keeps {s0 s : State} (h : Keeps s0 s) (p : Nat) : Keeps s0 (disableCell s p) := by
  unfold disableCell
  try dsimp only
  with_reducible repeat' first
    | assumption | intro _ | apply Keeps.updCell | apply Keeps.ite | exact Keeps.lit rfl ‹_› | split | refine Keeps.lit rfl ?_

theorem leaveHold_keeps {s0 s : State} (h : Keeps s0 s) (p : Nat) : Keeps s0 (leaveHold s p) := by
  unfold leaveHold
  try dsimp only
  with_reducible repeat' first
    | assumption | intro _ | apply Keeps.updCell | apply State.tick_keeps | apply hopBoundary_keeps | apply hopRetime_keeps
    | apply Keeps.ite | exact Keeps.lit rfl ‹_› | split | refine Keeps.lit rfl ?_

/-! ### PaceOps -/

theorem paceRelease_keeps {s0 s : State} (h : Keeps s0 s)  : Keeps s0 (paceRelease s) := by
  unfold paceRelease
  try dsimp only
  with_reducible repeat' first
    | assumption | intro _ | apply Keeps.ite | exact Keeps.lit rfl ‹_› | split | refine Keeps.lit rfl ?_

/-! ### Maint -/

theorem calFinish_keeps {s0 s : State} (h : Keeps s0 s) (r : CalRun) : Keeps s0 (calFinish s r) := by
  unfold calFinish
  try dsimp only
  with_reducible repeat' first
    | assumption | intro _ | apply complete_keeps | apply Keeps.ite | exact Keeps.lit rfl ‹_› | split | refine Keeps.lit rfl ?_

theorem calUnitEnd_keeps {s0 s : State} (h : Keeps s0 s) (B : Nat) (early : Option Nat) : Keeps s0 (calUnitEnd s B early) := by
  unfold calUnitEnd
  try dsimp only
  with_reducible repeat' first
    | assumption | intro _ | apply Keeps.updBlock | apply Keeps.updEvin | apply calFinish_keeps | apply Keeps.ite
    | exact Keeps.lit rfl ‹_› | split | refine Keeps.lit rfl ?_

theorem putResult_keeps {s0 s : State} (h : Keeps s0 s) (scope unit test : Nat) (r : TestRes) : Keeps s0 (putResult s scope unit test r)
    := by
  unfold putResult
  try dsimp only
  with_reducible repeat' first
    | assumption | intro _ | apply Keeps.ite | exact Keeps.lit rfl ‹_› | split | refine Keeps.lit rfl ?_

theorem recordIncomplete_keeps {s0 s : State} (h : Keeps s0 s) (k : SlotKind) (m : BitVec 6) : Keeps s0 (recordIncomplete s k m) := by
  unfold recordIncomplete
  try dsimp only
  with_reducible repeat' first
    | assumption | intro _ | apply Keeps.forAll | apply putResult_keeps | apply Keeps.ite | exact Keeps.lit rfl ‹_› | split
    | refine Keeps.lit rfl ?_

theorem bistEnd_keeps {s0 s : State} (h : Keeps s0 s) (r : BistRun) (status : Nat) : Keeps s0 (bistEnd s r status) := by
  unfold bistEnd
  try dsimp only
  with_reducible repeat' first
    | assumption | intro _ | apply complete_keeps | apply paceRelease_keeps | apply Keeps.ite | exact Keeps.lit rfl ‹_› | split
    | refine Keeps.lit rfl ?_

theorem bistIdle_keeps {s0 s : State} (h : Keeps s0 s) (B : Nat) : Keeps s0 (bistIdle s B) := by
  unfold bistIdle
  try dsimp only
  with_reducible repeat' first
    | assumption | intro _ | apply Keeps.updBlock | apply Keeps.ite | exact Keeps.lit rfl ‹_› | split | refine Keeps.lit rfl ?_

theorem onlineStop_keeps {s0 s : State} (h : Keeps s0 s) (B status : Nat) : Keeps s0 (onlineStop s B status) := by
  unfold onlineStop
  try dsimp only
  with_reducible repeat' first
    | assumption | intro _ | apply recordIncomplete_keeps | apply bistEnd_keeps | apply bistIdle_keeps | apply Keeps.ite
    | exact Keeps.lit rfl ‹_› | split | refine Keeps.lit rfl ?_

theorem repairEnd_keeps {s0 s : State} (h : Keeps s0 s) (B status : Nat) : Keeps s0 (repairEnd s B status) := by
  unfold repairEnd
  try dsimp only
  with_reducible repeat' first
    | assumption | intro _ | apply complete_keeps | apply Keeps.ite | exact Keeps.lit rfl ‹_› | split | refine Keeps.lit rfl ?_

theorem maintStop_keeps {s0 s : State} (h : Keeps s0 s) (B status : Nat) : Keeps s0 (maintStop s B status) := by
  unfold maintStop
  try dsimp only
  with_reducible repeat' first
    | assumption | intro _ | apply Keeps.updBlock | apply calUnitEnd_keeps | apply onlineStop_keeps | apply repairEnd_keeps
    | apply Keeps.ite | exact Keeps.lit rfl ‹_› | split | refine Keeps.lit rfl ?_

theorem maintDone_keeps {s0 s : State} (h : Keeps s0 s) (B : Nat) : Keeps s0 (maintDone s B) := by
  unfold maintDone
  try dsimp only
  with_reducible repeat' first
    | assumption | intro _ | apply Keeps.updBlock | apply calUnitEnd_keeps | apply bistEnd_keeps | apply bistIdle_keeps
    | apply repairEnd_keeps | apply Keeps.ite | exact Keeps.lit rfl ‹_› | split | refine Keeps.lit rfl ?_

theorem staleResults_keeps {s0 s : State} (h : Keeps s0 s) (p : Nat) : Keeps s0 (staleResults s p) := by
  unfold staleResults
  try dsimp only
  with_reducible repeat' first
    | assumption | intro _ | apply Keeps.forAll | apply putResult_keeps | apply Keeps.ite | exact Keeps.lit rfl ‹_› | split
    | refine Keeps.lit rfl ?_

/-! ### BlockOps -/

theorem endLockTags_keeps {s0 s : State} (h : Keeps s0 s) (p status : Nat) : Keeps s0 (endLockTags s p status) := by
  unfold endLockTags
  try dsimp only
  with_reducible repeat' first
    | assumption | intro _ | apply Keeps.updCell | apply Keeps.forAll | apply complete_keeps | apply Keeps.ite | exact Keeps.lit rfl ‹_›
    | split | refine Keeps.lit rfl ?_

theorem endHopTags_keeps {s0 s : State} (h : Keeps s0 s) (p status : Nat) : Keeps s0 (endHopTags s p status) := by
  unfold endHopTags
  try dsimp only
  with_reducible repeat' first
    | assumption | intro _ | apply Keeps.updCell | apply Keeps.forAll | apply complete_keeps | apply Keeps.ite | exact Keeps.lit rfl ‹_›
    | split | refine Keeps.lit rfl ?_

theorem engRecord_keeps {s0 s : State} (h : Keeps s0 s) (p cause status value edge : Nat) : Keeps s0 (engRecord s p cause status value
    edge) := by
  unfold engRecord
  try dsimp only
  with_reducible repeat' first
    | assumption | intro _ | apply Keeps.updCell | apply postUntagged_keeps | apply Keeps.ite | exact Keeps.lit rfl ‹_› | split
    | refine Keeps.lit rfl ?_

theorem startSeat_keeps {s0 s : State} (h : Keeps s0 s) (B : Nat) (q : Seating) : Keeps s0 (startSeat s B q) := by
  unfold startSeat
  try dsimp only
  with_reducible repeat' first
    | assumption | intro _ | apply Keeps.updBlock | apply Keeps.updCell | apply loadCell_keeps | apply muteAtFall_keeps | apply Keeps.ite
    | exact Keeps.lit rfl ‹_› | split | refine Keeps.lit rfl ?_

theorem seat_keeps {s0 s : State} (h : Keeps s0 s) (B c : Nat) (req : Requester) (ret : Bool) (forced : Option Nat) (from_ : Nat) : Keeps
    s0 (seat s B c req ret forced from_) := by
  unfold seat
  try dsimp only
  with_reducible repeat' first
    | assumption | intro _ | apply startSeat_keeps | apply Keeps.ite | exact Keeps.lit rfl ‹_› | split | refine Keeps.lit rfl ?_

theorem moveEngine_keeps {s0 s : State} (h : Keeps s0 s) (src dst : Nat) : Keeps s0 (moveEngine s src dst) := by
  unfold moveEngine
  try dsimp only
  with_reducible repeat' first
    | assumption | intro _ | apply Keeps.updCell | apply Keeps.ite | exact Keeps.lit rfl ‹_› | split | refine Keeps.lit rfl ?_

theorem releaseSpare_keeps {s0 s : State} (h : Keeps s0 s) (B : Nat) : Keeps s0 (releaseSpare s B) := by
  unfold releaseSpare
  try dsimp only
  with_reducible repeat' first
    | assumption | intro _ | apply Keeps.updCell | apply Keeps.ite | exact Keeps.lit rfl ‹_› | split | refine Keeps.lit rfl ?_

theorem loseChannel_keeps {s0 s : State} (h : Keeps s0 s) (B c : Nat) : Keeps s0 (loseChannel s B c) := by
  unfold loseChannel
  try dsimp only
  with_reducible repeat' first
    | assumption | intro _ | apply Keeps.updBlock | apply Keeps.updCell | apply faultBlock_keeps | apply endLockTags_keeps
    | apply Keeps.ite | exact Keeps.lit rfl ‹_› | split | refine Keeps.lit rfl ?_

theorem recoverCell_keeps {s0 s : State} (h : Keeps s0 s) (B c e : Nat) : Keeps s0 (recoverCell s B c e) := by
  unfold recoverCell
  try dsimp only
  with_reducible repeat' first
    | assumption | intro _ | apply Keeps.updBlock | apply Keeps.updCell | apply maintStop_keeps | apply seat_keeps
    | apply moveEngine_keeps | apply releaseSpare_keeps | apply loseChannel_keeps | apply Keeps.ite | exact Keeps.lit rfl ‹_› | split
    | refine Keeps.lit rfl ?_

theorem channelFault_keeps {s0 s : State} (h : Keeps s0 s) (p : Nat) : Keeps s0 (channelFault s p) := by
  unfold channelFault
  try dsimp only
  with_reducible repeat' first
    | assumption | intro _ | apply Keeps.updBlock | apply State.postBlock_keeps | apply staleResults_keeps | apply recoverCell_keeps
    | apply Keeps.ite | exact Keeps.lit rfl ‹_› | split | refine Keeps.lit rfl ?_

theorem loseWaiting_keeps {s0 s : State} (h : Keeps s0 s) (B : Nat) : Keeps s0 (loseWaiting s B) := by
  unfold loseWaiting
  try dsimp only
  with_reducible repeat' first
    | assumption | intro _ | apply Keeps.updBlock | apply loseChannel_keeps | apply Keeps.ite | exact Keeps.lit rfl ‹_› | split
    | refine Keeps.lit rfl ?_

theorem spareFault_keeps {s0 s : State} (h : Keeps s0 s) (B : Nat) : Keeps s0 (spareFault s B) := by
  unfold spareFault
  try dsimp only
  with_reducible repeat' first
    | assumption | intro _ | apply Keeps.updBlock | apply faultBlock_keeps | apply maintStop_keeps | apply staleResults_keeps
    | apply seat_keeps | apply moveEngine_keeps | apply releaseSpare_keeps | apply loseChannel_keeps | apply loseWaiting_keeps
    | apply Keeps.ite | exact Keeps.lit rfl ‹_› | split | refine Keeps.lit rfl ?_

theorem cellFault_keeps {s0 s : State} (h : Keeps s0 s) (p : Nat) : Keeps s0 (cellFault s p) := by
  unfold cellFault
  try dsimp only
  with_reducible repeat' first
    | assumption | intro _ | apply channelFault_keeps | apply spareFault_keeps | apply Keeps.ite | exact Keeps.lit rfl ‹_› | split
    | refine Keeps.lit rfl ?_

theorem seatTimeout_keeps {s0 s : State} (h : Keeps s0 s) (B : Nat) : Keeps s0 (seatTimeout s B) := by
  unfold seatTimeout
  try dsimp only
  with_reducible repeat' first
    | assumption | intro _ | apply faultCell_keeps | apply channelFault_keeps | apply spareFault_keeps | apply Keeps.ite
    | exact Keeps.lit rfl ‹_› | split | refine Keeps.lit rfl ?_

theorem loseLock_keeps {s0 s : State} (h : Keeps s0 s) (p : Nat) (cause : LossCause) (rec_ : Nat) (detail : Word) (mean : BitVec 18) :
    Keeps s0 (loseLock s p cause rec_ detail mean) := by
  unfold loseLock
  try dsimp only
  with_reducible repeat' first
    | assumption | intro _ | apply Keeps.updCell | apply faultCell_keeps | apply cellFault_keeps | apply act_keeps | apply Keeps.ite
    | exact Keeps.lit rfl ‹_› | split | refine Keeps.lit rfl ?_

theorem causeE_keeps {s0 s : State} (h : Keeps s0 s) (p rec_ : Nat) (detail : Word) : Keeps s0 (causeE s p rec_ detail) := by
  unfold causeE
  try dsimp only
  with_reducible repeat' first
    | assumption | intro _ | apply Keeps.updCell | apply faultCell_keeps | apply cellFault_keeps | apply Keeps.ite
    | exact Keeps.lit rfl ‹_› | split | refine Keeps.lit rfl ?_

theorem relockCheck_keeps {s0 s : State} (h : Keeps s0 s) (r : Nat) : Keeps s0 (relockCheck s r) := by
  unfold relockCheck
  try dsimp only
  with_reducible repeat' first
    | assumption | intro _ | apply Keeps.updRegion | apply Keeps.ite | exact Keeps.lit rfl ‹_› | split | refine Keeps.lit rfl ?_

theorem relockStart_keeps {s0 s : State} (h : Keeps s0 s) (r : Nat) : Keeps s0 (relockStart s r) := by
  unfold relockStart
  try dsimp only
  with_reducible repeat' first
    | assumption | intro _ | apply Keeps.updRegion | apply Keeps.updCell | apply Keeps.forAll | apply Keeps.ite | exact Keeps.lit rfl ‹_›
    | split | refine Keeps.lit rfl ?_

/-! ### TiuOps -/

theorem tiuAnswer_keeps {s0 s : State} (h : Keeps s0 s) (t tag status : Nat) (stamps : Bool) : Keeps s0 (tiuAnswer s t tag status stamps)
    := by
  unfold tiuAnswer
  try dsimp only
  with_reducible repeat' first
    | assumption | intro _ | apply complete_keeps | apply completeWith_keeps | apply Keeps.ite | exact Keeps.lit rfl ‹_› | split
    | refine Keeps.lit rfl ?_

theorem tiuEnd_keeps {s0 s : State} (h : Keeps s0 s) (t status : Nat) : Keeps s0 (tiuEnd s t status) := by
  unfold tiuEnd
  try dsimp only
  with_reducible repeat' first
    | assumption | intro _ | apply Keeps.updTiu | apply faultBlock_keeps | apply seat_keeps | apply tiuAnswer_keeps | apply Keeps.ite
    | exact Keeps.lit rfl ‹_› | split | refine Keeps.lit rfl ?_

theorem tiuStop_keeps {s0 s : State} (h : Keeps s0 s) (t status : Nat) : Keeps s0 (tiuStop s t status) := by
  unfold tiuStop
  try dsimp only
  with_reducible repeat' first
    | assumption | intro _ | apply tiuEnd_keeps | apply Keeps.ite | exact Keeps.lit rfl ‹_› | split | refine Keeps.lit rfl ?_

theorem tiuStart_keeps {s0 s : State} (h : Keeps s0 s) (t : Nat) (tag : Option Nat) : Keeps s0 (tiuStart s t tag) := by
  unfold tiuStart
  try dsimp only
  with_reducible repeat' first
    | assumption | intro _ | apply Keeps.updTiu | apply seat_keeps | apply Keeps.ite | exact Keeps.lit rfl ‹_› | split
    | refine Keeps.lit rfl ?_

theorem tiuReady_keeps {s0 s : State} (h : Keeps s0 s) (t : Nat) : Keeps s0 (tiuReady s t) := by
  unfold tiuReady
  try dsimp only
  with_reducible repeat' first
    | assumption | intro _ | apply Keeps.updTiu | apply Keeps.ite | exact Keeps.lit rfl ‹_› | split | refine Keeps.lit rfl ?_

theorem tiuEdge_keeps {s0 s : State} (h : Keeps s0 s) (t : Nat) (stop : Bool) (code : Nat) : Keeps s0 (tiuEdge s t stop code) := by
  unfold tiuEdge
  try dsimp only
  with_reducible repeat' first
    | assumption | intro _ | apply Keeps.updTiu | apply State.postBlock_keeps | apply tiuEnd_keeps | apply Keeps.ite
    | exact Keeps.lit rfl ‹_› | split | refine Keeps.lit rfl ?_

theorem tiuMark_keeps {s0 s : State} (h : Keeps s0 s) (r cls m : Nat) : Keeps s0 (tiuMark s r cls m) := by
  unfold tiuMark
  try dsimp only
  with_reducible repeat' first
    | assumption | intro _ | apply Keeps.forAll | apply tiuEdge_keeps | apply Keeps.ite | exact Keeps.lit rfl ‹_› | split
    | refine Keeps.lit rfl ?_

/-! ### EvOps -/

theorem deliver_keeps {s0 s : State} (h : Keeps s0 s) (r cls idx e : Nat) : Keeps s0 (deliver s r cls idx e) := by
  unfold deliver
  try dsimp only
  with_reducible repeat' first
    | assumption | intro _ | apply Keeps.updCell | apply Keeps.forAll | apply tiuMark_keeps | apply Keeps.ite | exact Keeps.lit rfl ‹_›
    | split | refine Keeps.lit rfl ?_

theorem register_keeps {s0 s : State} (h : Keeps s0 s) (r cls idx e : Nat) : Keeps s0 (register s r cls idx e) := by
  unfold register
  try dsimp only
  with_reducible repeat' first
    | assumption | intro _ | apply deliver_keeps | apply Keeps.ite | exact Keeps.lit rfl ‹_› | split | refine Keeps.lit rfl ?_

theorem deliverDue_keeps {s0 s : State} (h : Keeps s0 s) (r : Nat) : Keeps s0 (deliverDue s r) := by
  unfold deliverDue
  try dsimp only
  with_reducible repeat' first
    | assumption | intro _ | apply Keeps.forAll | apply deliver_keeps | apply Keeps.ite | exact Keeps.lit rfl ‹_› | split
    | refine Keeps.lit rfl ?_

theorem eventDown_keeps {s0 s : State} (h : Keeps s0 s) (m : Nat) (c : BitVec 54) : Keeps s0 (eventDown s m c) := by
  unfold eventDown
  try dsimp only
  with_reducible repeat' first
    | assumption | intro _ | apply Keeps.forAll | apply sendBlock_keeps | apply Keeps.ite | exact Keeps.lit rfl ‹_› | split
    | refine Keeps.lit rfl ?_

theorem fabricEmit_keeps {s0 s : State} (h : Keeps s0 s) (r m e : Nat) : Keeps s0 (fabricEmit s r m e) := by
  unfold fabricEmit
  try dsimp only
  with_reducible repeat' first
    | assumption | intro _ | apply sendBlock_keeps | apply eventDown_keeps | apply Keeps.ite | exact Keeps.lit rfl ‹_› | split
    | refine Keeps.lit rfl ?_

theorem busEmit_keeps {s0 s : State} (h : Keeps s0 s) (r m e : Nat) (shared : Nat → Bool) : Keeps s0 (busEmit s r m e shared) := by
  unfold busEmit
  try dsimp only
  with_reducible repeat' first
    | assumption | intro _ | apply State.tick_keeps | apply Keeps.forAll | apply register_keeps | apply Keeps.ite
    | exact Keeps.lit rfl ‹_› | split | refine Keeps.lit rfl ?_

/-! ### AcqOps -/

theorem acqRecord_keeps {s0 s : State} (h : Keeps s0 s) (r cause edge : Nat) : Keeps s0 (acqRecord s r cause edge) := by
  unfold acqRecord
  try dsimp only
  with_reducible repeat' first
    | assumption | intro _ | apply postUntagged_keeps | refine Keeps.updAcq ?_ _ _ fun _ h => h | apply Keeps.ite
    | exact Keeps.lit rfl ‹_› | split | refine Keeps.lit rfl ?_

theorem acqCount_keeps {s0 s : State} (h : Keeps s0 s) (r : Nat) (get : AcqRegs → Nat) (set : AcqRegs → Nat → AcqRegs) (n : Nat) : Keeps
    s0 (acqCount s r get set n) := by
  unfold acqCount
  try dsimp only
  with_reducible repeat' first
    | assumption | intro _ | apply State.postAcq_keeps | refine Keeps.updAcq ?_ _ _ fun _ h => h | apply Keeps.ite
    | exact Keeps.lit rfl ‹_› | split | refine Keeps.lit rfl ?_

theorem dropGap_keeps {s0 s : State} (h : Keeps s0 s) (r : Nat) : Keeps s0 (dropGap s r) := by
  unfold dropGap
  try dsimp only
  with_reducible repeat' first
    | assumption | intro _ | apply acqCount_keeps | refine Keeps.updAcq ?_ _ _ fun _ h => h | apply Keeps.ite | exact Keeps.lit rfl ‹_›
    | split | refine Keeps.lit rfl ?_

theorem acqDone_keeps {s0 s : State} (h : Keeps s0 s) (r : Nat) : Keeps s0 (acqDone s r) := by
  unfold acqDone
  try dsimp only
  with_reducible repeat' first
    | assumption | intro _ | apply State.postAcq_keeps | apply acqRecord_keeps | apply dropGap_keeps
    | refine Keeps.updAcq ?_ _ _ fun _ h => h | apply Keeps.ite | exact Keeps.lit rfl ‹_› | split | refine Keeps.lit rfl ?_

theorem gapGroup_keeps {s0 s : State} (h : Keeps s0 s) (r cause len lost sample : Nat) :
    Keeps s0 (gapGroup s r cause len lost sample) := by
  unfold gapGroup
  extract_lets ring low s1
  have h1 : Keeps s0 s1 := State.postAcq_keeps (Keeps.updAcq h _ _ fun a h => by simpa [AcqSt.memWf] using h) _ _
  clear_value s1
  exact acqCount_keeps h1 _ _ _ _

theorem lateTrigger_keeps {s0 s : State} (h : Keeps s0 s) (r sample : Nat) : Keeps s0 (lateTrigger s r sample) := by
  unfold lateTrigger
  exact Keeps.ite (fun _ => Keeps.updAcq h _ _ fun a h => h) (fun _ => h)

theorem gapEnd_keeps {s0 s : State} (h : Keeps s0 s) (r sample : Nat) : Keeps s0 (gapEnd s r sample) := by
  unfold gapEnd
  split
  · exact h
  · exact Keeps.ite (fun _ => lateTrigger_keeps (gapGroup_keeps (dropGap_keeps h _) ..) _ _) (fun _ => dropGap_keeps h _)

theorem endBead_keeps {s0 s : State} (h : Keeps s0 s) (r cause sample : Nat) : Keeps s0 (endBead s r cause sample) := by
  unfold endBead
  exact State.tick_keeps (Keeps.updAcq h _ _ fun a h => AcqSt.timed_memWf _ _ _ _ _ _ _ _ _ h)

theorem closeStrand_keeps {s0 s : State} (h : Keeps s0 s) (r cause : Nat) : Keeps s0 (closeStrand s r cause) := by
  unfold closeStrand
  extract_lets x k lo inside gone
  apply State.postAcq_keeps
  refine Keeps.updAcq ?_ _ _ fun a h => ?_
  · exact .of_kept h rfl
  exact ⟨tabWf_putBeads _ _ (tabWf_tabDrop _ h.1), tabWf_putBeads _ _ (tabWf_tabDrop _ h.2.1), tabWf_tabSet _ _ h.2.2⟩

theorem strandEnd_keeps {s0 s : State} (h : Keeps s0 s) (r cause sample : Nat) (stop : Bool) :
    Keeps s0 (strandEnd s r cause sample stop) := by
  unfold strandEnd
  extract_lets s1 s2
  have h1 : Keeps s0 s1 := closeStrand_keeps (endBead_keeps (gapEnd_keeps h _ _) ..) _ _
  clear_value s1
  have h2 : Keeps s0 s2 := by
    unfold s2
    exact Keeps.ite (fun _ => acqRecord_keeps h1 ..) (fun _ => h1)
  clear_value s2
  exact Keeps.ite (fun _ => acqDone_keeps h2 _) (fun _ => Keeps.updAcq h2 _ _ fun a h => h)

theorem strandFull_keeps {s0 s : State} (h : Keeps s0 s) (r sample : Nat) : Keeps s0 (strandFull s r sample) := by
  unfold strandFull
  try dsimp only
  with_reducible repeat' first
    | assumption | intro _ | apply strandEnd_keeps | apply Keeps.ite | exact Keeps.lit rfl ‹_› | split | refine Keeps.lit rfl ?_

theorem acqBead_keeps {s0 s : State} (h : Keeps s0 s) (r typ idx : Nat) (low : Word) (sample : Nat) (counted : Bool) :
    Keeps s0 (acqBead s r typ idx low sample counted) := by
  unfold acqBead
  extract_lets a ring
  refine Keeps.ite (fun _ => h) fun _ => ?_
  split
  · exact Keeps.updAcq h _ _ fun a h => h
  · exact Keeps.ite (fun _ => strandEnd_keeps h ..) fun _ => Keeps.ite (fun _ => Keeps.updAcq h _ _ fun a h => h) fun _ =>
      strandFull_keeps (State.tick_keeps (Keeps.updAcq h _ _ fun a h => AcqSt.timed_memWf _ _ _ _ _ _ _ _ _ h)) _ _

theorem acqEpoch_keeps {s0 s : State} (h : Keeps s0 s) (r : Nat) : Keeps s0 (acqEpoch s r) := by
  unfold acqEpoch
  extract_lets a ring sample
  refine Keeps.ite (fun _ => h) fun _ => ?_
  split
  · exact Keeps.updAcq h _ _ fun a h => h
  · exact Keeps.ite (fun _ => strandEnd_keeps h ..) fun _ => Keeps.ite (fun _ => Keeps.updAcq h _ _ fun a h => h) fun _ =>
      strandFull_keeps (Keeps.updAcq h _ _ fun a h => by simpa [AcqSt.memWf] using h) _ _

theorem forcedGap_keeps {s0 s : State} (h : Keeps s0 s) (r cause len : Nat) : Keeps s0 (forcedGap s r cause len) := by
  unfold forcedGap
  try dsimp only
  with_reducible repeat' first
    | assumption | intro _ | refine Keeps.updAcq ?_ _ _ fun _ h => h | apply Keeps.ite | exact Keeps.lit rfl ‹_› | split
    | refine Keeps.lit rfl ?_

theorem gapWork_keeps {s0 s : State} (h : Keeps s0 s) (r sample : Nat) : Keeps s0 (gapWork s r sample) := by
  unfold gapWork
  extract_lets s1 one
  have h1 : Keeps s0 s1 := Keeps.ite (fun _ => Keeps.ite (fun _ => strandFull_keeps (gapEnd_keeps h _ _) _ _)
    (fun _ => strandEnd_keeps h ..)) (fun _ => h)
  clear_value s1
  refine Keeps.updAcq (Keeps.forAll h1 fun s g k => ?_) _ _ fun a h => h
  unfold one
  extract_lets a
  refine Keeps.ite (fun _ => k) fun _ => ?_
  split
  · exact Keeps.updAcq k _ _ fun a h => h
  · exact Keeps.ite (fun _ => strandEnd_keeps k ..) fun _ => Keeps.ite (fun _ => Keeps.updAcq k _ _ fun a h => h) fun _ =>
      strandFull_keeps (gapGroup_keeps k ..) _ _

theorem senseInput_keeps {s0 s : State} (h : Keeps s0 s) (n sample : Nat) (f : EvinSt → EvinSt) : Keeps s0 (senseInput s n sample f) := by
  unfold senseInput
  try dsimp only
  with_reducible repeat' first
    | assumption | intro _ | apply Keeps.updEvin | refine Keeps.updAcq ?_ _ _ fun _ h => h | apply Keeps.ite | exact Keeps.lit rfl ‹_›
    | split | refine Keeps.lit rfl ?_

theorem evinApply_keeps {s0 s : State} (h : Keeps s0 s) (n : Nat) : Keeps s0 (evinApply s n) := by
  unfold evinApply
  try dsimp only
  with_reducible repeat' first
    | assumption | intro _ | apply senseInput_keeps | apply Keeps.ite | exact Keeps.lit rfl ‹_› | split | refine Keeps.lit rfl ?_

theorem changeBead_keeps {s0 s : State} (h : Keeps s0 s) (n sample : Nat) (counted : Bool) :
    Keeps s0 (changeBead s n sample counted) := by
  unfold changeBead
  extract_lets v s1
  have h1 : Keeps s0 s1 := acqBead_keeps h ..
  clear_value s1
  exact Keeps.ite (fun _ => h1) (fun _ => Keeps.updEvin h1 _ _)

theorem setTrig_keeps {s0 s : State} (h : Keeps s0 s) (r n : Nat) (t : Trig) : Keeps s0 (setTrig s r n t) := by
  unfold setTrig
  try dsimp only
  with_reducible repeat' first
    | assumption | intro _ | refine Keeps.updAcq ?_ _ _ fun _ h => h | apply Keeps.ite | exact Keeps.lit rfl ‹_› | split
    | refine Keeps.lit rfl ?_

theorem trigEvent_keeps {s0 s : State} (h : Keeps s0 s) (r : Nat) (hits sample : Nat) : Keeps s0 (trigEvent s r hits sample) := by
  unfold trigEvent
  refine Keeps.ite (fun _ => h) fun _ => ?_
  extract_lets met e s1 s2 a
  have h1 : Keeps s0 s1 := register_keeps (Keeps.forAll h fun s n k => register_keeps k ..) ..
  clear_value s1
  have h2 : Keeps s0 s2 := Keeps.ite (fun _ => fabricEmit_keeps h1 ..) (fun _ => h1)
  clear_value s2
  split
  · have h3 : ∀ x, Keeps s0 (s2.updAcq r (fun a => { a with regs.st := .post, run := x })) := fun x => Keeps.updAcq h2 _ _ fun a h => h
    refine Keeps.ite (fun _ => ?_) fun _ => Keeps.ite (fun _ => ?_) fun _ => State.tick_keeps ?_
    · exact Keeps.updAcq (h3 _) _ _ fun a h => h
    · exact Keeps.updAcq (h3 _) _ _ fun a h => h
    · exact Keeps.updAcq (h3 _) _ _ fun a h => AcqSt.timed_memWf _ _ _ _ _ _ _ _ _ h
  · split
    · apply State.postAcq_keeps; apply acqCount_keeps
      exact Keeps.updAcq h2 _ _ fun a h => h
    · exact h2

theorem postOver_keeps {s0 s : State} (h : Keeps s0 s) (r sample : Nat) : Keeps s0 (postOver s r sample) := by
  unfold postOver
  try dsimp only
  with_reducible repeat' first
    | assumption | intro _ | apply strandEnd_keeps | apply Keeps.ite | exact Keeps.lit rfl ‹_› | split | refine Keeps.lit rfl ?_

theorem trigSample_keeps {s0 s : State} (h : Keeps s0 s) (r n sample : Nat) (was now : List Nat) : Keeps s0 (trigSample s r n sample was
    now).1 := by
  unfold trigSample
  try dsimp only
  with_reducible repeat' first
    | assumption | intro _ | apply setTrig_keeps | apply Keeps.fst_ite | apply Keeps.ite | exact Keeps.lit rfl ‹_› | split
    | refine Keeps.lit rfl ?_

theorem oneSample_keeps {s0 s : State} (h : Keeps s0 s) (r sample : Nat) : Keeps s0 (oneSample s r sample) := by
  unfold oneSample
  extract_lets s1 now was m s2 s3 s4 sync bead
  have h1 : Keeps s0 s1 := postOver_keeps h _ _
  clear_value s1
  have hm : Keeps s0 m.1 := Keeps.foldl_fst (s := (s1, 0)) h1 fun acc n k => trigSample_keeps k ..
  clear_value m
  have h2 : Keeps s0 s2 := Keeps.forAll hm fun s i k => Keeps.ite (fun _ => k) (fun _ => Keeps.updEvin k _ _)
  clear_value s2
  have h3 : Keeps s0 s3 := trigEvent_keeps (gapWork_keeps h2 _ _) ..
  clear_value s3
  have h4 : Keeps s0 s4 := Keeps.updAcq (Keeps.forAll h3 fun s i k => acqBead_keeps k ..) _ _ fun a h => h
  clear_value s4
  refine Keeps.updAcq (Keeps.forAll h4 fun s i k => ?_) _ _ fun a h => h
  exact Keeps.ite (fun _ => changeBead_keeps k ..) (fun _ => k)

theorem runTo_keeps {s0 s : State} (h : Keeps s0 s) (r sample : Nat) : Keeps s0 (runTo s r sample) := by
  unfold runTo
  exact Keeps.forAll h fun s x k => Keeps.ite (fun _ => oneSample_keeps k _ _) (fun _ => k)

theorem acqMark_keeps {s0 s : State} (h : Keeps s0 s) (r : Nat) (low : Word) : Keeps s0 (acqMark s r low) := by
  unfold acqMark
  try dsimp only
  with_reducible repeat' first
    | assumption | intro _ | refine Keeps.updAcq ?_ _ _ fun _ h => h | apply Keeps.ite | exact Keeps.lit rfl ‹_› | split
    | refine Keeps.lit rfl ?_

theorem acqCycle_keeps {s0 s : State} (h : Keeps s0 s) (r : Nat) : Keeps s0 (acqCycle s r) := by
  unfold acqCycle
  extract_lets e s1 m
  have h1 : Keeps s0 s1 := runTo_keeps h _ _
  clear_value s1
  exact Keeps.ite (fun _ => h1) (fun _ => Keeps.updAcq h1 _ _ fun a h => h)

theorem acqArm_keeps {s0 s : State} (h : Keeps s0 s) (r l p c post : Nat) (per : Bool) (tag : Option Nat) :
    Keeps s0 (acqArm s r l p c post per tag) := by
  unfold acqArm
  exact State.tick_keeps (Keeps.updAcq h _ _ (fun y hy => ⟨hy.1, hy.2.1, tabWf_nil _⟩))

theorem strandOpen_keeps {s0 s : State} (h : Keeps s0 s) (r : Nat) : Keeps s0 (strandOpen s r) := by
  unfold strandOpen
  try dsimp only
  with_reducible repeat' first
    | assumption | intro _ | apply Keeps.updEvin | apply Keeps.forAll | apply Keeps.foldl | apply Keeps.foldl_fst
    | refine Keeps.updAcq ?_ _ _ fun _ h => h | apply Keeps.ite | exact Keeps.lit rfl ‹_› | split | refine Keeps.lit rfl ?_

theorem acqStart_keeps {s0 s : State} (h : Keeps s0 s) (r : Nat) : Keeps s0 (acqStart s r) := by
  unfold acqStart
  try dsimp only
  with_reducible repeat' first
    | assumption | intro _ | apply complete_keeps | apply strandOpen_keeps | refine Keeps.updAcq ?_ _ _ fun _ h => h | apply Keeps.ite
    | exact Keeps.lit rfl ‹_› | split | refine Keeps.lit rfl ?_

theorem acqReopen_keeps {s0 s : State} (h : Keeps s0 s) (r : Nat) : Keeps s0 (acqReopen s r) := by
  unfold acqReopen
  try dsimp only
  with_reducible repeat' first
    | assumption | intro _ | apply strandOpen_keeps | refine Keeps.updAcq ?_ _ _ fun _ h => h | apply Keeps.ite | exact Keeps.lit rfl ‹_›
    | split | refine Keeps.lit rfl ?_

theorem acqStop_keeps {s0 s : State} (h : Keeps s0 s) (r : Nat) : Keeps s0 (acqStop s r) := by
  unfold acqStop
  try dsimp only
  with_reducible repeat' first
    | assumption | intro _ | apply complete_keeps | apply acqDone_keeps | apply strandEnd_keeps | refine Keeps.updAcq ?_ _ _ fun _ h => h
    | apply Keeps.ite | exact Keeps.lit rfl ‹_› | split | refine Keeps.lit rfl ?_

theorem settleAcq_keeps {s0 s : State} (h : Keeps s0 s) (r : Nat) : Keeps s0 (settleAcq s r) := by
  unfold settleAcq
  extract_lets now s1 s2 s3
  have h1 : Keeps s0 s1 := acqStart_keeps h _
  clear_value s1
  have h2 : Keeps s0 s2 := Keeps.ite (fun _ => acqReopen_keeps h1 _) (fun _ => h1)
  clear_value s2
  have h3 : Keeps s0 s3 := acqCycle_keeps h2 _
  clear_value s3
  exact Keeps.forAll h3 fun s n k => Keeps.updEvin k _ _

/-! ### RefOps -/

theorem rootsMoved_keeps {s0 s : State} (h : Keeps s0 s)  : Keeps s0 (rootsMoved s) := by
  unfold rootsMoved
  try dsimp only
  with_reducible repeat' first
    | assumption | intro _ | apply Keeps.updRegion | apply Keeps.forAll | apply State.postRef_keeps | apply Keeps.ite
    | exact Keeps.lit rfl ‹_› | split | refine Keeps.lit rfl ?_

theorem refAnswer_keeps {s0 s : State} (h : Keeps s0 s) (r : Nat) (tag : Option Nat) (status : Nat) (forced : Bool) : Keeps s0 (refAnswer
    s r tag status forced) := by
  unfold refAnswer
  try dsimp only
  with_reducible repeat' first
    | assumption | intro _ | apply complete_keeps | apply Keeps.ite | exact Keeps.lit rfl ‹_› | split | refine Keeps.lit rfl ?_

theorem changeStart_keeps {s0 s : State} (h : Keeps s0 s) (r : Nat) (src : Src) (borrow : Bool) (tag : Option Nat) : Keeps s0 (changeStart
    s r src borrow tag) := by
  unfold changeStart
  try dsimp only
  with_reducible repeat' first
    | assumption | intro _ | apply Keeps.updRegion | apply Keeps.ite | exact Keeps.lit rfl ‹_› | split | refine Keeps.lit rfl ?_

theorem borrowTry_keeps {s0 s : State} (h : Keeps s0 s) (r : Nat) : Keeps s0 (borrowTry s r) := by
  unfold borrowTry
  try dsimp only
  with_reducible repeat' first
    | assumption | intro _ | apply changeStart_keeps | apply Keeps.ite | exact Keeps.lit rfl ‹_› | split | refine Keeps.lit rfl ?_

theorem bootTry_keeps {s0 s : State} (h : Keeps s0 s) (w : Nat × Src) : Keeps s0 (bootTry s w) := by
  unfold bootTry
  try dsimp only
  with_reducible repeat' first
    | assumption | intro _ | apply Keeps.updRegion | apply changeStart_keeps | apply Keeps.ite | exact Keeps.lit rfl ‹_› | split
    | refine Keeps.lit rfl ?_

theorem refMoved_keeps {s0 s : State} (h : Keeps s0 s)  : Keeps s0 (refMoved s) := by
  unfold refMoved
  try dsimp only
  with_reducible repeat' first
    | assumption | intro _ | apply Keeps.forAll | apply rootsMoved_keeps | apply borrowTry_keeps | apply bootTry_keeps | apply Keeps.ite
    | exact Keeps.lit rfl ‹_› | split | refine Keeps.lit rfl ?_

theorem requestSource_keeps {s0 s : State} (h : Keeps s0 s) (r : Nat) (src : Src) (tag : Option Nat) : Keeps s0 (requestSource s r src
    tag) := by
  unfold requestSource
  try dsimp only
  with_reducible repeat' first
    | assumption | intro _ | apply Keeps.updRegion | apply State.postRef_keeps | apply refAnswer_keeps | apply changeStart_keeps
    | apply refMoved_keeps | apply Keeps.ite | exact Keeps.lit rfl ‹_› | split | refine Keeps.lit rfl ?_

theorem holdoverEnter_keeps {s0 s : State} (h : Keeps s0 s) (r : Nat) (lost : Src) : Keeps s0 (holdoverEnter s r lost) := by
  unfold holdoverEnter
  try dsimp only
  with_reducible repeat' first
    | assumption | intro _ | apply Keeps.updRegion | apply Keeps.forAll | apply State.postRef_keeps | apply faultRegion_keeps
    | apply Keeps.ite | exact Keeps.lit rfl ‹_› | split | refine Keeps.lit rfl ?_

theorem sourceLost_keeps {s0 s : State} (h : Keeps s0 s) (src : Src) : Keeps s0 (sourceLost s src) := by
  unfold sourceLost
  try dsimp only
  with_reducible repeat' first
    | assumption | intro _ | apply Keeps.forAll | apply refMoved_keeps | apply holdoverEnter_keeps | apply Keeps.ite
    | exact Keeps.lit rfl ‹_› | split | refine Keeps.lit rfl ?_

theorem epochRegion_keeps {s0 s : State} (h : Keeps s0 s) (r : Nat) (v : BitVec 54) : Keeps s0 (epochRegion s r v) := by
  unfold epochRegion
  try dsimp only
  with_reducible repeat' first
    | assumption | intro _ | apply Keeps.updRegion | apply Keeps.updCell | apply Keeps.forAll | apply State.postRef_keeps
    | apply tiuStop_keeps | apply acqEpoch_keeps | apply Keeps.ite | exact Keeps.lit rfl ‹_› | split | refine Keeps.lit rfl ?_

theorem epochAll_keeps {s0 s : State} (h : Keeps s0 s) (v : BitVec 54) : Keeps s0 (epochAll s v) := by
  unfold epochAll
  try dsimp only
  with_reducible repeat' first
    | assumption | intro _ | apply Keeps.forAll | apply epochRegion_keeps | apply Keeps.ite | exact Keeps.lit rfl ‹_› | split
    | refine Keeps.lit rfl ?_

theorem startTick_keeps {s0 s : State} (h : Keeps s0 s)  : Keeps s0 (startTick s) := by
  unfold startTick
  try dsimp only
  with_reducible repeat' first
    | assumption | intro _ | apply Keeps.updRegion | apply Keeps.forAll | apply rootsMoved_keeps | apply epochAll_keeps | apply Keeps.ite
    | exact Keeps.lit rfl ‹_› | split | refine Keeps.lit rfl ?_

theorem startCheck_keeps {s0 s : State} (h : Keeps s0 s)  : Keeps s0 (startCheck s) := by
  unfold startCheck
  try dsimp only
  with_reducible repeat' first
    | assumption | intro _ | apply startTick_keeps | apply Keeps.ite | exact Keeps.lit rfl ‹_› | split | refine Keeps.lit rfl ?_

theorem changeEnd_keeps {s0 s : State} (h : Keeps s0 s) (r : Nat) (forced present : Bool) : Keeps s0 (changeEnd s r forced present) := by
  unfold changeEnd
  try dsimp only
  with_reducible repeat' first
    | assumption | intro _ | apply Keeps.updRegion | apply State.postRef_keeps | apply faultRegion_keeps | apply refAnswer_keeps
    | apply refMoved_keeps | apply requestSource_keeps | apply holdoverEnter_keeps | apply startCheck_keeps | apply Keeps.ite
    | exact Keeps.lit rfl ‹_› | split | refine Keeps.lit rfl ?_

theorem refForced_keeps {s0 s : State} (h : Keeps s0 s) (r : Nat) : Keeps s0 (refForced s r) := by
  unfold refForced
  try dsimp only
  with_reducible repeat' first
    | assumption | intro _ | apply Keeps.forAll | apply State.postRef_keeps | apply tiuStop_keeps | apply forcedGap_keeps
    | apply Keeps.ite | exact Keeps.lit rfl ‹_› | split | refine Keeps.lit rfl ?_

theorem emitBus_keeps {s0 s : State} (h : Keeps s0 s) (r m e : Nat) : Keeps s0 (emitBus s r m e) := by
  unfold emitBus
  try dsimp only
  with_reducible repeat' first
    | assumption | intro _ | apply busEmit_keeps | apply Keeps.ite | exact Keeps.lit rfl ‹_› | split | refine Keeps.lit rfl ?_

theorem xoStart_keeps {s0 s : State} (h : Keeps s0 s)  : Keeps s0 (xoStart s) := by
  unfold xoStart
  try dsimp only
  with_reducible repeat' first
    | assumption | intro _ | apply faultChip_keeps | apply Keeps.ite | exact Keeps.lit rfl ‹_› | split | refine Keeps.lit rfl ?_

end Sys2Proof.Machine
end

