-- ==== Sys2Proof/Laws/KeepsUnits.lean ====
section
/-! SUPPORT. `Keeps` for the operations of cells, engines, event inputs, TIUs, references, calibration and self-test. -/
set_option maxRecDepth 4000
set_option linter.unusedTactic false
set_option linter.unusedVariables false
set_option linter.unreachableTactic false
namespace Sys2Proof.Machine
set_option Elab.async false
open Sys2Proof

/-! ### Cell -/

theorem markOwn_keeps {s0 s : State} (h : Keeps s0 s) (p off : Nat) : Keeps s0 (markOwn s p off) := by
  unfold markOwn
  try dsimp only
  with_reducible repeat' first
    | assumption | intro _ | apply Keeps.updCell | apply Keeps.ite | exact Keeps.lit rfl ‹_› | split | refine Keeps.lit rfl ?_

theorem setOutBits_keeps {s0 s : State} (h : Keeps s0 s) (p : Nat) (outEn mute : Bool) (hold releases : Bool) : Keeps s0 (setOutBits s p
    outEn mute hold releases) := by
  unfold setOutBits
  try dsimp only
  with_reducible repeat' first
    | assumption | intro _ | apply Keeps.updCell | apply leaveHold_keeps | apply Keeps.ite | exact Keeps.lit rfl ‹_› | split
    | refine Keeps.lit rfl ?_

theorem slewDone_keeps {s0 s : State} (h : Keeps s0 s) (p : Nat) : Keeps s0 (slewDone s p) := by
  unfold slewDone
  try dsimp only
  with_reducible repeat' first
    | assumption | intro _ | apply Keeps.updCell | apply complete_keeps | apply Keeps.ite | exact Keeps.lit rfl ‹_› | split
    | refine Keeps.lit rfl ?_

theorem phaseCheck_keeps {s0 s : State} (h : Keeps s0 s) (p : Nat) : Keeps s0 (phaseCheck s p) := by
  unfold phaseCheck
  try dsimp only
  with_reducible repeat' first
    | assumption | intro _ | apply slewDone_keeps | apply Keeps.ite | exact Keeps.lit rfl ‹_› | split | refine Keeps.lit rfl ?_

theorem writeCellCtl_keeps {s0 s : State} (h : Keeps s0 s) (p : Nat) (v : Word) : Keeps s0 (writeCellCtl s p v) := by
  unfold writeCellCtl
  try dsimp only
  with_reducible repeat' first
    | assumption | intro _ | apply Keeps.updCell | apply enableCell_keeps | apply disableCell_keeps | apply endLockTags_keeps
    | apply relockCheck_keeps | apply setOutBits_keeps | apply phaseCheck_keeps | apply Keeps.ite | exact Keeps.lit rfl ‹_› | split
    | refine Keeps.lit rfl ?_

theorem setCfgErr_keeps {s0 s : State} (h : Keeps s0 s) (p : Nat) (e : Bool) : Keeps s0 (setCfgErr s p e) := by
  unfold setCfgErr
  try dsimp only
  with_reducible repeat' first
    | assumption | intro _ | apply Keeps.updCell | apply Keeps.ite | exact Keeps.lit rfl ‹_› | split | refine Keeps.lit rfl ?_

theorem writeFcw_keeps {s0 s : State} (h : Keeps s0 s) (p : Nat) (v : Word) : Keeps s0 (writeFcw s p v) := by
  unfold writeFcw
  try dsimp only
  with_reducible repeat' first
    | assumption | intro _ | apply Keeps.updCell | apply freqHop_keeps | apply endHopTags_keeps | apply setCfgErr_keeps | apply Keeps.ite
    | exact Keeps.lit rfl ‹_› | split | refine Keeps.lit rfl ?_

theorem writeLowDiv_keeps {s0 s : State} (h : Keeps s0 s) (p : Nat) (v : Word) : Keeps s0 (writeLowDiv s p v) := by
  unfold writeLowDiv
  try dsimp only
  with_reducible repeat' first
    | assumption | intro _ | apply Keeps.updCell | apply setCfgErr_keeps | apply Keeps.ite | exact Keeps.lit rfl ‹_› | split
    | refine Keeps.lit rfl ?_

theorem writePhaseHi_keeps {s0 s : State} (h : Keeps s0 s) (p : Nat) (v : Word) : Keeps s0 (writePhaseHi s p v) := by
  unfold writePhaseHi
  try dsimp only
  with_reducible repeat' first
    | assumption | intro _ | apply Keeps.updCell | apply phaseCheck_keeps | apply Keeps.ite | exact Keeps.lit rfl ‹_› | split
    | refine Keeps.lit rfl ?_

theorem writeOutCfg_keeps {s0 s : State} (h : Keeps s0 s) (p : Nat) (v : Word) : Keeps s0 (writeOutCfg s p v) := by
  unfold writeOutCfg
  try dsimp only
  with_reducible repeat' first
    | assumption | intro _ | apply Keeps.updCell | apply setCfgErr_keeps | apply Keeps.ite | exact Keeps.lit rfl ‹_› | split
    | refine Keeps.lit rfl ?_

theorem writeLoopBw_keeps {s0 s : State} (h : Keeps s0 s) (p : Nat) (v : Word) : Keeps s0 (writeLoopBw s p v) := by
  unfold writeLoopBw
  try dsimp only
  with_reducible repeat' first
    | assumption | intro _ | apply Keeps.updCell | apply Keeps.ite | exact Keeps.lit rfl ‹_› | split | refine Keeps.lit rfl ?_

theorem writeLockThr_keeps {s0 s : State} (h : Keeps s0 s) (p : Nat) (v : Word) : Keeps s0 (writeLockThr s p v) := by
  unfold writeLockThr
  try dsimp only
  with_reducible repeat' first
    | assumption | intro _ | apply Keeps.updCell | apply setCfgErr_keeps | apply Keeps.ite | exact Keeps.lit rfl ‹_› | split
    | refine Keeps.lit rfl ?_

theorem writeLockCnt_keeps {s0 s : State} (h : Keeps s0 s) (p : Nat) (v : Word) : Keeps s0 (writeLockCnt s p v) := by
  unfold writeLockCnt
  try dsimp only
  with_reducible repeat' first
    | assumption | intro _ | apply Keeps.updCell | apply setCfgErr_keeps | apply Keeps.ite | exact Keeps.lit rfl ‹_› | split
    | refine Keeps.lit rfl ?_

theorem writeLockAction_keeps {s0 s : State} (h : Keeps s0 s) (p : Nat) (v : Word) : Keeps s0 (writeLockAction s p v) := by
  unfold writeLockAction
  try dsimp only
  with_reducible repeat' first
    | assumption | intro _ | apply Keeps.updCell | apply setCfgErr_keeps | apply Keeps.ite | exact Keeps.lit rfl ‹_› | split
    | refine Keeps.lit rfl ?_

theorem windowWrite_keeps {s0 s : State} (h : Keeps s0 s) (p off : Nat) (f : State → Nat → State) (hf : ∀ s y1, Keeps s0 s → Keeps s0 (f s
    y1)) : Keeps s0 (windowWrite s p off f).1 := by
  unfold windowWrite
  try dsimp only
  with_reducible repeat' first
    | assumption | intro _ | apply Keeps.updCell | apply markOwn_keeps | apply hf | apply Keeps.fst_ite | apply Keeps.ite
    | exact Keeps.lit rfl ‹_› | split | refine Keeps.lit rfl ?_

theorem directWrite_keeps {s0 s : State} (h : Keeps s0 s) (p off : Nat) (f : State → Nat → State) (hf : ∀ s y1, Keeps s0 s → Keeps s0 (f s
    y1)) : Keeps s0 (directWrite s p off f) := by
  unfold directWrite
  try dsimp only
  with_reducible repeat' first
    | assumption | intro _ | apply State.parityFresh_keeps | apply ownerWrite_keeps | apply windowWrite_keeps | apply hf | apply Keeps.ite
    | exact Keeps.lit rfl ‹_› | split | refine Keeps.lit rfl ?_

theorem clearBad_keeps {s0 s : State} (h : Keeps s0 s) (mem lo : Nat) (hi : Nat) : Keeps s0 (clearBad s mem lo hi) := by
  unfold clearBad
  try dsimp only
  with_reducible repeat' first
    | assumption | intro _ | apply Keeps.ite | exact Keeps.lit rfl ‹_› | split | refine Keeps.lit rfl ?_

theorem bandChosen_keeps {s0 s : State} (h : Keeps s0 s) (p : Nat) : Keeps s0 (bandChosen s p) := by
  unfold bandChosen
  try dsimp only
  with_reducible repeat' first
    | assumption | intro _ | apply Keeps.updCell | apply Keeps.ite | exact Keeps.lit rfl ‹_› | split | refine Keeps.lit rfl ?_

theorem gearEnd_keeps {s0 s : State} (h : Keeps s0 s) (p : Nat) : Keeps s0 (gearEnd s p) := by
  unfold gearEnd
  try dsimp only
  with_reducible repeat' first
    | assumption | intro _ | apply Keeps.updCell | apply Keeps.ite | exact Keeps.lit rfl ‹_› | split | refine Keeps.lit rfl ?_

theorem slewPeriod_keeps {s0 s : State} (h : Keeps s0 s) (p : Nat) : Keeps s0 (slewPeriod s p) := by
  unfold slewPeriod
  try dsimp only
  with_reducible repeat' first
    | assumption | intro _ | apply Keeps.updCell | apply slewDone_keeps | apply Keeps.ite | exact Keeps.lit rfl ‹_› | split
    | refine Keeps.lit rfl ?_

theorem dividerChange_keeps {s0 s : State} (h : Keeps s0 s) (p : Nat) : Keeps s0 (dividerChange s p) := by
  unfold dividerChange
  try dsimp only
  with_reducible repeat' first
    | assumption | intro _ | apply Keeps.updCell | apply Keeps.ite | exact Keeps.lit rfl ‹_› | split | refine Keeps.lit rfl ?_

theorem hopRetime_keeps {s0 s : State} (h : Keeps s0 s) (p : Nat) : Keeps s0 (hopRetime s p) := by
  unfold hopRetime
  try dsimp only
  with_reducible repeat' first
    | assumption | intro _ | apply Keeps.updCell | apply Keeps.ite | exact Keeps.lit rfl ‹_› | split | refine Keeps.lit rfl ?_

theorem retimeRise_keeps {s0 s : State} (h : Keeps s0 s) (p : Nat) : Keeps s0 (retimeRise s p) := by
  unfold retimeRise
  try dsimp only
  with_reducible repeat' first
    | assumption | intro _ | apply Keeps.updCell | apply Keeps.ite | exact Keeps.lit rfl ‹_› | split | refine Keeps.lit rfl ?_

theorem muteAtFall_keeps {s0 s : State} (h : Keeps s0 s) (p : Nat) (reported : Bool) : Keeps s0 (muteAtFall s p reported) := by
  unfold muteAtFall
  try dsimp only
  with_reducible repeat' first
    | assumption | intro _ | apply Keeps.updCell | apply Keeps.ite | exact Keeps.lit rfl ‹_› | split | refine Keeps.lit rfl ?_

theorem toutActive_keeps {s0 s : State} (h : Keeps s0 s) (p : Nat) : Keeps s0 (toutActive s p) := by
  unfold toutActive
  try dsimp only
  with_reducible repeat' first
    | assumption | intro _ | apply Keeps.updCell | apply Keeps.ite | exact Keeps.lit rfl ‹_› | split | refine Keeps.lit rfl ?_

theorem toutDisable_keeps {s0 s : State} (h : Keeps s0 s) (p : Nat) : Keeps s0 (toutDisable s p) := by
  unfold toutDisable
  try dsimp only
  with_reducible repeat' first
    | assumption | intro _ | apply Keeps.updCell | apply Keeps.ite | exact Keeps.lit rfl ‹_› | split | refine Keeps.lit rfl ?_

theorem lockNow_keeps {s0 s : State} (h : Keeps s0 s) (p : Nat) : Keeps s0 (lockNow s p) := by
  unfold lockNow
  try dsimp only
  with_reducible repeat' first
    | assumption | intro _ | apply Keeps.updCell | apply endLockTags_keeps | apply relockCheck_keeps | apply Keeps.ite
    | exact Keeps.lit rfl ‹_› | split | refine Keeps.lit rfl ?_

theorem hintDropped_keeps {s0 s : State} (h : Keeps s0 s) (p : Nat) : Keeps s0 (hintDropped s p) := by
  unfold hintDropped
  try dsimp only
  with_reducible repeat' first
    | assumption | intro _ | apply Keeps.updCell | apply State.cellSat_keeps | apply Keeps.ite | exact Keeps.lit rfl ‹_› | split
    | refine Keeps.lit rfl ?_

theorem railCheck_keeps {s0 s : State} (h : Keeps s0 s) (p : Nat) (mean : BitVec 18) : Keeps s0 (railCheck s p mean) := by
  unfold railCheck
  try dsimp only
  with_reducible repeat' first
    | assumption | intro _ | apply Keeps.updCell | apply loseLock_keeps | apply hintDropped_keeps | apply Keeps.ite
    | exact Keeps.lit rfl ‹_› | split | refine Keeps.lit rfl ?_

theorem relockFailed_keeps {s0 s : State} (h : Keeps s0 s) (p : Nat) : Keeps s0 (relockFailed s p) := by
  unfold relockFailed
  try dsimp only
  with_reducible repeat' first
    | assumption | intro _ | apply Keeps.updCell | apply leaveHold_keeps | apply endHopTags_keeps | apply loseLock_keeps
    | apply relockCheck_keeps | apply Keeps.ite | exact Keeps.lit rfl ‹_› | split | refine Keeps.lit rfl ?_

theorem acqTimeout_keeps {s0 s : State} (h : Keeps s0 s) (p : Nat) : Keeps s0 (acqTimeout s p) := by
  unfold acqTimeout
  try dsimp only
  with_reducible repeat' first
    | assumption | intro _ | apply Keeps.updCell | apply leaveHold_keeps | apply endHopTags_keeps | apply loseLock_keeps
    | apply relockFailed_keeps | apply Keeps.ite | exact Keeps.lit rfl ‹_› | split | refine Keeps.lit rfl ?_

theorem relockTimeout_keeps {s0 s : State} (h : Keeps s0 s) (p : Nat) : Keeps s0 (relockTimeout s p) := by
  unfold relockTimeout
  try dsimp only
  with_reducible repeat' first
    | assumption | intro _ | apply relockFailed_keeps | apply Keeps.ite | exact Keeps.lit rfl ‹_› | split | refine Keeps.lit rfl ?_

theorem hintStale_keeps {s0 s : State} (h : Keeps s0 s) (p : Nat) : Keeps s0 (hintStale s p) := by
  unfold hintStale
  try dsimp only
  with_reducible repeat' first
    | assumption | intro _ | apply hintDropped_keeps | apply Keeps.ite | exact Keeps.lit rfl ‹_› | split | refine Keeps.lit rfl ?_

theorem loopEdge_keeps {s0 s : State} (h : Keeps s0 s) (p : Nat) : Keeps s0 (loopEdge s p) := by
  unfold loopEdge
  try dsimp only
  with_reducible repeat' first
    | assumption | intro _ | apply Keeps.updCell | apply State.tick_keeps | apply loseLock_keeps | apply lockNow_keeps
    | apply railCheck_keeps | apply Keeps.ite | exact Keeps.lit rfl ‹_› | split | refine Keeps.lit rfl ?_

theorem meetUncorr_keeps {s0 s : State} (h : Keeps s0 s) (mem addr r : Nat) : Keeps s0 (meetUncorr s mem addr r) := by
  unfold meetUncorr
  try dsimp only
  with_reducible repeat' first
    | assumption | intro _ | apply Keeps.updRegion | apply State.postRegion_keeps | apply faultRegion_keeps | apply Keeps.ite
    | exact Keeps.lit rfl ‹_› | split | refine Keeps.lit rfl ?_

theorem corrected_keeps {s0 s : State} (h : Keeps s0 s) (r mem addr : Nat) : Keeps s0 (corrected s r mem addr) := by
  unfold corrected
  try dsimp only
  with_reducible repeat' first
    | assumption | intro _ | apply Keeps.updRegion | apply State.postRegion_keeps | apply faultRegion_keeps | apply Keeps.ite
    | exact Keeps.lit rfl ‹_› | split | refine Keeps.lit rfl ?_

theorem softProfile_keeps {s0 s : State} (h : Keeps s0 s) (n idx : Nat) (soft : Bool) : Keeps s0 (softProfile s n idx soft) := by
  unfold softProfile
  try dsimp only
  with_reducible repeat' first
    | assumption | intro _ | apply corrected_keeps | apply Keeps.ite | exact Keeps.lit rfl ‹_› | split | refine Keeps.lit rfl ?_

theorem meetProfile_keeps {s0 s : State} (h : Keeps s0 s) (n idx : Nat) : Keeps s0 (meetProfile s n idx) := by
  unfold meetProfile
  try dsimp only
  with_reducible repeat' first
    | assumption | intro _ | apply meetUncorr_keeps | apply Keeps.ite | exact Keeps.lit rfl ‹_› | split | refine Keeps.lit rfl ?_

theorem refuseHop_keeps {s0 s : State} (h : Keeps s0 s) (p n idx : Nat) (res : FetchRes) : Keeps s0 (refuseHop s p n idx res) := by
  unfold refuseHop
  try dsimp only
  with_reducible repeat' first
    | assumption | intro _ | apply setCfgErr_keeps | apply meetProfile_keeps | apply Keeps.ite | exact Keeps.lit rfl ‹_› | split
    | refine Keeps.lit rfl ?_

theorem engFault_keeps {s0 s : State} (h : Keeps s0 s) (p : Nat) (bit : Bool) (status : Nat) : Keeps s0 (engFault s p bit status) := by
  unfold engFault
  try dsimp only
  with_reducible repeat' first
    | assumption | intro _ | apply Keeps.updCell | apply engRecord_keeps | apply Keeps.ite | exact Keeps.lit rfl ‹_› | split
    | refine Keeps.lit rfl ?_

theorem engRefused_keeps {s0 s : State} (h : Keeps s0 s) (p : Nat) (res : FetchRes) : Keeps s0 (engRefused s p res) := by
  unfold engRefused
  try dsimp only
  with_reducible repeat' first
    | assumption | intro _ | apply engFault_keeps | apply Keeps.ite | exact Keeps.lit rfl ‹_› | split | refine Keeps.lit rfl ?_

theorem prepare_keeps {s0 s : State} (h : Keeps s0 s) (p : Nat) : Keeps s0 (prepare s p) := by
  unfold prepare
  try dsimp only
  with_reducible repeat' first
    | assumption | intro _ | apply Keeps.updCell | apply Keeps.ite | exact Keeps.lit rfl ‹_› | split | refine Keeps.lit rfl ?_

theorem hostFetched_keeps {s0 s : State} (h : Keeps s0 s) (p : Nat) (x2 : HopReq) : Keeps s0 (hostFetched s p x2) := by
  unfold hostFetched
  try dsimp only
  with_reducible repeat' first
    | assumption | intro _ | apply Keeps.updCell | apply complete_keeps | apply refuseHop_keeps | apply Keeps.ite
    | exact Keeps.lit rfl ‹_› | split | refine Keeps.lit rfl ?_

theorem engFetched_keeps {s0 s : State} (h : Keeps s0 s) (p idx : Nat) : Keeps s0 (engFetched s p idx) := by
  unfold engFetched
  try dsimp only
  with_reducible repeat' first
    | assumption | intro _ | apply Keeps.updCell | apply refuseHop_keeps | apply Keeps.ite | exact Keeps.lit rfl ‹_› | split
    | refine Keeps.lit rfl ?_

theorem hopNow_keeps {s0 s : State} (h : Keeps s0 s) (p : Nat) (x2 : HopReq) : Keeps s0 (hopNow s p x2) := by
  unfold hopNow
  try dsimp only
  with_reducible repeat' first
    | assumption | intro _ | apply Keeps.updCell | apply Keeps.forAll | apply complete_keeps | apply hopInCell_keeps
    | apply endHopTags_keeps | apply phaseCheck_keeps | apply act_keeps | apply Keeps.ite | exact Keeps.lit rfl ‹_› | split
    | refine Keeps.lit rfl ?_

theorem hopLocked_keeps {s0 s : State} (h : Keeps s0 s) (p : Nat) : Keeps s0 (hopLocked s p) := by
  unfold hopLocked
  try dsimp only
  with_reducible repeat' first
    | assumption | intro _ | apply Keeps.updCell | apply Keeps.ite | exact Keeps.lit rfl ‹_› | split | refine Keeps.lit rfl ?_

theorem hopEdge_keeps {s0 s : State} (h : Keeps s0 s) (p : Nat) : Keeps s0 (hopEdge s p) := by
  unfold hopEdge
  try dsimp only
  with_reducible repeat' first
    | assumption | intro _ | apply Keeps.updCell | apply hopNow_keeps | apply hopLocked_keeps | apply Keeps.ite | exact Keeps.lit rfl ‹_›
    | split | refine Keeps.lit rfl ?_

theorem learnDone_keeps {s0 s : State} (h : Keeps s0 s) (p : Nat) : Keeps s0 (learnDone s p) := by
  unfold learnDone
  dsimp only
  split
  · exact h
  · rename_i idx w _
    have h1 : Keeps s0 (s.updCell p (fun c => { c with hop.learn := none, hop.learnRun := false })) := Keeps.updCell h _ _
    exact Keeps.ite (fun _ => h) fun _ => Keeps.ite (fun _ => h1) fun _ =>
      Keeps.with_profiles (clearBad_keeps h1 _ _ _) _ fun k => tabWf_tabPut _ _ k

/-! ### Mailbox -/

theorem discardWords_keeps {s0 s : State} (h : Keeps s0 s) (n : Nat) : Keeps s0 (discardWords s n) := by
  unfold discardWords
  try dsimp only
  with_reducible repeat' first
    | assumption | intro _ | apply State.postHost_keeps | apply Keeps.ite | exact Keeps.lit rfl ‹_› | split | refine Keeps.lit rfl ?_

theorem pushWord_keeps {s0 s : State} (h : Keeps s0 s) (w : Word) : Keeps s0 (pushWord s w) := by
  unfold pushWord
  try dsimp only
  with_reducible repeat' first
    | assumption | intro _ | apply State.postMbx_keeps | apply discardWords_keeps | apply Keeps.ite | exact Keeps.lit rfl ‹_› | split
    | refine Keeps.lit rfl ?_

theorem ringDoorbell_keeps {s0 s : State} (h : Keeps s0 s) (w : Word) : Keeps s0 (ringDoorbell s w) := by
  unfold ringDoorbell
  try dsimp only
  with_reducible repeat' first
    | assumption | intro _ | apply State.postMbx_keeps | apply discardWords_keeps | apply Keeps.ite | exact Keeps.lit rfl ‹_› | split
    | refine Keeps.lit rfl ?_

theorem parseOne_keeps {s0 s : State} (h : Keeps s0 s) (ws : List Word) (tun : Bool) {r : List Word} {t : State}
    (e : parseOne s ws tun = .go r t) : Keeps s0 t := by
  unfold parseOne at e
  split at e
  · cases e
  · rename_i hc
    have hc : 0 < cqFree s := Nat.pos_of_ne_zero hc
    extract_lets c bad mb s1 at e
    have h1 : Keeps s0 s1 := by
      unfold s1
      split
      · exact State.postMbx_keeps (recordOut_keeps h _ _ (.inr hc)) _
      · split
        · exact recordOut_keeps h _ _ (.inr hc)
        · refine Keeps.lit' s h rfl rfl rfl id id id id id ?_ id id (le_refl _)
          intro _; unfold cqFree at hc; unfold mb; simp only [List.length_append, List.length_cons, List.length_nil]; omega
    clear_value s1
    split at e
    · injection e with _ e; subst e; exact State.postMbx_keeps (discardWords_keeps h1 _) _
    · injection e with _ e; subst e; exact h1

theorem parseBatch_keeps {s0 : State} (tun : Bool) : ∀ (n : Nat) (ws : List Word) (s : State), Keeps s0 s → Keeps s0 (parseBatch tun n ws s).2 := by
  intro n
  induction n with
  | zero => intro ws s h; unfold parseBatch; exact h
  | succ n ih =>
    intro ws s h
    cases ws with
    | nil => exact h
    | cons w ws =>
      unfold parseBatch
      split
      · rename_i heq; exact ih _ _ (parseOne_keeps h _ _ heq)
      · exact h

theorem parseAll_keeps {s0 s : State} (h : Keeps s0 s) (l : List (List Word)) : Keeps s0 (parseAll l s) := by
  induction l generalizing s with
  | nil => exact Keeps.lit rfl h
  | cons b bs ih =>
    have hb := parseBatch_keeps (s0 := s0) false b.length b s h
    unfold parseAll; split
    · rename_i heq; rw [heq] at hb; exact ih hb
    · rename_i heq; rw [heq] at hb; exact Keeps.lit rfl hb

theorem grantWait_keeps {s0 s : State} (h : Keeps s0 s) (c : Cmd) : Keeps s0 (grantWait s c) := by
  unfold grantWait
  try dsimp only
  with_reducible repeat' first
    | assumption | intro _ | apply setCmd_keeps | apply complete_keeps | apply Keeps.ite | exact Keeps.lit rfl ‹_› | split
    | refine Keeps.lit rfl ?_

theorem abortCmds_keeps {s0 s : State} (h : Keeps s0 s) (f : Cmd → Bool) : Keeps s0 (abortCmds s f) := by
  unfold abortCmds
  try dsimp only
  with_reducible repeat' first
    | assumption | intro _ | apply Keeps.forAll | apply complete_keeps | apply unqueue_keeps | apply Keeps.ite | exact Keeps.lit rfl ‹_›
    | split | refine Keeps.lit rfl ?_

theorem popStep_keeps {s0 s : State} (h : Keeps s0 s) : Keeps s0 (popStep s) := by
  unfold popStep
  split
  · exact h
  · rename_i r rs hq
    split
    · refine Keeps.lit' s h rfl rfl rfl id id id id id ?_ id id (le_refl _)
      intro hw; rw [hq] at hw; simp only [List.length_cons] at hw; dsimp only; omega
    · exact Keeps.lit rfl h

/-! ### Acq -/

theorem writeEvinCtl_keeps {s0 s : State} (h : Keeps s0 s) (i : Nat) (v : Word) : Keeps s0 (writeEvinCtl s i v) := by
  unfold writeEvinCtl
  try dsimp only
  with_reducible repeat' first
    | assumption | intro _ | apply Keeps.updEvin | apply Keeps.ite | exact Keeps.lit rfl ‹_› | split | refine Keeps.lit rfl ?_

theorem writeThr_keeps {s0 s : State} (h : Keeps s0 s) (i : Nat) (hi : Bool) (v : Word) : Keeps s0 (writeThr s i hi v) := by
  unfold writeThr
  try dsimp only
  with_reducible repeat' first
    | assumption | intro _ | apply Keeps.updEvin | apply Keeps.ite | exact Keeps.lit rfl ‹_› | split | refine Keeps.lit rfl ?_

theorem writeEvinTrim_keeps {s0 s : State} (h : Keeps s0 s) (i : Nat) (f : EvinSt → EvinSt) : Keeps s0 (writeEvinTrim s i f) := by
  unfold writeEvinTrim
  try dsimp only
  with_reducible repeat' first
    | assumption | intro _ | apply Keeps.updEvin | apply Keeps.ite | exact Keeps.lit rfl ‹_› | split | refine Keeps.lit rfl ?_

theorem writeEvin_keeps {s0 s : State} (h : Keeps s0 s) (i off : Nat) (v : Word) : Keeps s0 (writeEvin s i off v) := by
  unfold writeEvin
  try dsimp only
  with_reducible repeat' first
    | assumption | intro _ | apply writeEvinCtl_keeps | apply writeThr_keeps | apply writeEvinTrim_keeps | apply Keeps.ite
    | exact Keeps.lit rfl ‹_› | split | refine Keeps.lit rfl ?_

theorem evinWrite_keeps {s0 s : State} (h : Keeps s0 s) (i off : Nat) (v : Word) : Keeps s0 (evinWrite s i off v) := by
  unfold evinWrite
  try dsimp only
  with_reducible repeat' first
    | assumption | intro _ | apply State.parityFresh_keeps | apply ownerWrite_keeps | apply writeEvin_keeps | apply Keeps.ite
    | exact Keeps.lit rfl ‹_› | split | refine Keeps.lit rfl ?_

theorem writeTrig_keeps {s0 s : State} (h : Keeps s0 s) (r n k : Nat) (v : Word) : Keeps s0 (writeTrig s r n k v) := by
  unfold writeTrig
  try dsimp only
  with_reducible repeat' first
    | assumption | intro _ | apply setTrig_keeps | refine Keeps.updAcq ?_ _ _ fun _ h => h | apply Keeps.ite | exact Keeps.lit rfl ‹_›
    | split | refine Keeps.lit rfl ?_

theorem writeAcqCtl_keeps {s0 s : State} (h : Keeps s0 s) (r : Nat) (v : Word) : Keeps s0 (writeAcqCtl s r v) := by
  unfold writeAcqCtl
  try dsimp only
  with_reducible repeat' first
    | assumption | intro _ | apply acqArm_keeps | apply acqStop_keeps | refine Keeps.updAcq ?_ _ _ fun _ h => h | apply Keeps.ite
    | exact Keeps.lit rfl ‹_› | split | refine Keeps.lit rfl ?_

theorem writeAcq_keeps {s0 s : State} (h : Keeps s0 s) (r off : Nat) (v : Word) : Keeps s0 (writeAcq s r off v) := by
  unfold writeAcq
  try dsimp only
  with_reducible repeat' first
    | assumption | intro _ | apply writeTrig_keeps | apply writeAcqCtl_keeps | refine Keeps.updAcq ?_ _ _ fun _ h => h | apply Keeps.ite
    | exact Keeps.lit rfl ‹_› | split | refine Keeps.lit rfl ?_

theorem acqWrite_keeps {s0 s : State} (h : Keeps s0 s) (r off : Nat) (v : Word) : Keeps s0 (acqWrite s r off v) := by
  unfold acqWrite
  try dsimp only
  with_reducible repeat' first
    | assumption | intro _ | apply State.parityFresh_keeps | apply ownerWrite_keeps | apply writeAcq_keeps | apply Keeps.ite
    | exact Keeps.lit rfl ‹_› | split | refine Keeps.lit rfl ?_

theorem meetBeads_keeps {s0 s : State} (h : Keeps s0 s) (r base written p n : Nat) : Keeps s0 (meetBeads s r base written p n) := by
  unfold meetBeads
  try dsimp only
  with_reducible repeat' first
    | assumption | intro _ | apply Keeps.forAll | apply State.postAcq_keeps | apply meetUncorr_keeps | apply Keeps.ite
    | exact Keeps.lit rfl ‹_› | split | refine Keeps.lit rfl ?_

theorem meetHeader_keeps {s0 s : State} (h : Keeps s0 s) (r strand : Nat) : Keeps s0 (meetHeader s r strand) := by
  unfold meetHeader
  try dsimp only
  with_reducible repeat' first
    | assumption | intro _ | apply State.postAcq_keeps | apply meetUncorr_keeps | apply Keeps.ite | exact Keeps.lit rfl ‹_› | split
    | refine Keeps.lit rfl ?_

theorem State.postPort_keeps {s0 s : State} (h : Keeps s0 s) (i k : Nat) : Keeps s0 (State.postPort s i k) := by
  unfold State.postPort
  try dsimp only
  with_reducible repeat' first
    | assumption | intro _ | apply Keeps.updPort | apply Keeps.ite | exact Keeps.lit rfl ‹_› | split | refine Keeps.lit rfl ?_

/-! ### Block -/

theorem grantCal_keeps {s0 s : State} (h : Keeps s0 s) (B tag : Nat) : Keeps s0 (grantCal s B tag) := by
  unfold grantCal
  try dsimp only
  with_reducible repeat' first
    | assumption | intro _ | apply Keeps.updBlock | apply Keeps.updEvin | apply calUnitEnd_keeps | apply seat_keeps | apply Keeps.ite
    | exact Keeps.lit rfl ‹_› | split | refine Keeps.lit rfl ?_

theorem setRun_keeps {s0 s : State} (h : Keeps s0 s) (tag : Nat) (f : BistRun → BistRun) : Keeps s0 (setRun s tag f) := by
  unfold setRun
  try dsimp only
  with_reducible repeat' first
    | assumption | intro _ | apply Keeps.ite | exact Keeps.lit rfl ‹_› | split | refine Keeps.lit rfl ?_

theorem grantOnline_keeps {s0 s : State} (h : Keeps s0 s) (B tag : Nat) : Keeps s0 (grantOnline s B tag) := by
  unfold grantOnline
  try dsimp only
  with_reducible repeat' first
    | assumption | intro _ | apply Keeps.updBlock | apply bistEnd_keeps | apply seat_keeps | apply setRun_keeps | apply Keeps.ite
    | exact Keeps.lit rfl ‹_› | split | refine Keeps.lit rfl ?_

theorem grantOffline_keeps {s0 s : State} (h : Keeps s0 s) (B : Nat) : Keeps s0 (grantOffline s B) := by
  unfold grantOffline
  try dsimp only
  with_reducible repeat' first
    | assumption | intro _ | apply Keeps.updBlock | apply Keeps.ite | exact Keeps.lit rfl ‹_› | split | refine Keeps.lit rfl ?_

theorem changeover_keeps {s0 s : State} (h : Keeps s0 s) (b : Nat) : Keeps s0 (changeover s b) := by
  unfold changeover
  try dsimp only
  with_reducible repeat' first
    | assumption | intro _ | apply Keeps.updBlock | apply Keeps.updCell | apply faultBlock_keeps | apply hopBoundary_keeps
    | apply moveEngine_keeps | apply Keeps.ite | exact Keeps.lit rfl ‹_› | split | refine Keeps.lit rfl ?_

theorem markTius_keeps {s0 s : State} (h : Keeps s0 s) (B c : Nat) : Keeps s0 (markTius s B c) := by
  unfold markTius
  try dsimp only
  with_reducible repeat' first
    | assumption | intro _ | apply Keeps.updTiu | apply Keeps.forAll | apply seat_keeps | apply Keeps.ite | exact Keeps.lit rfl ‹_›
    | split | refine Keeps.lit rfl ?_

theorem selectorSwitch_keeps {s0 s : State} (h : Keeps s0 s) (b : Nat) : Keeps s0 (selectorSwitch s b) := by
  unfold selectorSwitch
  try dsimp only
  with_reducible repeat' first
    | assumption | intro _ | apply Keeps.updBlock | apply Keeps.updCell | apply maintDone_keeps | apply endLockTags_keeps
    | apply seat_keeps | apply releaseSpare_keeps | apply markTius_keeps | apply Keeps.ite | exact Keeps.lit rfl ‹_› | split
    | refine Keeps.lit rfl ?_

theorem switchWait_keeps {s0 s : State} (h : Keeps s0 s) (b : Nat) : Keeps s0 (switchWait s b) := by
  unfold switchWait
  try dsimp only
  with_reducible repeat' first
    | assumption | intro _ | apply Keeps.updBlock | apply Keeps.ite | exact Keeps.lit rfl ‹_› | split | refine Keeps.lit rfl ?_

theorem seatExpired_keeps {s0 s : State} (h : Keeps s0 s) (b : Nat) : Keeps s0 (seatExpired s b) := by
  unfold seatExpired
  try dsimp only
  with_reducible repeat' first
    | assumption | intro _ | apply seatTimeout_keeps | apply Keeps.ite | exact Keeps.lit rfl ‹_› | split | refine Keeps.lit rfl ?_

/-! ### Cal -/

theorem pendPut_keeps {s0 s : State} (h : Keeps s0 s) (code unit point trace : Nat) (vals : List Int) : Keeps s0 (pendPut s code unit
    point trace vals) := by
  unfold pendPut
  try dsimp only
  with_reducible repeat' first
    | assumption | intro _ | apply Keeps.ite | exact Keeps.lit rfl ‹_› | split | refine Keeps.lit rfl ?_

theorem writeHints_keeps {s0 s : State} (h : Keeps s0 s) (n : Nat) : Keeps s0 (writeHints s n) := by
  unfold writeHints
  dsimp only
  refine Keeps.forAll h fun s i k => Keeps.ite (fun _ => k) fun _ => Keeps.ite (fun _ => k) fun _ => ?_
  exact Keeps.with_profiles (clearBad_keeps k _ _ _) _ fun x => tabWf_tabPut _ _ x

theorem takeMeas_keeps {s0 s : State} (h : Keeps s0 s) (B point : Nat) (acc : State × Nat × Nat) (hacc : Keeps s0 acc.1) (m : Meas) :
    Keeps s0 (takeMeas B point acc m).1 := by
  unfold takeMeas
  try dsimp only
  with_reducible repeat' first
    | assumption | intro _ | apply pendPut_keeps | apply writeHints_keeps | apply Keeps.fst_ite | apply Keeps.ite
    | exact Keeps.lit rfl ‹_› | split | refine Keeps.lit rfl ?_

theorem setBank_keeps {s0 s : State} (h : Keeps s0 s) (B : Nat) (k : CalBank) : Keeps s0 (setBank s B k) := by
  unfold setBank
  try dsimp only
  with_reducible repeat' first
    | assumption | intro _ | apply Keeps.ite | exact Keeps.lit rfl ‹_› | split | refine Keeps.lit rfl ?_

theorem applicationEdge_keeps {s0 s : State} (h : Keeps s0 s) (r : Nat) : Keeps s0 (applicationEdge s r) := by
  unfold applicationEdge
  try dsimp only
  with_reducible repeat' first
    | assumption | intro _ | apply Keeps.updMem | apply Keeps.forAll | apply loadCellFrom_keeps | apply loadCell_keeps
    | apply loadEvin_keeps | apply Keeps.ite | exact Keeps.lit rfl ‹_› | split | refine Keeps.lit rfl ?_

theorem importTh64_keeps {s0 s : State} (h : Keeps s0 s) (r : Nat) (x : Nat × Int × Int × Int × List Int) : Keeps s0 (importTh64 s r x).1
    := by
  unfold importTh64
  try dsimp only
  with_reducible repeat' first
    | assumption | intro _ | apply pendPut_keeps | apply Keeps.fst_ite | apply Keeps.ite | exact Keeps.lit rfl ‹_› | split
    | refine Keeps.lit rfl ?_

/-! ### Reference -/

theorem qualNotify_keeps {s0 s : State} (h : Keeps s0 s)  : Keeps s0 (qualNotify s) := by
  unfold qualNotify
  try dsimp only
  with_reducible repeat' first
    | assumption | intro _ | apply Keeps.forAll | apply complete_keeps | apply Keeps.ite | exact Keeps.lit rfl ‹_› | split
    | refine Keeps.lit rfl ?_

theorem refinRestart_keeps {s0 s : State} (h : Keeps s0 s)  : Keeps s0 (refinRestart s) := by
  unfold refinRestart
  try dsimp only
  with_reducible repeat' first
    | assumption | intro _ | apply sourceLost_keeps | apply qualNotify_keeps | apply Keeps.ite | exact Keeps.lit rfl ‹_› | split
    | refine Keeps.lit rfl ?_

theorem writeRefinCfg_keeps {s0 s : State} (h : Keeps s0 s) (v : Word) : Keeps s0 (writeRefinCfg s v) := by
  unfold writeRefinCfg
  try dsimp only
  with_reducible repeat' first
    | assumption | intro _ | apply refinRestart_keeps | apply Keeps.ite | exact Keeps.lit rfl ‹_› | split | refine Keeps.lit rfl ?_

theorem commitRefin_keeps {s0 s : State} (h : Keeps s0 s) (hi : Word) : Keeps s0 (commitRefin s hi) := by
  unfold commitRefin
  try dsimp only
  with_reducible repeat' first
    | assumption | intro _ | apply refinRestart_keeps | apply Keeps.ite | exact Keeps.lit rfl ‹_› | split | refine Keeps.lit rfl ?_

theorem xoGained_keeps {s0 s : State} (h : Keeps s0 s)  : Keeps s0 (xoGained s) := by
  unfold xoGained
  try dsimp only
  with_reducible repeat' first
    | assumption | intro _ | apply refMoved_keeps | apply Keeps.ite | exact Keeps.lit rfl ‹_› | split | refine Keeps.lit rfl ?_

theorem monitorFires_keeps {s0 s : State} (h : Keeps s0 s) (src : Src) : Keeps s0 (monitorFires s src) := by
  unfold monitorFires
  try dsimp only
  with_reducible repeat' first
    | assumption | intro _ | apply sourceLost_keeps | apply Keeps.ite | exact Keeps.lit rfl ‹_› | split | refine Keeps.lit rfl ?_

theorem xoLose_keeps {s0 s : State} (h : Keeps s0 s)  : Keeps s0 (xoLose s) := by
  unfold xoLose
  try dsimp only
  with_reducible repeat' first
    | assumption | intro _ | apply sourceLost_keeps | apply Keeps.ite | exact Keeps.lit rfl ‹_› | split | refine Keeps.lit rfl ?_

theorem uplinkSelect_keeps {s0 s : State} (h : Keeps s0 s)  : Keeps s0 (uplinkSelect s) := by
  unfold uplinkSelect
  try dsimp only
  with_reducible repeat' first
    | assumption | intro _ | apply Keeps.forAll | apply requestSource_keeps | apply Keeps.ite | exact Keeps.lit rfl ‹_› | split
    | refine Keeps.lit rfl ?_

theorem refFields_keeps {s0 s : State} (h : Keeps s0 s) (r : Nat) (v : Word) : Keeps s0 (refFields s r v) := by
  unfold refFields
  try dsimp only
  with_reducible repeat' first
    | assumption | intro _ | apply Keeps.updRegion | apply Keeps.ite | exact Keeps.lit rfl ‹_› | split | refine Keeps.lit rfl ?_

theorem writeRefCtl_keeps {s0 s : State} (h : Keeps s0 s) (r : Nat) (v : Word) : Keeps s0 (writeRefCtl s r v) := by
  unfold writeRefCtl
  try dsimp only
  with_reducible repeat' first
    | assumption | intro _ | apply Keeps.updRegion | apply refMoved_keeps | apply requestSource_keeps | apply refFields_keeps
    | apply Keeps.ite | exact Keeps.lit rfl ‹_› | split | refine Keeps.lit rfl ?_

theorem epochLoad_keeps {s0 s : State} (h : Keeps s0 s)  : Keeps s0 (epochLoad s) := by
  unfold epochLoad
  try dsimp only
  with_reducible repeat' first
    | assumption | intro _ | apply complete_keeps | apply epochAll_keeps | apply Keeps.ite | exact Keeps.lit rfl ‹_› | split
    | refine Keeps.lit rfl ?_

theorem epochBegin_keeps {s0 s : State} (h : Keeps s0 s) (c : Cmd) : Keeps s0 (epochBegin s c) := by
  unfold epochBegin
  try dsimp only
  with_reducible repeat' first
    | assumption | intro _ | apply Keeps.forAll | apply sendBlock_keeps | apply complete_keeps | apply Keeps.ite | exact Keeps.lit rfl ‹_›
    | split | refine Keeps.lit rfl ?_

/-! ### Engine -/

theorem engNext_keeps {s0 s : State} (h : Keeps s0 s) (p cost : Nat) : Keeps s0 (engNext s p cost) := by
  unfold engNext
  try dsimp only
  with_reducible repeat' first
    | assumption | intro _ | apply Keeps.updCell | apply Keeps.ite | exact Keeps.lit rfl ‹_› | split | refine Keeps.lit rfl ?_

theorem engIssue_keeps {s0 s : State} (h : Keeps s0 s) (p opc : Nat) (f : State → Engine → Nat → State) (hf : ∀ s y1 y2, Keeps s0 s →
    Keeps s0 (f s y1 y2)) : Keeps s0 (engIssue s p opc f) := by
  unfold engIssue
  try dsimp only
  with_reducible repeat' first
    | assumption | intro _ | apply meetUncorr_keeps | apply engFault_keeps | apply hf | apply Keeps.ite | exact Keeps.lit rfl ‹_› | split
    | refine Keeps.lit rfl ?_

theorem engLate_keeps {s0 s : State} (h : Keeps s0 s) (p : Nat) : Keeps s0 (engLate s p) := by
  unfold engLate
  try dsimp only
  with_reducible repeat' first
    | assumption | intro _ | apply Keeps.updCell | apply State.cellSat_keeps | apply engRecord_keeps | apply prepare_keeps
    | apply Keeps.ite | exact Keeps.lit rfl ‹_› | split | refine Keeps.lit rfl ?_

theorem act_keeps {s0 s : State} (h : Keeps s0 s) (p : Nat) (e : Engine) (t : State) (ht : Keeps s0 t) : Keeps s0 (act s p e t) := by
  unfold act
  try dsimp only
  with_reducible repeat' first
    | assumption | intro _ | apply engLate_keeps | apply Keeps.ite | exact Keeps.lit rfl ‹_› | split | refine Keeps.lit rfl ?_

theorem doHalt_keeps {s0 s : State} (h : Keeps s0 s) (p : Nat) : Keeps s0 (doHalt s p) := by
  unfold doHalt
  try dsimp only
  with_reducible repeat' first
    | assumption | intro _ | apply Keeps.updCell | apply engRecord_keeps | apply engIssue_keeps | apply Keeps.ite
    | exact Keeps.lit rfl ‹_› | split | refine Keeps.lit rfl ?_

theorem doNop_keeps {s0 s : State} (h : Keeps s0 s) (p : Nat) : Keeps s0 (doNop s p) := by
  unfold doNop
  try dsimp only
  with_reducible repeat' first
    | assumption | intro _ | apply engNext_keeps | apply engIssue_keeps | apply Keeps.ite | exact Keeps.lit rfl ‹_› | split
    | refine Keeps.lit rfl ?_

theorem doHop_keeps {s0 s : State} (h : Keeps s0 s) (p opc : Nat) (lock : Bool) : Keeps s0 (doHop s p opc lock) := by
  unfold doHop
  try dsimp only
  with_reducible repeat' first
    | assumption | intro _ | apply Keeps.updCell | apply refuseHop_keeps | apply engFault_keeps | apply engRefused_keeps
    | apply prepare_keeps | apply engIssue_keeps | apply act_keeps | apply Keeps.ite | exact Keeps.lit rfl ‹_› | split
    | refine Keeps.lit rfl ?_

theorem doWaitc_keeps {s0 s : State} (h : Keeps s0 s) (p : Nat) : Keeps s0 (doWaitc s p) := by
  unfold doWaitc
  try dsimp only
  with_reducible repeat' first
    | assumption | intro _ | apply Keeps.updCell | apply engNext_keeps | apply engIssue_keeps | apply Keeps.ite | exact Keeps.lit rfl ‹_›
    | split | refine Keeps.lit rfl ?_

theorem doWaitt_keeps {s0 s : State} (h : Keeps s0 s) (p : Nat) : Keeps s0 (doWaitt s p) := by
  unfold doWaitt
  try dsimp only
  with_reducible repeat' first
    | assumption | intro _ | apply Keeps.updCell | apply engNext_keeps | apply engIssue_keeps | apply Keeps.ite | exact Keeps.lit rfl ‹_›
    | split | refine Keeps.lit rfl ?_

theorem doWaite_keeps {s0 s : State} (h : Keeps s0 s) (p : Nat) : Keeps s0 (doWaite s p) := by
  unfold doWaite
  try dsimp only
  with_reducible repeat' first
    | assumption | intro _ | apply Keeps.updCell | apply engFault_keeps | apply engNext_keeps | apply engIssue_keeps | apply Keeps.ite
    | exact Keeps.lit rfl ‹_› | split | refine Keeps.lit rfl ?_

theorem doSync_keeps {s0 s : State} (h : Keeps s0 s) (p : Nat) : Keeps s0 (doSync s p) := by
  unfold doSync
  try dsimp only
  with_reducible repeat' first
    | assumption | intro _ | apply Keeps.updCell | apply engNext_keeps | apply engIssue_keeps | apply Keeps.ite | exact Keeps.lit rfl ‹_›
    | split | refine Keeps.lit rfl ?_

theorem markoPulse_keeps {s0 s : State} (h : Keeps s0 s) (r pin m : Nat) : Keeps s0 (markoPulse s r pin m) := by
  unfold markoPulse
  try dsimp only
  with_reducible repeat' first
    | assumption | intro _ | apply Keeps.ite | exact Keeps.lit rfl ‹_› | split | refine Keeps.lit rfl ?_

theorem doMark_keeps {s0 s : State} (h : Keeps s0 s) (p : Nat) : Keeps s0 (doMark s p) := by
  unfold doMark
  try dsimp only
  with_reducible repeat' first
    | assumption | intro _ | apply fabricEmit_keeps | apply acqMark_keeps | apply emitBus_keeps | apply prepare_keeps
    | apply engNext_keeps | apply engIssue_keeps | apply act_keeps | apply markoPulse_keeps | apply Keeps.ite | exact Keeps.lit rfl ‹_›
    | split | refine Keeps.lit rfl ?_

theorem doPhs_keeps {s0 s : State} (h : Keeps s0 s) (p : Nat) : Keeps s0 (doPhs s p) := by
  unfold doPhs
  try dsimp only
  with_reducible repeat' first
    | assumption | intro _ | apply Keeps.updCell | apply Keeps.forAll | apply phaseCheck_keeps | apply prepare_keeps | apply engNext_keeps
    | apply engIssue_keeps | apply act_keeps | apply Keeps.ite | exact Keeps.lit rfl ‹_› | split | refine Keeps.lit rfl ?_

theorem doSeto_keeps {s0 s : State} (h : Keeps s0 s) (p : Nat) : Keeps s0 (doSeto s p) := by
  unfold doSeto
  try dsimp only
  with_reducible repeat' first
    | assumption | intro _ | apply Keeps.updCell | apply Keeps.forAll | apply setOutBits_keeps | apply prepare_keeps | apply engNext_keeps
    | apply engIssue_keeps | apply act_keeps | apply Keeps.ite | exact Keeps.lit rfl ‹_› | split | refine Keeps.lit rfl ?_

theorem doLoop_keeps {s0 s : State} (h : Keeps s0 s) (p : Nat) : Keeps s0 (doLoop s p) := by
  unfold doLoop
  try dsimp only
  with_reducible repeat' first
    | assumption | intro _ | apply Keeps.updCell | apply engFault_keeps | apply engNext_keeps | apply engIssue_keeps | apply Keeps.ite
    | exact Keeps.lit rfl ‹_› | split | refine Keeps.lit rfl ?_

theorem doEndl_keeps {s0 s : State} (h : Keeps s0 s) (p : Nat) : Keeps s0 (doEndl s p) := by
  unfold doEndl
  try dsimp only
  with_reducible repeat' first
    | assumption | intro _ | apply Keeps.updCell | apply engIssue_keeps | apply Keeps.ite | exact Keeps.lit rfl ‹_› | split
    | refine Keeps.lit rfl ?_

theorem doJmp_keeps {s0 s : State} (h : Keeps s0 s) (p : Nat) : Keeps s0 (doJmp s p) := by
  unfold doJmp
  try dsimp only
  with_reducible repeat' first
    | assumption | intro _ | apply Keeps.updCell | apply engFault_keeps | apply engIssue_keeps | apply Keeps.ite | exact Keeps.lit rfl ‹_›
    | split | refine Keeps.lit rfl ?_

theorem doBrl_keeps {s0 s : State} (h : Keeps s0 s) (p : Nat) : Keeps s0 (doBrl s p) := by
  unfold doBrl
  try dsimp only
  with_reducible repeat' first
    | assumption | intro _ | apply Keeps.updCell | apply engFault_keeps | apply prepare_keeps | apply engNext_keeps | apply engIssue_keeps
    | apply Keeps.ite | exact Keeps.lit rfl ‹_› | split | refine Keeps.lit rfl ?_

theorem doIrq_keeps {s0 s : State} (h : Keeps s0 s) (p : Nat) : Keeps s0 (doIrq s p) := by
  unfold doIrq
  try dsimp only
  with_reducible repeat' first
    | assumption | intro _ | apply engRecord_keeps | apply engNext_keeps | apply engIssue_keeps | apply Keeps.ite
    | exact Keeps.lit rfl ‹_› | split | refine Keeps.lit rfl ?_

theorem doExt_keeps {s0 s : State} (h : Keeps s0 s) (p : Nat) : Keeps s0 (doExt s p) := by
  unfold doExt
  try dsimp only
  with_reducible repeat' first
    | assumption | intro _ | apply Keeps.updCell | apply meetUncorr_keeps | apply engFault_keeps | apply Keeps.ite
    | exact Keeps.lit rfl ‹_› | split | refine Keeps.lit rfl ?_

theorem doIllegal_keeps {s0 s : State} (h : Keeps s0 s) (p : Nat) : Keeps s0 (doIllegal s p) := by
  unfold doIllegal
  try dsimp only
  with_reducible repeat' first
    | assumption | intro _ | apply engFault_keeps | apply engIssue_keeps | apply Keeps.ite | exact Keeps.lit rfl ‹_› | split
    | refine Keeps.lit rfl ?_

theorem waitTimeout_keeps {s0 s : State} (h : Keeps s0 s) (p : Nat) : Keeps s0 (waitTimeout s p) := by
  unfold waitTimeout
  try dsimp only
  with_reducible repeat' first
    | assumption | intro _ | apply Keeps.updCell | apply prepare_keeps | apply Keeps.ite | exact Keeps.lit rfl ‹_› | split
    | refine Keeps.lit rfl ?_

theorem doWord_keeps {s0 s : State} (h : Keeps s0 s) (p : Nat) : Keeps s0 (doWord s p) := by
  unfold doWord
  try dsimp only
  with_reducible repeat' first
    | assumption | intro _ | apply doHalt_keeps | apply doNop_keeps | apply doHop_keeps | apply doWaitc_keeps | apply doWaitt_keeps
    | apply doWaite_keeps | apply doSync_keeps | apply doMark_keeps | apply doPhs_keeps | apply doSeto_keeps | apply doLoop_keeps
    | apply doEndl_keeps | apply doJmp_keeps | apply doBrl_keeps | apply doIrq_keeps | apply doExt_keeps | apply doIllegal_keeps
    | apply Keeps.ite | exact Keeps.lit rfl ‹_› | split | refine Keeps.lit rfl ?_

theorem settleWord_keeps {s0 s : State} (h : Keeps s0 s) (p : Nat) : Keeps s0 (settleWord s p) := by
  unfold settleWord
  try dsimp only
  with_reducible repeat' first
    | assumption | intro _ | apply engLate_keeps | apply doWord_keeps | apply Keeps.ite | exact Keeps.lit rfl ‹_› | split
    | refine Keeps.lit rfl ?_

theorem engSettle_keeps {s0 s : State} (h : Keeps s0 s) (p n : Nat) : Keeps s0 (engSettle p n s) := by
  induction n generalizing s with
  | zero => exact h
  | succ n ih => exact Keeps.ite (fun _ => Keeps.ite (fun _ => engFault_keeps h ..) (fun _ => ih (settleWord_keeps h _))) (fun _ => h)

theorem engStop_keeps {s0 s : State} (h : Keeps s0 s) (p : Nat) : Keeps s0 (engStop s p) := by
  unfold engStop
  try dsimp only
  with_reducible repeat' first
    | assumption | intro _ | apply Keeps.updCell | apply engSettle_keeps | apply Keeps.ite | exact Keeps.lit rfl ‹_› | split
    | refine Keeps.lit rfl ?_

theorem engStart_keeps {s0 s : State} (h : Keeps s0 s) (p x2 : Nat) : Keeps s0 (engStart s p x2) := by
  unfold engStart
  try dsimp only
  with_reducible repeat' first
    | assumption | intro _ | apply Keeps.updCell | apply prepare_keeps | apply Keeps.ite | exact Keeps.lit rfl ‹_› | split
    | refine Keeps.lit rfl ?_

theorem writeEngRun_keeps {s0 s : State} (h : Keeps s0 s) (p : Nat) (v : Word) : Keeps s0 (writeEngRun s p v) := by
  unfold writeEngRun
  try dsimp only
  with_reducible repeat' first
    | assumption | intro _ | apply Keeps.updCell | apply engStop_keeps | apply engStart_keeps | apply Keeps.ite | exact Keeps.lit rfl ‹_›
    | split | refine Keeps.lit rfl ?_

theorem doChain_keeps {s0 s : State} (h : Keeps s0 s) (p n : Nat) : Keeps s0 (doChain p n s) := by
  induction n generalizing s with
  | zero => unfold doChain; exact Keeps.ite (fun _ => engFault_keeps h ..) (fun _ => h)
  | succ n ih =>
    unfold doChain
    have := doWord_keeps h p
    exact Keeps.ite (fun _ => ih this) (fun _ => this)

theorem engStepNow_keeps {s0 s : State} (h : Keeps s0 s) (p : Nat) : Keeps s0 (engStepNow s p) := by
  unfold engStepNow
  try dsimp only
  with_reducible repeat' first
    | assumption | intro _ | apply Keeps.updCell | apply doChain_keeps | apply Keeps.ite | exact Keeps.lit rfl ‹_› | split
    | refine Keeps.lit rfl ?_

theorem writeEngCtl_keeps {s0 s : State} (h : Keeps s0 s) (p : Nat) (v : Word) : Keeps s0 (writeEngCtl s p v) := by
  unfold writeEngCtl
  try dsimp only
  with_reducible repeat' first
    | assumption | intro _ | apply writeEngRun_keeps | apply engStepNow_keeps | apply Keeps.ite | exact Keeps.lit rfl ‹_› | split
    | refine Keeps.lit rfl ?_

theorem writeEngPc_keeps {s0 s : State} (h : Keeps s0 s) (p : Nat) (v : Word) : Keeps s0 (writeEngPc s p v) := by
  unfold writeEngPc
  try dsimp only
  with_reducible repeat' first
    | assumption | intro _ | apply Keeps.updCell | apply setCfgErr_keeps | apply Keeps.ite | exact Keeps.lit rfl ‹_› | split
    | refine Keeps.lit rfl ?_

theorem partitionBegin_keeps {s0 s : State} (h : Keeps s0 s) (c : Cmd) (lens : List Nat) : Keeps s0 (partitionBegin s c lens) := by
  unfold partitionBegin
  try dsimp only
  with_reducible repeat' first
    | assumption | intro _ | apply Keeps.updMem | apply complete_keeps | apply Keeps.ite | exact Keeps.lit rfl ‹_› | split
    | refine Keeps.lit rfl ?_

/-! ### Bist -/

theorem enterGrant_keeps {s0 s : State} (h : Keeps s0 s) (r : BistRun) : Keeps s0 (enterGrant s r) := by
  unfold enterGrant
  try dsimp only
  with_reducible repeat' first
    | assumption | intro _ | apply Keeps.updBlock | apply Keeps.forAll | apply setRun_keeps | apply Keeps.ite | exact Keeps.lit rfl ‹_›
    | split | refine Keeps.lit rfl ?_

theorem bistPaceUp_keeps {s0 s : State} (h : Keeps s0 s)  : Keeps s0 (bistPaceUp s) := by
  unfold bistPaceUp
  try dsimp only
  with_reducible repeat' first
    | assumption | intro _ | apply Keeps.forAll | apply enterGrant_keeps | apply Keeps.ite | exact Keeps.lit rfl ‹_› | split
    | refine Keeps.lit rfl ?_

theorem bistPaceFail_keeps {s0 s : State} (h : Keeps s0 s)  : Keeps s0 (bistPaceFail s) := by
  unfold bistPaceFail
  try dsimp only
  with_reducible repeat' first
    | assumption | intro _ | apply Keeps.forAll | apply bistEnd_keeps | apply Keeps.ite | exact Keeps.lit rfl ‹_› | split
    | refine Keeps.lit rfl ?_

theorem onlineFail_keeps {s0 s : State} (h : Keeps s0 s) (n action : Nat) (outs : List TestOut) : Keeps s0 (onlineFail s n action outs) :=
    by
  unfold onlineFail
  try dsimp only
  with_reducible repeat' first
    | assumption | intro _ | apply faultCell_keeps | apply Keeps.ite | exact Keeps.lit rfl ‹_› | split | refine Keeps.lit rfl ?_

theorem offlineCell_keeps {s0 s : State} (h : Keeps s0 s) (p : Nat) : Keeps s0 (offlineCell s p) := by
  unfold offlineCell
  try dsimp only
  with_reducible repeat' first
    | assumption | intro _ | apply Keeps.updCell | apply engRecord_keeps | apply engStop_keeps | apply Keeps.ite | exact Keeps.lit rfl ‹_›
    | split | refine Keeps.lit rfl ?_

theorem restoreCell_keeps {s0 s : State} (h : Keeps s0 s) (p : Nat) (old : CellSt) : Keeps s0 (restoreCell s p old) := by
  unfold restoreCell
  try dsimp only
  with_reducible repeat' first
    | assumption | intro _ | apply Keeps.updCell | apply Keeps.ite | exact Keeps.lit rfl ‹_› | split | refine Keeps.lit rfl ?_

theorem bistFault_keeps {s0 s : State} (h : Keeps s0 s) (B action test unit : Nat) : Keeps s0 (bistFault s B action test unit) := by
  unfold bistFault
  try dsimp only
  with_reducible repeat' first
    | assumption | intro _ | apply faultBlock_keeps | apply Keeps.ite | exact Keeps.lit rfl ‹_› | split | refine Keeps.lit rfl ?_

theorem applyUnits_keeps {s0 s : State} (h : Keeps s0 s) (B : Nat) (outs : List TestOut) : Keeps s0 (applyUnits s B outs) := by
  unfold applyUnits
  try dsimp only
  with_reducible repeat' first
    | assumption | intro _ | apply Keeps.updBlock | apply Keeps.updTiu | apply Keeps.forAll | apply recoverCell_keeps
    | apply channelFault_keeps | apply spareFault_keeps | apply bistFault_keeps | apply Keeps.ite | exact Keeps.lit rfl ‹_› | split
    | refine Keeps.lit rfl ?_

theorem recordCells_keeps {s0 s : State} (h : Keeps s0 s) (B : Nat) (outs : List TestOut) (faulted : List Nat) : Keeps s0 (recordCells s B
    outs faulted) := by
  unfold recordCells
  try dsimp only
  with_reducible repeat' first
    | assumption | intro _ | apply Keeps.forAll | apply putResult_keeps | apply Keeps.ite | exact Keeps.lit rfl ‹_› | split
    | refine Keeps.lit rfl ?_

theorem marchClear_keeps {s0 s : State} (h : Keeps s0 s) (r : Nat) : Keeps s0 (marchClear s r) := by
  refine Keeps.lit' s h rfl rfl rfl (tabWf_tabDrop _) (tabWf_tabDrop _) id id ?_ id id id (le_refl _)
  exact fun m => tabSet_forall _ m ⟨tabWf_nil _, (tabGet_prop _ m AcqSt.memWf_reset).2.1, tabWf_nil _⟩

theorem applyRegion_keeps {s0 s : State} (h : Keeps s0 s) (r : Nat) (tests : List Nat) (outs : List TestOut) : Keeps s0 (applyRegion s r
    tests outs) := by
  unfold applyRegion
  try dsimp only
  with_reducible repeat' first
    | assumption | intro _ | apply Keeps.forAll | apply pushFault_keeps | apply putResult_keeps | apply marchClear_keeps | apply Keeps.ite
    | exact Keeps.lit rfl ‹_› | split | refine Keeps.lit rfl ?_

theorem repairReturn_keeps {s0 s : State} (h : Keeps s0 s) (tag B c : Nat) : Keeps s0 (repairReturn s tag B c) := by
  unfold repairReturn
  try dsimp only
  with_reducible repeat' first
    | assumption | intro _ | apply Keeps.updBlock | apply Keeps.updCell | apply complete_keeps | apply enableCell_keeps | apply seat_keeps
    | apply Keeps.ite | exact Keeps.lit rfl ‹_› | split | refine Keeps.lit rfl ?_

theorem repairMap_keeps {s0 s : State} (h : Keeps s0 s) (tag B c : Nat) : Keeps s0 (repairMap s tag B c) := by
  unfold repairMap
  try dsimp only
  with_reducible repeat' first
    | assumption | intro _ | apply Keeps.updBlock | apply complete_keeps | apply seat_keeps | apply Keeps.ite | exact Keeps.lit rfl ‹_›
    | split | refine Keeps.lit rfl ?_

/-! ### CellCmds -/

theorem writePhaseSlew_keeps {s0 s : State} (h : Keeps s0 s) (p : Nat) (v : Word) : Keeps s0 (writePhaseSlew s p v) := by
  unfold writePhaseSlew
  try dsimp only
  with_reducible repeat' first
    | assumption | intro _ | apply Keeps.updCell | apply Keeps.ite | exact Keeps.lit rfl ‹_› | split | refine Keeps.lit rfl ?_

theorem writeGear_keeps {s0 s : State} (h : Keeps s0 s) (p : Nat) (v : Word) : Keeps s0 (writeGear s p v) := by
  unfold writeGear
  try dsimp only
  with_reducible repeat' first
    | assumption | intro _ | apply Keeps.updCell | apply Keeps.ite | exact Keeps.lit rfl ‹_› | split | refine Keeps.lit rfl ?_

theorem onChannel_keeps {s0 s : State} (h : Keeps s0 s) (n : Nat) (f : State → Nat → State) (hf : ∀ s y1, Keeps s0 s → Keeps s0 (f s y1))
    : Keeps s0 (onChannel s n f) := by
  unfold onChannel
  try dsimp only
  with_reducible repeat' first
    | assumption | intro _ | apply Keeps.forAll | apply hf | apply Keeps.ite | exact Keeps.lit rfl ‹_› | split | refine Keeps.lit rfl ?_

theorem storeProfile_keeps {s0 s : State} (h : Keeps s0 s) (n idx : Nat) (w : List Word) : Keeps s0 (storeProfile s n idx w) :=
  Keeps.with_profiles (clearBad_keeps h 9 _ _) _ fun k => tabWf_tabPut _ _ k

/-! ### Tiu -/

theorem tiuArmNow_keeps {s0 s : State} (h : Keeps s0 s) (t : Nat) : Keeps s0 (tiuArmNow s t) := by
  unfold tiuArmNow
  try dsimp only
  with_reducible repeat' first
    | assumption | intro _ | apply Keeps.updTiu | apply tiuStart_keeps | apply Keeps.ite | exact Keeps.lit rfl ‹_› | split
    | refine Keeps.lit rfl ?_

theorem writeTiuCtl_keeps {s0 s : State} (h : Keeps s0 s) (t : Nat) (v : Word) : Keeps s0 (writeTiuCtl s t v) := by
  unfold writeTiuCtl
  try dsimp only
  with_reducible repeat' first
    | assumption | intro _ | apply Keeps.updTiu | apply tiuEnd_keeps | apply tiuArmNow_keeps | apply Keeps.ite | exact Keeps.lit rfl ‹_›
    | split | refine Keeps.lit rfl ?_

theorem commitGate_keeps {s0 s : State} (h : Keeps s0 s) (t : Nat) (hi : Word) : Keeps s0 (commitGate s t hi) := by
  unfold commitGate
  try dsimp only
  with_reducible repeat' first
    | assumption | intro _ | apply Keeps.updTiu | apply Keeps.ite | exact Keeps.lit rfl ‹_› | split | refine Keeps.lit rfl ?_

theorem tiuField_keeps {s0 s : State} (h : Keeps s0 s) (t : Nat) (ok : Bool) (f : TiuSt → TiuSt) : Keeps s0 (tiuField s t ok f) := by
  unfold tiuField
  try dsimp only
  with_reducible repeat' first
    | assumption | intro _ | apply Keeps.updTiu | apply Keeps.ite | exact Keeps.lit rfl ‹_› | split | refine Keeps.lit rfl ?_

theorem writeTiu_keeps {s0 s : State} (h : Keeps s0 s) (t off : Nat) (v : Word) : Keeps s0 (writeTiu s t off v) := by
  unfold writeTiu
  try dsimp only
  with_reducible repeat' first
    | assumption | intro _ | apply Keeps.updTiu | apply writeTiuCtl_keeps | apply commitGate_keeps | apply tiuField_keeps
    | apply Keeps.ite | exact Keeps.lit rfl ‹_› | split | refine Keeps.lit rfl ?_

theorem tiuWrite_keeps {s0 s : State} (h : Keeps s0 s) (t off : Nat) (v : Word) : Keeps s0 (tiuWrite s t off v) := by
  unfold tiuWrite
  try dsimp only
  with_reducible repeat' first
    | assumption | intro _ | apply State.parityFresh_keeps | apply ownerWrite_keeps | apply writeTiu_keeps | apply Keeps.ite
    | exact Keeps.lit rfl ‹_› | split | refine Keeps.lit rfl ?_

theorem readyAtTime_keeps {s0 s : State} (h : Keeps s0 s) (t : Nat) : Keeps s0 (readyAtTime s t) := by
  unfold readyAtTime
  try dsimp only
  with_reducible repeat' first
    | assumption | intro _ | apply tiuEnd_keeps | apply tiuReady_keeps | apply Keeps.ite | exact Keeps.lit rfl ‹_› | split
    | refine Keeps.lit rfl ?_

theorem tiuLate_keeps {s0 s : State} (h : Keeps s0 s) (t : Nat) : Keeps s0 (tiuLate s t) := by
  unfold tiuLate
  try dsimp only
  with_reducible repeat' first
    | assumption | intro _ | apply tiuEnd_keeps | apply Keeps.ite | exact Keeps.lit rfl ‹_› | split | refine Keeps.lit rfl ?_

theorem tiuCommand_keeps {s0 s : State} (h : Keeps s0 s) (c : Cmd) (body : State → State) (hbody : ∀ s, Keeps s0 s → Keeps s0 (body s)) :
    Keeps s0 (tiuCommand s c body) := by
  unfold tiuCommand
  try dsimp only
  with_reducible repeat' first
    | assumption | intro _ | apply complete_keeps | apply grantWait_keeps | apply hbody | apply Keeps.ite | exact Keeps.lit rfl ‹_›
    | split | refine Keeps.lit rfl ?_

theorem measure_keeps {s0 s : State} (h : Keeps s0 s) (c : Cmd) (body : State → State) (hbody : ∀ s, Keeps s0 s → Keeps s0 (body s)) :
    Keeps s0 (measure s c body) := by
  unfold measure
  try dsimp only
  with_reducible repeat' first
    | assumption | intro _ | apply Keeps.updBlock | apply complete_keeps | apply unqueue_keeps | apply grantWait_keeps | apply hbody
    | apply Keeps.ite | exact Keeps.lit rfl ‹_› | split | refine Keeps.lit rfl ?_

/-! ### Plan -/

theorem planReads_keeps {s0 s : State} (h : Keeps s0 s) (n : Nat) (idxs : List Nat) : Keeps s0 (planReads s n idxs) := by
  unfold planReads
  try dsimp only
  with_reducible repeat' first
    | assumption | intro _ | apply Keeps.forAll | apply meetProfile_keeps | apply Keeps.ite | exact Keeps.lit rfl ‹_› | split
    | refine Keeps.lit rfl ?_

theorem planAnswer_keeps {s0 s : State} (h : Keeps s0 s) (tag : Nat) (groups : List Word) (items : List (List PlanItem)) (skipped : Nat) :
    Keeps s0 (planAnswer s tag groups items skipped) := by
  unfold planAnswer
  try dsimp only
  with_reducible repeat' first
    | assumption | intro _ | apply completeWith_keeps | apply Keeps.ite | exact Keeps.lit rfl ‹_› | split | refine Keeps.lit rfl ?_

theorem planState_keeps {s0 s : State} (h : Keeps s0 s) (c : Cmd) : Keeps s0 (planState s c) := by
  unfold planState
  try dsimp only
  with_reducible repeat' first
    | assumption | intro _ | apply Keeps.forAll | apply complete_keeps | apply planReads_keeps | apply planAnswer_keeps | apply Keeps.ite
    | exact Keeps.lit rfl ‹_› | split | refine Keeps.lit rfl ?_

theorem planTable_keeps {s0 s : State} (h : Keeps s0 s) (c : Cmd) : Keeps s0 (planTable s c) := by
  unfold planTable
  try dsimp only
  with_reducible repeat' first
    | assumption | intro _ | apply Keeps.forAll | apply complete_keeps | apply planReads_keeps | apply planAnswer_keeps | apply Keeps.ite
    | exact Keeps.lit rfl ‹_› | split | refine Keeps.lit rfl ?_

end Sys2Proof.Machine
end

