-- ==== Sys2Proof/Laws/KeepsChip.lean ====
section
/-! SUPPORT. `Keeps` for the operations of the chip: start-up, resets, flash, security, the tree, faults, registers and ports. -/
set_option maxRecDepth 4000
set_option linter.unusedTactic false
set_option linter.unusedVariables false
set_option linter.unreachableTactic false
namespace Sys2Proof.Machine
set_option Elab.async false
open Sys2Proof

/-! ### Security -/

theorem secure_keeps {s0 s : State} (h : Keeps s0 s) (tag op : Nat) (body : State → Cmd → State) (hbody : ∀ s y1, Keeps s0 s → Keeps s0
    (body s y1)) : Keeps s0 (secure s tag op body) := by
  unfold secure
  try dsimp only
  with_reducible repeat' first
    | assumption | intro _ | apply complete_keeps | apply hitan_keeps | apply hbody | apply Keeps.ite | exact Keeps.lit rfl ‹_› | split
    | refine Keeps.lit rfl ?_

theorem streamOut_keeps {s0 s : State} (h : Keeps s0 s) (tag status : Nat) (data rest : List Word) : Keeps s0 (streamOut s tag status data
    rest) := by
  unfold streamOut
  try dsimp only
  with_reducible repeat' first
    | assumption | intro _ | apply completeWith_keeps | apply Keeps.ite | exact Keeps.lit rfl ‹_› | split | refine Keeps.lit rfl ?_

theorem setSession_keeps {s0 s : State} (h : Keeps s0 s) (tun : Bool) (level : Nat) : Keeps s0 (setSession s tun level) := by
  unfold setSession
  try dsimp only
  with_reducible repeat' first
    | assumption | intro _ | apply Keeps.ite | exact Keeps.lit rfl ‹_› | split | refine Keeps.lit rfl ?_

theorem dropChallenge_keeps {s0 s : State} (h : Keeps s0 s)  : Keeps s0 (dropChallenge s) := by
  unfold dropChallenge
  try dsimp only
  with_reducible repeat' first
    | assumption | intro _ | apply Keeps.ite | exact Keeps.lit rfl ‹_› | split | refine Keeps.lit rfl ?_

theorem openOperator_keeps {s0 s : State} (h : Keeps s0 s) (c : Cmd) : Keeps s0 (openOperator s c) := by
  unfold openOperator
  try dsimp only
  with_reducible repeat' first
    | assumption | intro _ | apply complete_keeps | apply setSession_keeps | apply Keeps.ite | exact Keeps.lit rfl ‹_› | split
    | refine Keeps.lit rfl ?_

theorem openStep0_keeps {s0 s : State} (h : Keeps s0 s) (c : Cmd) (level : Nat) : Keeps s0 (openStep0 s c level) := by
  unfold openStep0
  try dsimp only
  with_reducible repeat' first
    | assumption | intro _ | apply streamOut_keeps | apply Keeps.ite | exact Keeps.lit rfl ‹_› | split | refine Keeps.lit rfl ?_

theorem openStepSig_keeps {s0 s : State} (h : Keeps s0 s) (c : Cmd) (level step : Nat) : Keeps s0 (openStepSig s c level step) := by
  unfold openStepSig
  try dsimp only
  with_reducible repeat' first
    | assumption | intro _ | apply complete_keeps | apply setSession_keeps | apply dropChallenge_keeps | apply Keeps.ite
    | exact Keeps.lit rfl ‹_› | split | refine Keeps.lit rfl ?_

theorem setProt_keeps (l : Locket) (n : Nat) (r : BitVec 32) :
    (setProt l n r).factory = l.factory ∧ (setProt l n r).lc = l.lc ∧ (setProt l n r).minEpoch = l.minEpoch := by
  unfold setProt; split
  · exact ⟨rfl, rfl, rfl⟩
  · split <;> exact ⟨rfl, rfl, rfl⟩

theorem wipeLocket_keeps {s0 s : State} (h : Keeps s0 s)  : Keeps s0 (wipeLocket s) := by
  unfold wipeLocket
  try dsimp only
  with_reducible repeat' first
    | assumption | intro _ | apply Keeps.ite | exact Keeps.lit rfl ‹_› | split | refine Keeps.lit rfl ?_

theorem eraseUserArea_keeps {s0 s : State} (h : Keeps s0 s) : Keeps s0 (eraseUserArea s) := by
  refine Keeps.lit' s h rfl rfl rfl id id ?_ id id id id id (le_refl _)
  intro k; dsimp only; exact tabWf_tabDrop _ k

theorem disableAll_keeps {s0 s : State} (h : Keeps s0 s)  : Keeps s0 (disableAll s) := by
  unfold disableAll
  try dsimp only
  with_reducible repeat' first
    | assumption | intro _ | apply Keeps.forAll | apply disableCell_keeps | apply endLockTags_keeps | apply Keeps.ite
    | exact Keeps.lit rfl ‹_› | split | refine Keeps.lit rfl ?_

theorem startUpWiped_keeps {s0 s : State} (h : Keeps s0 s)  : Keeps s0 (startUpWiped s) := by
  unfold startUpWiped
  try dsimp only
  with_reducible repeat' first
    | assumption | intro _ | apply xoStart_keeps | apply Keeps.ite | exact Keeps.lit rfl ‹_› | split | refine Keeps.lit rfl ?_

theorem endVendor_keeps {s0 s : State} (h : Keeps s0 s)  : Keeps s0 (endVendor s) := by
  unfold endVendor
  try dsimp only
  with_reducible repeat' first
    | assumption | intro _ | apply Keeps.ite | exact Keeps.lit rfl ‹_› | split | refine Keeps.lit rfl ?_

/-! ### Flash -/

theorem flashStore_keeps {s0 s : State} (h : Keeps s0 s) (g a : Nat) (bs : List Byte) : Keeps s0 (flashStore s g a bs) := by
  induction bs generalizing s a with
  | nil => exact h
  | cons b bs ih => exact ih (Keeps.with_flash h _ (tabWf_tabSet _ _)) _

theorem flashProgram_keeps {s0 s : State} (h : Keeps s0 s) (g a : Nat) (bs : List Byte) : Keeps s0 (flashProgram s g a bs) := by
  induction bs generalizing s a with
  | nil => exact h
  | cons b bs ih => exact ih (Keeps.with_flash h _ (tabWf_tabSet _ _)) _

theorem flashErase_keeps {s0 s : State} (h : Keeps s0 s) (g a n : Nat) : Keeps s0 (flashErase s g a n) :=
  Keeps.with_flash h _ (tabWf_tabDrop _)

theorem applyCfg_keeps {s0 s : State} (h : Keeps s0 s) (v : Word) : Keeps s0 (applyCfg s v) := by
  unfold applyCfg
  try dsimp only
  with_reducible repeat' first
    | assumption | intro _ | apply Keeps.ite | exact Keeps.lit rfl ‹_› | split | refine Keeps.lit rfl ?_

theorem clkCheck_keeps {s0 s : State} (h : Keeps s0 s)  : Keeps s0 (clkCheck s) := by
  unfold clkCheck
  try dsimp only
  with_reducible repeat' first
    | assumption | intro _ | apply Keeps.ite | exact Keeps.lit rfl ‹_› | split | refine Keeps.lit rfl ?_

theorem driveSel_keeps {s0 s : State} (h : Keeps s0 s)  : Keeps s0 (driveSel s) := by
  unfold driveSel
  try dsimp only
  with_reducible repeat' first
    | assumption | intro _ | apply Keeps.ite | exact Keeps.lit rfl ‹_› | split | refine Keeps.lit rfl ?_

theorem accessEnd_keeps {s0 s : State} (h : Keeps s0 s)  : Keeps s0 (accessEnd s) := by
  unfold accessEnd
  try dsimp only
  with_reducible repeat' first
    | assumption | intro _ | apply applyCfg_keeps | apply driveSel_keeps | apply Keeps.ite | exact Keeps.lit rfl ‹_› | split
    | refine Keeps.lit rfl ?_

theorem startPage_keeps {s0 s : State} (h : Keeps s0 s)  : Keeps s0 (startPage s) := by
  unfold startPage
  try dsimp only
  with_reducible repeat' first
    | assumption | intro _ | apply flashProgram_keeps | apply clkCheck_keeps | apply Keeps.ite | exact Keeps.lit rfl ‹_› | split
    | refine Keeps.lit rfl ?_

theorem writeFlashCfg_keeps {s0 s : State} (h : Keeps s0 s) (v : Word) : Keeps s0 (writeFlashCfg s v) := by
  unfold writeFlashCfg
  try dsimp only
  with_reducible repeat' first
    | assumption | intro _ | apply applyCfg_keeps | apply Keeps.ite | exact Keeps.lit rfl ‹_› | split | refine Keeps.lit rfl ?_

theorem writeFlashSel_keeps {s0 s : State} (h : Keeps s0 s) (v : Word) : Keeps s0 (writeFlashSel s v) := by
  unfold writeFlashSel
  try dsimp only
  with_reducible repeat' first
    | assumption | intro _ | apply driveSel_keeps | apply Keeps.ite | exact Keeps.lit rfl ‹_› | split | refine Keeps.lit rfl ?_

theorem writeFlashData_keeps {s0 s : State} (h : Keeps s0 s) (v : Word) : Keeps s0 (writeFlashData s v) := by
  unfold writeFlashData
  try dsimp only
  with_reducible repeat' first
    | assumption | intro _ | apply Keeps.ite | exact Keeps.lit rfl ‹_› | split | refine Keeps.lit rfl ?_

theorem writeFlashCmd_keeps {s0 s : State} (h : Keeps s0 s) (v : Word) (resp : List Byte) (eff : List (Nat × Byte)) : Keeps s0
    (writeFlashCmd s v resp eff) := by
  unfold writeFlashCmd
  try dsimp only
  with_reducible repeat' first
    | assumption | intro _ | apply Keeps.forAll | apply flashStore_keeps | apply flashProgram_keeps | apply clkCheck_keeps
    | apply Keeps.ite | exact Keeps.lit rfl ‹_› | split | refine Keeps.lit rfl ?_

theorem writeFlash_keeps {s0 s : State} (h : Keeps s0 s) (off : Nat) (v : Word) : Keeps s0 (writeFlash s off v) := by
  unfold writeFlash
  try dsimp only
  with_reducible repeat' first
    | assumption | intro _ | apply writeFlashCfg_keeps | apply writeFlashSel_keeps | apply writeFlashData_keeps
    | apply writeFlashCmd_keeps | apply Keeps.ite | exact Keeps.lit rfl ‹_› | split | refine Keeps.lit rfl ?_

/-! ### Boot -/

theorem writeSel_keeps {s0 s : State} (h : Keeps s0 s) (pref valid : Nat) (trial : Bool) : Keeps s0 (writeSel s pref valid trial) := by
  unfold writeSel
  try dsimp only
  with_reducible repeat' first
    | assumption | intro _ | apply flashProgram_keeps | apply flashErase_keeps | apply Keeps.ite | exact Keeps.lit rfl ‹_› | split
    | refine Keeps.lit rfl ?_

theorem loadSets_keeps {s0 : State} : ∀ (n k : Nat) {s : State} (_ : Keeps s0 s) (skip : Nat), Keeps s0 (loadSets n k s skip).1 := by
  intro n
  induction n with
  | zero => intro k s h skip; exact h
  | succ n ih =>
    intro k s h skip
    unfold loadSets
    split
    · exact ih _ h _
    · exact ih _ (storeProfile_keeps h ..) _

theorem loadProfileSets_keeps {s0 s : State} (h : Keeps s0 s)  : Keeps s0 (loadProfileSets s) := by
  unfold loadProfileSets
  try dsimp only
  with_reducible repeat' first
    | assumption | intro _ | apply faultChip_keeps | apply loadSets_keeps | apply Keeps.ite | exact Keeps.lit rfl ‹_› | split
    | refine Keeps.lit rfl ?_

theorem programPages_keeps {s0 : State} : ∀ (n : Nat) {s : State} (_ : Keeps s0 s), Keeps s0 (programPages n s) := by
  intro n
  induction n with
  | zero => intro s h; exact h
  | succ n ih =>
    intro s h
    unfold programPages
    exact Keeps.ite (fun _ => h) fun _ => ih (.of_kept (flashProgram_keeps h ..) rfl)

/-! ### Tree -/

theorem setOneway_keeps {s0 s : State} (h : Keeps s0 s) (i : Nat) (d : Int) : Keeps s0 (setOneway s i d) := by
  unfold setOneway
  try dsimp only
  with_reducible repeat' first
    | assumption | intro _ | apply Keeps.updPort | apply State.postPort_keeps | apply Keeps.ite | exact Keeps.lit rfl ‹_› | split
    | refine Keeps.lit rfl ?_

theorem dropTunnels_keeps {s0 s : State} (h : Keeps s0 s) (i : Nat) : Keeps s0 (dropTunnels s i) := by
  unfold dropTunnels
  try dsimp only
  with_reducible repeat' first
    | assumption | intro _ | apply Keeps.forAll | apply complete_keeps | apply Keeps.ite | exact Keeps.lit rfl ‹_› | split
    | refine Keeps.lit rfl ?_

theorem upLost_keeps {s0 s : State} (h : Keeps s0 s)  : Keeps s0 (upLost s) := by
  unfold upLost
  try dsimp only
  with_reducible repeat' first
    | assumption | intro _ | apply Keeps.ite | exact Keeps.lit rfl ‹_› | split | refine Keeps.lit rfl ?_

theorem linkDown_keeps {s0 s : State} (h : Keeps s0 s) (i : Nat) (was : PortState) : Keeps s0 (linkDown s i was) := by
  unfold linkDown
  try dsimp only
  with_reducible repeat' first
    | assumption | intro _ | apply Keeps.forAll | apply sourceLost_keeps | apply dropTunnels_keeps | apply upLost_keeps
    | refine Keeps.updAcq ?_ _ _ fun _ h => h | apply Keeps.ite | exact Keeps.lit rfl ‹_› | split | refine Keeps.lit rfl ?_

theorem countRetrain_keeps {s0 s : State} (h : Keeps s0 s) (i : Nat) : Keeps s0 (countRetrain s i) := by
  unfold countRetrain
  try dsimp only
  with_reducible repeat' first
    | assumption | intro _ | apply Keeps.updPort | apply State.postPort_keeps | apply Keeps.ite | exact Keeps.lit rfl ‹_› | split
    | refine Keeps.lit rfl ?_

theorem portFall_keeps {s0 s : State} (h : Keeps s0 s) (i : Nat) (next : PortState) (bits : BitVec 12) : Keeps s0 (portFall s i next bits)
    := by
  unfold portFall
  try dsimp only
  with_reducible repeat' first
    | assumption | intro _ | apply Keeps.updPort | apply linkDown_keeps | apply Keeps.ite | exact Keeps.lit rfl ‹_› | split
    | refine Keeps.lit rfl ?_

theorem retrain_keeps {s0 s : State} (h : Keeps s0 s) (i : Nat) : Keeps s0 (retrain s i) := by
  unfold retrain
  try dsimp only
  with_reducible repeat' first
    | assumption | intro _ | apply countRetrain_keeps | apply portFall_keeps | apply Keeps.ite | exact Keeps.lit rfl ‹_› | split
    | refine Keeps.lit rfl ?_

theorem writePlCtl_keeps {s0 s : State} (h : Keeps s0 s) (i : Nat) (v : Word) : Keeps s0 (writePlCtl s i v) := by
  unfold writePlCtl
  try dsimp only
  with_reducible repeat' first
    | assumption | intro _ | apply Keeps.updPort | apply portFall_keeps | apply retrain_keeps | apply Keeps.ite | exact Keeps.lit rfl ‹_›
    | split | refine Keeps.lit rfl ?_

theorem eventsLate_keeps {s0 s : State} (h : Keeps s0 s) (k : Nat) : Keeps s0 (eventsLate s k) := by
  unfold eventsLate
  try dsimp only
  with_reducible repeat' first
    | assumption | intro _ | apply State.postPort_keeps | apply Keeps.ite | exact Keeps.lit rfl ‹_› | split | refine Keeps.lit rfl ?_

theorem deliverEvent_keeps {s0 s : State} (h : Keeps s0 s) (x : FabEvent) : Keeps s0 (deliverEvent s x) := by
  unfold deliverEvent
  try dsimp only
  with_reducible repeat' first
    | assumption | intro _ | apply Keeps.forAll | apply register_keeps | apply eventsLate_keeps | apply Keeps.ite
    | exact Keeps.lit rfl ‹_› | split | refine Keeps.lit rfl ?_

theorem tunnelReturn_keeps {s0 s : State} (h : Keeps s0 s) (t : Tunnel) (words : List Word) : Keeps s0 (tunnelReturn s t words) := by
  unfold tunnelReturn
  try dsimp only
  with_reducible repeat' first
    | assumption | intro _ | apply completeWith_keeps | apply Keeps.ite | exact Keeps.lit rfl ‹_› | split | refine Keeps.lit rfl ?_

theorem forwardPackets_keeps {s0 s : State} (h : Keeps s0 s) (l : List (Nat × Nat × Nat × Bool × List Word)) :
    Keeps s0 (forwardPackets s l) := by
  induction l generalizing s with
  | nil => exact .of_kept h rfl
  | cons p ps ih =>
    unfold forwardPackets
    exact Keeps.ite (fun _ => ih (sendBlock_keeps (sendBlock_keeps (Keeps.updPort h _ _) _ _) _ _)) fun _ => .of_kept h rfl

/-! ### Resets -/

theorem resetState_keeps {s0 s : State} (h : Keeps s0 s) (cause : Nat) : Keeps s0 (resetState s cause) := by
  unfold resetState
  refine Keeps.lit' s h rfl rfl rfl (fun _ => tabWf_nil _) (fun _ => tabWf_nil _) id id ?_ ?_ ?_ ?_ (le_refl _)
  · exact fun _ e he => absurd he List.not_mem_nil
  · exact fun _ => Nat.zero_le _
  · exact fun _ => Nat.zero_le _
  · exact fun _ => Nat.zero_le _

theorem release_keeps {s0 s : State} (h : Keeps s0 s)  : Keeps s0 (release s) := by
  unfold release
  try dsimp only
  with_reducible repeat' first
    | assumption | intro _ | apply Keeps.ite | exact Keeps.lit rfl ‹_› | split | refine Keeps.lit rfl ?_

theorem chipReset_keeps {s0 s : State} (h : Keeps s0 s) (cause : Nat) : Keeps s0 (chipReset s cause) := by
  unfold chipReset
  try dsimp only
  with_reducible repeat' first
    | assumption | intro _ | apply resetState_keeps | apply release_keeps | apply Keeps.ite | exact Keeps.lit rfl ‹_› | split
    | refine Keeps.lit rfl ?_

theorem readFuses_keeps {s0 s : State} (h : Keeps s0 s) (f : BitVec 32 → Bool) : Keeps s0 (readFuses s f) := by
  unfold readFuses
  try dsimp only
  with_reducible repeat' first
    | assumption | intro _ | apply Keeps.forAll | apply faultChip_keeps | apply Keeps.ite | exact Keeps.lit rfl ‹_› | split
    | refine Keeps.lit rfl ?_

theorem freshCell_keeps {s0 s : State} (h : Keeps s0 s) (p : Nat) : Keeps s0 (freshCell s p) := by
  unfold freshCell
  try dsimp only
  with_reducible repeat' first
    | assumption | intro _ | apply loadCell_keeps | apply Keeps.ite | exact Keeps.lit rfl ‹_› | split | refine Keeps.lit rfl ?_

theorem reapplyMap_keeps {s0 s : State} (h : Keeps s0 s) (B : Nat) : Keeps s0 (reapplyMap s B) := by
  unfold reapplyMap
  try dsimp only
  with_reducible repeat' first
    | assumption | intro _ | apply Keeps.updBlock | apply loadCell_keeps | apply Keeps.ite | exact Keeps.lit rfl ‹_› | split
    | refine Keeps.lit rfl ?_

theorem freshEvins_keeps {s0 s : State} (h : Keeps s0 s) (l : List Nat) : Keeps s0 (freshEvins s l) := by
  unfold freshEvins
  try dsimp only
  with_reducible repeat' first
    | assumption | intro _ | apply Keeps.forAll | apply loadEvin_keeps | apply Keeps.ite | exact Keeps.lit rfl ‹_› | split
    | refine Keeps.lit rfl ?_

theorem calReset_keeps {s0 s : State} (h : Keeps s0 s) (f : Scope) : Keeps s0 (calReset s f) := by
  unfold calReset
  try dsimp only
  with_reducible repeat' first
    | assumption | intro _ | apply Keeps.updBlock | apply Keeps.forAll | apply calFinish_keeps | apply Keeps.ite | exact Keeps.lit rfl ‹_›
    | split | refine Keeps.lit rfl ?_

theorem pendReset_keeps {s0 s : State} (h : Keeps s0 s) (f : Nat → Nat → Bool) : Keeps s0 (pendReset s f) := by
  unfold pendReset
  try dsimp only
  with_reducible repeat' first
    | assumption | intro _ | apply Keeps.ite | exact Keeps.lit rfl ‹_› | split | refine Keeps.lit rfl ?_

theorem bistReset_keeps {s0 s : State} (h : Keeps s0 s) (f : BistRun → Bool) : Keeps s0 (bistReset s f) := by
  unfold bistReset
  try dsimp only
  with_reducible repeat' first
    | assumption | intro _ | apply Keeps.updBlock | apply Keeps.forAll | apply recordIncomplete_keeps | apply bistEnd_keeps
    | apply Keeps.ite | exact Keeps.lit rfl ‹_› | split | refine Keeps.lit rfl ?_

theorem epochMove_keeps {s0 s : State} (h : Keeps s0 s) (r : Nat) : Keeps s0 (epochMove s r) := by
  unfold epochMove
  try dsimp only
  with_reducible repeat' first
    | assumption | intro _ | apply Keeps.ite | exact Keeps.lit rfl ‹_› | split | refine Keeps.lit rfl ?_

theorem fabricMove_keeps {s0 s : State} (h : Keeps s0 s) (r : Nat) : Keeps s0 (fabricMove s r) := by
  unfold fabricMove
  try dsimp only
  with_reducible repeat' first
    | assumption | intro _ | apply Keeps.ite | exact Keeps.lit rfl ‹_› | split | refine Keeps.lit rfl ?_

theorem wipeRegion_keeps {s0 s : State} (h : Keeps s0 s) (r : Nat) (hold : RegionRun) (tag : Option Nat) :
    Keeps s0 (wipeRegion s r hold tag) := by
  refine Keeps.lit' s h rfl rfl rfl ?_ ?_ id id ?_ id id id (le_refl _)
  · intro k; dsimp only; exact tabWf_tabDrop _ k
  · intro k; dsimp only; exact tabWf_tabDrop _ k
  · intro m; dsimp only; exact tabSet_forall _ m ⟨tabWf_nil _, tabWf_nil _, tabWf_nil _⟩

theorem regionReset_keeps {s0 s : State} (h : Keeps s0 s) (r : Nat) (hold : RegionRun) (tag : Option Nat) (f : Cmd → Bool) : Keeps s0
    (regionReset s r hold tag f) := by
  unfold regionReset
  try dsimp only
  with_reducible repeat' first
    | assumption | intro _ | apply Keeps.forAll | apply clearSnaps_keeps | apply refMoved_keeps | apply holdoverEnter_keeps
    | apply abortCmds_keeps | apply calReset_keeps | apply pendReset_keeps | apply bistReset_keeps | apply epochMove_keeps
    | apply fabricMove_keeps | apply wipeRegion_keeps | apply Keeps.ite | exact Keeps.lit rfl ‹_› | split | refine Keeps.lit rfl ?_

theorem holdRegion_keeps {s0 s : State} (h : Keeps s0 s) (r : Nat) (hold : RegionRun) : Keeps s0 (holdRegion s r hold) := by
  unfold holdRegion
  try dsimp only
  with_reducible repeat' first
    | assumption | intro _ | apply regionReset_keeps | apply Keeps.ite | exact Keeps.lit rfl ‹_› | split | refine Keeps.lit rfl ?_

theorem endInnerResets_keeps {s0 s : State} (h : Keeps s0 s) (r : Nat) : Keeps s0 (endInnerResets s r) := by
  unfold endInnerResets
  try dsimp only
  with_reducible repeat' first
    | assumption | intro _ | apply Keeps.forAll | apply complete_keeps | apply Keeps.ite | exact Keeps.lit rfl ‹_› | split
    | refine Keeps.lit rfl ?_

theorem leaveReset_keeps {s0 s : State} (h : Keeps s0 s) (r : Nat) : Keeps s0 (leaveReset s r) := by
  unfold leaveReset
  try dsimp only
  with_reducible repeat' first
    | assumption | intro _ | apply Keeps.updRegion | apply Keeps.updBlock | apply Keeps.forAll | apply readFuses_keeps
    | apply freshCell_keeps | apply reapplyMap_keeps | apply freshEvins_keeps | apply endInnerResets_keeps | apply Keeps.ite
    | exact Keeps.lit rfl ‹_› | split | refine Keeps.lit rfl ?_

theorem blockReset_keeps {s0 s : State} (h : Keeps s0 s) (B : Nat) (f : Cmd → Bool) : Keeps s0 (blockReset s B f) := by
  unfold blockReset
  try dsimp only
  with_reducible repeat' first
    | assumption | intro _ | apply Keeps.forAll | apply clearSnaps_keeps | apply abortCmds_keeps | apply readFuses_keeps
    | apply freshCell_keeps | apply reapplyMap_keeps | apply freshEvins_keeps | apply calReset_keeps | apply pendReset_keeps
    | apply bistReset_keeps | apply Keeps.ite | exact Keeps.lit rfl ‹_› | split | refine Keeps.lit rfl ?_

theorem abandonSeat_keeps {s0 s : State} (h : Keeps s0 s) (B : Nat) : Keeps s0 (abandonSeat s B) := by
  unfold abandonSeat
  try dsimp only
  with_reducible repeat' first
    | assumption | intro _ | apply Keeps.updBlock | apply Keeps.updCell | apply maintStop_keeps | apply releaseSpare_keeps
    | apply recoverCell_keeps | apply Keeps.ite | exact Keeps.lit rfl ‹_› | split | refine Keeps.lit rfl ?_

theorem cellReset_keeps {s0 s : State} (h : Keeps s0 s) (n : Nat) (f : Cmd → Bool) : Keeps s0 (cellReset s n f) := by
  unfold cellReset
  try dsimp only
  with_reducible repeat' first
    | assumption | intro _ | apply Keeps.updBlock | apply clearSnaps_keeps | apply seat_keeps | apply abortCmds_keeps
    | apply freshCell_keeps | apply calReset_keeps | apply pendReset_keeps | apply bistReset_keeps | apply abandonSeat_keeps
    | apply Keeps.ite | exact Keeps.lit rfl ‹_› | split | refine Keeps.lit rfl ?_

theorem tiuReset_keeps {s0 s : State} (h : Keeps s0 s) (t : Nat) (f : Cmd → Bool) : Keeps s0 (tiuReset s t f) := by
  unfold tiuReset
  try dsimp only
  with_reducible repeat' first
    | assumption | intro _ | apply clearSnaps_keeps | apply abortCmds_keeps | apply Keeps.ite | exact Keeps.lit rfl ‹_› | split
    | refine Keeps.lit rfl ?_

theorem readStore_keeps {s0 s : State} (h : Keeps s0 s)  : Keeps s0 (readStore s) := by
  unfold readStore
  try dsimp only
  with_reducible repeat' first
    | assumption | intro _ | apply faultChip_keeps | apply Keeps.ite | exact Keeps.lit rfl ‹_› | split | refine Keeps.lit rfl ?_

theorem romStart_keeps {s0 s : State} (h : Keeps s0 s)  : Keeps s0 (romStart s) := by
  unfold romStart
  try dsimp only
  with_reducible repeat' first
    | assumption | intro _ | apply faultChip_keeps | apply readFuses_keeps | apply Keeps.ite | exact Keeps.lit rfl ‹_› | split
    | refine Keeps.lit rfl ?_

theorem romRecords_keeps {s0 s : State} (h : Keeps s0 s)  : Keeps s0 (romRecords s) := by
  unfold romRecords
  try dsimp only
  with_reducible repeat' first
    | assumption | intro _ | apply Keeps.ite | exact Keeps.lit rfl ‹_› | split | refine Keeps.lit rfl ?_

theorem wipeEnded_keeps {s0 s : State} (h : Keeps s0 s)  : Keeps s0 (wipeEnded s) := by
  unfold wipeEnded
  try dsimp only
  with_reducible repeat' first
    | assumption | intro _ | apply xoStart_keeps | apply wipeLocket_keeps | apply Keeps.ite | exact Keeps.lit rfl ‹_› | split
    | refine Keeps.lit rfl ?_

theorem markTried_keeps {s0 s : State} (h : Keeps s0 s) (slot : Nat) : Keeps s0 (markTried s slot) := by
  unfold markTried
  try dsimp only
  with_reducible repeat' first
    | assumption | intro _ | apply flashProgram_keeps | apply Keeps.ite | exact Keeps.lit rfl ‹_› | split | refine Keeps.lit rfl ?_

theorem startPort_keeps {s0 s : State} (h : Keeps s0 s) (i : Nat) : Keeps s0 (startPort s i) := by
  unfold startPort
  try dsimp only
  with_reducible repeat' first
    | assumption | intro _ | apply Keeps.updPort | apply Keeps.ite | exact Keeps.lit rfl ‹_› | split | refine Keeps.lit rfl ?_

theorem firmwareStart_keeps {s0 s : State} (h : Keeps s0 s)  : Keeps s0 (firmwareStart s) := by
  unfold firmwareStart
  try dsimp only
  with_reducible repeat' first
    | assumption | intro _ | apply Keeps.forAll | apply drainFifo_keeps | apply loadProfileSets_keeps | apply leaveReset_keeps
    | apply readStore_keeps | apply markTried_keeps | apply startPort_keeps | apply Keeps.ite | exact Keeps.lit rfl ‹_› | split
    | refine Keeps.lit rfl ?_

/-- Boot selection and anchors stand in flash, not in LOCKET. -/
theorem flashProgram_lk (s : State) (g a : Nat) (bs : List Byte) : (flashProgram s g a bs).lk = s.lk := by
  induction bs generalizing s a with
  | nil => rfl
  | cons b bs ih => exact ih _ _

theorem writeSel_lk (s : State) (pref valid : Nat) (trial : Bool) : (writeSel s pref valid trial).lk = s.lk := flashProgram_lk ..

/-- n bytes spell a number below 256 to the n. -/
theorem beNat_lt (bs : List Byte) : beNat bs < 256 ^ bs.length := by
  have : ∀ (bs : List Byte) (a : Nat), bs.foldl (fun a b => 256 * a + b.toNat) a < (a + 1) * 256 ^ bs.length := by
    intro bs
    induction bs with
    | nil => intro a; simp
    | cons b bs ih =>
      intro a
      have hb := b.isLt
      refine lt_of_lt_of_le (ih _) ?_
      rw [List.length_cons, Nat.pow_succ', ← Nat.mul_assoc]
      exact Nat.mul_le_mul_right _ (by dsimp only; omega)
  have := this bs 0
  rw [Nat.zero_add, Nat.one_mul] at this
  exact this

/-- The epoch of an image has 32 bits. -/
theorem slotEpoch_lt (s : State) (slot : Nat) : slotEpoch s slot < 2 ^ 32 := by
  unfold slotEpoch be4
  have : ((flashBytes s 0 (slotAddr slot) 12).drop 8 |>.take 4).length ≤ 4 := by simp
  exact lt_of_lt_of_le (beNat_lt _) (Nat.pow_le_pow_right (n := 256) (by decide) this)

theorem readyUp_keeps {s0 s : State} (h : Keeps s0 s) : Keeps s0 (readyUp s) := by
  have h3 : ∀ p b, Keeps s0 { (if s.pwr.cause = 2 then faultChip s 0x3C 12 0 0 else s) with pwr := p, boot := b } :=
    fun p b => Keeps.lit rfl (Keeps.ite (fun _ => faultChip_keeps h ..) fun _ => h)
  have h4 : ∀ s3 slot b, Keeps s0 s3 → Keeps s0 { writeSel s3 (bootSel s3).pref (bootSel s3).valid false with
      boot := b, lk.minEpoch := if s3.lk.minEpoch.toNat < slotEpoch s3 slot then BitVec.ofNat 32 (slotEpoch s3 slot)
        else s3.lk.minEpoch } := by
    intro s3 slot b h3
    refine Keeps.lit' _ (writeSel_keeps h3 (bootSel s3).pref (bootSel s3).valid false) rfl rfl rfl id id id id id id id id ?_
    rw [writeSel_lk]
    dsimp only
    split
    · rw [BitVec.toNat_ofNat, Nat.mod_eq_of_lt (slotEpoch_lt ..)]; exact Nat.le_of_lt ‹_›
    · exact le_refl _
  unfold readyUp
  apply refMoved_keeps
  dsimp only
  split
  · exact h4 _ _ _ (h3 _ _)
  · exact h3 _ _

/-! ### Power -/

theorem endHold_keeps {s0 s : State} (h : Keeps s0 s) (r : Nat) : Keeps s0 (endHold s r) := by
  unfold endHold
  try dsimp only
  with_reducible repeat' first
    | assumption | intro _ | apply Keeps.updRegion | apply leaveReset_keeps | apply Keeps.ite | exact Keeps.lit rfl ‹_› | split
    | refine Keeps.lit rfl ?_

theorem readVmon_keeps {s0 s : State} (h : Keeps s0 s) (rail mv : Nat) : Keeps s0 (readVmon s rail mv) := by
  unfold readVmon
  try dsimp only
  with_reducible repeat' first
    | assumption | intro _ | apply Keeps.ite | exact Keeps.lit rfl ‹_› | split | refine Keeps.lit rfl ?_

theorem paceAnswer_keeps {s0 s : State} (h : Keeps s0 s) (status : Nat) : Keeps s0 (paceAnswer s status) := by
  unfold paceAnswer
  try dsimp only
  with_reducible repeat' first
    | assumption | intro _ | apply complete_keeps | apply Keeps.ite | exact Keeps.lit rfl ‹_› | split | refine Keeps.lit rfl ?_

theorem paceEnd_keeps {s0 s : State} (h : Keeps s0 s) (level status : Nat) (bits : BitVec 12) (ok : Bool) : Keeps s0 (paceEnd s level
    status bits ok) := by
  unfold paceEnd
  try dsimp only
  with_reducible repeat' first
    | assumption | intro _ | apply paceRelease_keeps | apply bistPaceUp_keeps | apply bistPaceFail_keeps | apply paceAnswer_keeps
    | apply Keeps.ite | exact Keeps.lit rfl ‹_› | split | refine Keeps.lit rfl ?_

theorem writePaceCtl_keeps {s0 s : State} (h : Keeps s0 s) (v : Word) (voutMode : Option Byte) : Keeps s0 (writePaceCtl s v voutMode) :=
    by
  unfold writePaceCtl
  try dsimp only
  with_reducible repeat' first
    | assumption | intro _ | apply Keeps.ite | exact Keeps.lit rfl ‹_› | split | refine Keeps.lit rfl ?_

theorem thermJudge_keeps {s0 s : State} (h : Keeps s0 s)  : Keeps s0 (thermJudge s) := by
  unfold thermJudge
  try dsimp only
  with_reducible repeat' first
    | assumption | intro _ | apply Keeps.forAll | apply State.postRegion_keeps | apply pushFault_keeps | apply faultChip_keeps
    | apply holdRegion_keeps | apply Keeps.ite | exact Keeps.lit rfl ‹_› | split | refine Keeps.lit rfl ?_

theorem trackEvin_keeps {s0 s : State} (h : Keeps s0 s) (i : Nat) : Keeps s0 (trackEvin s i) := by
  unfold trackEvin
  try dsimp only
  with_reducible repeat' first
    | assumption | intro _ | apply loadEvin_keeps | apply Keeps.ite | exact Keeps.lit rfl ‹_› | split | refine Keeps.lit rfl ?_

theorem track_keeps {s0 s : State} (h : Keeps s0 s) (B : Nat) : Keeps s0 (track s B) := by
  unfold track
  try dsimp only
  with_reducible repeat' first
    | assumption | intro _ | apply Keeps.updBlock | apply Keeps.forAll | apply loadCellFrom_keeps | apply trackEvin_keeps
    | apply Keeps.ite | exact Keeps.lit rfl ‹_› | split | refine Keeps.lit rfl ?_

theorem unitReset_keeps {s0 s : State} (h : Keeps s0 s) (c : Cmd) : Keeps s0 (unitReset s c) := by
  unfold unitReset
  try dsimp only
  with_reducible repeat' first
    | assumption | intro _ | apply regionReset_keeps | apply blockReset_keeps | apply cellReset_keeps | apply tiuReset_keeps
    | apply Keeps.ite | exact Keeps.lit rfl ‹_› | split | refine Keeps.lit rfl ?_

/-! ### Faults -/

theorem mpDown_keeps {s0 s : State} (h : Keeps s0 s)  : Keeps s0 (mpDown s) := by
  unfold mpDown
  try dsimp only
  with_reducible repeat' first
    | assumption | intro _ | apply chipReset_keeps | apply Keeps.ite | exact Keeps.lit rfl ‹_› | split | refine Keeps.lit rfl ?_

theorem mpFault_keeps {s0 s : State} (h : Keeps s0 s) (cause qual : Nat) (detail : Word) : Keeps s0 (mpFault s cause qual detail) := by
  unfold mpFault
  try dsimp only
  with_reducible repeat' first
    | assumption | intro _ | apply faultChip_keeps | apply mpDown_keeps | apply Keeps.ite | exact Keeps.lit rfl ‹_› | split
    | refine Keeps.lit rfl ?_

theorem maintReturn_keeps {s0 s : State} (h : Keeps s0 s) (B : Nat) : Keeps s0 (maintReturn s B) := by
  unfold maintReturn
  try dsimp only
  with_reducible repeat' first
    | assumption | intro _ | apply Keeps.updBlock | apply seat_keeps | apply moveEngine_keeps | apply releaseSpare_keeps | apply Keeps.ite
    | exact Keeps.lit rfl ‹_› | split | refine Keeps.lit rfl ?_

theorem dropRequests_keeps {s0 s : State} (h : Keeps s0 s) (tag : Nat) (offline : Bool) : Keeps s0 (dropRequests s tag offline) := by
  unfold dropRequests
  try dsimp only
  with_reducible repeat' first
    | assumption | intro _ | apply Keeps.ite | exact Keeps.lit rfl ‹_› | split | refine Keeps.lit rfl ?_

theorem calRestart_keeps {s0 s : State} (h : Keeps s0 s)  : Keeps s0 (calRestart s) := by
  unfold calRestart
  try dsimp only
  with_reducible repeat' first
    | assumption | intro _ | apply Keeps.forAll | apply setCmd_keeps | apply calFinish_keeps | apply calUnitEnd_keeps
    | apply maintStop_keeps | apply maintReturn_keeps | apply dropRequests_keeps | apply Keeps.ite | exact Keeps.lit rfl ‹_› | split
    | refine Keeps.lit rfl ?_

theorem bistRestart_keeps {s0 s : State} (h : Keeps s0 s)  : Keeps s0 (bistRestart s) := by
  unfold bistRestart
  try dsimp only
  with_reducible repeat' first
    | assumption | intro _ | apply State.tick_keeps | apply Keeps.forAll | apply setCmd_keeps | apply dropRequests_keeps | apply Keeps.ite
    | exact Keeps.lit rfl ‹_› | split | refine Keeps.lit rfl ?_

/-- A table of entries that have a property, each changed by a function that keeps it. -/
theorem tabMap_forall {α : Type} [DecidableEq α] {d : α} {t : Tab α} {P : α → Prop} (f : Nat → α → α) (h : ∀ e ∈ t, P e.2)
    (hf : ∀ k a, P a → P (f k a)) : ∀ e ∈ tabMap d f t, P e.2 := fun e he => by
  obtain ⟨x, hx, rfl⟩ := List.mem_map.mp (List.mem_filter.mp he).1
  exact hf _ _ (h x hx)

theorem untag_keeps {s0 s : State} (h : Keeps s0 s) : Keeps s0 (untag s) :=
  Keeps.lit' s h rfl rfl rfl id id id id (fun m => tabMap_forall _ m fun _ _ h => h) id id id (le_refl _)

theorem countDeadlock_keeps {s0 s : State} (h : Keeps s0 s) (seg unit : Nat) : Keeps s0 (countDeadlock s seg unit) := by
  unfold countDeadlock
  try dsimp only
  with_reducible repeat' first
    | assumption | intro _ | apply Keeps.ite | exact Keeps.lit rfl ‹_› | split | refine Keeps.lit rfl ?_

theorem segAbort_keeps {s0 s : State} (h : Keeps s0 s) (ops : List Nat) (r : Option Nat) : Keeps s0 (segAbort s ops r) := by
  unfold segAbort
  try dsimp only
  with_reducible repeat' first
    | assumption | intro _ | apply abortCmds_keeps | apply Keeps.ite | exact Keeps.lit rfl ‹_› | split | refine Keeps.lit rfl ?_

theorem failFetch_keeps {s0 s : State} (h : Keeps s0 s) (p : Nat) : Keeps s0 (failFetch s p) := by
  unfold failFetch
  try dsimp only
  with_reducible repeat' first
    | assumption | intro _ | apply Keeps.updCell | apply complete_keeps | apply setCfgErr_keeps | apply Keeps.ite
    | exact Keeps.lit rfl ‹_› | split | refine Keeps.lit rfl ?_

/-- The late check of an engine answers a state. -/
theorem engineLate_next (p : Nat) {s0 s : State} (h : Keeps s0 s) : ∃ t, execEngineLate p s = .next t ∧ Keeps s0 t := by
  unfold execEngineLate
  split
  · exact ⟨_, rfl, engLate_keeps h _⟩
  · exact ⟨_, rfl, h⟩

theorem segReset_keeps {s0 s : State} (h : Keeps s0 s) (seg unit : Nat) : Keeps s0 (segReset s seg unit) := by
  unfold segReset
  refine Keeps.ite (fun _ => Keeps.ite (fun _ => mpDown_keeps h) fun _ => h) fun _ => ?_
  refine Keeps.ite (fun _ => ?_) fun _ => ?_
  · split
    · exact complete_keeps h ..
    · exact h
  refine Keeps.ite (fun _ => ?_) fun _ => ?_
  · exact Keeps.forAll (Keeps.updMem (segAbort_keeps h ..) _ _) fun s a k => failFetch_keeps k _
  refine Keeps.ite (fun _ => ?_) fun _ => ?_
  · refine Keeps.forAll h fun s a k => ?_
    obtain ⟨t, e, kt⟩ := engineLate_next a k
    rw [e]; exact kt
  refine Keeps.ite (fun _ => ?_) fun _ => ?_
  · apply segAbort_keeps
    refine Keeps.lit rfl ?_
    exact Keeps.forAll h fun s a k => bistEnd_keeps (dropRequests_keeps k ..) ..
  refine Keeps.ite (fun _ => segAbort_keeps (Keeps.lit rfl h) ..) fun _ => ?_
  refine Keeps.ite (fun _ => segAbort_keeps (Keeps.lit rfl h) ..) fun _ => ?_
  refine Keeps.ite (fun _ => ?_) fun _ => h
  exact Keeps.forAll (paceAnswer_keeps (Keeps.lit rfl h) _) fun s a k => bistEnd_keeps k ..

/-! ### Registers -/

theorem setSqc_keeps {s0 s : State} (h : Keeps s0 s) (q : Sqc) (x2 : Reg) : Keeps s0 (setSqc s q x2) := by
  unfold setSqc
  try dsimp only
  with_reducible repeat' first
    | assumption | intro _ | apply Keeps.updRegion | apply Keeps.updBlock | apply Keeps.updPort | refine Keeps.updAcq ?_ _ _ fun _ h => h
    | apply Keeps.ite | exact Keeps.lit rfl ‹_› | split | refine Keeps.lit rfl ?_

theorem snapTake_keeps {s0 s : State} (h : Keeps s0 s) (fw : Bool) (g : List Reg) : Keeps s0 (snapTake s fw g) := by
  unfold snapTake
  try dsimp only
  with_reducible repeat' first
    | assumption | intro _ | apply Keeps.foldl | apply Keeps.foldl_fst | apply Keeps.ite | exact Keeps.lit rfl ‹_› | split
    | refine Keeps.lit rfl ?_

theorem readEffect_keeps {s0 s : State} (h : Keeps s0 s) (x : Reg) : Keeps s0 (readEffect s x) := by
  unfold readEffect
  try dsimp only
  with_reducible repeat' first
    | assumption | intro _ | apply popStep_keeps | apply setSqc_keeps | apply Keeps.ite | exact Keeps.lit rfl ‹_› | split
    | refine Keeps.lit rfl ?_

theorem writeHostCfg_keeps {s0 s : State} (h : Keeps s0 s) (v : Word) : Keeps s0 (writeHostCfg s v).1 := by
  unfold writeHostCfg
  try dsimp only
  with_reducible repeat' first
    | assumption | intro _ | apply Keeps.fst_ite | apply Keeps.ite | exact Keeps.lit rfl ‹_› | split | refine Keeps.lit rfl ?_

theorem releaseCfg_keeps {s0 s : State} (h : Keeps s0 s)  : Keeps s0 (releaseCfg s) := by
  unfold releaseCfg
  try dsimp only
  with_reducible repeat' first
    | assumption | intro _ | apply Keeps.ite | exact Keeps.lit rfl ‹_› | split | refine Keeps.lit rfl ?_

theorem writeClasp_keeps {s0 s : State} (h : Keeps s0 s) (v : Word) : Keeps s0 (writeClasp s v).1 := by
  unfold writeClasp
  try dsimp only
  with_reducible repeat' first
    | assumption | intro _ | apply State.postHost_keeps | apply Keeps.fst_ite | apply Keeps.ite | exact Keeps.lit rfl ‹_› | split
    | refine Keeps.lit rfl ?_

theorem writeResetCtl_keeps {s0 s : State} (h : Keeps s0 s) (level : Nat) (v : Word) : Keeps s0 (writeResetCtl s level v).1 := by
  unfold writeResetCtl
  try dsimp only
  with_reducible repeat' first
    | assumption | intro _ | apply chipReset_keeps | apply Keeps.fst_ite | apply Keeps.ite | exact Keeps.lit rfl ‹_› | split
    | refine Keeps.lit rfl ?_

theorem writeHost_keeps {s0 s : State} (h : Keeps s0 s) (level x2 : Nat) (v : Word) : Keeps s0 (writeHost s level x2 v).1 := by
  unfold writeHost
  try dsimp only
  with_reducible repeat' first
    | assumption | intro _ | apply writeHostCfg_keeps | apply writeResetCtl_keeps | apply Keeps.fst_ite | apply Keeps.ite
    | exact Keeps.lit rfl ‹_› | split | refine Keeps.lit rfl ?_

theorem writeMbx_keeps {s0 s : State} (h : Keeps s0 s) (k : Nat) (v : Word) : Keeps s0 (writeMbx s k v).1 := by
  unfold writeMbx
  try dsimp only
  with_reducible repeat' first
    | assumption | intro _ | apply pushWord_keeps | apply ringDoorbell_keeps | apply Keeps.fst_ite | apply Keeps.ite
    | exact Keeps.lit rfl ‹_› | split | refine Keeps.lit rfl ?_

theorem writePort_keeps {s0 s : State} (h : Keeps s0 s) (i o : Nat) (v : Word) : Keeps s0 (writePort s i o v).1 := by
  unfold writePort
  try dsimp only
  with_reducible repeat' first
    | assumption | intro _ | apply Keeps.updPort | apply uplinkSelect_keeps | apply writePlCtl_keeps | apply Keeps.fst_ite
    | apply Keeps.ite | exact Keeps.lit rfl ‹_› | split | refine Keeps.lit rfl ?_

theorem writeFlashReg_keeps {s0 s : State} (h : Keeps s0 s) (o : Nat) (v : Word) : Keeps s0 (writeFlashReg s o v).1 := by
  unfold writeFlashReg
  try dsimp only
  with_reducible repeat' first
    | assumption | intro _ | apply State.tick_keeps | apply writeFlashCfg_keeps | apply writeFlashCmd_keeps | apply writeFlash_keeps
    | apply Keeps.fst_ite | apply Keeps.ite | exact Keeps.lit rfl ‹_› | split | refine Keeps.lit rfl ?_

theorem writeChip_keeps {s0 s : State} (h : Keeps s0 s) (k o : Nat) (v : Word) : Keeps s0 (writeChip s k o v).1 := by
  unfold writeChip
  try dsimp only
  with_reducible repeat' first
    | assumption | intro _ | apply State.tick_keeps | apply writeRefinCfg_keeps | apply commitRefin_keeps | apply writePaceCtl_keeps
    | apply writePort_keeps | apply writeFlashReg_keeps | apply Keeps.fst_ite | apply Keeps.ite | exact Keeps.lit rfl ‹_› | split
    | refine Keeps.lit rfl ?_

theorem writeTh64_keeps {s0 s : State} (h : Keeps s0 s) (r : Nat) (v : Word) : Keeps s0 (writeTh64 s r v).1 := by
  unfold writeTh64
  try dsimp only
  with_reducible repeat' first
    | assumption | intro _ | apply Keeps.updMem | apply Keeps.fst_ite | apply Keeps.ite | exact Keeps.lit rfl ‹_› | split
    | refine Keeps.lit rfl ?_

theorem writeRegion_keeps {s0 s : State} (h : Keeps s0 s) (r o : Nat) (v : Word) : Keeps s0 (writeRegion s r o v).1 := by
  unfold writeRegion
  try dsimp only
  with_reducible repeat' first
    | assumption | intro _ | apply writeRefCtl_keeps | apply writeTh64_keeps | apply Keeps.fst_ite | apply Keeps.ite
    | exact Keeps.lit rfl ‹_› | split | refine Keeps.lit rfl ?_

theorem writeTrim_keeps {s0 s : State} (h : Keeps s0 s) (p o : Nat) (v : Word) : Keeps s0 (writeTrim s p o v) := by
  unfold writeTrim
  try dsimp only
  with_reducible repeat' first
    | assumption | intro _ | apply Keeps.updCell | apply Keeps.ite | exact Keeps.lit rfl ‹_› | split | refine Keeps.lit rfl ?_

theorem stageCell_keeps {s0 s : State} (h : Keeps s0 s) (p o : Nat) (v : Word) : Keeps s0 (stageCell s p o v) := by
  unfold stageCell
  try dsimp only
  with_reducible repeat' first
    | assumption | intro _ | apply Keeps.updCell | apply Keeps.ite | exact Keeps.lit rfl ‹_› | split | refine Keeps.lit rfl ?_

theorem writeCell_keeps {s0 s : State} (h : Keeps s0 s) (p o : Nat) (v : Word) : Keeps s0 (writeCell s p o v) := by
  unfold writeCell
  try dsimp only
  with_reducible repeat' first
    | assumption | intro _ | apply writeCellCtl_keeps | apply writeFcw_keeps | apply writeLowDiv_keeps | apply writePhaseHi_keeps
    | apply writeOutCfg_keeps | apply writeLoopBw_keeps | apply writeLockThr_keeps | apply writeLockCnt_keeps
    | apply writeLockAction_keeps | apply writeEngCtl_keeps | apply writeEngPc_keeps | apply writePhaseSlew_keeps | apply writeGear_keeps
    | apply writeTrim_keeps | apply stageCell_keeps | apply Keeps.ite | exact Keeps.lit rfl ‹_› | split | refine Keeps.lit rfl ?_

theorem storeReg_keeps {s0 s : State} (h : Keeps s0 s) (level : Nat) (x : Reg) (v : Word) : Keeps s0 (storeReg s level x v).1 := by
  cases x with
  | host x => exact writeHost_keeps h ..
  | mbx x => exact writeMbx_keeps h ..
  | chip x o => exact writeChip_keeps h ..
  | region x o => exact writeRegion_keeps h ..
  | cell x o => exact windowWrite_keeps h _ _ _ fun s q k => writeCell_keeps k ..
  | tiu x o => exact writeTiu_keeps h ..
  | evin x o => exact writeEvin_keeps h ..
  | acq x o => exact writeAcq_keeps h ..
  | _ => exact h

theorem woStore_keeps {s0 s : State} (h : Keeps s0 s) (x : Reg) (v : Word) : Keeps s0 (woStore s x v) := by
  unfold woStore
  try dsimp only
  with_reducible repeat' first
    | assumption | intro _ | apply Keeps.ite | exact Keeps.lit rfl ‹_› | split | refine Keeps.lit rfl ?_

theorem writeWo1_keeps {s0 s : State} (h : Keeps s0 s) (a : Nat) (x : Reg) (v : Word) : Keeps s0 (writeWo1 s a x v).1 := by
  unfold writeWo1
  try dsimp only
  with_reducible repeat' first
    | assumption | intro _ | apply State.postHost_keeps | apply woStore_keeps | apply Keeps.fst_ite | apply Keeps.ite
    | exact Keeps.lit rfl ‹_› | split | refine Keeps.lit rfl ?_

theorem writeSqc_keeps {s0 s : State} (h : Keeps s0 s) (x : Reg) (v : Word) : Keeps s0 (writeSqc s x v).1 := by
  unfold writeSqc
  try dsimp only
  with_reducible repeat' first
    | assumption | intro _ | apply setSqc_keeps | apply Keeps.fst_ite | apply Keeps.ite | exact Keeps.lit rfl ‹_› | split
    | refine Keeps.lit rfl ?_

theorem writeKind_keeps {s0 s : State} (h : Keeps s0 s) (level a : Nat) (x : Reg) (v : Word) : Keeps s0 (writeKind s level a x v).1 := by
  unfold writeKind
  try dsimp only
  with_reducible repeat' first
    | assumption | intro _ | apply writeClasp_keeps | apply storeReg_keeps | apply writeWo1_keeps | apply writeSqc_keeps
    | apply Keeps.fst_ite | apply Keeps.ite | exact Keeps.lit rfl ‹_› | split | refine Keeps.lit rfl ?_

theorem claspCheck_keeps {s0 s : State} (h : Keeps s0 s)  : Keeps s0 (claspCheck s).1 := by
  unfold claspCheck
  try dsimp only
  with_reducible repeat' first
    | assumption | intro _ | apply State.postHost_keeps | apply Keeps.fst_ite | apply Keeps.ite | exact Keeps.lit rfl ‹_› | split
    | refine Keeps.lit rfl ?_

theorem writeReach_keeps {s0 s : State} (h : Keeps s0 s) (level a : Nat) (x : Reg) (v : Word) : Keeps s0 (writeReach s level a x v).1 :=
    by
  unfold writeReach
  try dsimp only
  with_reducible repeat' first
    | assumption | intro _ | apply State.parityFresh_keeps | apply writeKind_keeps | apply Keeps.fst_ite | apply Keeps.ite
    | exact Keeps.lit rfl ‹_› | split | refine Keeps.lit rfl ?_

theorem writeReg_keeps {s0 s : State} (h : Keeps s0 s) (level a : Nat) (x : Reg) (v : Word) : Keeps s0 (writeReg s level a x v).1 := by
  unfold writeReg
  refine Keeps.fst_ite (fun _ => h) fun _ => Keeps.fst_ite (fun _ => h) fun _ => Keeps.fst_ite (fun _ => h) fun _ => ?_
  refine Keeps.fst_ite (fun _ => ?_) fun _ => writeReach_keeps h ..
  have k := claspCheck_keeps h
  split
  · rename_i e; rw [e] at k; exact writeReach_keeps k ..
  · rename_i e; rw [e] at k; exact k

theorem writeBits_keeps {s0 s : State} (h : Keeps s0 s) (level a x3 : Nat) (l : List (Nat × Word)) : Keeps s0 (writeBits s level a x3 l).1
    := by
  unfold writeBits
  try dsimp only
  with_reducible repeat' first
    | assumption | intro _ | apply writeReg_keeps | apply Keeps.fst_ite | apply Keeps.ite | exact Keeps.lit rfl ‹_› | split
    | refine Keeps.lit rfl ?_

theorem writeAt_keeps {s0 s : State} (h : Keeps s0 s) (level a : Nat) (v : Word) : Keeps s0 (writeAt s level a v).1 := by
  unfold writeAt
  try dsimp only
  with_reducible repeat' first
    | assumption | intro _ | apply writeReg_keeps | apply writeBits_keeps | apply Keeps.fst_ite | apply Keeps.ite
    | exact Keeps.lit rfl ‹_› | split | refine Keeps.lit rfl ?_

theorem writeTwo_keeps {s0 s : State} (h : Keeps s0 s) (f : State → State × WrFlags) (hf : ∀ s, Keeps s0 s → Keeps s0 (f s).1) (g : State
    → State × WrFlags) (hg : ∀ s, Keeps s0 s → Keeps s0 (g s).1) : Keeps s0 (writeTwo s f g).1 := by
  unfold writeTwo
  try dsimp only
  with_reducible repeat' first
    | assumption | intro _ | apply hf | apply hg | apply Keeps.fst_ite | apply Keeps.ite | exact Keeps.lit rfl ‹_› | split
    | refine Keeps.lit rfl ?_

theorem writePair_keeps {s0 s : State} (h : Keeps s0 s) (level a : Nat) (hi lo : Word) : Keeps s0 (writePair s level a hi lo).1 := by
  unfold writePair
  dsimp only
  generalize locate s.hp.strict a = xl
  generalize locate s.hp.strict (a + 1) = xh
  have k := claspCheck_keeps h
  have reg : ∀ (a : Nat) (x : Reg) (v : Word) (s : State), Keeps s0 s → Keeps s0 (writeReg s level a x v).1 :=
    fun _ _ _ _ k => writeReg_keeps k ..
  split
  · exact writeBits_keeps h ..
  · split
    · split
      · rename_i e; rw [e] at k; exact k
      · rename_i e; rw [e] at k; exact writeTwo_keeps k _ (fun s k => Keeps.fst_ite (fun _ => writeReach_keeps k ..) fun _ => k) _
          (fun s k => Keeps.fst_ite (fun _ => writeReach_keeps k ..) fun _ => k)
    · split
      · exact writeTwo_keeps h _ (reg _ _ _) _ (reg _ _ _)
      · exact writeTwo_keeps h _ (reg _ _ _) _ (reg _ _ _)

theorem noteFlags_keeps {s0 s : State} (h : Keeps s0 s) (f : WrFlags) : Keeps s0 (noteFlags s f) := by
  unfold noteFlags
  try dsimp only
  with_reducible repeat' first
    | assumption | intro _ | apply Keeps.ite | exact Keeps.lit rfl ‹_› | split | refine Keeps.lit rfl ?_

theorem portWrite_keeps {s0 s : State} (h : Keeps s0 s) (a : Nat) (v : Word) : Keeps s0 (portWrite s a v) := by
  unfold portWrite
  try dsimp only
  with_reducible repeat' first
    | assumption | intro _ | apply releaseCfg_keeps | apply writeAt_keeps | apply noteFlags_keeps | apply Keeps.ite
    | exact Keeps.lit rfl ‹_› | split | refine Keeps.lit rfl ?_

theorem portWriteOf_keeps {s0 s : State} (h : Keeps s0 s) (k : RegKind → Bool) (a : Nat) (v : Word) : Keeps s0 (portWriteOf s k a v) := by
  unfold portWriteOf
  try dsimp only
  with_reducible repeat' first
    | assumption | intro _ | apply portWrite_keeps | apply Keeps.ite | exact Keeps.lit rfl ‹_› | split | refine Keeps.lit rfl ?_

/-- The state that a read of a register leaves. -/
theorem readAt_keeps {s0 s : State} (h : Keeps s0 s) (fw : Bool) (level a : Nat) : Keeps s0 (readAt s fw level a).2.2 := by
  unfold readAt readReg
  dsimp only
  split
  · exact h
  · split
    · exact h
    · split
      · exact h
      · split
        · exact readEffect_keeps h _
        · split
          · exact snapTake_keeps h ..
          · exact h

theorem portRead_keeps {s0 s : State} (h : Keeps s0 s) (a : Nat) : Keeps s0 (portRead s a) := by
  unfold portRead
  exact Keeps.ite (fun _ => readAt_keeps h ..) fun _ => h

theorem tiuParity_keeps {s0 s : State} (h : Keeps s0 s) (t : Nat) : Keeps s0 (tiuParity s t) := by
  unfold tiuParity
  try dsimp only
  with_reducible repeat' first
    | assumption | intro _ | apply Keeps.updBlock | apply Keeps.updTiu | apply pushFault_keeps | apply tiuStop_keeps | apply Keeps.ite
    | exact Keeps.lit rfl ‹_› | split | refine Keeps.lit rfl ?_

theorem parityFault_keeps {s0 s : State} (h : Keeps s0 s) (x : Reg) (a : Nat) : Keeps s0 (parityFault s x a) := by
  unfold parityFault
  try dsimp only
  with_reducible repeat' first
    | assumption | intro _ | apply Keeps.updCell | apply State.postHost_keeps | apply faultBlock_keeps | apply faultRegion_keeps
    | apply faultChip_keeps | apply causeE_keeps | apply tiuParity_keeps | apply Keeps.ite | exact Keeps.lit rfl ‹_› | split
    | refine Keeps.lit rfl ?_

/-! ### Diag -/

theorem mirrorNamed_keeps {s0 s : State} (h : Keeps s0 s) (c : Cmd) (l : List (Nat × Word)) : Keeps s0 (mirrorNamed s c l) := by
  unfold mirrorNamed
  try dsimp only
  with_reducible repeat' first
    | assumption | intro _ | apply Keeps.forAll | apply writeCell_keeps | apply Keeps.ite | exact Keeps.lit rfl ‹_› | split
    | refine Keeps.lit rfl ?_

theorem takePins_keeps {s0 s : State} (h : Keeps s0 s)  : Keeps s0 (takePins s) := by
  unfold takePins
  try dsimp only
  with_reducible repeat' first
    | assumption | intro _ | apply Keeps.forAll | apply countRetrain_keeps | apply portFall_keeps | apply Keeps.ite
    | exact Keeps.lit rfl ‹_› | split | refine Keeps.lit rfl ?_

theorem returnPins_keeps {s0 s : State} (h : Keeps s0 s)  : Keeps s0 (returnPins s) := by
  unfold returnPins
  try dsimp only
  with_reducible repeat' first
    | assumption | intro _ | apply Keeps.updCell | apply Keeps.forAll | apply Keeps.ite | exact Keeps.lit rfl ‹_› | split
    | refine Keeps.lit rfl ?_

theorem loadJtag_keeps {s0 s : State} (h : Keeps s0 s) (code : Byte) : Keeps s0 (loadJtag s code) := by
  unfold loadJtag
  try dsimp only
  with_reducible repeat' first
    | assumption | intro _ | apply takePins_keeps | apply returnPins_keeps | apply Keeps.ite | exact Keeps.lit rfl ‹_› | split
    | refine Keeps.lit rfl ?_

/-! ### HostPort -/

theorem doWrite_keeps {s0 s : State} (h : Keeps s0 s) (x1 : Hdr) (l : List Bool) (x : State × WrFlags) (hx : Keeps s0 x.1) (i a : Nat) :
    Keeps s0 (doWrite x1 l x i a).1 := by
  unfold doWrite
  try dsimp only
  with_reducible repeat' first
    | assumption | intro _ | apply writeAt_keeps | apply writePair_keeps | apply Keeps.fst_ite | apply Keeps.ite | exact Keeps.lit rfl ‹_›
    | split | refine Keeps.lit rfl ?_

theorem doWrites_keeps {s0 s : State} (h : Keeps s0 s) (x1 : Hdr) (l : List Bool) : Keeps s0 (doWrites s x1 l).1 := by
  unfold doWrites
  try dsimp only
  with_reducible repeat' first
    | assumption | intro _ | apply doWrite_keeps | apply Keeps.foldl | apply Keeps.foldl_fst | apply Keeps.fst_ite | apply Keeps.ite
    | exact Keeps.lit rfl ‹_› | split | refine Keeps.lit rfl ?_

theorem rejectFrame_keeps {s0 s : State} (h : Keeps s0 s) (why : Nat) : Keeps s0 (rejectFrame s why) := by
  unfold rejectFrame
  try dsimp only
  with_reducible repeat' first
    | assumption | intro _ | apply Keeps.ite | exact Keeps.lit rfl ‹_› | split | refine Keeps.lit rfl ?_

theorem nextAlive_keeps {s0 s : State} (h : Keeps s0 s) (x1 : Hdr) : Keeps s0 (nextAlive s x1) := by
  unfold nextAlive
  try dsimp only
  with_reducible repeat' first
    | assumption | intro _ | apply Keeps.ite | exact Keeps.lit rfl ‹_› | split | refine Keeps.lit rfl ?_

theorem drove_keeps {s0 s : State} (h : Keeps s0 s) (l : List Bool) : Keeps s0 (drove s l) := by
  unfold drove
  try dsimp only
  with_reducible repeat' first
    | assumption | intro _ | apply Keeps.ite | exact Keeps.lit rfl ‹_› | split | refine Keeps.lit rfl ?_

/-- The state behind one word of a READ. -/
theorem readWord_keeps {s0 : State} {x : ReadRun} (h : Keeps s0 x.st) (a : Nat) : Keeps s0 (x.word a).2.st := by
  unfold ReadRun.word
  split
  · exact h
  · exact readAt_keeps h ..

/-- The state behind one access of a READ. -/
theorem readAccess_keeps {s0 : State} (hd : Hdr) {x : ReadRun} (h : Keeps s0 x.st) (a : Nat) : Keeps s0 (ReadRun.access hd x a).st := by
  unfold ReadRun.access
  have k := readWord_keeps h a
  dsimp only
  split
  · exact k
  · split
    · exact readWord_keeps k _
    · split <;> exact k

/-- The state behind the reads of a READ frame. -/
theorem doReads_keeps {s0 s : State} (h : Keeps s0 s) (hd : Hdr) : Keeps s0 (doReads s hd).st := by
  unfold doReads
  have : ∀ (l : List Nat) (x : ReadRun), Keeps s0 x.st → Keeps s0 (l.foldl (ReadRun.access hd) x).st := by
    intro l
    induction l with
    | nil => exact fun x h => h
    | cons a l ih => exact fun x h => ih _ (readAccess_keeps hd h a)
  exact this _ _ h

theorem finishRead_keeps {s0 s : State} (h : Keeps s0 s) (hd : Hdr) (n : Nat) (late : List Nat) : Keeps s0 (finishRead s hd n late) := by
  unfold finishRead
  have k := doReads_keeps h hd
  dsimp only
  refine Keeps.ite (fun _ => ?_) fun _ => ?_
  · exact Keeps.lit rfl (drove_keeps (nextAlive_keeps k hd) _)
  · exact Keeps.lit rfl (rejectFrame_keeps (drove_keeps (nextAlive_keeps h hd) _) _)

theorem finishWrite_keeps {s0 s : State} (h : Keeps s0 s) (x1 : Hdr) (l : List Bool) : Keeps s0 (finishWrite s x1 l) := by
  unfold finishWrite
  try dsimp only
  with_reducible repeat' first
    | assumption | intro _ | apply releaseCfg_keeps | apply doWrites_keeps | apply rejectFrame_keeps | apply nextAlive_keeps
    | apply drove_keeps | apply Keeps.ite | exact Keeps.lit rfl ‹_› | split | refine Keeps.lit rfl ?_

theorem frame_keeps {s0 s : State} (h : Keeps s0 s) (l : List Bool) (late : List Nat) : Keeps s0 (frame s l late) := by
  unfold frame
  try dsimp only
  with_reducible repeat' first
    | assumption | intro _ | apply rejectFrame_keeps | apply nextAlive_keeps | apply drove_keeps | apply finishRead_keeps
    | apply finishWrite_keeps | apply Keeps.ite | exact Keeps.lit rfl ‹_› | split | refine Keeps.lit rfl ?_

theorem portRecovery_keeps {s0 s : State} (h : Keeps s0 s)  : Keeps s0 (portRecovery s) := by
  unfold portRecovery
  try dsimp only
  with_reducible repeat' first
    | assumption | intro _ | apply State.postHost_keeps | apply Keeps.ite | exact Keeps.lit rfl ‹_› | split | refine Keeps.lit rfl ?_

/-! ### Tick -/

theorem settleOut_keeps {s0 s : State} (h : Keeps s0 s) (p : Nat) : Keeps s0 (settleOut s p) := by
  unfold settleOut
  extract_lets slews
  have h1 : Keeps s0 slews := Keeps.forAll h fun s _ k => slewPeriod_keeps k _
  clear_value slews
  apply toutDisable_keeps; apply toutActive_keeps; apply muteAtFall_keeps; apply retimeRise_keeps; apply hopRetime_keeps
  exact dividerChange_keeps h1 _

theorem hopMissed_keeps {s0 s : State} (h : Keeps s0 s) (p : Nat) : Keeps s0 (hopMissed s p) := by
  unfold hopMissed
  try dsimp only
  with_reducible repeat' first
    | assumption | intro _ | apply Keeps.updCell | apply complete_keeps | apply Keeps.ite | exact Keeps.lit rfl ‹_› | split
    | refine Keeps.lit rfl ?_

theorem settleCell_keeps {s0 s : State} (h : Keeps s0 s) (p : Nat) : Keeps s0 (settleCell s p) := by
  unfold settleCell
  refine Keeps.ite (fun _ => hopEdge_keeps (hopMissed_keeps h _) _) fun _ => ?_
  extract_lets s1 s2
  have h1 : Keeps s0 s1 := hopEdge_keeps (engSettle_keeps (waitTimeout_keeps (settleOut_keeps h _) _) _ _) _
  clear_value s1
  have h2 : Keeps s0 s2 := gearEnd_keeps (loopEdge_keeps (hopMissed_keeps h1 _) _) _
  clear_value s2
  apply settleOut_keeps; apply learnDone_keeps; apply hintStale_keeps; apply relockTimeout_keeps
  exact acqTimeout_keeps h2 _

theorem settleBlock_keeps {s0 s : State} (h : Keeps s0 s) (B : Nat) : Keeps s0 (settleBlock s B) := by
  unfold settleBlock
  apply seatExpired_keeps; apply selectorSwitch_keeps; apply switchWait_keeps
  exact changeover_keeps h _

theorem settleTiu_keeps {s0 s : State} (h : Keeps s0 s) (t : Nat) : Keeps s0 (settleTiu s t) := by
  unfold settleTiu
  apply tiuLate_keeps
  exact readyAtTime_keeps h _

theorem settleRegion_keeps {s0 s : State} (h : Keeps s0 s) (r : Nat) : Keeps s0 (settleRegion s r) := by
  unfold settleRegion
  extract_lets s1
  have h1 : Keeps s0 s1 := Keeps.forAll (Keeps.forAll h fun s p k => settleCell_keeps k _) fun s B k => settleBlock_keeps k _
  clear_value s1
  exact settleAcq_keeps (Keeps.forAll (applicationEdge_keeps h1 _) fun s t k => settleTiu_keeps k _) _

theorem wakeRegion_keeps {s0 s : State} (h : Keeps s0 s) (r : Nat) : Keeps s0 (wakeRegion s r) := by
  unfold wakeRegion
  try dsimp only
  with_reducible repeat' first
    | assumption | intro _ | apply Keeps.updCell | apply Keeps.forAll | apply Keeps.ite | exact Keeps.lit rfl ‹_› | split
    | refine Keeps.lit rfl ?_

theorem dropPulses_keeps {s0 s : State} (h : Keeps s0 s) (r : Nat) : Keeps s0 (dropPulses s r) := by
  unfold dropPulses
  try dsimp only
  with_reducible repeat' first
    | assumption | intro _ | apply Keeps.ite | exact Keeps.lit rfl ‹_› | split | refine Keeps.lit rfl ?_

theorem applyEvins_keeps {s0 s : State} (h : Keeps s0 s) (r : Nat) : Keeps s0 (applyEvins s r) := by
  unfold applyEvins
  try dsimp only
  with_reducible repeat' first
    | assumption | intro _ | apply Keeps.forAll | apply evinApply_keeps | apply Keeps.ite | exact Keeps.lit rfl ‹_› | split
    | refine Keeps.lit rfl ?_

theorem applyTh64_keeps {s0 s : State} (h : Keeps s0 s) (r : Nat) : Keeps s0 (applyTh64 s r) := by
  unfold applyTh64
  try dsimp only
  with_reducible repeat' first
    | assumption | intro _ | apply Keeps.updMem | apply Keeps.ite | exact Keeps.lit rfl ‹_› | split | refine Keeps.lit rfl ?_

theorem tickRegion_keeps {s0 s : State} (h : Keeps s0 s) (r : Nat) : Keeps s0 (tickRegion s r) := by
  unfold tickRegion
  try dsimp only
  with_reducible repeat' first
    | assumption | intro _ | apply Keeps.updRegion | apply deliverDue_keeps | apply wakeRegion_keeps | apply dropPulses_keeps
    | apply applyEvins_keeps | apply applyTh64_keeps | apply Keeps.ite | exact Keeps.lit rfl ‹_› | split | refine Keeps.lit rfl ?_

theorem launchBlocks_keeps {s0 s : State} (h : Keeps s0 s)  : Keeps s0 (launchBlocks s) := by
  unfold launchBlocks
  try dsimp only
  with_reducible repeat' first
    | assumption | intro _ | apply Keeps.ite | exact Keeps.lit rfl ‹_› | split | refine Keeps.lit rfl ?_

theorem settleFabric_keeps {s0 s : State} (h : Keeps s0 s)  : Keeps s0 (settleFabric s) := by
  unfold settleFabric
  try dsimp only
  with_reducible repeat' first
    | assumption | intro _ | apply Keeps.forAll | apply deliverEvent_keeps | apply Keeps.ite | exact Keeps.lit rfl ‹_› | split
    | refine Keeps.lit rfl ?_

theorem idleEdge_keeps {s0 s : State} (h : Keeps s0 s) : Keeps s0 (idleEdge s) := by
  unfold idleEdge
  extract_lets up s1
  have h1 : Keeps s0 s1 := Keeps.forAll (settleFabric_keeps (epochLoad_keeps h)) fun s r k => settleRegion_keeps k _
  clear_value s1
  exact Keeps.forAll (launchBlocks_keeps h1) fun s r k => tickRegion_keeps k _

end Sys2Proof.Machine
end

