-- ==== Sys2Proof/WellFormed.lean ====
section
/-! DEFINITION. Well-formed commands: every operand that numbers a unit, a tag, a register address or a memory
lies in the range the spec gives it. Operands that are bit vectors, and readings, need no check. -/
namespace Sys2Proof

/-- Physical cells 0..255 and the spares 256..271 (R13, R15). -/
def cellOk (p : Nat) : Bool := decide (p < 272)
/-- Regions 0..3 (R13). -/
def regionOk (r : Nat) : Bool := decide (r < 4)
/-- Blocks 4r + b (R13). -/
def blockOk (b : Nat) : Bool := decide (b < 16)
/-- TIUs 16r + 4b + t (R13). -/
def tiuOk (t : Nat) : Bool := decide (t < 64)
/-- Event inputs 0..255 (R13). -/
def evinOk (i : Nat) : Bool := decide (i < 256)
/-- Event inputs of one region 0..63 (R13). -/
def inputOk (n : Nat) : Bool := decide (n < 64)
/-- Plawen ports 0 UP, 1..4 DN0..DN3 (R339). -/
def portOk (i : Nat) : Bool := decide (i < 5)
/-- TEV inputs 0..7 (R472). -/
def tevOk (i : Nat) : Bool := decide (i < 8)
/-- Tags of nine bits (R230). -/
def tagOk (tag : Nat) : Bool := decide (tag < 512)
/-- Register addresses of 18 bits (R304). -/
def addrOk (addr : Nat) : Bool := decide (addr < 0x40000)
/-- Monitored rails 0..8 (R438). -/
def railOk (rail : Nat) : Bool := decide (rail < 9)
/-- Sources with an activity monitor: 0 XO, 1 REFIN, 2 UPLINK (R41). -/
def srcIdxOk (src : Nat) : Bool := decide (src < 3)
/-- Offsets of the trigger conditions in the acquisition window (R211). -/
def trigOffOk (off : Nat) : Bool := decide (0x10 ≤ off) && decide (off < 0x30)
/-- Memories by their codes in R408 that lie in a region. -/
def memOk (mem : Nat) : Bool := decide (mem < 11)
/-- Mark numbers of eight bits (R354). -/
def markOk (m : Nat) : Bool := decide (m < 256)
/-- Strands of an engine (R217). -/
def strandOk (strand : Nat) : Bool := decide (strand < 4096)
/-- Roles an IDENT block carries (R341). -/
def roleOk (role : Nat) : Bool := decide (role < 4)
/-- Depths below a manager (R343). -/
def depthOk (depth : Nat) : Bool := decide (depth < 4)
/-- Paths of 15 bits (R343, R357). -/
def pathOk15 (path : Nat) : Bool := decide (path < 0x8000)
/-- Fabric segments and the unit of one: a region for segment 3, a block for segment 4 (R434). -/
def segOk (seg unit : Nat) : Bool :=
  decide (seg < 9) && (if seg = 3 then regionOk unit else if seg = 4 then blockOk unit else decide (unit = 0))
/-- Scopes of RESET with the index of their unit: 1 region, 2 block, 3 cell, 4 TIU (R230, R462). -/
def scopeOk (scope index : Nat) : Bool :=
  if scope = 1 then regionOk index else if scope = 2 then blockOk index else if scope = 3 then cellOk index
  else if scope = 4 then tiuOk index else false

/-- The command is well-formed. -/
def Instr.wellFormed (i : Instr) : Bool :=
  match i with
  | .rstNAssert _ => true
  | .resetCtlWrite _ => true
  | .brownOut rail => railOk rail
  | .dcoSupply r => regionOk r
  | .supplyWindow rail _ => railOk rail
  | .supplyHoldRelease r => regionOk r
  | .undervolt _ => true
  | .paceConfirm _ => true
  | .paceConfirmTimeout _ => true
  | .paceCtlModeWrite _ _ => true
  | .pmAlertNAssert _ => true
  | .sensorConversion b _ => blockOk b
  | .railBackInWindow rail _ => railOk rail
  | .rcWindowEnd _ => true
  | .refinWindowEnd _ => true
  | .uplinkWindowEnd _ => true
  | .activityMonitorFire src => srcIdxOk src
  | .refinCfgWrite _ => true
  | .refinFreqCommit _ => true
  | .refCtlSrcWrite r _ => regionOk r
  | .refCtlBwWrite r _ => regionOk r
  | .muxChangeover r _ => regionOk r
  | .muxWatchdog r _ => regionOk r
  | .relockFail p => cellOk p
  | .holdoverLong r => regionOk r
  | .borrowDelayExpiry r => regionOk r
  | .rrpLocked r => regionOk r
  | .realigned r => regionOk r
  | .timeWrap r => regionOk r
  | .regionRealignTick r => regionOk r
  | .unitResetEnd scope index => scopeOk scope index
  | .cellCtlEnSet p _ => cellOk p
  | .cellCtlEnClear p _ => cellOk p
  | .cellCtlOutEnSet p _ => cellOk p
  | .cellCtlOutEnClear p _ => cellOk p
  | .cellCtlMuteSet p _ => cellOk p
  | .cellCtlMuteClear p _ => cellOk p
  | .cellCtlHoldSet p _ => cellOk p
  | .cellCtlHoldClear p _ => cellOk p
  | .fcwIntCommit p _ => cellOk p
  | .lowDivCommit p _ => cellOk p
  | .phaseHiCommit p _ => cellOk p
  | .outCfgWrite p _ => cellOk p
  | .loopBwWrite p _ => cellOk p
  | .lockThrWrite p _ => cellOk p
  | .lockCntWrite p _ => cellOk p
  | .engCtlRun p _ => cellOk p
  | .engCtlStop p _ => cellOk p
  | .engCtlStep p _ => cellOk p
  | .bandSearchEnd p _ _ _ => cellOk p
  | .bandSwitchSettled p => cellOk p
  | .gearPeriodEnd p => cellOk p
  | .slewPeriod p => cellOk p
  | .dividerChangeover p => cellOk p
  | .hopRetime p => cellOk p
  | .retimeFirstRise p => cellOk p
  | .toutMuteAtFall p => cellOk p
  | .toutActiveAtAnchor p => cellOk p
  | .toutDisableDelay p => cellOk p
  | .lockDeclared p _ _ => cellOk p
  | .lockLoss p _ => cellOk p
  | .fineCodeRail p _ => cellOk p
  | .acqTimeout p => cellOk p
  | .hintStale p => cellOk p
  | .drvFault p _ => cellOk p
  | .learnWriteback p => cellOk p
  | .profileFetchComplete p _ => cellOk p
  | .hopEffectEdge p => cellOk p
  | .arbiterGrant b => blockOk b
  | .changeoverEdge b => blockOk b
  | .selectorSwitch b => blockOk b
  | .seatingTimeout b => blockOk b
  | .halt p => cellOk p
  | .nop p => cellOk p
  | .hopInstr p => cellOk p
  | .hopl p => cellOk p
  | .waitc p => cellOk p
  | .waitt p => cellOk p
  | .waite p => cellOk p
  | .sync p => cellOk p
  | .mark p => cellOk p
  | .phs p => cellOk p
  | .seto p => cellOk p
  | .loop p => cellOk p
  | .endl p => cellOk p
  | .jmp p => cellOk p
  | .brl p => cellOk p
  | .irq p => cellOk p
  | .ext p => cellOk p
  | .illegalOpcode p => cellOk p
  | .engineRunaway p => cellOk p
  | .engineLate p => cellOk p
  | .waitTimeout p => cellOk p
  | .heldRecordPost acq i => (if acq then regionOk i else cellOk i)
  | .tiuCtlArm t _ => tiuOk t
  | .tiuCtlAbort t => tiuOk t
  | .gateCommit t _ => tiuOk t
  | .tiuPrecalDone t _ _ _ _ => tiuOk t
  | .tiuReadyAtTime t => tiuOk t
  | .tiuSourceEdge t _ _ => tiuOk t
  | .tiuResult t => tiuOk t
  | .tiuTimeout t => tiuOk t
  | .evinCtlWrite i _ => evinOk i
  | .thresholdWrite i _ _ => evinOk i
  | .evinEnableSettle i => evinOk i
  | .evinComparatorChange r _ chg => regionOk r && chg.all (fun c => inputOk c.1)
  | .triggerQuietTime r _ _ => regionOk r
  | .trigRegisterWrite r off _ => regionOk r && trigOffOk off
  | .acqCtlArm r _ => regionOk r
  | .acqCtlStop r => regionOk r
  | .acqStartEdge r => regionOk r
  | .postTimeExpiry r => regionOk r
  | .rearmEnd r => regionOk r
  | .gapClose r _ => regionOk r
  | .streamPacketSend r => regionOk r
  | .mbxPushWrite _ => true
  | .mbxDoorbellWrite _ => true
  | .continuationResume tag => tagOk tag
  | .unknownOpcode tag => tagOk tag
  | .deadlineExpiry tag => tagOk tag
  | .mpLockstep _ => true
  | .mpRamEcc _ => true
  | .fabricDeadlock seg unit => segOk seg unit
  | .registerScrub addr _ => addrOk addr
  | .eccScrub r mem _ _ _ => regionOk r && memOk mem
  | .mirrorWrite _ => true
  | .info tag => tagOk tag
  | .reset tag => tagOk tag
  | .paceSet tag => tagOk tag
  | .tempRead tag => tagOk tag
  | .refSelect tag => tagOk tag
  | .refQualify tag => tagOk tag
  | .rrpConfig tag => tagOk tag
  | .timeRead tag => tagOk tag
  | .epochSet tag => tagOk tag
  | .cellEnable tag => tagOk tag
  | .profileWrite tag => tagOk tag
  | .profileRead tag _ => tagOk tag
  | .hop tag => tagOk tag
  | .phaseSet tag => tagOk tag
  | .outConfig tag => tagOk tag
  | .lockConfig tag => tagOk tag
  | .cellStatus tag => tagOk tag
  | .progLoad tag => tagOk tag
  | .engineStart tag => tagOk tag
  | .engineStop tag => tagOk tag
  | .engineStatus tag => tagOk tag
  | .hoptablePartition tag => tagOk tag
  | .partitionComplete r => regionOk r
  | .planCheck tag => tagOk tag
  | .tiuConfig tag => tagOk tag
  | .tiuArm tag => tagOk tag
  | .freqMeasure tag => tagOk tag
  | .tiuRead tag => tagOk tag
  | .evinConfig tag => tagOk tag
  | .trigConfig tag => tagOk tag
  | .acqArm tag => tagOk tag
  | .acqStop tag => tagOk tag
  | .acqRead tag _ => tagOk tag
  | .acqStream tag => tagOk tag
  | .calRun tag => tagOk tag
  | .calUnitMeasured b _ _ => blockOk b
  | .calStatus tag => tagOk tag
  | .calCommit tag => tagOk tag
  | .calCommitWritten _ => true
  | .calDeferredApply r => regionOk r
  | .calApplicationEdge r => regionOk r
  | .calExport tag => tagOk tag
  | .calImportTh64 tag => tagOk tag
  | .bistRun tag => tagOk tag
  | .bistTestsDone b _ _ => blockOk b
  | .offlineStart r => regionOk r
  | .offlineRestore r _ _ => regionOk r
  | .bistResult tag => tagOk tag
  | .repairApply tag => tagOk tag
  | .repairBurn tag => tagOk tag
  | .fuseEntryBurned _ => true
  | .idRead tag => tagOk tag
  | .certRead tag => tagOk tag
  | .hallmark tag => tagOk tag
  | .sessionOpen tag => tagOk tag
  | .sessionEnd tag => tagOk tag
  | .pinSet tag => tagOk tag
  | .protSet tag => tagOk tag
  | .protRead tag => tagOk tag
  | .lifecycleSet tag => tagOk tag
  | .ownerTransfer tag => tagOk tag
  | .lifecycleWipeDone _ => true
  | .treeScan tag _ => tagOk tag
  | .treeStatus tag _ => tagOk tag
  | .treeTunnel tag _ => tagOk tag
  | .regRead tag => tagOk tag
  | .regWrite tag => tagOk tag
  | .loupe tag => tagOk tag
  | .faultLogRead tag => tagOk tag
  | .fwInfo tag => tagOk tag
  | .fwUpdateBegin tag => tagOk tag
  | .fwUpdateData tag => tagOk tag
  | .fwUpdateEnd tag => tagOk tag
  | .nullFrame _ => true
  | .readFrame _ _ => true
  | .writeFrame _ => true
  | .hostCfgWrite _ => true
  | .claspWrite _ => true
  | .rwcWrite addr _ => addrOk addr
  | .sqcRead addr => addrOk addr
  | .sqcWriteBack addr _ => addrOk addr
  | .wo1Write addr _ => addrOk addr
  | .bitAliasWrite addr _ => addrOk addr
  | .snapshotRead addr => addrOk addr
  | .registerWrite addr _ => addrOk addr
  | .flashCmdGo _ _ _ => true
  | .flashDataWrite _ => true
  | .flashSelWrite _ => true
  | .flashCfgWrite _ => true
  | .flashWindowRead _ => true
  | .flashWindowWrite _ _ => true
  | .flashWipPoll _ => true
  | .signalDetect i => portOk i
  | .blockLock i => portOk i
  | .identBlockReceive i _ role depth path => portOk i && roleOk role && depthOk depth && pathOk15 path
  | .measureComplete i _ _ => portOk i
  | .invalidBlock i _ => portOk i
  | .lossOfSignal i => portOk i
  | .plCtlRetrain i => portOk i
  | .timeExchange i => portOk i
  | .timeBlockReceive i _ _ _ _ _ => portOk i
  | .eventBlockReceive i m _ => portOk i && markOk m
  | .eventDelivery m _ => markOk m
  | .tevEdge i _ => tevOk i
  | .epochBlockReceive _ _ => true
  | .joinBlockReceive _ => true
  | .joinBoundary _ _ => true
  | .tunnelFrameReceive i path _ _ => portOk i && pathOk15 path
  | .streamPacketReceive i path r strand _ _ => portOk i && pathOk15 path && regionOk r && strandOk strand
  | .creditBlockReceive i _ => portOk i
  | .jtagInstructionUpdate _ => true
  | .th64CtlWrite r _ => regionOk r
  | .powerOnResetRelease => true
  | .rstNRelease => true
  | .wipeEnd => true
  | .xoQualTimeout => true
  | .firmwareStart => true
  | .readyAssert => true
  | .frstNRelease => true
  | .paceDrainEnd => true
  | .thermRelease => true
  | .hoursTick => true
  | .epochLoad => true
  | .selfTestSlotGrant => true
  | .batchParse => true
  | .parseResume => true
  | .mbxPopRead => true
  | .coalesceAgeExpiry => true
  | .mpWatchdog => true
  | .mpRestart => true
  | .chipWatchdog => true
  | .logOverflow => true
  | .pinFailDelayEnd => true
  | .challengeExpiry => true
  | .emptyFrame => true
  | .claspTimeout => true
  | .flashDataRead => true
  | .flashPollTimeout => true
  | .tunnelDeliver => true
  | .tapReset => true

end Sys2Proof
end

