-- ==== Sys2Proof/Tests/Slice0.lean ====
section
/-! SUPPORT. The model's own tests: an ill-formed command for each check of WellFormed; the spec's worked examples, by
value; and for every statement of Obligations a theorem `wit_<its name>` with, clause by clause, states and operands that
meet the clause's hypotheses together. The expected values come from the spec's text or from its formulas by hand. -/
open Sys2Proof Sys2Proof.Machine Sys2Proof.Claims
set_option maxRecDepth 20000
set_option linter.unusedVariables false
namespace Sys2Proof.Tests
set_option Elab.async false

/-! ## Ill-formed commands -/

theorem test_illformed_cell : (Instr.nop 272).wellFormed = false := by decide
theorem test_illformed_region : (Instr.rrpLocked 4).wellFormed = false := by decide
theorem test_illformed_block : (Instr.arbiterGrant 16).wellFormed = false := by decide
theorem test_illformed_tiu : (Instr.tiuResult 64).wellFormed = false := by decide
theorem test_illformed_evin : (Instr.evinCtlWrite 256 0).wellFormed = false := by decide
theorem test_illformed_input : (Instr.evinComparatorChange 0 0 [(64, 0)]).wellFormed = false := by decide
theorem test_illformed_held_cell : (Instr.heldRecordPost false 272).wellFormed = false := by decide
theorem test_illformed_held_region : (Instr.heldRecordPost true 4).wellFormed = false := by decide
theorem test_illformed_port : (Instr.signalDetect 5).wellFormed = false := by decide
theorem test_illformed_tev : (Instr.tevEdge 8 true).wellFormed = false := by decide
theorem test_illformed_tag : (Instr.info 512).wellFormed = false := by decide
theorem test_illformed_address : (Instr.sqcRead 0x40000).wellFormed = false := by decide
theorem test_illformed_rail : (Instr.brownOut 9).wellFormed = false := by decide
theorem test_illformed_source : (Instr.activityMonitorFire 3).wellFormed = false := by decide
theorem test_illformed_trigger_low : (Instr.trigRegisterWrite 0 0x0F 0).wellFormed = false := by decide
theorem test_illformed_trigger_high : (Instr.trigRegisterWrite 0 0x30 0).wellFormed = false := by decide
theorem test_illformed_memory : (Instr.eccScrub 0 11 0 0 0).wellFormed = false := by decide
theorem test_illformed_mark : (Instr.eventDelivery 256 0).wellFormed = false := by decide
theorem test_illformed_strand : (Instr.streamPacketReceive 0 0 0 4096 0 []).wellFormed = false := by decide
theorem test_illformed_role : (Instr.identBlockReceive 0 0 4 0 0).wellFormed = false := by decide
theorem test_illformed_depth : (Instr.identBlockReceive 0 0 0 4 0).wellFormed = false := by decide
theorem test_illformed_path : (Instr.identBlockReceive 0 0 0 0 0x8000).wellFormed = false := by decide
theorem test_illformed_segment : (Instr.fabricDeadlock 3 4).wellFormed = false := by decide
theorem test_illformed_segment_unit : (Instr.fabricDeadlock 9 0).wellFormed = false := by decide
theorem test_illformed_scope : (Instr.unitResetEnd 0 0).wellFormed = false := by decide

/-! ## Worked examples of the spec -/

/-- The interval example of chapter 8, with the pre-calibration it gives. -/
def tiuRunning : TiuSt :=
  { st := .ready, run := { start := 0, stop := 0x100 }, dly := (2146, 2093), a1 := 660, a2 := 1297, b1 := 652, b2 := 1290 }

/-- Chapter 8, interval example: two stamps and their difference. -/
theorem test_tiu_interval :
    ((tiuRunning.startEdge 1000 1001).stopEdge 1032 800).result 0 =
      { flags := 0x00C00, start := 0xF992C08, stop := 0x101A6700, ivl := 0x813AF8, count := 2 } := by decide +kernel

/-- The stamps of chapter 8's frequency example. -/
def tiuGated : TiuSt :=
  { run := { mode := 2, q := 5, pre := 0, gate := 80000 },
    stamps := [(0, 10), (250, 250003105), (500, 500006260), (750, 750009395), (1000, 1000012480)].map
      (fun x => (x.1, x.2 * 2 ^ 18 / 12500)) }

/-- Chapter 8, regression: the last stamp less the first, over five stamps. -/
theorem test_tiu_gate : (tiuGated.result 0).count = 5 ∧ tiuGated.fullStatus = 0 := by decide +kernel

/-- Chapter 16's output delay example: five FACTORY values, and USER measured at point 2 alone. -/
def delayFactory : CalSet := (List.range 5).map (fun i => (calKey 0x07 183 i, { vals := [[-124, -89, -51, -10, 32].getD i 0] }))
def delayUser : CalSet := [(calKey 0x07 183 2, { vals := [-47] })]

theorem test_cal_interpolates : workVals delayFactory delayUser true 0x07 183 757 = [-71] := by decide +kernel
theorem test_cal_next_update : workVals delayFactory delayUser true 0x07 183 765 = [-70] := by decide +kernel
theorem test_cal_clamps_below_20 : workVals delayFactory delayUser true 0x07 183 200 = [-120] := by decide +kernel
theorem test_cal_trim_field : (trimField 12 [-71]).setWidth 18 = (0x00FB9 : Word) := by decide

/-- Chapter 4's profile example: profile 5 of channel 183. -/
def row183 : List Word := [0x0C00C, 0x14413, 0x161F7, 0x00008, 0x00001, 0x00000, 0x00000, 0x2267C, 0x28F5C]

theorem test_check_word : checkWord 183 5 row183 = 0x24F10 := by decide
theorem test_rotl : rotl 0x14413 1 = 0x28826 ∧ rotl 0x161F7 2 = 0x187DD := by decide

/-- Chapter 3: N = 16, K/M = 48/125 is 13.1072 GHz over 800 MHz. -/
theorem test_ratio_exact_mode : ratio { mode := true, n := 16, k := 48, m := 125 } * 800 = 131072 / 10 := by decide +kernel

/-- Chapter 4, return to 156.25 MHz: the old profile's falling edge after E, and the new profile's first rising edge. -/
theorem test_hop_last_fall : firstFall (1 / 8) 0 0 1003201 = 1003204 := by decide +kernel
theorem test_hop_first_rise : firstAnchor (25 / 128) 0 0 (1003204 + 256 / 100) = 100320768 / 100 := by decide +kernel

/-- Chapter 6, enabling a 156.25 MHz channel: first rising edge half a period after the band switch settled. -/
theorem test_enable_first_rise : firstAnchor (25 / 128) 0 0 (2000964 + 256 / 100) = 200096768 / 100 := by decide +kernel

/-- Chapter 2, stamp one hour after the epoch, sample slot 3. -/
theorem test_stamp_words : stampWords (BitVec.ofNat 54 2880000000000) 0x18000 = [0x00029, 0x3A358, 0x08000, 0x18000] := by decide

/-- Chapter 11's example batch: PROFILE_WRITE and HOP on channel 183. -/
def batch : List Word :=
  [0x04210, 0x180B7, 0x0000D, 0x20005] ++ row183 ++ [0x04611, 0x180B7, 0x00007, 0x20005, 0x00000, 0x00200, 0x00000]

theorem test_batch_parses :
    ((parseAll [batch] { State.reset with mbx.unparsed := [batch] }).mbx.cmds.map
      (fun c => [c.opcode, c.tag, c.target.toNat, c.len])) = [[0x021, 0x010, 0x180B7, 13], [0x023, 0x011, 0x180B7, 7]] := by
  decide +kernel

theorem test_target_of_batch : tgtScope 0x180B7 = 3 ∧ tgtIndex 0x180B7 = 183 := by decide

/-- FIPS 180-4's digest of "abc", and the check value of CRC-32. -/
theorem test_sha256 : beNat (sha256 [0x61, 0x62, 0x63]) =
    0xBA7816BF8F01CFEA414140DE5DAE2223B00361A396177A9CB410FF61F20015AD := by decide +kernel
theorem test_crc32 : crc32 [0x31, 0x32, 0x33, 0x34, 0x35, 0x36, 0x37, 0x38, 0x39] = 0xCBF43926 := by decide +kernel

/-- Chapter 13's example: TRIM_SKEW of cell 183 and its alias; strict addressing has no alias. -/
theorem test_locate_trim_skew : locate false 0x331DC = .cell 183 0x1C ∧ locate false 0x331FC = .cell 183 0x1C := by decide
theorem test_locate_strict : locate true 0x331FC = .none := by decide

/-- Chapter 13's example, frame 6: 0x01200 is the alias of CLASP bit 0. -/
theorem test_locate_bit : locate false 0x01200 = .bit 0x110 0 := by decide

/-! ## Hypotheses that states meet -/

/-- A region that runs on the XO, locked and aligned. -/
def regUp : RegionSt :=
  { inReset := false, rrp := .locked, timeAligned := true, everLocked := true, time := 1000, edge := 1000 }

/-- A device that is up: READY, the XO qualified, every region running, a Vendor session. -/
def up : State :=
  { State.reset with
    pwr := { porHeld := false, phase := .ready, readyPin := true, frstHigh := true, wiped := true }
    ref := { xoActive := true, xoQual := true, xoOn := true, startTick := true }
    regions := [(0, regUp), (1, regUp), (2, regUp), (3, regUp)]
    sec := { host := 3 } }

/-- An accepted command of tag 5. -/
def cmd (op : Nat) (tgt : Word) (args : List Word) : Cmd :=
  { tag := 5, opcode := op, target := tgt, fence := false, noWait := false, deadline := none, args := args, len := 3 + args.length }

/-- The state with that command alone in the mailbox. -/
def has (op : Nat) (tgt : Word) (args : List Word) (s : State) : State := { s with mbx.cmds := [cmd op tgt args] }

/-- The device up, held in chip reset, in a phase of start-up. -/
def inPhase (p : Phase) : State := { up with pwr.phase := p }

/-- The same command in execution. -/
def exe (op : Nat) (tgt : Word) (args : List Word) : Cmd := { cmd op tgt args with st := .executing }

/-- The device up with its first region as given and the others in reset. -/
def one (g : RegionSt) : State := { up with regions := [(0, g)] }

/-- The device up with cell 0 as given. -/
def cell0 (c : CellSt) : State := { up with cells := [(0, c)] }

/-- Nine profile words with an integer frequency, N = 10, D = 2 and L = 1. -/
def row : List Word := [0x400A, 0, 0, 2, 1, 0, 0, 0, 0]

/-- The state with that profile stored as profile 3 of channel 0. -/
def withRow (s : State) : State := { s with profiles := tabPut [] (profKey 0 3) (row ++ [checkWord 0 3 row]) }

/-- The engine of cell 0 as given, at a word of opcode o and operand v in the first place of its partition. -/
def engWith (o v : Nat) (e : Engine) : State :=
  { cell0 { cfg := { ctl.en := true, step := true }, eng := e } with hopTab := [(0, wd (o * 8192 + v))] }

/-- The same, running, with schedule edge 1000. -/
def eng (o v : Nat) : State := engWith o v { st := .running, s := 1000 }

/-- A hop to profile 3. -/
def hop3 (due : Option Nat) : HopReq := { words := row ++ [0], idx := 3, due := due }

/-- A cell that is enabled and locked, with a loss action. -/
def lockedCell (a : BitVec 2) : CellSt := { cfg := { ctl.en := true, action := a }, loop.locked := true }

/-- Block 0 with a seating under way, the spare as given. -/
def seats (q : Seating) (c : CellSt) : State := { up with blocks := [(0, { seating := some q })], cells := [(256, c)] }

/-- The device up with TIU 0, event input 0 or the acquisition engine of region 0 as given. -/
def tiu0 (x : TiuSt) : State := { up with tius := [(0, x)] }
def evin0 (x : EvinSt) : State := { up with evins := [(0, x)] }
def acq0 (x : AcqSt) : State := { up with acqs := [(0, x)] }

/-- A vernier that passes its pre-calibration. -/
def tiuRun : TiuSt := { a1 := 625, a2 := 1250, b1 := 625, b2 := 1250, run := { stop := 0x100 } }

/-- A strand past its trigger, with C strands configured. -/
def posted (c : Nat) : AcqSt :=
  { regs.st := .post, run := { lat := (1024, 256, c, 0), postEnd := some 900, trig := some (0, [0, 0, 0, 0], 0, 0) } }

/-- A calibration run of TIU 0 with its block granted. -/
def calRun0 : CalRun := { tag := 5, items := 2, point := 0, todo := [(0, [{ kind := 0, unit := 0 }])], granted := [0] }

/-- The measured item of that unit. -/
def meas0 : Meas :=
  { code := 0x10, unit := 0, pairs := [(List.replicate (calCount 0x10) 0, List.replicate (calCount 0x10) 0, false)] }

/-- Region 0 and block 0 fit for a calibration at point 0: REFIN qualified and the source, the block at 20 C. -/
def calReady : State :=
  { one { regUp with active := .refin } with ref.refinEn := true, ref.refinState := 3, blocks := [(0, { tj := 320 })] }

/-- A self-test run of block 0 in a stage. -/
def bist0 (st : BistStage) : BistRun := { tag := 5, tests := 4, periods := [.block 0], stage := st }

/-- An owner key under which the words `sigHalf ++ sigHalf` (r = s = the message's digest) sign the session request of
level 2 to challenge 0 of serial number 0; computed from the curve's equation. -/
def keyQ : BitVec 512 :=
  7999715915683466216966331124896849502506378273621337501034815473031180030207634524272128421410880844594518289533993101044904276967728515509878948547854055

def sigHalf : List Word :=
  [15898, 37460, 2507, 12743, 13004, 43911, 58763, 60208, 8191, 26610, 24359, 911, 18945, 60487, 25589, 25321]

/-- A frame of n bits: header, data items and CRC, then zeros. -/
def frameBits (alive op size addr : Nat) (data : List Word) (n : Nat) : List Bool :=
  let h := natBits 4 alive ++ natBits 4 op ++ natBits 2 size ++ natBits 1 0 ++ natBits 7 0 ++ natBits 18 addr
    ++ data.flatMap (fun w => natBits 18 w.toNat)
  let r := h ++ natBits 16 (crc16 h).toNat
  r ++ List.replicate (n - r.length) false

/-- The device up with one Plawen port as given. -/
def port (i : Nat) (p : PortSt) : State := { up with ports := [(i, p)] }

/-- A worker: its UP port runs. -/
def worker : State := port 0 { st := .run }

/-- Strict addressing. -/
def strict : State := { up with hp.strict := true }

theorem wit_ChipResetsKeepOnlyWhatTheyMay :
  (∃ (ns : Nat) (s : State), 100 ≤ ns)
  ∧ (∃ (ns : Nat) (s : State), ns < 20)
  ∧ (∃ (ns : Nat) (s : State), 20 ≤ ns ∧ ns < 100)
  ∧ (∃ (rail : Nat) (s : State), (rail = 0 ∨ (5 ≤ rail ∧ rail ≤ 8)))
  ∧ (∃ (rail : Nat) (s : State), (rail = 0 ∨ (5 ≤ rail ∧ rail ≤ 8)))
  ∧ (∃ (s : State), s.mbx.mpRestart = true ∧ s.pwr.phase ≠ .reset)
  ∧ (∃ (s : State) (tag : Nat) (c : Cmd), Begins s tag 0x002 c ∧ tgtScope c.target = 0 ∧ s.pwr.phase ≠ .reset) :=
  ⟨⟨100, up, by decide +kernel⟩,
   ⟨19, up, by decide +kernel⟩,
   ⟨20, up, by decide +kernel⟩,
   ⟨5, up, by decide +kernel⟩,
   ⟨0, up, by decide +kernel⟩,
   ⟨{ up with mbx.mpRestart := true }, by decide +kernel⟩,
   ⟨(has 2 0 [] up), 5, (cmd 2 0 []), by unfold Begins; decide +kernel⟩⟩

theorem wit_StartUpRunsItsStepsInOrder :
  (∃ (s : State), s.pwr.porHeld = true ∧ s.pwr.phase = .reset ∧ s.pwr.rstLow = false)
  ∧ (∃ (s : State), s.pwr.rstLow = true ∧ s.pwr.phase = .reset ∧ s.pwr.porHeld = false)
  ∧ (∃ (s : State), s.pwr.romRun = true ∧ s.pwr.frstHigh = false ∧ s.pwr.phase ≠ .rom)
  ∧ (∃ (s : State), s.pwr.romRun = true ∧ s.pwr.frstHigh = false ∧ s.pwr.phase = .rom)
  ∧ (∃ (s : State), s.pwr.phase = .wipe ∧ s.lk.wipe = false ∧ 40000 ≤ s.boot.xoKhz ∧ s.boot.xoKhz ≤ 60000)
  ∧ (∃ (s : State), s.pwr.phase = .xoQual)
  ∧ (∃ (s : State), s.pwr.phase = .fwLoad ∧ s.lk.lc = 0)
  ∧ (∃ (s : State), s.pwr.phase = .fwLoad ∧ s.lk.lc ≠ 0 ∧ s.boot.flags.getLsbD 0 = false)
  ∧ (∃ (s : State), s.pwr.phase = .init ∧ regionsReady s = true) :=
  ⟨⟨State.reset, by decide +kernel⟩,
   ⟨{ State.reset with pwr := { porHeld := false, rstLow := true } }, by decide +kernel⟩,
   ⟨{ up with pwr.romRun := true, pwr.frstHigh := false }, by decide +kernel⟩,
   ⟨{ inPhase .rom with pwr.romRun := true, pwr.frstHigh := false }, by decide +kernel⟩,
   ⟨(inPhase .wipe), by decide +kernel⟩,
   ⟨(inPhase .xoQual), by decide +kernel⟩,
   ⟨{ inPhase .fwLoad with lk.lc := 0 }, by decide +kernel⟩,
   ⟨(inPhase .fwLoad), by decide +kernel⟩,
   ⟨(inPhase .init), by decide +kernel⟩⟩

theorem wit_SuppliesAndTemperatureHoldRegions :
  (∃ (r : Nat) (s : State), regionPresent s r = true ∧ s.pwr.phase ≠ .reset ∧ (s.region r).run ≠ .supplyHold)
  ∧ (∃ (rail mv : Nat) (s : State), rail < 9 ∧ s.pwr.phase ≠ .reset ∧ rail ∉ s.pwr.railOut)
  ∧ (∃ (rail mv : Nat) (s : State), rail < 9 ∧ s.pwr.phase ≠ .reset ∧ rail ∉ s.pwr.railOut)
  ∧ (∃ (r : Nat) (s : State), (s.region r).run = .supplyHold ∧ s.pwr.thermShut = true)
  ∧ (∃ (r : Nat) (s : State), (s.region r).run = .supplyHold ∧ s.pwr.thermShut = false ∧ started s = true)
  ∧ (∃ (b : Nat) (v : Int) (s : State), blockPresent s b = true ∧ s.pwr.phase ≠ .reset)
  ∧ (∃ (s : State), s.pwr.thermShut = true ∧ hottest (goodTemps s) < 1840 ∧ started s = false) :=
  ⟨⟨1, up, by decide +kernel⟩,
   ⟨1, 900, up, by decide +kernel⟩,
   ⟨0, 900, up, by decide +kernel⟩,
   ⟨0, { one { regUp with run := .supplyHold, inReset := true } with pwr.thermShut := true }, by decide +kernel⟩,
   ⟨0, (one { regUp with run := .supplyHold, inReset := true }), by decide +kernel⟩,
   ⟨0, 100, up, by decide +kernel⟩,
   ⟨{ inPhase .wipe with pwr.thermShut := true }, by decide +kernel⟩⟩

theorem wit_PaceTransitionsFollowTheSequencer :
  (∃ (s : State) (tag : Nat) (c : Cmd), Begins s tag 0x003 c ∧ slotHeld s = false ∧ s.pace.st = .steady ∧ fld (c.arg 0) 0 2 ≠ s.pace.level)
  ∧ (∃ (s : State) (tag : Nat) (c : Cmd), Begins s tag 0x003 c ∧ slotHeld s = false ∧ s.pace.st = .steady ∧ fld (c.arg 0) 0 2 = s.pace.level)
  ∧ (∃ (mv : Nat) (s : State), s.pwr.phase ≠ .reset ∧ s.pace.st = .confirm ∧ paceMv s.pace.target ≤ mv + 15 ∧ s.pace.forTest = false ∧ s.pace.modeWait = none ∧ s.pace.tag = none ∧ s.pace.pendingLevel = none)
  ∧ (∃ (mv : Nat) (s : State), s.pwr.phase = .reset ∧ s.pace.st = .confirm ∧ paceMv s.pace.target ≤ mv + 15 ∧ s.lk.badItem = none ∧ s.bist.fuse = [])
  ∧ (∃ (mv : Nat) (s : State), s.pwr.phase ≠ .reset ∧ s.pace.st = .voltDown ∧ s.pace.forTest = false ∧ s.pace.modeWait = none ∧ s.pace.tag = none ∧ s.pace.pendingLevel = none)
  ∧ (∃ (mv : Nat) (s : State), s.pwr.phase ≠ .reset ∧ s.pace.st = .confirm ∧ s.pace.modeWait = none ∧ s.pace.pendingLevel = none)
  ∧ (∃ (mv : Nat) (s : State), s.pwr.phase ≠ .reset ∧ s.pace.st ≠ .undervolt)
  ∧ (∃ (s : State), s.pace.st = .limitsDown)
  ∧ (∃ (v : Word) (a : Option Byte) (s : State), 2 ≤ s.sec.host ∧ s.pace.st = .steady ∧ v.getLsbD 0 = s.pace.mode)
  ∧ (∃ (x : Byte) (v : Word) (s : State), 2 ≤ s.sec.host ∧ s.pace.st = .steady ∧ s.pace.mode = false ∧ v.getLsbD 0 = true ∧ x.toNat < 32)
  ∧ (∃ (w : BitVec 16) (s : State), s.pace.mode = true ∧ s.pwr.phase ≠ .reset) :=
  ⟨⟨(has 3 0 [3] up), 5, (cmd 3 0 [3]), by unfold Begins; decide +kernel⟩,
   ⟨(has 3 0 [2] up), 5, (cmd 3 0 [2]), by unfold Begins; decide +kernel⟩,
   ⟨780, { up with pace.st := .confirm }, by decide +kernel⟩,
   ⟨780, { State.reset with pwr.porHeld := false, pace.st := .confirm }, by decide +kernel⟩,
   ⟨700, { up with pace.st := .voltDown }, by decide +kernel⟩,
   ⟨700, { up with pace.st := .confirm }, by decide +kernel⟩,
   ⟨700, up, by decide +kernel⟩,
   ⟨{ up with pace.st := .limitsDown }, by decide +kernel⟩,
   ⟨0, none, up, by decide +kernel⟩,
   ⟨0x16, 1, up, by decide +kernel⟩,
   ⟨0x20, { up with pace.mode := true }, by decide +kernel⟩⟩

theorem wit_SystemCommandsAnswer :
  (∃ (s : State) (tag : Nat) (c : Cmd), Begins s tag 0x001 c)
  ∧ (∃ (s : State) (tag : Nat) (c : Cmd), Begins s tag 0x004 c ∧ tgtScope c.target = 2)
  ∧ (∃ (s : State) (tag : Nat) (c : Cmd), Begins s tag 0x002 c ∧ tgtScope c.target = 1)
  ∧ (∃ (r : Nat) (s : State), (s.region r).inReset = true ∧ (s.region r).run = .reset ∧ started s = true)
  ∧ (∃ (sc i : Nat) (s : State) (c : Cmd), sc ≠ 1 ∧ (targetRegion c.target).any (fun r => (s.region r).inReset) = false ∧ s.mbx.cmds.find? (fun c => decide (c.opcode = 0x002) && decide (c.st = .executing) && decide (c.target = unitWord sc i)) = some c)
  ∧ (∃ (s : State) (tag : Nat) (c : Cmd), Begins s tag 0x002 c ∧ tgtScope c.target = 3 ∧ (s.region (cellRegion c.unit)).inReset = false ∧ (s.block (cellBlock c.unit)).seating = none ∧ (s.block (cellBlock c.unit)).holdCell = none ∧ s.bist.runs = [] ∧ s.cal.runs = []) :=
  ⟨⟨(has 1 0 [] up), 5, (cmd 1 0 []), by unfold Begins; decide +kernel⟩,
   ⟨(has 4 0x10000 [] up), 5, (cmd 4 0x10000 []), by unfold Begins; decide +kernel⟩,
   ⟨(has 2 0x8000 [] up), 5, (cmd 2 0x8000 []), by unfold Begins; decide +kernel⟩,
   ⟨0, (one { regUp with run := .reset, inReset := true }), by decide +kernel⟩,
   ⟨3, 0, { up with mbx.cmds := [exe 2 0x18000 []] }, (exe 2 0x18000 []), by decide +kernel⟩,
   ⟨(has 2 0x18000 [] up), 5, (cmd 2 0x18000 []), by unfold Begins; decide +kernel⟩⟩

theorem wit_SourceWindowsQualifyAndLose :
  (∃ (n : Nat) (s : State), s.ref.xoOn = true ∧ s.ref.xoFreq = 50000 ∧ 77824 ≤ n ∧ n ≤ 86016)
  ∧ (∃ (n : Nat) (s : State), s.ref.xoOn = true ∧ s.ref.xoFreq = 50000 ∧ 77824 ≤ n ∧ n ≤ 86016)
  ∧ (∃ (n : Nat) (s : State), s.ref.xoOn = true ∧ s.ref.xoFreq = 50000 ∧ (n < 77824 ∨ 86016 < n))
  ∧ (∃ (n : Nat) (s : State), s.ref.xoOn = true ∧ s.ref.xoFreq = 50000 ∧ (n < 77824 ∨ 86016 < n))
  ∧ (∃ (n : Nat) (s : State), s.ref.refinEn = true ∧ s.ref.xoQual = true ∧ s.ref.refinFreq ≠ 0)
  ∧ (∃ (n : Nat) (s : State), s.ref.upState ≠ 0 ∧ s.ref.xoQual = true ∧ (s.port 0).st = .run)
  ∧ (∃ (s : State), s.ref.refinState = 3)
  ∧ (∃ (s : State), s.ref.upState = 3)
  ∧ (∃ (e : Rat) (n : Nat) (w : List Nat) (st : Nat), (n : Rat) - e ≤ e * 20 / 1000000 ∧ e - (n : Rat) ≤ e * 20 / 1000000)
  ∧ (∃ (e : Rat) (n : Nat) (w : List Nat) (st : Nat), (e * 20 / 1000000 < (n : Rat) - e ∨ e * 20 / 1000000 < e - (n : Rat)))
  ∧ (∃ (v : Word) (s : State), 2 ≤ s.sec.host ∧ fld v 0 3 ≠ (refinCfg s).toNat)
  ∧ (∃ (v : Word) (s : State), 2 ≤ s.sec.host ∧ fld v 0 3 = (refinCfg s).toNat)
  ∧ (∃ (hi : Word) (s : State), 2 ≤ s.sec.host ∧ refinFreqOk (hi ++ s.ref.refinLo).toNat = true ∧ hi ++ s.ref.refinLo ≠ s.ref.refinFreq)
  ∧ (∃ (hi : Word) (s : State), 2 ≤ s.sec.host ∧ refinFreqOk (hi ++ s.ref.refinLo).toNat = true ∧ hi ++ s.ref.refinLo = s.ref.refinFreq)
  ∧ (∃ (hi : Word) (s : State), 2 ≤ s.sec.host ∧ refinFreqOk (hi ++ s.ref.refinLo).toNat = false)
  ∧ (∃ (v : Word) (s : State), s.sec.host < 2) :=
  ⟨⟨81920, up, by decide +kernel⟩,
   ⟨77824, { up with ref.xoWin := [77824, 77824, 77824, 77824], ref.xoQual := false }, by decide +kernel⟩,
   ⟨70000, up, by decide +kernel⟩,
   ⟨86017, up, by decide +kernel⟩,
   ⟨5000, { up with ref.refinEn := true, ref.refinFreq := 10000000 }, by decide +kernel⟩,
   ⟨5000, { port 0 { st := .run } with ref := { up.ref with upState := 2 } }, by decide +kernel⟩,
   ⟨{ up with ref.refinState := 3 }, by decide +kernel⟩,
   ⟨{ up with ref.upState := 3 }, by decide +kernel⟩,
   ⟨81920, 81920, [81920, 81920], 2, by decide +kernel⟩,
   ⟨81920, 70000, [81920, 81920], 3, by decide +kernel⟩,
   ⟨1, up, by decide +kernel⟩,
   ⟨0, up, by decide +kernel⟩,
   ⟨38, { up with ref.refinLo := 38528 }, by decide +kernel⟩,
   ⟨38, { up with ref.refinLo := 38528, ref.refinFreq := 10000000, ref.refinFreqErr := true }, by decide +kernel⟩,
   ⟨0, up, by decide +kernel⟩,
   ⟨0, { up with sec.host := 1 }, by decide +kernel⟩⟩

theorem wit_RegionsFollowTheirSources :
  (∃ (r : Nat) (v : Word) (s : State), 2 ≤ s.sec.host ∧ Runs s r)
  ∧ (∃ (r : Nat) (v : Word) (s : State), 2 ≤ s.sec.host ∧ Runs s r ∧ srcQual s r (Src.ofCode (fld v 0 2)) = true ∧ (s.region r).change = none ∧ ¬ ((s.region r).rrp = .locked ∧ (s.region r).active = Src.ofCode (fld v 0 2)))
  ∧ (∃ (r : Nat) (s : State) (c : SrcChange), (s.region r).rrp = .switching ∧ (s.region r).change = some c ∧ (s.region r).queued = none ∧ s.boot.want = [])
  ∧ (∃ (r : Nat) (s : State) (c : SrcChange), (s.region r).rrp = .switching ∧ (s.region r).change = some c ∧ (s.region r).queued = none ∧ s.boot.want = [] ∧ (s.region r).borrowDelay ≠ 0)
  ∧ (∃ (r : Nat) (s : State) (c : SrcChange), (s.region r).rrp = .switching ∧ (s.region r).change = some c ∧ (s.region r).queued = none ∧ s.boot.want = [])
  ∧ (∃ (r : Nat) (s : State), Runs s r ∧ (s.region r).rrp = .locked ∧ (s.region r).borrowEn = false ∧ s.boot.want = [])
  ∧ (∃ (r : Nat) (s : State), (s.region r).rrp = .holdover)
  ∧ (∃ (r : Nat) (s : State), (s.region r).rrp.held = true ∧ (s.region r).borrowWait = 1 ∧ srcQual s r .neighbour = false ∧ s.boot.want = [])
  ∧ (∃ (r : Nat) (s : State), (s.region r).rrp = .acquiring ∧ (s.region r).inReset = false ∧ srcQual s r (s.region r).active = true ∧ s.ref.startTick = true ∧ s.boot.want = []) :=
  ⟨⟨0, 8, up, by unfold Runs; decide +kernel⟩,
   ⟨0, 1, { up with ref.refinState := 3, ref.refinEn := true }, by unfold Runs; decide +kernel⟩,
   ⟨0, { one { regUp with rrp := .switching, change := some { target := .refin } } with ref.refinState := 3 }, { target := .refin }, by decide +kernel⟩,
   ⟨0, (one { regUp with rrp := .switching, change := some { target := .refin } }), { target := .refin }, by decide +kernel⟩,
   ⟨0, (one { regUp with rrp := .switching, change := some { target := .refin } }), { target := .refin }, by decide +kernel⟩,
   ⟨0, (one { regUp with borrowEn := false }), by unfold Runs; decide +kernel⟩,
   ⟨0, (one { regUp with rrp := .holdover }), by decide +kernel⟩,
   ⟨0, (one { regUp with rrp := .holdover, borrowWait := 1 }), by decide +kernel⟩,
   ⟨0, (one { regUp with rrp := .acquiring }), by decide +kernel⟩⟩

theorem wit_SystemTimeWrapsLoadsAndRealigns :
  (∃ (r : Nat) (s : State), Runs s r ∧ s.ref.epoch = none ∧ (s.region r).time = 0x3FFFFFFFFFFFFF)
  ∧ (∃ (s : State) (v tl : BitVec 54) (r q : Nat), s.ref.epoch = some (v, tl, r) ∧ reached (s.region r).time tl = true ∧ q ∈ runningRegions s)
  ∧ (∃ (r : Nat) (s : State), (s.region r).steering = true)
  ∧ (∃ (r : Nat) (s : State), (s.region r).run = .realign ∧ (s.region r).rrp = .locked ∧ s.ref.startTick = true) :=
  ⟨⟨0, (one { regUp with time := 0x3FFFFFFFFFFFFF }), by unfold Runs; decide +kernel⟩,
   ⟨{ up with ref.epoch := some (500, 900, 0) }, 500, 900, 0, 1, by decide +kernel⟩,
   ⟨0, { up with regions := [(0, { regUp with steering := true, steerTo := 1 }), (1, regUp), (2, regUp), (3, regUp)] }, by decide +kernel⟩,
   ⟨0, (one { regUp with run := .realign }), by decide +kernel⟩⟩

theorem wit_ReferenceCommandsAct :
  (∃ (s : State) (tag : Nat) (c : Cmd), Begins s tag 0x010 c ∧ srcQual (begun s tag) c.unit (Src.ofCode (fld (c.arg 0) 0 2)) = true ∧ (s.region c.unit).change = none ∧ ¬ ((s.region c.unit).rrp = .locked ∧ (s.region c.unit).active = Src.ofCode (fld (c.arg 0) 0 2)))
  ∧ (∃ (s : State) (tag : Nat) (c : Cmd), Begins s tag 0x011 c ∧ (c.arg 0).getLsbD 17 = false ∧ (c.arg 0).getLsbD 16 = false)
  ∧ (∃ (s : State) (tag : Nat) (c : Cmd), Begins s tag 0x012 c ∧ (c.arg 0).getLsbD 17 = false)
  ∧ (∃ (s : State) (tag : Nat) (c : Cmd), Begins s tag 0x013 c ∧ tgtScope c.target = 1)
  ∧ (∃ (s : State) (tag : Nat) (c : Cmd) (r : Nat), Begins s tag 0x014 c ∧ isWorker s = false ∧ s.ref.epoch = none ∧ leadRegion s = some r ∧ runDn s = []) :=
  ⟨⟨{ has 0x10 0x8000 [1] up with ref.refinState := 3, ref.refinEn := true }, 5, (cmd 0x10 0x8000 [1]), by unfold Begins; decide +kernel⟩,
   ⟨(has 0x11 0 [0] up), 5, (cmd 0x11 0 [0]), by unfold Begins; decide +kernel⟩,
   ⟨(has 0x12 0x8000 [8] up), 5, (cmd 0x12 0x8000 [8]), by unfold Begins; decide +kernel⟩,
   ⟨(has 0x13 0x8000 [] up), 5, (cmd 0x13 0x8000 []), by unfold Begins; decide +kernel⟩,
   ⟨(has 0x14 0 [0, 0, 5] up), 5, (cmd 0x14 0 [0, 0, 5]), 0, by unfold Begins; decide +kernel⟩⟩

theorem wit_CellCtlWritesTakeSixBits :
  ∃ s : State, cellReach s 0 = .ok ∧ s.lk.lc ≠ 4 :=
  ⟨up, by decide +kernel⟩

theorem wit_CellWindowCommitsTakeEffect :
  (∃ (p : Nat) (v : Word) (f : Freq) (s : State), 2 ≤ s.sec.host ∧ cellReach s p = .ok ∧ (s.cell p).cfg.lvds = false ∧ freqOk f = true ∧ f = fcwOf ((s.cell p).undone (nowEdge s p) .engHop).vals.freq ((s.cell p).staged (nowEdge s p)) v ∧ sameFreq ((s.cell p).undone (nowEdge s p) .engHop).vals.freq f = false)
  ∧ (∃ (p : Nat) (v : Word) (f : Freq) (s : State), 2 ≤ s.sec.host ∧ cellReach s p = .ok ∧ (s.cell p).cfg.lvds = false ∧ freqOk f = true ∧ f = fcwOf ((s.cell p).undone (nowEdge s p) .engHop).vals.freq ((s.cell p).staged (nowEdge s p)) v ∧ sameFreq ((s.cell p).undone (nowEdge s p) .engHop).vals.freq f = false)
  ∧ (∃ (c : CellSt) (e : Nat) (a : EdgeAct), c.hop.undo = none)
  ∧ (∃ (p : Nat) (v : Word) (s : State), 2 ≤ s.sec.host ∧ cellReach s p = .ok ∧ v.getLsbD 17 = false ∧ (s.cell p).hop.undo = none ∧ freqOk { (s.cell p).vals.freq with mode := false, n := v.extractLsb' 0 5, f := (s.cell p).vals.stF } = false)
  ∧ (∃ (p : Nat) (v : Word) (s : State), 2 ≤ s.sec.host ∧ cellReach s p = .ok ∧ divOk ((s.cell p).staged (nowEdge s p)).stD.toNat v.toNat = true)
  ∧ (∃ (p : Nat) (v : Word) (s : State), 2 ≤ s.sec.host ∧ cellReach s p = .ok)
  ∧ (∃ (p : Nat) (v : Word) (s : State), 2 ≤ s.sec.host ∧ cellReach s p = .ok ∧ fld v 0 4 ≤ 12 ∧ v.getLsbD 4 = false)
  ∧ (∃ (p : Nat) (v : Word) (s : State), 2 ≤ s.sec.host ∧ cellReach s p = .ok ∧ 12 < fld v 0 4)
  ∧ (∃ (p : Nat) (v : Word) (s : State), 2 ≤ s.sec.host ∧ cellReach s p = .ok)
  ∧ (∃ (p : Nat) (v : Word) (s : State), 2 ≤ s.sec.host ∧ cellReach s p = .ok ∧ fld v 0 8 ≠ 0)
  ∧ (∃ (p : Nat) (v : Word) (s : State), 2 ≤ s.sec.host ∧ cellReach s p = .ok ∧ fld v 0 8 = 0)
  ∧ (∃ (p : Nat) (v : Word) (s : State), 2 ≤ s.sec.host ∧ cellReach s p = .ok ∧ 4 ≤ fld v 0 5 ∧ fld v 0 5 ≤ 16)
  ∧ (∃ (p : Nat) (v : Word) (s : State), 2 ≤ s.sec.host ∧ cellReach s p = .ok ∧ 4 ≤ fld v 0 5 ∧ fld v 0 5 ≤ 16)
  ∧ (∃ (p : Nat) (v : Word) (s : State), 2 ≤ s.sec.host ∧ cellReach s p = .ok ∧ (fld v 0 5 < 4 ∨ 16 < fld v 0 5))
  ∧ (∃ (p : Nat) (v : Word) (s : State), 2 ≤ s.sec.host ∧ cellReach s p = .ok ∧ (fld v 0 5 < 4 ∨ 16 < fld v 0 5))
  ∧ (∃ (p : Nat) (v : Word) (s : State), 2 ≤ s.sec.host ∧ cellReach s p = .ok ∧ engCanStart s p = true ∧ (s.cell p).eng.active = false)
  ∧ (∃ (p : Nat) (v : Word) (s : State), 2 ≤ s.sec.host ∧ cellReach s p = .ok)
  ∧ (∃ (p : Nat) (v : Word) (s : State), 2 ≤ s.sec.host ∧ cellReach s p = .ok ∧ ((s.cell p).eng.st = .running → nowEdge s p < (s.cell p).eng.s) ∧ (s.cell p).eng.extN = 0)
  ∧ (∃ (p : Nat) (v : Word) (s : State), 2 ≤ s.sec.host ∧ cellReach s p = .busy) :=
  ⟨⟨0, 12, { n := 12 }, up, by decide +kernel⟩,
   ⟨0, 0x2000C, { mode := true, n := 12 }, up, by decide +kernel⟩,
   ⟨{}, 1000, .phs, by decide +kernel⟩,
   ⟨0, 31, up, by decide +kernel⟩,
   ⟨0, 1, up, by decide +kernel⟩,
   ⟨0, 5, up, by decide +kernel⟩,
   ⟨0, 3, up, by decide +kernel⟩,
   ⟨0, 13, up, by decide +kernel⟩,
   ⟨0, 2, up, by decide +kernel⟩,
   ⟨0, 5, up, by decide +kernel⟩,
   ⟨0, 0, up, by decide +kernel⟩,
   ⟨0, 4, up, by decide +kernel⟩,
   ⟨0, 16, up, by decide +kernel⟩,
   ⟨0, 3, up, by decide +kernel⟩,
   ⟨0, 17, up, by decide +kernel⟩,
   ⟨0, 1, (cell0 { cfg.ctl.en := true }), by decide +kernel⟩,
   ⟨0, 2, (cell0 { eng.st := .running }), by decide +kernel⟩,
   ⟨0, 4, (cell0 { eng := { st := .running, s := 2000 } }), by decide +kernel⟩,
   ⟨256, 4, { up with blocks := [(0, { holder := some .cal })] }, by decide +kernel⟩⟩

theorem wit_OutputEventsMoveTheDriver :
  (∃ (p : Nat) (b : BitVec 7) (f : Word) (s : State), (s.cell p).cfg.ctl.en = true ∧ (s.cell p).loop.searching = true)
  ∧ (∃ (p : Nat) (s : State), (s.cell p).loop.bandSwitch = true)
  ∧ (∃ (p : Nat) (s : State), (s.cell p).loop.gear = true ∧ (s.cell p).loop.gearEnd ≤ nowEdge s p)
  ∧ (∃ (p : Nat) (s : State), (s.cell p).vals.slewing = true ∧ (s.cell p).out.slewAt.all (fun x => decide (x ≤ nowA s p)) = true)
  ∧ (∃ (p : Nat) (s : State), (s.cell p).out.pend = .divAnchored ∧ fallCome s p = true)
  ∧ (∃ (p : Nat) (s : State), (s.cell p).out.pend = .divCont ∧ fallCome s p = true)
  ∧ (∃ (p : Nat) (s : State), (s.cell p).out.pend = .hopRetime ∧ fallCome s p = true)
  ∧ (∃ (p : Nat) (s : State), (s.cell p).out.heldLow = true ∧ (s.cell p).out.riseAt.all (fun x => decide (x ≤ nowA s p)) = true)
  ∧ (∃ (p : Nat) (a : Rat) (s : State), (s.cell p).out.muteAtFall = some a ∧ a ≤ nowA s p ∧ (s.cell p).out.drv = .toggling)
  ∧ (∃ (p : Nat) (a : Rat) (s : State), (s.cell p).out.activeAfter = some a ∧ cellWant s p = .active ∧ (s.cell p).out.drv = .muted ∧ (if (s.cell p).inHold then a ≤ nowA s p else firstAnchor (s.cell p).vals.rho (turns (s.cell p).vals.phi) (s.cell p).vals.delta a ≤ nowA s p))
  ∧ (∃ (p e : Nat) (s : State), (s.cell p).out.disableAt = some e ∧ e ≤ nowEdge s p ∧ (s.cell p).cfg.ctl.en = false ∨ (s.cell p).cfg.ctl.outEn = false ∧ (256 ≤ p ∨ chanLost s p = false)) :=
  ⟨⟨0, 5, 77, (cell0 { cfg.ctl.en := true, loop.searching := true }), by decide +kernel⟩,
   ⟨0, (cell0 { loop.bandSwitch := true }), by decide +kernel⟩,
   ⟨0, (cell0 { loop := { gear := true, gearEnd := 900 } }), by decide +kernel⟩,
   ⟨0, (cell0 { vals := { slewing := true, ofs := 5000 }, out.slewAt := some 10 }), by decide +kernel⟩,
   ⟨0, (cell0 { out := { pend := .divAnchored, fallAt := some 10 }, vals.d := 4 }), by decide +kernel⟩,
   ⟨0, (cell0 { out := { pend := .divCont, fallAt := some 10 }, vals.d := 4 }), by decide +kernel⟩,
   ⟨0, (cell0 { out := { pend := .hopRetime, fallAt := some 10 }, vals.d := 4 }), by decide +kernel⟩,
   ⟨0, (cell0 { out := { heldLow := true, riseAt := some 10 } }), by decide +kernel⟩,
   ⟨0, 10, (cell0 { out := { muteAtFall := some 10, drv := .toggling } }), by decide +kernel⟩,
   ⟨0, 10, (cell0 { cfg.ctl := { en := true, outEn := true }, loop.bandChosen := true, out := { activeAfter := some 10, drv := .muted } }), by decide +kernel⟩,
   ⟨0, 900, (cell0 { out := { disableAt := some 900, drv := .muted } }), by decide +kernel⟩⟩

theorem wit_LockEventsFollowTheirCauses :
  (∃ (p : Nat) (fine ph : Word) (s : State), (s.cell p).cfg.ctl.en = true ∧ (s.cell p).inHold = false ∧ (s.cell p).loop.locked = false ∧ (s.cell p).loop.searching = false ∧ (s.cell p).loop.bandSwitch = false ∧ (errOf ph).natAbs < (s.cell p).cfg.thr.toNat ∧ (s.cell p).lockCycles ≤ (s.cell p).loop.inCnt + 1)
  ∧ (∃ (p : Nat) (ph : Word) (s : State), (s.cell p).cfg.ctl.en = true ∧ (s.cell p).inHold = false ∧ (s.cell p).loop.locked = true ∧ 2 * (s.cell p).cfg.thr.toNat < (errOf ph).natAbs ∧ 3 ≤ (s.cell p).loop.outCnt ∧ (s.cell p).cfg.action = 0)
  ∧ (∃ (p : Nat) (ph : Word) (s : State), (s.cell p).cfg.ctl.en = true ∧ (s.cell p).inHold = false ∧ (s.cell p).loop.locked = true ∧ 2 * (s.cell p).cfg.thr.toNat < (errOf ph).natAbs ∧ 3 ≤ (s.cell p).loop.outCnt ∧ (s.cell p).cfg.action = 2)
  ∧ (∃ (p : Nat) (ph : Word) (s : State), (s.cell p).cfg.ctl.en = true ∧ (s.cell p).inHold = false ∧ (s.cell p).loop.locked = true ∧ 2 * (s.cell p).cfg.thr.toNat < (errOf ph).natAbs ∧ 3 ≤ (s.cell p).loop.outCnt ∧ (s.cell p).cfg.action = 1 ∧ (s.cell p).loop.lossMute = false ∧ SpareReady s p)
  ∧ (∃ (p : Nat) (fine : Word) (s : State), (s.cell p).cfg.ctl.en = true ∧ (s.cell p).inHold = false ∧ (s.cell p).loop.locked = false ∧ (s.cell p).loop.hintUse = .none)
  ∧ (∃ (p : Nat) (s : State), (s.cell p).cfg.ctl.en = true ∧ (s.cell p).inHold = false ∧ (s.cell p).loop.locked = false ∧ (s.cell p).loop.refRelock = false ∧ (s.cell p).loop.acq = .enable ∧ (s.cell p).cfg.action = 0 ∧ (s.cell p).acqLimit ≤ nowEdge s p ∧ SpareReady s p)
  ∧ (∃ (p : Nat) (s : State), (s.cell p).cfg.ctl.en = true ∧ (s.cell p).inHold = false ∧ (s.cell p).loop.refRelock = true ∧ (s.cell p).relockLimit ≤ nowEdge s p)
  ∧ (∃ (p : Nat) (s : State), (s.cell p).cfg.ctl.en = true ∧ (s.cell p).inHold = false ∧ (s.cell p).loop.locked = false ∧ (s.cell p).loop.hintUse ≠ .none ∧ (s.cell p).loop.searching = false ∧ (s.cell p).hintLimit ≤ nowEdge s p)
  ∧ (∃ (p : Nat) (legs : BitVec 2) (s : State), (s.cell p).out.drv = .toggling ∧ (s.cell p).loop.drvFault = false ∧ SpareReady s p) :=
  ⟨⟨0, 7, 3, (cell0 { cfg.ctl.en := true, loop.inCnt := 100000 }), by decide +kernel⟩,
   ⟨0, 100, (cell0 { cfg := { ctl.en := true, action := 0 }, loop := { locked := true, outCnt := 3 } }), by decide +kernel⟩,
   ⟨0, 100, (cell0 { cfg := { ctl.en := true, action := 2 }, loop := { locked := true, outCnt := 3 } }), by decide +kernel⟩,
   ⟨0, 100, (cell0 { cfg := { ctl.en := true, action := 1 }, loop := { locked := true, outCnt := 3 } }), by unfold SpareReady CellRuns; decide +kernel⟩,
   ⟨0, 7, (cell0 { cfg.ctl.en := true }), by decide +kernel⟩,
   ⟨0, { cell0 { cfg := { ctl.en := true, action := 0 }, loop.acq := .enable } with regions := [(0, { regUp with edge := 10000000 })] }, by unfold SpareReady CellRuns; decide +kernel⟩,
   ⟨0, { cell0 { cfg.ctl.en := true, loop.refRelock := true } with regions := [(0, { regUp with edge := 10000000 })] }, by decide +kernel⟩,
   ⟨0, { cell0 { cfg.ctl.en := true, loop.hintUse := .sameBand } with regions := [(0, { regUp with edge := 10000000 })] }, by decide +kernel⟩,
   ⟨0, 1, (cell0 { cfg.ctl.en := true, out.drv := .toggling }), by unfold SpareReady CellRuns; decide +kernel⟩⟩

theorem wit_HopsLoadTheirProfiles :
  (∃ (p : Nat) (h : HopReq) (s : State), (s.cell p).hop.host = some h ∧ h.due = none ∧ h.at_ = none ∧ fetch s p (chanName s p) h.idx = .ok)
  ∧ (∃ (p : Nat) (h : HopReq) (a : BitVec 54) (s : State), (s.cell p).hop.host = some h ∧ h.due = none ∧ h.at_ = some a ∧ reached (s.region (cellRegion p)).time a = false ∧ fetch s p (chanName s p) h.idx = .ok)
  ∧ (∃ (p k i : Nat) (s : State), (s.cell p).hop.host = none ∧ engFetch s p = some (k, i) ∧ fetch s p (chanName s p) i = .ok)
  ∧ (∃ (p : Nat) (h : HopReq) (s : State), (s.cell p).hop.host = some h ∧ h.due = none ∧ h.at_ = none ∧ fetch s p (chanName s p) h.idx = .ok)
  ∧ (∃ (p e : Nat) (h : HopReq) (s : State), (s.cell p).hop.host = some h ∧ h.due = some e ∧ e = nowEdge s p ∧ (s.cell p).hop.hostBwAt ≠ some e)
  ∧ (∃ (p e : Nat) (h : HopReq) (s : State), (s.cell p).hop.host = none ∧ (s.cell p).hop.eng = some h ∧ h.due = some e ∧ e = nowEdge s p ∧ (s.cell p).hop.hostHopAt ≠ some e ∧ (s.cell p).hop.hostBwAt ≠ some e)
  ∧ (∃ (p i : Nat) (w : List Word) (s : State), (s.cell p).hop.learn = some (i, w) ∧ (s.cell p).hop.learnRun = true ∧ 1024 ≤ (s.cell p).hop.learnN ∧ (s.cell p).loop.locked = true ∧ p < 256 ∧ channelOf s p ≠ none ∧ (profRow s p i).take 7 = w.take 7 ∧ (s.cell p).hop.learnHint = none) :=
  ⟨⟨0, (hop3 none), (withRow (cell0 { hop.host := some (hop3 none) })), by decide +kernel⟩,
   ⟨0, { hop3 none with at_ := some 2000 }, 2000, (withRow (cell0 { hop.host := some { hop3 none with at_ := some 2000 } })), by decide +kernel⟩,
   ⟨0, (0, 3).1, (0, 3).2, (withRow (engWith 2 3 { st := .running, s := 1000, prep := some { words := [(0, wd (2 * 8192 + 3))], hop := some (0, 3) } })), by decide +kernel⟩,
   ⟨0, (hop3 none), (withRow (cell0 { hop.host := some (hop3 none) })), by decide +kernel⟩,
   ⟨0, 1000, (hop3 (some 1000)), (withRow (cell0 { hop.host := some (hop3 (some 1000)) })), by decide +kernel⟩,
   ⟨0, 1000, (hop3 (some 1000)), (withRow (cell0 { hop.eng := some (hop3 (some 1000)) })), by decide +kernel⟩,
   ⟨0, 3, row, (withRow (cell0 { hop := { learn := some (3, row), learnRun := true, learnN := 1024 }, loop.locked := true })), by decide +kernel⟩⟩

theorem wit_TheArbiterGrantsAndSeatsTheSpare :
  (∃ (b tag : Nat) (rest : List (Requester × Nat)) (r : CalRun) (u : CalUnit) (s : State), (s.block b).waiting = (.cal, tag) :: rest ∧ s.cal.runs.find? (fun r => r.tag == tag) = some r ∧ b ∉ r.granted ∧ calUnitOf r b = some u ∧ u.kind = 0 ∧ tiuFree s u.unit = true)
  ∧ (∃ (b tag n : Nat) (rest : List (Requester × Nat)) (r : BistRun) (ps : List SlotKind) (s : State), (s.block b).waiting = (.online, tag) :: rest ∧ bistRunOf s tag = some r ∧ r.periods = .online n :: ps ∧ onlineBarred s n = false ∧ outOfService s n = false ∧ spareFree s b = true)
  ∧ (∃ (b tag : Nat) (rest : List (Requester × Nat)) (s : State), (s.block b).waiting = (.offline, tag) :: rest ∧ blockIdle s b = true ∧ (s.block b).seated = none)
  ∧ (∃ (b : Nat) (q : Seating) (s : State), b < 16 ∧ q.c < 16 ∧ (s.block b).seating = some q ∧ q.step = .acquiring ∧ seatReady s b q = true)
  ∧ (∃ (b : Nat) (q : Seating) (s : State), b < 16 ∧ q.c < 16 ∧ (s.block b).seating = some q ∧ q.step = .changed ∧ seatReady s b q = true ∧ switchAt s b q ≤ nowA s (spareOf b) ∧ (s.block b).recover = none ∧ q.ret = false ∧ q.req = .fault)
  ∧ (∃ (b : Nat) (q : Seating) (s : State), b < 16 ∧ q.c < 16 ∧ (s.block b).seating = some q ∧ q.step = .changed ∧ seatReady s b q = true ∧ switchAt s b q ≤ nowA s (spareOf b) ∧ q.ret = true ∧ (s.block b).recover = none ∧ (s.block b).holder = none)
  ∧ (∃ (b m e : Nat) (q : Seating) (s : State), b < 16 ∧ q.c < 16 ∧ (s.block b).seating = some q ∧ q.step = .changed ∧ seatReady s b q = true ∧ switchAt s b q ≤ nowA s (spareOf b) ∧ q.ret = false ∧ (s.block b).recover = some (m, e))
  ∧ (∃ (b : Nat) (q : Seating) (s : State), b < 16 ∧ q.c < 16 ∧ (s.block b).seating = some q ∧ q.step = .acquiring ∧ q.ret = false ∧ q.req = .fault ∧ (s.cell (spareOf b)).loop.locked = false ∧ (s.cell (spareOf b)).cfg.ctl.en = true ∧ (s.cell (spareOf b)).inHold = false ∧ (s.cell (spareOf b)).loop.acq ≠ .loss ∧ (s.cell (spareOf b)).acqLimit ≤ (s.region (b / 4)).edge ∧ blockOffline s b = false) :=
  ⟨⟨0, 5, [], { tag := 5, items := 0, point := 0, todo := [(0, [{ kind := 0, unit := 0 }])] }, { kind := 0, unit := 0 }, { up with blocks := [(0, { waiting := [(.cal, 5)] })], cal.runs := [{ tag := 5, items := 0, point := 0, todo := [(0, [{ kind := 0, unit := 0 }])] }] }, by decide +kernel⟩,
   ⟨0, 5, 0, [], { tag := 5, tests := 1, periods := [.online 0], stage := .waitGrant }, [], { up with blocks := [(0, { waiting := [(.online, 5)] })], bist.runs := [{ tag := 5, tests := 1, periods := [.online 0], stage := .waitGrant }] }, by decide +kernel⟩,
   ⟨0, 5, [], { up with blocks := [(0, { waiting := [(.offline, 5)] })] }, by decide +kernel⟩,
   ⟨0, { c := 3, req := .fault, ret := false }, (seats { c := 3, req := .fault, ret := false } (lockedCell 1)), by decide +kernel⟩,
   ⟨0, { c := 15, req := .fault, ret := false, step := .changed }, (seats { c := 15, req := .fault, ret := false, step := .changed } (lockedCell 1)), by decide +kernel⟩,
   ⟨0, { c := 3, req := .cal, ret := true, step := .changed }, (seats { c := 3, req := .cal, ret := true, step := .changed } (lockedCell 1)), by decide +kernel⟩,
   ⟨0, 4, 7, { c := 3, req := .cal, ret := false, step := .changed }, { seats { c := 3, req := .cal, ret := false, step := .changed } (lockedCell 1) with blocks := [(0, { seating := some { c := 3, req := .cal, ret := false, step := .changed }, recover := some (4, 7) })] }, by decide +kernel⟩,
   ⟨0, { c := 3, req := .fault, ret := false }, { seats { c := 3, req := .fault, ret := false } { cfg.ctl.en := true } with regions := [(0, { regUp with edge := 10000000 })] }, by decide +kernel⟩⟩

theorem wit_EngineInstructionsRunAtTheirEdge :
  (∃ (p v : Nat) (s : State), EngAt s p 0x01 v)
  ∧ (∃ (p v : Nat) (s : State), EngAt s p 0x04 v)
  ∧ (∃ (p v : Nat) (s : State), EngAt s p 0x04 v)
  ∧ (∃ (p v : Nat) (s : State), EngAt s p 0x05 v)
  ∧ (∃ (p v : Nat) (s : State), EngAt s p 0x07 v ∧ (∀ l, (s.region (cellRegion p)).loadAt = some l → l < (s.cell p).eng.s))
  ∧ (∃ (p v l : Nat) (s : State), EngAt s p 0x07 v ∧ (s.region (cellRegion p)).loadAt = some l ∧ (s.cell p).eng.s ≤ l)
  ∧ (∃ (p v : Nat) (s : State), EngAt s p 0x06 v ∧ v / 2 ^ 10 % 8 = 2 ∧ v % 2 ^ 10 < 8 ∧ firstEvent s.evRegs (cellRegion p) 2 (v % 2 ^ 10) (s.cell p).eng.s (nowEdge s p) (tmoOf (s.cell p).eng.s (v / 2 ^ 13)) = none)
  ∧ (∃ (p v r : Nat) (s : State), EngAt s p 0x06 v ∧ v / 2 ^ 10 % 8 = 3 ∧ v % 2 ^ 10 < 8 ∧ firstEvent s.evRegs (cellRegion p) 3 (v % 2 ^ 10) (s.cell p).eng.s (nowEdge s p) (tmoOf (s.cell p).eng.s (v / 2 ^ 13)) = some r)
  ∧ (∃ (p v : Nat) (s : State), EngAt s p 0x1F v ∧ (s.cell p).eng.pc + 1 < engLen s p)
  ∧ (∃ (p v : Nat) (s : State), EngAt s p 0x0B v ∧ v / 4 ≠ 0)
  ∧ (∃ (p v : Nat) (s : State), EngAt s p 0x0C v)
  ∧ (∃ (p v : Nat) (s : State), EngAt s p 0x0D v ∧ v < engLen s p)
  ∧ (∃ (p v : Nat) (s : State), EngAt s p 0x0E v ∧ v < engLen s p ∧ (s.cell p).loop.refRelock = false)
  ∧ (∃ (p v : Nat) (s : State), EngAt s p 0x00 v ∧ v % 2 = 0) :=
  ⟨⟨0, 0, (eng 1 0), by unfold EngAt; decide +kernel⟩,
   ⟨0, 7, (eng 4 7), by unfold EngAt; decide +kernel⟩,
   ⟨0, 0, (eng 4 0), by unfold EngAt; decide +kernel⟩,
   ⟨0, 7, (eng 5 7), by unfold EngAt; decide +kernel⟩,
   ⟨0, 7, (eng 7 7), by unfold EngAt; decide +kernel⟩,
   ⟨0, 7, 1000, { eng 7 7 with regions := [(0, { regUp with loadAt := some 1000 })] }, by unfold EngAt; decide +kernel⟩,
   ⟨0, 2051, (eng 6 2051), by unfold EngAt; decide +kernel⟩,
   ⟨0, 3073, 1000, { eng 6 3073 with evRegs := [(0, 3, 1, 1000)] }, by unfold EngAt; decide +kernel⟩,
   ⟨0, 9, (eng 0x1F 9), by unfold EngAt; decide +kernel⟩,
   ⟨0, 13, (eng 0x0B 13), by unfold EngAt; decide +kernel⟩,
   ⟨0, 1, (engWith 0x0C 1 { st := .running, s := 1000, ctr := [(1, 3)], ctrStart := [(1, 2)] }), by unfold EngAt; decide +kernel⟩,
   ⟨0, 5, (eng 0x0D 5), by unfold EngAt; decide +kernel⟩,
   ⟨0, 5, (engWith 0x0E 5 { st := .running, s := 1000, lockLost := true }), by unfold EngAt; decide +kernel⟩,
   ⟨0, 0, (eng 0 0), by unfold EngAt; decide +kernel⟩⟩

theorem wit_EngineActionsReachTheirUnits :
  (∃ (p v : Nat) (w : List Word) (s : State), EngAt s p 0x02 v ∧ Due s p ∧ v % 256 < 192 ∧ fetchedHop (s.cell p).eng (v % 256) = some (.ok, w))
  ∧ (∃ (p v : Nat) (s : State), EngAt s p 0x02 v ∧ Due s p ∧ v % 256 < 192 ∧ fetchedHop (s.cell p).eng (v % 256) = none ∧ fetch s p (chanName s p) (v % 256) = .ok)
  ∧ (∃ (p v : Nat) (s : State), EngAt s p 0x03 v ∧ Due s p ∧ v % 256 < 192 ∧ fetchedHop (s.cell p).eng (v % 256) = none ∧ fetch s p (chanName s p) (v % 256) = .ok)
  ∧ (∃ (p v : Nat) (s : State), EngAt s p 0x09 v ∧ Due s p ∧ (s.cell p).hop.hostPhaseAt ≠ some (nowEdge s p) ∧ (s.cell p).hop.phaseTag = none ∧ mirrorOf s p = none ∧ (s.cell p).cfg.step = true)
  ∧ (∃ (p v : Nat) (s : State), EngAt s p 0x0A v ∧ Due s p ∧ (s.cell p).hop.hostCtlAt ≠ some (nowEdge s p) ∧ mirrorOf s p = none)
  ∧ (∃ (p v : Nat) (s : State), EngAt s p 0x08 v ∧ Due s p ∧ v / 256 % 16 = 0)
  ∧ (∃ (p v : Nat) (s : State), EngAt s p 0x08 v ∧ Due s p ∧ v / 256 % 16 = 8 ∧ tabGet (0, 0) s.pins.marko (v % 4) = (0, 0))
  ∧ (∃ (p v : Nat) (s : State), EngAt s p 0x0F v ∧ (s.cell p).eng.held = none ∧ cqAccepts s = true)
  ∧ (∃ (p v : Nat) (s : State), EngAt s p 0x0F v ∧ (s.cell p).eng.held = none ∧ cqAccepts s = false)
  ∧ (∃ (p v : Nat) (s : State), EngAt s p 0x00 v ∧ v % 2 = 1 ∧ (s.cell p).eng.held = none ∧ cqAccepts s = true)
  ∧ (∃ (p : Nat) (h : HeldRec) (s : State), (s.cell p).eng.held = some h ∧ cqAccepts s = true) :=
  ⟨⟨0, 3, row, (withRow (engWith 2 3 { st := .running, s := 1000, prep := some { words := [(0, wd (2 * 8192 + 3))], hop := some (0, 3), fetched := some (.ok, row) } })), by unfold EngAt Due; decide +kernel⟩,
   ⟨0, 3, (withRow (eng 2 3)), by unfold EngAt Due; decide +kernel⟩,
   ⟨0, 3, (withRow (eng 3 3)), by unfold EngAt Due; decide +kernel⟩,
   ⟨0, 3, (eng 9 3), by unfold EngAt Due; decide +kernel⟩,
   ⟨0, 3, (eng 0x0A 3), by unfold EngAt Due; decide +kernel⟩,
   ⟨0, 1, (eng 8 1), by unfold EngAt Due; decide +kernel⟩,
   ⟨0, 2049, (eng 8 2049), by unfold EngAt Due; decide +kernel⟩,
   ⟨0, 3, (eng 0x0F 3), by unfold EngAt; decide +kernel⟩,
   ⟨0, 3, { eng 0x0F 3 with mbx.mpRestart := true }, by unfold EngAt; decide +kernel⟩,
   ⟨0, 1, (eng 0 1), by unfold EngAt; decide +kernel⟩,
   ⟨0, { words := row }, (cell0 { eng.held := some { words := row } }), by decide +kernel⟩⟩

theorem wit_EngineFaultsAndTimeouts :
  (∃ (p v o : Nat) (s : State), 0x10 ≤ o ∧ o ≤ 0x1E ∧ EngAt s p o v ∧ (s.cell p).eng.held = none ∧ cqAccepts s = true)
  ∧ (∃ (p v o : Nat) (s : State), 0x10 ≤ o ∧ o ≤ 0x1E ∧ EngAt s p o v ∧ (s.cell p).eng.held = none ∧ cqAccepts s = true)
  ∧ (∃ (p : Nat) (s : State), (s.cell p).eng.st = .running ∧ 4096 ≤ (s.cell p).eng.noAdv ∧ (s.cell p).eng.held = none ∧ cqAccepts s = true)
  ∧ (∃ (p : Nat) (s : State), (s.cell p).eng.st = .running ∧ (s.cell p).eng.s ≤ nowEdge s p ∧ actionAhead s p = true ∧ (s.cell p).cfg.lateHalt = true)
  ∧ (∃ (p : Nat) (s : State), (s.cell p).eng.st = .running ∧ (s.cell p).eng.s ≤ nowEdge s p ∧ actionAhead s p = true ∧ (s.cell p).cfg.lateHalt = false)
  ∧ (∃ (p e c i : Nat) (s : State), (s.cell p).eng.st = .waiting ∧ (s.cell p).eng.wait = .event c i (some e) ∧ e ≤ nowEdge s p)
  ∧ (∃ (p e : Nat) (s : State), (s.cell p).eng.st = .waiting ∧ (s.cell p).eng.wait = .sync (some e) ∧ e ≤ nowEdge s p)
  ∧ (∃ (p : Nat) (v : Word) (s : State), 2 ≤ s.sec.host ∧ cellReach s p = .ok ∧ p < 256 ∧ seatedIn s p ≠ some (cellIdx p) ∧ (s.cell p).eng.st = .stopped ∧ (s.cell p).eng.extN = 0 ∧ (s.cell p).eng.pc < engLen s p ∧ s.flt.badWords = [] ∧ engOpc (hopWord s p (s.cell p).eng.pc) = 0x01) :=
  ⟨⟨0, 0, 0x10, (eng 0x10 0), by unfold EngAt; decide +kernel⟩,
   ⟨0, 0, 0x1E, (eng 0x1E 0), by unfold EngAt; decide +kernel⟩,
   ⟨0, (engWith 1 0 { st := .running, noAdv := 4096 }), by decide +kernel⟩,
   ⟨0, { eng 2 3 with cells := [(0, { cfg := { ctl.en := true, lateHalt := true }, eng := { st := .running, s := 1000 } })] }, by decide +kernel⟩,
   ⟨0, (eng 2 3), by decide +kernel⟩,
   ⟨0, 900, 2, 3, (engWith 6 0 { st := .waiting, wait := .event 2 3 (some 900) }), by decide +kernel⟩,
   ⟨0, 900, (engWith 7 0 { st := .waiting, wait := .sync (some 900) }), by decide +kernel⟩,
   ⟨0, 4, (engWith 1 0 {}), by decide +kernel⟩⟩

theorem wit_EngineCommandsLoadStartAndStop :
  (∃ (s : State) (tag : Nat) (c : Cmd), Begins s tag 0x030 c ∧ partWords s c.unit ≠ 0 ∧ fld (c.arg 0) 0 15 + (c.args.drop 1).length ≤ partWords s c.unit)
  ∧ (∃ (s : State) (tag : Nat) (c : Cmd), Begins s tag 0x030 c ∧ partWords s c.unit ≠ 0 ∧ fld (c.arg 0) 0 15 + (c.args.drop 1).length ≤ partWords s c.unit)
  ∧ (∃ (s : State) (tag : Nat) (c : Cmd), Begins s tag 0x030 c ∧ partWords s c.unit ≠ 0 ∧ partWords s c.unit < fld (c.arg 0) 0 15 + (c.args.drop 1).length)
  ∧ (∃ (s : State) (tag : Nat) (c : Cmd), Begins s tag 0x031 c ∧ (s.cell (inService s c.unit)).eng.active = false ∧ engCanStart s (inService s c.unit) = true ∧ (c.arg 0).getLsbD 17 = false)
  ∧ (∃ (s : State) (tag : Nat) (c : Cmd), Begins s tag 0x031 c ∧ (s.cell (inService s c.unit)).eng.active = true ∨ engCanStart s (inService s c.unit) = false)
  ∧ (∃ (s : State) (tag : Nat) (c : Cmd) (p : Nat), Begins s tag 0x031 c ∧ p = inService s c.unit ∧ (s.cell p).eng.active = false ∧ engCanStart s p = true ∧ (c.arg 0).getLsbD 17 = true ∧ reached (s.region (cellRegion p)).time (c.arg 1 ++ c.arg 2 ++ c.arg 3) = false)
  ∧ (∃ (s : State) (tag : Nat) (c : Cmd) (p : Nat), Begins s tag 0x031 c ∧ p = inService s c.unit ∧ (s.cell p).eng.active = false ∧ engCanStart s p = true ∧ (c.arg 0).getLsbD 17 = true ∧ reached (s.region (cellRegion p)).time (c.arg 1 ++ c.arg 2 ++ c.arg 3) = true)
  ∧ (∃ (s : State) (tag : Nat) (c : Cmd), Begins s tag 0x032 c)
  ∧ (∃ (s : State) (tag : Nat) (c : Cmd) (p : Nat), Begins s tag 0x032 c ∧ p = inService s c.unit ∧ ((s.cell p).eng.st = .running → nowEdge s p < (s.cell p).eng.s))
  ∧ (∃ (s : State) (tag : Nat) (c : Cmd), Begins s tag 0x033 c)
  ∧ (∃ (s : State) (tag : Nat) (c : Cmd), Begins s tag 0x034 c ∧ (c.arg 0).getLsbD 16 = false ∧ (c.arg 0).getLsbD 17 = false)
  ∧ (∃ (s : State) (tag : Nat) (c : Cmd), Begins s tag 0x034 c ∧ (c.arg 0).getLsbD 16 = true ∧ regionEngineActive s c.unit = false)
  ∧ (∃ (r tag : Nat) (lens : List Nat) (s : State), (s.mem r).partBusy = some (tag, lens) ∧ (findCmd s tag).isSome = true) :=
  ⟨⟨(has 0x30 0x18000 [0, 1, 2] up), 5, (cmd 0x30 0x18000 [0, 1, 2]), by unfold Begins; decide +kernel⟩,
   ⟨(has 0x30 0x18000 [510, 1, 2] up), 5, (cmd 0x30 0x18000 [510, 1, 2]), by unfold Begins; decide +kernel⟩,
   ⟨(has 0x30 0x18000 [511, 1, 2] up), 5, (cmd 0x30 0x18000 [511, 1, 2]), by unfold Begins; decide +kernel⟩,
   ⟨(has 0x31 0x18000 [0] (cell0 { cfg.ctl.en := true })), 5, (cmd 0x31 0x18000 [0]), by unfold Begins; decide +kernel⟩,
   ⟨(has 0x31 0x18000 [0] up), 5, (cmd 0x31 0x18000 [0]), by unfold Begins; decide +kernel⟩,
   ⟨(has 0x31 0x18000 [0x20000, 0, 0, 2000] (cell0 { cfg.ctl.en := true })), 5, (cmd 0x31 0x18000 [0x20000, 0, 0, 2000]), 0, by unfold Begins; decide +kernel⟩,
   ⟨(has 0x31 0x18000 [0x20000, 0, 0, 900] (cell0 { cfg.ctl.en := true })), 5, (cmd 0x31 0x18000 [0x20000, 0, 0, 900]), 0, by unfold Begins; decide +kernel⟩,
   ⟨(has 0x32 0x18000 [] (eng 1 0)), 5, (cmd 0x32 0x18000 []), by unfold Begins; decide +kernel⟩,
   ⟨(has 0x32 0x18000 [] (engWith 1 0 { st := .running, s := 2000 })), 5, (cmd 0x32 0x18000 []), 0, by unfold Begins; decide +kernel⟩,
   ⟨(has 0x33 0x18000 [] up), 5, (cmd 0x33 0x18000 []), by unfold Begins; decide +kernel⟩,
   ⟨(has 0x34 0x8000 [0, 8, 8, 8, 8, 8, 8, 8, 8] up), 5, (cmd 0x34 0x8000 [0, 8, 8, 8, 8, 8, 8, 8, 8]), by unfold Begins; decide +kernel⟩,
   ⟨(has 0x34 0x8000 [0x10000] up), 5, (cmd 0x34 0x8000 [0x10000]), by unfold Begins; decide +kernel⟩,
   ⟨0, 5, (List.replicate 64 8), { up with mbx.cmds := [exe 0x34 0x8000 []], rmem := [(0, { partBusy := some (5, List.replicate 64 8) })] }, by decide +kernel⟩⟩

theorem wit_CellCommandsActOnTheChannel :
  (∃ (s : State) (tag : Nat) (c : Cmd), Begins s tag 0x020 c ∧ mirrorOf s (inService s c.unit) = none ∧ (c.arg 0).getLsbD 17 = false ∧ s.lk.lc ≠ 4)
  ∧ (∃ (s : State) (tag : Nat) (c : Cmd), Begins s tag 0x020 c ∧ s.lk.lc ≠ 4 ∧ (c.arg 0).getLsbD 17 = true ∧ (c.arg 0).getLsbD 0 = true ∧ (c.arg 1).getLsbD 0 = true ∧ (s.cell (inService s c.unit)).cfg.ctl.en = false ∧ chanLost s c.unit = false ∧ mirrorOf s (inService s c.unit) = none)
  ∧ (∃ (s : State) (tag : Nat) (c : Cmd), Begins s tag 0x023 c ∧ fld (c.arg 0) 0 8 < profileLimit s c.unit ∧ (c.arg 0).getLsbD 17 = true ∧ reached (s.region (cellRegion (inService s c.unit))).time (c.arg 1 ++ c.arg 2 ++ c.arg 3) = false)
  ∧ (∃ (s : State) (tag : Nat) (c : Cmd), Begins s tag 0x023 c ∧ fld (c.arg 0) 0 8 < profileLimit s c.unit ∧ (c.arg 0).getLsbD 17 = true ∧ reached (s.region (cellRegion (inService s c.unit))).time (c.arg 1 ++ c.arg 2 ++ c.arg 3) = true)
  ∧ (∃ (s : State) (tag : Nat) (c : Cmd), Begins s tag 0x023 c ∧ fld (c.arg 0) 0 8 < profileLimit s c.unit ∧ (c.arg 0).getLsbD 17 = false)
  ∧ (∃ (s : State) (tag : Nat) (c : Cmd), Begins s tag 0x024 c ∧ mirrorOf s (inService s c.unit) = none ∧ (c.arg 0).getLsbD 16 = false ∧ (s.cell (inService s c.unit)).hop.phaseTag = none)
  ∧ (∃ (s : State) (tag : Nat) (c : Cmd) (p : Nat), Begins s tag 0x024 c ∧ p = inService s c.unit ∧ mirrorOf s p = none ∧ (c.arg 0).getLsbD 16 = true ∧ (c.arg 0).getLsbD 15 = false ∧ (c.arg 0).getLsbD 17 = false ∧ (s.cell p).hop.undo = none ∧ (s.cell p).hop.phaseTag = none ∧ (s.cell p).cfg.step = false ∧ (s.cell p).cfg.ctl.en = true ∧ (s.cell p).vals.phi ≠ c.arg 1 ++ c.arg 2)
  ∧ (∃ (s : State) (tag : Nat) (c : Cmd), Begins s tag 0x025 c ∧ mirrorOf s (inService s c.unit) = none ∧ outConfigOk (s.cell (inService s c.unit)) c = true ∧ (c.arg 0).getLsbD 17 = false)
  ∧ (∃ (s : State) (tag : Nat) (c : Cmd), Begins s tag 0x025 c ∧ outConfigOk (s.cell (inService s c.unit)) c = false)
  ∧ (∃ (s : State) (tag : Nat) (c : Cmd), Begins s tag 0x026 c ∧ mirrorOf s (inService s c.unit) = none ∧ fld (c.arg 0) 0 5 = 4 ∧ fld (c.arg 3) 0 2 ≠ 3)
  ∧ (∃ (s : State) (tag : Nat) (c : Cmd), Begins s tag 0x026 c ∧ lockConfigOk c = false)
  ∧ (∃ (s : State) (tag : Nat) (c : Cmd), Begins s tag 0x027 c)
  ∧ (∃ (s : State) (tag : Nat) (c : Cmd), Begins s tag 0x027 c) :=
  ⟨⟨(has 0x20 0x18000 [1, 1] up), 5, (cmd 0x20 0x18000 [1, 1]), by unfold Begins; decide +kernel⟩,
   ⟨(has 0x20 0x18000 [0x20001, 1] up), 5, (cmd 0x20 0x18000 [0x20001, 1]), by unfold Begins; decide +kernel⟩,
   ⟨(has 0x23 0x18000 [0x20003, 0, 0, 2000] up), 5, (cmd 0x23 0x18000 [0x20003, 0, 0, 2000]), by unfold Begins; decide +kernel⟩,
   ⟨(has 0x23 0x18000 [0x20003, 0, 0, 900] up), 5, (cmd 0x23 0x18000 [0x20003, 0, 0, 900]), by unfold Begins; decide +kernel⟩,
   ⟨(has 0x23 0x18000 [3] up), 5, (cmd 0x23 0x18000 [3]), by unfold Begins; decide +kernel⟩,
   ⟨(has 0x24 0x18000 [0, 0, 5] up), 5, (cmd 0x24 0x18000 [0, 0, 5]), by unfold Begins; decide +kernel⟩,
   ⟨(has 0x24 0x18000 [0x10000, 0, 5] (cell0 { cfg.ctl.en := true })), 5, (cmd 0x24 0x18000 [0x10000, 0, 5]), 0, by unfold Begins; decide +kernel⟩,
   ⟨(has 0x25 0x18000 [3] up), 5, (cmd 0x25 0x18000 [3]), by unfold Begins; decide +kernel⟩,
   ⟨(has 0x25 0x18000 [13] up), 5, (cmd 0x25 0x18000 [13]), by unfold Begins; decide +kernel⟩,
   ⟨(has 0x26 0x18000 [4, 0, 0, 1, 0, 0] up), 5, (cmd 0x26 0x18000 [4, 0, 0, 1, 0, 0]), by unfold Begins; decide +kernel⟩,
   ⟨(has 0x26 0x18000 [1, 0, 0, 0, 0, 0] up), 5, (cmd 0x26 0x18000 [1, 0, 0, 0, 0, 0]), by unfold Begins; decide +kernel⟩,
   ⟨(has 0x27 0x18000 [] up), 5, (cmd 0x27 0x18000 []), by unfold Begins; decide +kernel⟩,
   ⟨(has 0x27 0x18100 [] up), 5, (cmd 0x27 0x18100 []), by unfold Begins; decide +kernel⟩⟩

theorem wit_ProfilesAreStoredWithTheirCheckWord :
  (∃ (s : State) (tag : Nat) (c : Cmd), Begins s tag 0x021 c ∧ c.args.length = 10 ∧ fld (c.arg 0) 0 8 < profileLimit s c.unit ∧ profileOk (profileStored ((c.arg 0).getLsbD 17) (c.args.drop 1)) = true)
  ∧ (∃ (s : State) (tag : Nat) (c : Cmd), Begins s tag 0x021 c ∧ (profileLimit s c.unit ≤ fld (c.arg 0) 0 8 ∨ profileOk (profileStored ((c.arg 0).getLsbD 17) (c.args.drop 1)) = false))
  ∧ (∃ (s : State) (tag : Nat) (soft : Bool) (c : Cmd), Begins s tag 0x022 c ∧ fld (c.arg 0) 0 8 < profileLimit s c.unit ∧ profBad s c.unit (fld (c.arg 0) 0 8) = false ∧ s.mbx.streaming = none ∧ c.tun = false ∧ 3 ≤ cqFree s ∧ c.out = none) :=
  ⟨⟨(has 0x21 0x18000 [3, 0x0A, 0, 0, 2, 1, 0, 0, 0, 0] up), 5, (cmd 0x21 0x18000 [3, 0x0A, 0, 0, 2, 1, 0, 0, 0, 0]), by unfold Begins; decide +kernel⟩,
   ⟨(has 0x21 0x18000 [192, 0x0A, 0, 0, 2, 1, 0, 0, 0, 0] up), 5, (cmd 0x21 0x18000 [192, 0x0A, 0, 0, 2, 1, 0, 0, 0, 0]), by unfold Begins; decide +kernel⟩,
   ⟨(has 0x22 0x18000 [3] (withRow up)), 5, true, (cmd 0x22 0x18000 [3]), by unfold Begins; decide +kernel⟩⟩

theorem wit_CompletionsTakeTheCommandOut :
  (∃ (s : State) (c : Cmd) (status : Nat) (res : List Word), findCmd s c.tag = some c ∧ c.tun = false)
  ∧ (∃ (s : State) (c : Cmd) (status : Nat) (res : List Word), findCmd s c.tag = some c ∧ c.tun = true) :=
  ⟨⟨(has 1 0 [] up), (cmd 1 0 []), 0, [], by decide +kernel⟩,
   ⟨{ up with mbx.cmds := [{ cmd 1 0 [] with tun := true }] }, { cmd 1 0 [] with tun := true }, 0, [], by decide +kernel⟩⟩

theorem wit_TiuMeasurementsRunTheirSteps :
  (∃ (t : Nat) (v : Word) (s : State), 2 ≤ s.sec.host ∧ tiuReach s t = .ok ∧ fld (v ||| 0x80) 4 2 ≠ 3 ∧ (s.tiu t).busy = false ∧ (s.tiu t).st ≠ .outOfUse ∧ { s.tiu t with cfg.mode := fld (v ||| 0x80) 4 2, cfg.atTime := (v ||| 0x80).getLsbD 6, cfgErr := false }.canArm = true)
  ∧ (∃ (t : Nat) (v : Word) (s : State), 2 ≤ s.sec.host ∧ tiuReach s t = .ok ∧ fld (v ||| 0x80) 4 2 = 3)
  ∧ (∃ (t : Nat) (s : State), 2 ≤ s.sec.host ∧ tiuReach s t = .ok ∧ (s.tiu t).cfg.mode < 3 ∧ (s.tiu t).busy = true ∧ (s.tiu t).tag = none)
  ∧ (∃ (t : Nat) (hi : Word) (s : State), 2 ≤ s.sec.host ∧ tiuReach s t = .ok ∧ gateOk (hi ++ (s.tiu t).gateLo).toNat = true)
  ∧ (∃ (t : Nat) (hi : Word) (s : State), 2 ≤ s.sec.host ∧ tiuReach s t = .ok ∧ gateOk (hi ++ (s.tiu t).gateLo).toNat = false)
  ∧ (∃ (t : Nat) (v : Word) (s : State), s.sec.host < 2)
  ∧ (∃ (t : Nat) (v : Word) (s : State), 2 ≤ s.sec.host ∧ tiuReach s t = .busy)
  ∧ (∃ (t a1 a2 b1 b2 : Nat) (s : State), (s.tiu t).st = .precal ∧ (s.tiu t).waitArm = false ∧ precalOk (a1 % 2048) (a2 % 2048) = true ∧ precalOk (b1 % 2048) (b2 % 2048) = true ∧ (s.tiu t).run.atTime = false)
  ∧ (∃ (t a1 a2 b1 b2 : Nat) (s : State), (s.tiu t).st = .precal ∧ (s.tiu t).waitArm = false ∧ precalOk (a1 % 2048) (a2 % 2048) = true ∧ precalOk (b1 % 2048) (b2 % 2048) = true ∧ (s.tiu t).run.atTime = true ∧ reached (s.region (tiuRegion t)).time (s.tiu t).run.armTime = false)
  ∧ (∃ (t a1 a2 b1 b2 : Nat) (s : State), (s.tiu t).st = .precal ∧ (s.tiu t).waitArm = false ∧ (precalOk (a1 % 2048) (a2 % 2048) = false ∨ precalOk (b1 % 2048) (b2 % 2048) = false) ∧ (s.tiu t).faults = 0 ∧ (s.tiu t).tag = none)
  ∧ (∃ (t : Nat) (s : State), (s.tiu t).st = .precal ∧ (s.tiu t).waitArm = true ∧ (s.region (tiuRegion t)).time = (s.tiu t).run.armTime)
  ∧ (∃ (t code : Nat) (s : State), (s.tiu t).st = .ready ∧ (s.tiu t).run.mode = 0 ∧ sameSource (s.tiu t).run.start (s.tiu t).run.stop = false ∧ srcLive s (tiuBlock t) (s.tiu t).run.start = true ∧ (s.tiu t).readyAt + 2 ≤ (s.region (tiuRegion t)).edge ∧ (s.tiu t).sStart = none ∧ code ≤ 1600)
  ∧ (∃ (t code : Nat) (s : State), (s.tiu t).st = .ready ∧ (s.tiu t).run.mode = 0 ∧ sameSource (s.tiu t).run.start (s.tiu t).run.stop = false ∧ srcLive s (tiuBlock t) (s.tiu t).run.stop = true ∧ (s.tiu t).readyAt + 2 ≤ (s.region (tiuRegion t)).edge ∧ (s.tiu t).sStart = none ∧ (s.tiu t).sStop = none ∧ (s.tiu t).early < 0x3FFFE)
  ∧ (∃ (t code : Nat) (s : State), (s.tiu t).st = .ready ∧ (s.tiu t).run.mode = 2 ∧ (s.tiu t).run.pre = 0 ∧ srcLive s (tiuBlock t) (s.tiu t).run.start = true ∧ (s.tiu t).readyAt + 2 ≤ (s.region (tiuRegion t)).edge ∧ (s.tiu t).stamps = [] ∧ code ≤ 1600)
  ∧ (∃ (t : Nat) (s : State), (s.tiu t).st = .running ∧ (s.tiu t).full = true ∧ (s.tiu t).run.mode ≠ 2 ∧ (s.tiu t).tag = none)
  ∧ (∃ (t : Nat) (s : State), (s.tiu t).st = .ready ∧ (s.tiu t).full = false ∧ tiuExpired s t = true ∧ (s.tiu t).run.mode ≠ 2 ∧ (s.tiu t).tag = none) :=
  ⟨⟨0, 0, up, by decide +kernel⟩,
   ⟨0, 0x30, up, by decide +kernel⟩,
   ⟨0, (tiu0 { st := .precal }), by decide +kernel⟩,
   ⟨0, 3, up, by decide +kernel⟩,
   ⟨0, 0, (tiu0 { gateLo := 799 }), by decide +kernel⟩,
   ⟨0, 1, { up with sec.host := 1 }, by decide +kernel⟩,
   ⟨0, 1, { up with blocks := [(0, { tiuHeld := [0] })] }, by decide +kernel⟩,
   ⟨0, 625, 1250, 625, 1250, (tiu0 { st := .precal }), by decide +kernel⟩,
   ⟨0, 625, 1250, 625, 1250, (tiu0 { st := .precal, run := { atTime := true, armTime := 5000 } }), by decide +kernel⟩,
   ⟨0, 0, 0, 0, 0, (tiu0 { st := .precal }), by decide +kernel⟩,
   ⟨0, (tiu0 { st := .precal, waitArm := true, run := { atTime := true, armTime := 1000 } }), by decide +kernel⟩,
   ⟨0, 900, (tiu0 { tiuRun with st := .ready, run := { start := 0x400, stop := 0x100 } }), by decide +kernel⟩,
   ⟨0, 900, (tiu0 { tiuRun with st := .ready, run := { start := 0x100, stop := 0x400 } }), by decide +kernel⟩,
   ⟨0, 900, (tiu0 { tiuRun with st := .ready, run := { start := 0x400, stop := 0x100, mode := 2, pre := 0 } }), by decide +kernel⟩,
   ⟨0, (tiu0 { tiuRun with st := .running, sStart := some 0, sStop := some 500 }), by decide +kernel⟩,
   ⟨0, (tiu0 { tiuRun with st := .ready, run := { stop := 0x100, timeout := 0 } }), by decide +kernel⟩⟩

theorem wit_TiuCommandsConfigureArmAndRead :
  (∃ (s : State) (tag : Nat) (c : Cmd), Begins s tag 0x040 c ∧ tiuHeld s c.unit = false ∧ (s.tiu c.unit).st ≠ .outOfUse ∧ fld (c.arg 0) 4 2 ≠ 3 ∧ srcOk (c.arg 1) = true ∧ srcOk (c.arg 2) = true ∧ c.arg 3 ≠ 0 ∧ freqCfgOk (c.arg 4) = true ∧ gateOk (c.arg 5 ++ c.arg 6).toNat = true)
  ∧ (∃ (s : State) (tag : Nat) (c : Cmd), Begins s tag 0x040 c ∧ tiuHeld s c.unit = false ∧ (s.tiu c.unit).st ≠ .outOfUse ∧ (fld (c.arg 0) 4 2 = 3 ∨ srcOk (c.arg 1) = false ∨ srcOk (c.arg 2) = false ∨ c.arg 3 = 0 ∨ freqCfgOk (c.arg 4) = false ∨ gateOk (c.arg 5 ++ c.arg 6).toNat = false))
  ∧ (∃ (s : State) (tag : Nat) (c : Cmd), Begins s tag 0x041 c ∧ tiuHeld s c.unit = false ∧ (s.tiu c.unit).st = .idle ∧ (s.tiu c.unit).canArm = true ∧ (c.arg 0).getLsbD 17 = false ∧ (∀ w ∈ (s.block (tiuBlock c.unit)).waiting, w ≠ (.host, tag) → c.unit % 4 ∉ needs s (tiuBlock c.unit) w))
  ∧ (∃ (s : State) (tag : Nat) (c : Cmd), Begins s tag 0x041 c ∧ tiuHeld s c.unit = false ∧ (s.tiu c.unit).st = .idle ∧ (s.tiu c.unit).canArm = true ∧ (c.arg 0).getLsbD 17 = true ∧ (∀ w ∈ (s.block (tiuBlock c.unit)).waiting, w ≠ (.host, tag) → c.unit % 4 ∉ needs s (tiuBlock c.unit) w))
  ∧ (∃ (s : State) (tag : Nat) (c : Cmd), Begins s tag 0x041 c ∧ tiuHeld s c.unit = false ∧ (s.tiu c.unit).st ≠ .outOfUse ∧ (s.tiu c.unit).busy = true ∧ c.noWait = true)
  ∧ (∃ (s : State) (tag : Nat) (c : Cmd), Begins s tag 0x042 c ∧ tiuHeld s c.unit = false ∧ (s.tiu c.unit).st = .idle ∧ freqCfgOk (c.arg 1) = true ∧ gateOk (c.arg 2 ++ c.arg 3).toNat = true ∧ srcOk (c.arg 4) = true ∧ 200 ≤ (c.arg 2 ++ c.arg 3).toNat / (fld (c.arg 1) 0 11 - 1) ∧ (∀ w ∈ (s.block (tiuBlock c.unit)).waiting, w ≠ (.host, tag) → c.unit % 4 ∉ needs s (tiuBlock c.unit) w))
  ∧ (∃ (s : State) (tag : Nat) (c : Cmd), Begins s tag 0x043 c ∧ (s.tiu c.unit).st ≠ .outOfUse ∧ (c.arg 0).getLsbD 16 = false)
  ∧ (∃ (s : State) (tag : Nat) (c : Cmd), Begins s tag 0x043 c ∧ (s.tiu c.unit).st ≠ .outOfUse ∧ (c.arg 0).getLsbD 16 = true ∧ s.mbx.streaming = none ∧ c.tun = false ∧ 3 ≤ cqFree s ∧ c.out = none) :=
  ⟨⟨(has 0x40 0x20000 [0, 0, 0x100, 1, 0x400, 3, 0x3500] up), 5, (cmd 0x40 0x20000 [0, 0, 0x100, 1, 0x400, 3, 0x3500]), by unfold Begins; decide +kernel⟩,
   ⟨(has 0x40 0x20000 [0x30, 0, 0x100, 1, 0x400, 3, 0x3500] up), 5, (cmd 0x40 0x20000 [0x30, 0, 0x100, 1, 0x400, 3, 0x3500]), by unfold Begins; decide +kernel⟩,
   ⟨(has 0x41 0x20000 [0] up), 5, (cmd 0x41 0x20000 [0]), by unfold Begins; decide +kernel⟩,
   ⟨(has 0x41 0x20000 [0x20000, 0, 0, 2000] up), 5, (cmd 0x41 0x20000 [0x20000, 0, 0, 2000]), by unfold Begins; decide +kernel⟩,
   ⟨{ tiu0 { st := .precal } with mbx.cmds := [{ cmd 0x41 0x20000 [0] with noWait := true }] }, 5, { cmd 0x41 0x20000 [0] with noWait := true }, by unfold Begins; decide +kernel⟩,
   ⟨(has 0x42 0x20000 [0, 0x400, 3, 0x3500, 0] up), 5, (cmd 0x42 0x20000 [0, 0x400, 3, 0x3500, 0]), by unfold Begins; decide +kernel⟩,
   ⟨(has 0x43 0x20000 [0] up), 5, (cmd 0x43 0x20000 [0]), by unfold Begins; decide +kernel⟩,
   ⟨(has 0x43 0x20000 [0x10000] up), 5, (cmd 0x43 0x20000 [0x10000]), by unfold Begins; decide +kernel⟩⟩

theorem wit_EventInputsAndTriggersFollowTheirRegisters :
  (∃ (i : Nat) (v : Word) (s : State), 2 ≤ s.sec.host ∧ evinReach s i = .ok ∧ (s.evin i).en = false)
  ∧ (∃ (i : Nat) (v : Word) (s : State), 2 ≤ s.sec.host ∧ evinReach s i = .ok ∧ (s.evin i).thrLo.toNat ≤ fld v 0 10)
  ∧ (∃ (i : Nat) (v : Word) (s : State), 2 ≤ s.sec.host ∧ evinReach s i = .ok ∧ fld v 0 10 ≤ (s.evin i).thrHi.toNat)
  ∧ (∃ (i : Nat) (hi : Bool) (v : Word) (s : State), 2 ≤ s.sec.host ∧ evinReach s i = .ok ∧ (if hi then fld v 0 10 < (s.evin i).thrLo.toNat else (s.evin i).thrHi.toNat < fld v 0 10))
  ∧ (∃ (i e : Nat) (s : State), (s.evin i).settleAt = some e ∧ e ≤ (s.region (i / 64)).edge)
  ∧ (∃ (r slot k : Nat) (v : Int) (s : State), Runs s r ∧ k < 64)
  ∧ (∃ (r slot n x : Nat) (s : State), x = 8 * (s.region r).edge + slot % 8 ∧ (s.acq r).armed = true ∧ (s.acq r).run.next = x ∧ (s.acq r).run.postEnd = none ∧ ((s.acq r).trig (n % 8)).fromEdge = none ∧ ((s.acq r).trig (n % 8)).typ = 3 ∧ ((s.acq r).trig (n % 8)).due x = true ∧ shown s (64 * r + ((s.acq r).trig (n % 8)).input) x = (s.evin (64 * r + ((s.acq r).trig (n % 8)).input)).smp)
  ∧ (∃ (r n : Nat) (v : Word) (s : State), 2 ≤ s.sec.host ∧ acqReach s r = .ok ∧ n < 8 ∧ trigOk v ((s.acq r).trig n).t1 ((s.acq r).trig n).t2 = false)
  ∧ (∃ (r n : Nat) (v : Word) (s : State), 2 ≤ s.sec.host ∧ acqReach s r = .ok ∧ n < 8 ∧ trigOk v ((s.acq r).trig n).t1 ((s.acq r).trig n).t2 = true)
  ∧ (∃ (s : State) (tag : Nat) (c : Cmd), Begins s tag 0x050 c ∧ tgtScope c.target = 3 ∧ (c.arg 0 &&& 0x3FF02) = 0 ∧ (c.arg 1 &&& 0x3FC00) = 0 ∧ (c.arg 2 &&& 0x3FC00) = 0 ∧ (c.arg 2).toNat ≤ (c.arg 1).toNat ∧ (s.evin c.unit).en = false)
  ∧ (∃ (s : State) (tag : Nat) (c : Cmd), Begins s tag 0x051 c ∧ trigOk (c.arg 1) (c.arg 2) (c.arg 3) = true) :=
  ⟨⟨0, 1, up, by decide +kernel⟩,
   ⟨0, 512, up, by decide +kernel⟩,
   ⟨0, 512, up, by decide +kernel⟩,
   ⟨0, true, 511, up, by decide +kernel⟩,
   ⟨0, 900, (evin0 { en := true, settleAt := some 900 }), by decide +kernel⟩,
   ⟨0, 0, 3, 100, up, by unfold Runs; decide +kernel⟩,
   ⟨0, 0, 0, 8000, (acq0 { regs := { st := .wait, trigs := [(0, { cond := (0x2C000, 5, 0), from_ := some 0 })] }, run.next := 8000 }), by decide +kernel⟩,
   ⟨0, 0, 0x3C000, up, by decide +kernel⟩,
   ⟨0, 0, 0, up, by decide +kernel⟩,
   ⟨(has 0x50 0x18000 [1, 600, 400] up), 5, (cmd 0x50 0x18000 [1, 600, 400]), by unfold Begins; decide +kernel⟩,
   ⟨(has 0x51 0x28000 [0, 0, 0, 0] up), 5, (cmd 0x51 0x28000 [0, 0, 0, 0]), by unfold Begins; decide +kernel⟩⟩

theorem wit_AcquisitionsOpenAndEndStrands :
  (∃ (r : Nat) (v : Word) (s : State), 2 ≤ s.sec.host ∧ acqReach s r = .ok ∧ (s.acq r).armed = false ∧ armOk (s.acq r).regs.l.toNat (s.acq r).regs.p.toNat (s.acq r).regs.c.toNat = true)
  ∧ (∃ (r : Nat) (v : Word) (s : State), 2 ≤ s.sec.host ∧ acqReach s r = .ok ∧ (s.acq r).armed = false ∧ armOk (s.acq r).regs.l.toNat (s.acq r).regs.p.toNat (s.acq r).regs.c.toNat = false)
  ∧ (∃ (r : Nat) (s : State), 2 ≤ s.sec.host ∧ acqReach s r = .ok ∧ (s.acq r).regs.st = .wait ∧ (s.acq r).run.armTag = none)
  ∧ (∃ (r e : Nat) (s : State), (s.acq r).run.a0 = some e ∧ e ≤ (s.region r).edge ∧ (s.acq r).run.armTag = none)
  ∧ (∃ (r e : Nat) (tr : Nat × List Word × Nat × Nat) (s : State), (s.acq r).run.postEnd = some e ∧ (s.acq r).run.trig = some tr ∧ (s.acq r).regs.st = .post ∧ e ≤ (s.region r).edge ∧ tr.1 + 8 * (s.acq r).run.lat.2.2.2 ≤ (s.acq r).run.next ∧ (s.acq r).regs.done + 1 < (s.acq r).run.lat.2.2.1 ∧ tr.2.1.length = 4)
  ∧ (∃ (r e : Nat) (tr : Nat × List Word × Nat × Nat) (s : State), (s.acq r).run.postEnd = some e ∧ (s.acq r).run.trig = some tr ∧ (s.acq r).regs.st = .post ∧ e ≤ (s.region r).edge ∧ tr.1 + 8 * (s.acq r).run.lat.2.2.2 ≤ (s.acq r).run.next ∧ (s.acq r).run.lat.2.2.1 ≤ (s.acq r).regs.done + 1)
  ∧ (∃ (r : Nat) (s : State), (s.acq r).regs.st = .rearm)
  ∧ (∃ (r slot f n : Nat) (s : State), (s.acq r).run.gap = some (f, n) ∧ (s.acq r).regs.st = .wait ∧ (s.acq r).room72 = true ∧ (s.acq r).run.next = 8 * (s.region r).edge + slot % 8 ∧ (s.acq r).run.marks = [] ∧ (s.acq r).run.forced = [] ∧ (s.acq r).regs.trigs = [] ∧ (s.acq r).regs.gapCount < 0x3FFFE ∧ (s.acq r).regs.lostBeads + n < 0x3FFFF ∧ (∀ i, i < 64 → (s.evin (64 * r + i)).store = false))
  ∧ (∃ (s : State) (tag : Nat) (c : Cmd), Begins s tag 0x052 c ∧ armOk (c.arg 0).toNat (c.arg 1).toNat (c.arg 2).toNat = true ∧ (s.acq c.unit).armed = false)
  ∧ (∃ (s : State) (tag : Nat) (c : Cmd), Begins s tag 0x052 c ∧ armOk (c.arg 0).toNat (c.arg 1).toNat (c.arg 2).toNat = true ∧ (s.acq c.unit).armed = true)
  ∧ (∃ (s : State) (tag : Nat) (c : Cmd), Begins s tag 0x053 c ∧ (s.acq c.unit).armed = false)
  ∧ (∃ (s : State) (tag : Nat) (soft : Bool) (c : Cmd), Begins s tag 0x054 c ∧ (s.acq c.unit).storing = false ∧ fld (c.arg 0) 0 12 < (s.acq c.unit).regs.done ∧ 1 ≤ (c.arg 2).toNat ∧ (c.arg 2).toNat ≤ 65536 ∧ (c.arg 1).toNat + (c.arg 2).toNat ≤ (s.acq c.unit).run.lat.1 ∧ s.flt.badWords = [])
  ∧ (∃ (s : State) (tag : Nat) (c : Cmd), Begins s tag 0x055 c ∧ (c.arg 0).getLsbD 0 = true ∧ (portPresent s 0 = false ∨ (s.port 0).st ≠ .run))
  ∧ (∃ (s : State) (tag : Nat) (c : Cmd), Begins s tag 0x055 c ∧ (c.arg 0).getLsbD 0 = false)
  ∧ (∃ (r : Nat) (s : State), (s.port 0).st = .run ∧ streamTurn s r = true ∧ (s.acq r).mem.lostQ ≠ [] ∧ (s.port 0).credits = 0)
  ∧ (∃ (r l : Nat) (ls : List Nat) (s : State), (s.port 0).st = .run ∧ streamTurn s r = true ∧ (s.acq r).mem.lostQ = l :: ls ∧ 0 < (s.port 0).credits)
  ∧ (∃ (r k : Nat) (ks : List Nat) (s : State), (s.port 0).st = .run ∧ streamTurn s r = true ∧ (s.acq r).mem.lostQ = [] ∧ (s.acq r).mem.sendQ = k :: ks ∧ (s.acq r).mem.stream = true ∧ 0 < (s.port 0).credits ∧ s.flt.badWords = [] ∧ 2 + 9 * ((18 + 2 * ((strandHeader s r k).getD 6 0).toNat + 31) / 32) ≤ (s.acq r).mem.sent + 64)
  ∧ (∃ (r : Nat) (h : HeldRec) (s : State), (s.acq r).mem.held = some h ∧ cqAccepts s = true) :=
  ⟨⟨0, 1, up, by decide +kernel⟩,
   ⟨0, 1, (acq0 { regs.l := 0 }), by decide +kernel⟩,
   ⟨0, (acq0 { regs.st := .wait }), by decide +kernel⟩,
   ⟨0, 900, (acq0 { run.a0 := some 900 }), by decide +kernel⟩,
   ⟨0, 900, (0, [0, 0, 0, 0], 0, 0), (acq0 (posted 2)), by decide +kernel⟩,
   ⟨0, 900, (0, [0, 0, 0, 0], 0, 0), (acq0 (posted 1)), by decide +kernel⟩,
   ⟨0, (acq0 { regs.st := .rearm }), by decide +kernel⟩,
   ⟨0, 0, 5, 3, { acq0 { regs.st := .wait, run := { gap := some (5, 3), next := 8000 } } with evins := (List.range 64).map (fun i => (i, { store := false })) }, by decide +kernel⟩,
   ⟨(has 0x52 0x28000 [1024, 256, 1, 0, 0, 0] up), 5, (cmd 0x52 0x28000 [1024, 256, 1, 0, 0, 0]), by unfold Begins; decide +kernel⟩,
   ⟨(has 0x52 0x28000 [1024, 256, 1, 0, 0, 0] (acq0 { regs.st := .wait })), 5, (cmd 0x52 0x28000 [1024, 256, 1, 0, 0, 0]), by unfold Begins; decide +kernel⟩,
   ⟨(has 0x53 0x28000 [] up), 5, (cmd 0x53 0x28000 []), by unfold Begins; decide +kernel⟩,
   ⟨(has 0x54 0x28000 [0, 0, 1] (acq0 { regs.done := 1, run.lat := (1024, 256, 1, 0) })), 5, true, (cmd 0x54 0x28000 [0, 0, 1]), by unfold Begins; decide +kernel⟩,
   ⟨(has 0x55 0x28000 [1] up), 5, (cmd 0x55 0x28000 [1]), by unfold Begins; decide +kernel⟩,
   ⟨(has 0x55 0x28000 [0] up), 5, (cmd 0x55 0x28000 [0]), by unfold Begins; decide +kernel⟩,
   ⟨0, { acq0 { mem.lostQ := [1] } with ports := [(0, { st := .run })] }, by decide +kernel⟩,
   ⟨0, 1, [], { acq0 { mem.lostQ := [1] } with ports := [(0, { st := .run, credits := 2 })] }, by decide +kernel⟩,
   ⟨0, 1, [], { acq0 { mem := { sendQ := [1], stream := true } } with ports := [(0, { st := .run, credits := 2 })] }, by decide +kernel⟩,
   ⟨0, { words := row }, (acq0 { mem.held := some { words := row } }), by decide +kernel⟩⟩

theorem wit_RefusedCommandsOnlyAnswer :
  (∃ (i : Instr) (tag op : Nat) (s : State) (c : Cmd), hitanOp i = some (tag, op) ∧ findCmd s tag = some c ∧ c.opcode = op ∧ c.st = .accepted ∧ mayDispatch s c = true)
  ∧ (∃ (s : State) (c : Cmd), findCmd s 5 = some c ∧ c.opcode = 1 ∧ c.st = .accepted ∧ mayDispatch s c = true ∧ dispatchCheck s c = some BADTARGET)
  ∧ (∃ (s : State) (c : Cmd), findCmd s 5 = some c ∧ c.opcode = 1 ∧ c.st = .accepted ∧ mayDispatch s c = true ∧ dispatchCheck s c = none ∧ deadlinePassed s c = true)
  ∧ (∃ (s : State) (c : Cmd), findCmd s 5 = some c ∧ c.opcode = 1 ∧ c.st = .accepted ∧ mayDispatch s c = true ∧ dispatchCheck s c = none ∧ deadlinePassed s c = false ∧ mustWait s c = true) :=
  ⟨⟨(.info 5), 5, 1, (has 1 0x8000 [] up), (cmd 1 0x8000 []), by decide +kernel⟩,
   ⟨has 1 0x8000 [] up, cmd 1 0x8000 [], by decide +kernel⟩,
   ⟨{ up with mbx.cmds := [{ cmd 1 0 [] with deadline := some 900 }] }, { cmd 1 0 [] with deadline := some 900 }, by decide +kernel⟩,
   ⟨{ up with mbx.cmds := [{ exe 2 0x8000 [] with tag := 4 }, cmd 1 0 []] }, cmd 1 0 [], by decide +kernel⟩⟩

theorem wit_TheMailboxQueuesParsesAndPops :
  (∃ (w : Word) (s : State), s.pwr.wiped = true ∧ sqFree s ≠ 0)
  ∧ (∃ (w : Word) (s : State), s.pwr.wiped = true ∧ sqFree s = 0)
  ∧ (∃ (w : Word) (s : State), s.pwr.wiped = true ∧ s.mbx.batch ≠ [] ∧ s.mbx.batchBad = false ∧ fld w 0 14 = s.mbx.batch.length)
  ∧ (∃ (w : Word) (s : State), s.pwr.wiped = true ∧ s.mbx.batch ≠ [] ∧ fld w 0 14 ≠ s.mbx.batch.length)
  ∧ (∃ (w : Word) (s : State), s.mbx.batch = [] ∧ fld w 0 14 = 0)
  ∧ (∃ (b : List Word) (s : State), s.mbx.unparsed = [b] ∧ cqFree s ≠ 0 ∧ malformed b = false ∧ tagInFlight s (cmdOf b false).tag = false ∧ fld (b.getD 2 0) 0 5 = b.length)
  ∧ (∃ (b : List Word) (s : State), s.mbx.unparsed = [b] ∧ b ≠ [] ∧ cqFree s ≠ 0 ∧ malformed b = true ∧ tagInFlight s (cmdOf b false).tag = false)
  ∧ (∃ (b : List Word) (s : State), s.mbx.unparsed = [b] ∧ b ≠ [] ∧ cqFree s ≠ 0 ∧ malformed b = true ∧ tagInFlight s (cmdOf b false).tag = false)
  ∧ (∃ (b : List Word) (s : State), s.mbx.unparsed = [b] ∧ cqFree s ≠ 0 ∧ malformed b = false ∧ tagInFlight s (cmdOf b false).tag = false ∧ fld (b.getD 2 0) 0 5 = b.length)
  ∧ (∃ (s : State), cqFree s = 0)
  ∧ (∃ (r : List Word) (rs : List (List Word)) (s : State), s.pwr.wiped = true ∧ s.mbx.cq = r :: rs ∧ s.mbx.popPos = 7)
  ∧ (∃ (s : State), s.pwr.wiped = true ∧ s.mbx.cq ≠ [] ∧ s.mbx.popPos ≠ 7)
  ∧ (∃ (s : State), s.mbx.cq ≠ [] ∧ s.mbx.coalTime ≠ 0)
  ∧ (∃ (s : State) (tag n st : Nat) (c : Cmd) (res : List Word), findCmd s tag = some c ∧ c.out = some (n, [], st, res) ∧ (s.mbx.streaming = none ∨ s.mbx.streaming = some tag))
  ∧ (∃ (s : State) (tag : Nat) (c : Cmd), findCmd s tag = some c ∧ formOf c.opcode = none ∧ mayDispatch s c = true)
  ∧ (∃ (s : State) (tag : Nat) (c : Cmd), findCmd s tag = some c ∧ s.mbx.mpRestart = false ∧ c.st ≠ .executing ∧ deadlinePassed s c = true) :=
  ⟨⟨7, up, by decide +kernel⟩,
   ⟨7, { up with mbx.batch := List.replicate 8192 0 }, by decide +kernel⟩,
   ⟨1, { up with mbx.batch := [7] }, by decide +kernel⟩,
   ⟨2, { up with mbx.batch := [7] }, by decide +kernel⟩,
   ⟨0, up, by decide +kernel⟩,
   ⟨[0x201, 0, 3], { up with mbx.unparsed := [[0x201, 0, 3]] }, by decide +kernel⟩,
   ⟨[0x201, 0, 2], { up with mbx.unparsed := [[0x201, 0, 2]] }, by decide +kernel⟩,
   ⟨[0x201, 0, 17], { up with mbx.unparsed := [[0x201, 0, 17]] }, by decide +kernel⟩,
   ⟨[0x201, 0, 3], { up with mbx.unparsed := [[0x201, 0, 3]] }, by decide +kernel⟩,
   ⟨{ up with mbx.cq := List.replicate 1024 [] }, by decide +kernel⟩,
   ⟨row, [], { up with mbx.cq := [row], mbx.popPos := 7 }, by decide +kernel⟩,
   ⟨{ up with mbx.cq := [row] }, by decide +kernel⟩,
   ⟨{ up with mbx.cq := [row], mbx.coalTime := 1 }, by decide +kernel⟩,
   ⟨{ up with mbx.cmds := [{ exe 1 0 [] with out := some (0, [], 0, []) }] }, 5, 0, 0, { exe 1 0 [] with out := some (0, [], 0, []) }, [], by decide +kernel⟩,
   ⟨(has 0x1FF 0 [] up), 5, (cmd 0x1FF 0 []), by decide +kernel⟩,
   ⟨{ up with mbx.cmds := [{ cmd 1 0 [] with deadline := some 900 }] }, 5, { cmd 1 0 [] with deadline := some 900 }, by decide +kernel⟩⟩

theorem wit_FaultsAreRecordedAndMpRestarts :
  (∃ (a b c : Nat) (s : State), mpRuns s = true ∧ s.flt.restarts = [a, b, c] ∧ withinRc s (leadEdge s - c) 8000000000 = true)
  ∧ (∃ (s : State), s.mbx.mpRestart = true ∧ s.cal.runs = [] ∧ s.bist.runs = [])
  ∧ (∃ (u : Nat) (s : State), s.pwr.phase ≠ .reset ∧ (∀ c ∈ s.mbx.cmds, c.opcode ≠ 0x062 ∧ c.opcode ≠ 0x063))
  ∧ (∃ (r mem addr : Nat) (b : Bool) (s : State), Runs s r ∧ mem < 9 ∧ addr < memSize mem ∧ (mem, r * memSize mem + addr) ∉ s.flt.badWords)
  ∧ (∃ (r mem addr : Nat) (s : State), Runs s r ∧ mem ≤ 10 ∧ addr < memSize mem ∧ (mem, r * memSize mem + addr) ∉ s.flt.badWords ∧ (s.region r).eccCorr < 0x3FFFE)
  ∧ (∃ (s : State), 0 < s.flt.dropped ∧ s.flt.fifo.length < 32)
  ∧ (∃ (x : List Word) (xs : List (List Word)) (s : State), mpRuns s = true ∧ s.flt.toMirror = x :: xs)
  ∧ (∃ (x : List Word) (xs : List (List Word)) (s : State), mpRuns s = true ∧ s.flt.toMirror = x :: xs)
  ∧ (∃ (a : Nat) (s : State), hasParity (locate true a) = true ∧ regPresent s (locate true a) = true ∧ regReach s (locate true a) ≠ .gated)
  ∧ (∃ (s : State) (tag : Nat) (c : Cmd), Begins s tag 0x0A3 c ∧ 1 ≤ (c.arg 1).toNat ∧ (c.arg 1).toNat ≤ 256)
  ∧ (∃ s : State, mpRuns s = true ∧ s.flt.fifo.length < 32 ∧ s.flt.restarts.length < 3) :=
  ⟨⟨10, 9, 8, { up with flt.restarts := [10, 9, 8] }, by decide +kernel⟩,
   ⟨{ up with mbx.mpRestart := true, mbx.cmds := [exe 1 0 []] }, by decide +kernel⟩,
   ⟨0, up, by decide +kernel⟩,
   ⟨0, 8, 0, true, up, by unfold Runs; decide +kernel⟩,
   ⟨0, 10, 0, up, by unfold Runs; decide +kernel⟩,
   ⟨{ up with flt.dropped := 3 }, by decide +kernel⟩,
   ⟨(List.replicate 8 0), [], { up with flt.toMirror := [List.replicate 8 0] }, by decide +kernel⟩,
   ⟨(List.replicate 8 0), [], { up with flt.toMirror := [List.replicate 8 0] }, by decide +kernel⟩,
   ⟨0x102, up, by decide +kernel⟩,
   ⟨(has 0xA3 0 [0, 1] up), 5, (cmd 0xA3 0 [0, 1]), by unfold Begins; decide +kernel⟩,
   ⟨up, by decide +kernel⟩⟩

theorem wit_CalibrationRunsUnitsAndCommits :
  (∃ (s : State) (tag : Nat) (c : Cmd), Begins s tag 0x060 c ∧ tgtScope c.target = 4 ∧ calArgOk c.target (c.arg 0) = true ∧ calPrecond s c.target (c.arg 0) = true ∧ c.noWait = false ∧ (c.arg 0).getLsbD 1 = true ∧ (c.arg 0).getLsbD 0 = false ∧ (c.arg 0).getLsbD 2 = false ∧ blockPresent s (tiuBlock c.unit) = true)
  ∧ (∃ (s : State) (tag : Nat) (c : Cmd), Begins s tag 0x060 c ∧ calArgOk c.target (c.arg 0) = false)
  ∧ (∃ (s : State) (tag : Nat) (c : Cmd), Begins s tag 0x060 c ∧ calArgOk c.target (c.arg 0) = true ∧ calPrecond s c.target (c.arg 0) = false)
  ∧ (∃ (b n : Nat) (r : CalRun) (m : Meas) (v : List Int) (c : Cmd) (s : State), s.cal.runs = [r] ∧ r.granted = [b] ∧ r.todo = [(b, [{ kind := 0, unit := n }])] ∧ r.done = [] ∧ r.counts = (0, 0, 0) ∧ r.early = none ∧ m.code = 0x10 ∧ m.unit = n ∧ nearPoint s b r.point = true ∧ judge m = some v ∧ findCmd s r.tag = some c)
  ∧ (∃ (s : State) (tag : Nat) (c : Cmd), Begins s tag 0x061 c)
  ∧ (∃ (s : State) (tag : Nat) (c : Cmd), Begins s tag 0x062 c ∧ s.flt.locketBad = false ∧ s.cal.pend = none)
  ∧ (∃ (s : State) (tag : Nat) (c : Cmd) (p : CalSet), Begins s tag 0x062 c ∧ s.flt.locketBad = false ∧ s.cal.pend = some p ∧ s.cal.runs = [] ∧ (c.arg 0).getLsbD 1 = true)
  ∧ (∃ (s : State) (tag : Nat) (c : Cmd) (p : CalSet), Begins s tag 0x062 c ∧ s.flt.locketBad = false ∧ s.cal.pend = some p ∧ s.cal.runs = [] ∧ (c.arg 0).getLsbD 1 = false)
  ∧ (∃ (s : State) (tag B n : Nat) (imm : Bool) (set : CalSet) (c : Cmd), s.cal.commit = some (tag, imm, set, B, n) ∧ B ≤ 1 ∧ findCmd s tag = some c)
  ∧ (∃ (s : State) (tag B n : Nat) (imm : Bool) (set : CalSet), s.cal.commit = some (tag, imm, set, B, n))
  ∧ (∃ (r : Nat) (s : State), (s.region r).time.toNat % 1024 = 0)
  ∧ (∃ (r : Nat) (s : State), (s.region r).time.toNat % 1024 ≠ 0)
  ∧ (∃ (r : Nat) (imm : Bool) (s : State), s.cal.applyAt = [(r, (s.region r).edge, some imm)])
  ∧ (∃ (r : Nat) (s : State), s.cal.applyAt = [(r, (s.region r).edge, none)] ∧ (s.mem r).th64.getLsbD 17 ≠ (s.mem r).th64.getLsbD 0)
  ∧ (∃ (r : Nat) (s : State), (∀ x ∈ s.cal.applyAt, x.1 = r → x.2.1 ≠ (s.region r).edge))
  ∧ (∃ (s : State) (tag : Nat) (c : Cmd), Begins s tag 0x063 c ∧ s.flt.locketBad = false ∧ (c.arg 0).getLsbD 0 = true ∧ s.cal.user = [])
  ∧ (∃ (s : State) (tag : Nat) (c : Cmd), Begins s tag 0x063 c ∧ s.flt.locketBad = false ∧ (c.arg 0).getLsbD 0 = false ∧ s.cal.facOk = true)
  ∧ (∃ (s : State) (tag : Nat) (c : Cmd), Begins s tag 0x064 c ∧ s.th64On c.unit = false)
  ∧ (∃ (s : State) (tag : Nat) (c : Cmd), Begins s tag 0x064 c ∧ s.th64On c.unit = true ∧ (c.arg 0).getLsbD 17 = false ∧ fld (c.arg 0) 0 12 = (s.mem c.unit).thStage.2) :=
  ⟨⟨(has 0x60 0x20000 [2] calReady), 5, (cmd 0x60 0x20000 [2]), by unfold Begins; decide +kernel⟩,
   ⟨(has 0x60 0x20000 [0x52] up), 5, (cmd 0x60 0x20000 [0x52]), by unfold Begins; decide +kernel⟩,
   ⟨(has 0x60 0x20000 [2] up), 5, (cmd 0x60 0x20000 [2]), by unfold Begins; decide +kernel⟩,
   ⟨0, 0, calRun0, meas0, (List.replicate (calCount 0x10) 0), (exe 0x60 0x20000 [2]), { calReady with mbx.cmds := [exe 0x60 0x20000 [2]], cal.runs := [calRun0] }, by decide +kernel⟩,
   ⟨(has 0x61 0 [] up), 5, (cmd 0x61 0 []), by unfold Begins; decide +kernel⟩,
   ⟨(has 0x62 0 [0] up), 5, (cmd 0x62 0 [0]), by unfold Begins; decide +kernel⟩,
   ⟨{ has 0x62 0 [2] up with cal.pend := some [] }, 5, (cmd 0x62 0 [2]), [], by unfold Begins; decide +kernel⟩,
   ⟨{ has 0x62 0 [0] up with cal.pend := some [] }, 5, (cmd 0x62 0 [0]), [], by unfold Begins; decide +kernel⟩,
   ⟨{ up with mbx.cmds := [exe 0x62 0 [0]], cal.commit := some (5, false, [], 1, 1) }, 5, 1, 1, false, [], (exe 0x62 0 [0]), by decide +kernel⟩,
   ⟨{ up with mbx.cmds := [exe 0x62 0 [0]], cal.commit := some (5, false, [], 0, 1) }, 5, 0, 1, false, [], by decide +kernel⟩,
   ⟨0, (one { regUp with time := 1024 }), by decide +kernel⟩,
   ⟨0, up, by decide +kernel⟩,
   ⟨0, false, { up with cal.applyAt := [(0, 1000, some false)] }, by decide +kernel⟩,
   ⟨0, { up with cal.applyAt := [(0, 1000, none)], rmem := [(0, { th64 := 0x20000 })] }, by decide +kernel⟩,
   ⟨0, { up with cal.applyAt := [(0, 1001, some false)] }, by decide +kernel⟩,
   ⟨(has 0x63 0 [1] up), 5, (cmd 0x63 0 [1]), by unfold Begins; decide +kernel⟩,
   ⟨{ has 0x63 0 [0] up with cal.facOk := true }, 5, (cmd 0x63 0 [0]), by unfold Begins; decide +kernel⟩,
   ⟨(has 0x64 0x8000 [0, 0] up), 5, (cmd 0x64 0x8000 [0, 0]), by unfold Begins; decide +kernel⟩,
   ⟨{ has 0x64 0x8000 [0, 7] up with rmem := [(0, { th64 := 0x10000 })] }, 5, (cmd 0x64 0x8000 [0, 7]), by unfold Begins; decide +kernel⟩⟩

theorem wit_SelfTestsTakeSlotsAndRestore :
  (∃ (s : State) (tag : Nat) (c : Cmd), Begins s tag 0x070 c ∧ bistMaskOk (tgtScope c.target) (BitVec.ofNat 6 (c.arg 0).toNat) = true ∧ bistBarred s (tgtScope c.target) c.unit (BitVec.ofNat 6 (c.arg 0).toNat) = false ∧ c.noWait = false)
  ∧ (∃ (s : State) (tag : Nat) (c : Cmd), Begins s tag 0x070 c ∧ bistMaskOk (tgtScope c.target) (BitVec.ofNat 6 (c.arg 0).toNat) = false)
  ∧ (∃ (B : Nat) (r : BistRun) (s : State), s.bist.runs = [r] ∧ r.stage = .waitSlot ∧ r.periods = [.block B] ∧ s.pace.st = .steady ∧ 2 ≤ s.pace.level)
  ∧ (∃ (B : Nat) (r : BistRun) (s : State), s.bist.runs = [r] ∧ r.stage = .waitGrant ∧ r.periods = [.block B] ∧ (s.block B).waiting = [])
  ∧ (∃ (B dur : Nat) (r : BistRun) (s : State), B < 16 ∧ s.bist.runs = [r] ∧ r.stage = .testing ∧ r.periods = [.block B] ∧ (s.block B).failed = [] ∧ (s.block B).waiting = [])
  ∧ (∃ (b n dur : Nat) (ps : List SlotKind) (r : BistRun) (s : State), s.bist.runs = [r] ∧ r.stage = .testing ∧ r.periods = .online n :: ps ∧ n / 16 = b ∧ r.seated = false)
  ∧ (∃ (s : State) (tag : Nat) (c : Cmd), Begins s tag 0x071 c ∧ 6 ≤ fld (c.arg 0) 0 3)
  ∧ (∃ (s : State) (tag : Nat) (c : Cmd) (x : TestRes), Begins s tag 0x071 c ∧ 2 ≤ fld (c.arg 0) 0 3 ∧ fld (c.arg 0) 0 3 < 6 ∧ getResult s (tgtScope c.target) c.unit (fld (c.arg 0) 0 3) = x) :=
  ⟨⟨(has 0x70 0x10000 [4] up), 5, (cmd 0x70 0x10000 [4]), by unfold Begins; decide +kernel⟩,
   ⟨(has 0x70 0x10000 [1] up), 5, (cmd 0x70 0x10000 [1]), by unfold Begins; decide +kernel⟩,
   ⟨0, (bist0 .waitSlot), { up with bist.runs := [bist0 .waitSlot], mbx.cmds := [exe 0x70 0x10000 [4]] }, by decide +kernel⟩,
   ⟨0, (bist0 .waitGrant), { up with bist.runs := [bist0 .waitGrant], mbx.cmds := [exe 0x70 0x10000 [4]] }, by decide +kernel⟩,
   ⟨0, 7, (bist0 .testing), { up with bist.runs := [bist0 .testing], mbx.cmds := [exe 0x70 0x10000 [4]], blocks := [(0, { offline := true })] }, by decide +kernel⟩,
   ⟨0, 3, 7, [], { tag := 5, tests := 4, periods := [.online 3], stage := .testing }, { up with bist.runs := [{ tag := 5, tests := 4, periods := [.online 3], stage := .testing }], mbx.cmds := [exe 0x70 0x18003 [4]] }, by decide +kernel⟩,
   ⟨(has 0x71 0x10000 [6] up), 5, (cmd 0x71 0x10000 [6]), by unfold Begins; decide +kernel⟩,
   ⟨(has 0x71 0x10000 [2] up), 5, (cmd 0x71 0x10000 [2]), {}, by unfold Begins; decide +kernel⟩⟩

theorem wit_RepairsMapAndBurn :
  (∃ (s : State) (tag : Nat) (c : Cmd), Begins s tag 0x072 c ∧ fld (c.arg 0) 16 2 = 3)
  ∧ (∃ (s : State) (tag : Nat) (c : Cmd), Begins s tag 0x072 c ∧ fld (c.arg 0) 16 2 = 1 ∧ recovering s c.unit = false ∧ onlineRunOf s c.unit = none ∧ (s.block c.unit).spareFaulty = true)
  ∧ (∃ (s : State) (tag : Nat) (c : Cmd), Begins s tag 0x072 c ∧ fld (c.arg 0) 16 2 = 1 ∧ recovering s c.unit = false ∧ onlineRunOf s c.unit = none ∧ (s.block c.unit).spareFaulty = false ∧ (s.block c.unit).fusedMap = none ∧ spareFree s c.unit = true)
  ∧ (∃ (s : State) (tag : Nat) (c : Cmd), Begins s tag 0x072 c ∧ fld (c.arg 0) 16 2 = 2 ∧ recovering s c.unit = false ∧ onlineRunOf s c.unit = none)
  ∧ (∃ (s : State) (tag : Nat) (c : Cmd), Begins s tag 0x073 c ∧ s.hc.clasp ≠ .opened)
  ∧ (∃ (s : State) (tag m : Nat) (c : Cmd), Begins s tag 0x073 c ∧ s.hc.clasp = .opened ∧ (c.arg 0).getLsbD 0 = true ∧ (s.block (fld (c.arg 1) 0 4)).softMap = some m ∧ fuseUsed s < 128 ∧ s.lk.lc ≠ 4 ∧ slotHeld s = false)
  ∧ (∃ (s : State) (tag : Nat) (e f : BitVec 32) (es : List (BitVec 32)) (m : Option Nat), s.bist.burn = some (tag, e :: f :: es, m))
  ∧ (∃ (s : State) (tag : Nat) (e : BitVec 32) (c : Cmd), s.bist.burn = some (tag, [e], none) ∧ findCmd s tag = some c ∧ e ≠ 0)
  ∧ (∃ (s : State) (tag : Nat) (e : BitVec 32) (es : List (BitVec 32)) (m : Option Nat) (c : Cmd), s.bist.burn = some (tag, e :: es, m) ∧ findCmd s tag = some c) :=
  ⟨⟨(has 0x72 0x10000 [0x30000] up), 5, (cmd 0x72 0x10000 [0x30000]), by unfold Begins; decide +kernel⟩,
   ⟨{ has 0x72 0x10000 [0x10000] up with blocks := [(0, { spareFaulty := true })] }, 5, (cmd 0x72 0x10000 [0x10000]), by unfold Begins; decide +kernel⟩,
   ⟨(has 0x72 0x10000 [0x10003] up), 5, (cmd 0x72 0x10000 [0x10003]), by unfold Begins; decide +kernel⟩,
   ⟨{ has 0x72 0x10000 [0x20000] up with blocks := [(0, { softMap := some 3 })] }, 5, (cmd 0x72 0x10000 [0x20000]), by unfold Begins; decide +kernel⟩,
   ⟨(has 0x73 0 [0] up), 5, (cmd 0x73 0 [0]), by unfold Begins; decide +kernel⟩,
   ⟨{ has 0x73 0 [1, 0] up with hc.clasp := .opened, blocks := [(0, { softMap := some 3 })] }, 5, 3, (cmd 0x73 0 [1, 0]), by unfold Begins; decide +kernel⟩,
   ⟨{ up with bist.burn := some (5, [1, 2], none) }, 5, 1, 2, [], none, by decide +kernel⟩,
   ⟨{ up with bist.burn := some (5, [1], none), mbx.cmds := [exe 0x73 0 [0]] }, 5, 1, (exe 0x73 0 [0]), by decide +kernel⟩,
   ⟨{ up with bist.burn := some (5, [1], none), mbx.cmds := [exe 0x73 0 [0]] }, 5, 1, [], none, (exe 0x73 0 [0]), by decide +kernel⟩⟩

theorem wit_SessionsPinAndProtection :
  (∃ (s : State) (tag : Nat) (c : Cmd), Begins s tag 0x083 c ∧ s.flt.locketBad = false ∧ fld (c.arg 0) 0 2 ≠ 0 ∧ openable s.lk (fld (c.arg 0) 0 2) = false)
  ∧ (∃ (s : State) (tag : Nat) (c : Cmd) (h : BitVec 256) (salt : BitVec 128), Begins s tag 0x083 c ∧ s.flt.locketBad = false ∧ fld (c.arg 0) 0 2 = 1 ∧ openable s.lk 1 = true ∧ s.sec.locked = false ∧ s.lk.pin = some (h, salt) ∧ pinHash s.lk (c.arg 1) (c.arg 2) salt = h ∧ c.tun = false)
  ∧ (∃ (s : State) (tag : Nat) (c : Cmd) (h : BitVec 256) (salt : BitVec 128), Begins s tag 0x083 c ∧ s.flt.locketBad = false ∧ fld (c.arg 0) 0 2 = 1 ∧ openable s.lk 1 = true ∧ s.sec.locked = false ∧ s.lk.pin = some (h, salt) ∧ pinHash s.lk (c.arg 1) (c.arg 2) salt ≠ h)
  ∧ (∃ (s : State) (t : Nat), s.sec.pinTag = some t)
  ∧ (∃ (s : State) (tag : Nat) (c : Cmd), Begins s tag 0x083 c ∧ s.flt.locketBad = false ∧ fld (c.arg 0) 0 2 = 1 ∧ openable s.lk 1 = true ∧ s.sec.locked = true)
  ∧ (∃ (s : State) (tag l : Nat) (c : Cmd), Begins s tag 0x083 c ∧ s.flt.locketBad = false ∧ 2 ≤ l ∧ fld (c.arg 0) 0 2 = l ∧ openable s.lk l = true ∧ fld (c.arg 0) 2 3 = 0)
  ∧ (∃ (s : State) (tag l : Nat) (ch : BitVec 256) (c : Cmd), Begins s tag 0x083 c ∧ s.flt.locketBad = false ∧ 2 ≤ l ∧ fld (c.arg 0) 0 2 = l ∧ openable s.lk l = true ∧ fld (c.arg 0) 2 3 = 3 ∧ s.sec.chal = some (l, ch) ∧ s.sec.sig.length = 24 ∧ ecdsaVerify (sessionKeyOf s.lk l) (sessionMsg s.lk l ch) (unpackWords (s.sec.sig ++ c.args.drop 1)) = false)
  ∧ (∃ (s : State) (tag l : Nat) (ch : BitVec 256) (c : Cmd), Begins s tag 0x083 c ∧ s.flt.locketBad = false ∧ 2 ≤ l ∧ fld (c.arg 0) 0 2 = l ∧ openable s.lk l = true ∧ fld (c.arg 0) 2 3 = 3 ∧ s.sec.chal = some (l, ch) ∧ s.sec.sig.length = 24 ∧ c.tun = false ∧ ecdsaVerify (sessionKeyOf s.lk l) (sessionMsg s.lk l ch) (unpackWords (s.sec.sig ++ c.args.drop 1)) = true)
  ∧ (∃ (s : State) (tag : Nat) (c : Cmd), Begins s tag 0x084 c ∧ s.flt.locketBad = false ∧ c.tun = false)
  ∧ (∃ (s : State) (tag : Nat) (c : Cmd), Begins s tag 0x085 c ∧ s.flt.locketBad = false ∧ bcdOk (c.arg 0) = true ∧ bcdOk (c.arg 1) = true)
  ∧ (∃ (s : State) (tag : Nat) (c : Cmd), Begins s tag 0x086 c ∧ s.flt.locketBad = false ∧ fld (c.arg 0) 0 2 = 2)
  ∧ (∃ (s : State) (tag : Nat) (c : Cmd), Begins s tag 0x086 c ∧ s.flt.locketBad = false ∧ fld (c.arg 0) 0 2 = 1)
  ∧ (∃ (s : State) (tag : Nat) (c : Cmd), Begins s tag 0x087 c ∧ s.flt.locketBad = false ∧ fld (c.arg 0) 0 2 ≠ 3)
  ∧ (∃ (i : Instr) (s : State) (tag op : Nat) (c : Cmd), hitanOp i = some (tag, op) ∧ op ∈ [0x081, 0x082, 0x083, 0x084, 0x085, 0x086, 0x087, 0x088, 0x089] ∧ Begins s tag op c ∧ s.flt.locketBad = true)
  ∧ (∃ (i : Instr) (s : State) (tag op : Nat) (c : Cmd), hitanOp i = some (tag, op) ∧ op ∈ [0x081, 0x082, 0x083, 0x084, 0x085, 0x086, 0x087, 0x088, 0x089] ∧ Begins s tag op c ∧ s.flt.locketBad = true) :=
  ⟨⟨(has 0x83 0 [3] up), 5, (cmd 0x83 0 [3]), by unfold Begins; decide +kernel⟩,
   ⟨{ has 0x83 0 [1, 0x1234, 0x5678] up with lk.pin := some (pinHash {} 0x1234 0x5678 7, 7) }, 5, (cmd 0x83 0 [1, 0x1234, 0x5678]), (pinHash {} 0x1234 0x5678 7), 7, by unfold Begins; decide +kernel⟩,
   ⟨{ has 0x83 0 [1, 0x1234, 0x5678] up with lk.pin := some (0, 7) }, 5, (cmd 0x83 0 [1, 0x1234, 0x5678]), 0, 7, by unfold Begins; decide +kernel⟩,
   ⟨{ up with sec.pinTag := some 5, mbx.cmds := [exe 0x83 0 [1, 0, 0]] }, 5, by decide +kernel⟩,
   ⟨{ has 0x83 0 [1, 0, 0] up with lk.pin := some (0, 7), sec.locked := true }, 5, (cmd 0x83 0 [1, 0, 0]), by unfold Begins; decide +kernel⟩,
   ⟨{ has 0x83 0 [2] up with lk.owner := some keyQ }, 5, 2, (cmd 0x83 0 [2]), by unfold Begins; decide +kernel⟩,
   ⟨{ has 0x83 0 [14, 0, 0, 0, 0, 0, 0, 0, 0] up with lk.owner := some 0, sec := { host := 3, chal := some (2, 9), sig := List.replicate 24 0 } }, 5, 2, 9, (cmd 0x83 0 [14, 0, 0, 0, 0, 0, 0, 0, 0]), by unfold Begins; decide +kernel⟩,
   ⟨{ has 0x83 0 (14 :: sigHalf.drop 8) up with lk.owner := some keyQ, sec := { host := 3, chal := some (2, 0), sig := sigHalf ++ sigHalf.take 8 } }, 5, 2, 0, (cmd 0x83 0 (14 :: sigHalf.drop 8)), by unfold Begins; decide +kernel⟩,
   ⟨(has 0x84 0 [] up), 5, (cmd 0x84 0 []), by unfold Begins; decide +kernel⟩,
   ⟨(has 0x85 0 [0x1234, 0x9999] up), 5, (cmd 0x85 0 [0x1234, 0x9999]), by unfold Begins; decide +kernel⟩,
   ⟨(has 0x86 0 [2, 0, 0] up), 5, (cmd 0x86 0 [2, 0, 0]), by unfold Begins; decide +kernel⟩,
   ⟨(has 0x86 0 [1, 0x1234, 0x5678] up), 5, (cmd 0x86 0 [1, 0x1234, 0x5678]), by unfold Begins; decide +kernel⟩,
   ⟨(has 0x87 0 [1] up), 5, (cmd 0x87 0 [1]), by unfold Begins; decide +kernel⟩,
   ⟨(.certRead 5), { has 0x81 0 [] up with flt.locketBad := true }, 5, 0x81, (cmd 0x81 0 []), by unfold Begins; decide +kernel⟩,
   ⟨(.ownerTransfer 5), { has 0x89 0 [0, 0, 0, 0, 0, 0, 0, 0, 0, 0, 0, 0, 0] up with flt.locketBad := true }, 5, 0x89, (cmd 0x89 0 [0, 0, 0, 0, 0, 0, 0, 0, 0, 0, 0, 0, 0]), by unfold Begins; decide +kernel⟩⟩

theorem wit_IdentityAndLifeCycle :
  (∃ (s : State) (tag : Nat) (c : Cmd), Begins s tag 0x080 c)
  ∧ (∃ (s : State) (tag : Nat) (c : Cmd), Begins s tag 0x081 c ∧ s.flt.locketBad = false)
  ∧ (∃ (s : State) (tag : Nat) (c : Cmd), Begins s tag 0x082 c ∧ s.flt.locketBad = false)
  ∧ (∃ (s : State) (tag : Nat) (c : Cmd), Begins s tag 0x088 c ∧ s.flt.locketBad = false ∧ fld (c.arg 0) 0 3 = s.lk.lc + 1 ∧ c.arg 1 = s.lk.serial.extractLsb' 54 18)
  ∧ (∃ (s : State) (tag : Nat) (c : Cmd), Begins s tag 0x088 c ∧ s.flt.locketBad = false ∧ fld (c.arg 0) 0 3 ≠ s.lk.lc + 1)
  ∧ (∃ (s : State) (tag : Nat) (c : Cmd), Begins s tag 0x089 c ∧ s.flt.locketBad = false ∧ s.lk.lc = 2 ∧ fld (c.arg 0) 0 2 = 0 ∧ s.sec.ownStage.2 = 0)
  ∧ (∃ (s : State) (tag : Nat) (c : Cmd), Begins s tag 0x089 c ∧ s.flt.locketBad = false ∧ s.lk.lc = 2 ∧ fld (c.arg 0) 0 2 = 2 ∧ s.sec.ownStage.2 = 2 ∧ onCurve (keyOf (s.sec.ownStage.1 ++ c.args.drop 1)) = true)
  ∧ (∃ (s : State) (tag : Nat) (k : BitVec 512) (c : Cmd), s.sec.wiping = some (some tag, some k) ∧ findCmd s tag = some c)
  ∧ (∃ (s : State) (tag : Nat) (k : Option (BitVec 512)) (c : Cmd), s.sec.wiping = some (some tag, k) ∧ findCmd s tag = some c)
  ∧ (∃ (s : State) (tag : Nat) (c : Cmd) (ok : Bool), s.sec.wiping = some (some tag, none) ∧ findCmd s tag = some c ∧ s.lk.lc ≠ 1)
  ∧ (∃ (s : State), s.pwr.phase ≠ .reset) :=
  ⟨⟨(has 0x80 0 [] up), 5, (cmd 0x80 0 []), by unfold Begins; decide +kernel⟩,
   ⟨{ has 0x81 0 [] up with lk.cert := [1, 2, 3] }, 5, (cmd 0x81 0 []), by unfold Begins; decide +kernel⟩,
   ⟨(has 0x82 0 [0, 0, 0, 0, 0, 0, 0, 0] up), 5, (cmd 0x82 0 [0, 0, 0, 0, 0, 0, 0, 0]), by unfold Begins; decide +kernel⟩,
   ⟨(has 0x88 0 [3, 0] up), 5, (cmd 0x88 0 [3, 0]), by unfold Begins; decide +kernel⟩,
   ⟨(has 0x88 0 [4, 0] up), 5, (cmd 0x88 0 [4, 0]), by unfold Begins; decide +kernel⟩,
   ⟨(has 0x89 0 [0, 0, 0, 0, 0, 0, 0, 0, 0, 0, 0, 0, 0] up), 5, (cmd 0x89 0 [0, 0, 0, 0, 0, 0, 0, 0, 0, 0, 0, 0, 0]), by unfold Begins; decide +kernel⟩,
   ⟨{ has 0x89 0 (2 :: (packBytes (beBytes 64 keyQ.toNat)).drop 24) up with sec := { host := 3, ownStage := ((packBytes (beBytes 64 keyQ.toNat)).take 24, 2) } }, 5, (cmd 0x89 0 (2 :: (packBytes (beBytes 64 keyQ.toNat)).drop 24)), by unfold Begins; decide +kernel⟩,
   ⟨{ up with sec.wiping := some (some 5, some 9), mbx.cmds := [exe 0x89 0 []] }, 5, 9, (exe 0x89 0 []), by decide +kernel⟩,
   ⟨{ up with sec.wiping := some (some 5, none), mbx.cmds := [exe 0x88 0 []] }, 5, none, (exe 0x88 0 []), by decide +kernel⟩,
   ⟨{ up with sec.wiping := some (some 5, none), mbx.cmds := [exe 0x88 0 []] }, 5, (exe 0x88 0 []), true, by decide +kernel⟩,
   ⟨up, by decide +kernel⟩⟩

theorem wit_LinksComeUpAndFall :
  (∃ (i : Nat) (s : State), portOn s i = true ∧ (s.port i).st = .los)
  ∧ (∃ (i : Nat) (s : State), (s.port i).st = .locking)
  ∧ (∃ (s3 : Word) (role d p : Nat) (s : State), (s.port 0).st = .ident ∧ (s.port 0).stopped = false ∧ (s.port 0).upMode = 0)
  ∧ (∃ (i : Nat) (s3 : Word) (d p : Nat) (s : State), i ≠ 0 ∧ (s.port i).st = .ident ∧ (s.port i).stopped = false ∧ ownDepth s < 3)
  ∧ (∃ (i : Nat) (s3 : Word) (role d p : Nat) (s : State), i ≠ 0 ∧ (s.port i).st = .ident ∧ (s.port i).stopped = false ∧ role ≠ roleWorker)
  ∧ (∃ (i : Nat) (ow as : Word) (s : State), i ≠ 0 ∧ (s.port i).st = .measure)
  ∧ (∃ (ow as : Word) (s : State), (s.port 0).st = .measure ∧ (s.port 0).upMode = 0)
  ∧ (∃ (i : Nat) (s : State), (s.port i).st.live = true ∧ (s.port i).crcErr < 0x3FFFE)
  ∧ (∃ (i : Nat) (s : State), i ≠ 0 ∧ s.tree.tunnels = [] ∧ (s.port i).st.live = true ∧ 15 ≤ ((s.port i).badHdr.filter (fun e => decide (leadEdge s ≤ e + 322))).length)
  ∧ (∃ (i : Nat) (s : State), i ≠ 0 ∧ s.tree.tunnels = [] ∧ (s.port i).st.live = true)
  ∧ (∃ (i : Nat) (s : State), i ≠ 0 ∧ s.tree.tunnels = [] ∧ (s.port i).st.live = true ∧ 2 ≤ s.sec.host)
  ∧ (∃ (i : Nat) (s : State), (s.port i).st.live = false)
  ∧ (∃ (i : Nat) (s : State), s.sec.host < 2) :=
  ⟨⟨1, (port 1 { st := .los }), by decide +kernel⟩,
   ⟨1, (port 1 { st := .locking }), by decide +kernel⟩,
   ⟨7, 1, 1, 0x10, (port 0 { st := .ident }), by decide +kernel⟩,
   ⟨1, 7, 1, 0, (port 1 { st := .ident }), by decide +kernel⟩,
   ⟨1, 7, 1, 1, 0, (port 1 { st := .ident }), by decide +kernel⟩,
   ⟨1, 7, 8, (port 1 { st := .measure }), by decide +kernel⟩,
   ⟨7, 8, (port 0 { st := .measure }), by decide +kernel⟩,
   ⟨1, (port 1 { st := .run }), by decide +kernel⟩,
   ⟨1, (port 1 { st := .run, badHdr := List.replicate 15 1000 }), by decide +kernel⟩,
   ⟨1, (port 1 { st := .run }), by decide +kernel⟩,
   ⟨1, (port 1 { st := .run }), by decide +kernel⟩,
   ⟨1, up, by decide +kernel⟩,
   ⟨1, { up with sec.host := 1 }, by decide +kernel⟩⟩

theorem wit_TheTreeSharesTimeEventsAndTunnels :
  (∃ (r : Nat) (s : State), leadRegion s = some r ∧ (s.port 0).st = .run)
  ∧ (∃ (t1 t2 t3 t4 : Int) (al : Bool) (s : State), (s.port 0).st = .run ∧ isWorker s = true)
  ∧ (∃ (i m : Nat) (e : BitVec 10) (r : Nat) (s : State), i ≠ 0 ∧ (s.port i).st = .run ∧ isWorker s = false ∧ leadRegion s = some r ∧ s.tree.fab = [] ∧ s.tree.passed = [] ∧ s.tree.evtEn = false ∧ ((s.region r).time.toNat + 1024 - e.toNat) % 1024 ≤ 160)
  ∧ (∃ (m : Nat) (c : BitVec 54) (x : FabEvent) (s : State), s.tree.fab = [x] ∧ x.m = m ∧ x.at_ = c ∧ (s.region x.r).edge = x.due)
  ∧ (∃ (m : Nat) (c : BitVec 54) (x : FabEvent) (s : State), s.tree.fab = [x] ∧ x.m = m ∧ x.at_ = c ∧ x.due < (s.region x.r).edge)
  ∧ (∃ (i : Nat) (up : Bool) (s : State), i < 8 ∧ s.pins.tevOn = true ∧ s.pins.tev.getLsbD i ≠ up)
  ∧ (∃ (v tl : BitVec 54) (r : Nat) (s : State), isWorker s = true ∧ s.tree.lastEpoch ≠ some (v, tl) ∧ leadRegion s = some r ∧ 2 ≤ s.tree.st ∧ reached (s.region r).time tl = false)
  ∧ (∃ (b : BitVec 54) (s : State), isWorker s = true)
  ∧ (∃ (b : BitVec 54) (d : Nat) (s : State), s.tree.joinAt = some b ∧ joinReady s = true ∧ 100000 ≤ d)
  ∧ (∃ (b now : BitVec 54) (d : Nat) (s : State), s.tree.joinAt = some b ∧ now ≠ b)
  ∧ (∃ (b : BitVec 54) (d : Nat) (s : State), s.tree.joinAt = some b ∧ joinReady s = true ∧ d < 100000)
  ∧ (∃ (i : Nat) (ws : List Word) (s : State), (s.port i).st = .run ∧ isWorker s = true)
  ∧ (∃ (ws : List Word) (rest : List (List Word)) (s : State), s.tree.inbox = ws :: rest ∧ ws.length ≤ sqFree s ∧ cqFree s ≠ 0 ∧ malformed ws = false ∧ tagInFlight s (cmdOf ws true).tag = false ∧ fld (ws.getD 2 0) 0 5 = ws.length)
  ∧ (∃ (i p r k : Nat) (lost : Bool) (ws : List Word) (s : State), i ≠ 0 ∧ (s.port i).st = .run ∧ s.tree.packets = [] ∧ (s.port 0).credits < packetCredits ws)
  ∧ (∃ (i n : Nat) (s : State), i ≠ 0 ∧ (s.port i).st = .run)
  ∧ (∃ (s : State) (tag : Nat) (c : Cmd) (f : List (Nat × Word × Nat)), Begins s tag 0x090 c ∧ runDn s = [])
  ∧ (∃ (s : State) (tag p x : Nat) (w : Word) (c : Cmd), Begins s tag 0x090 c ∧ runDn s ≠ [] ∧ pathOk p = true)
  ∧ (∃ (s : State) (tag : Nat) (c : Cmd), Begins s tag 0x091 c ∧ tgtScope c.target ≠ 0)
  ∧ (∃ (s : State) (tag : Nat) (a : List Word) (c : Cmd), Begins s tag 0x091 c ∧ tgtScope c.target ≠ 0 ∧ a ≠ [] ∧ pathAbsent s c = false)
  ∧ (∃ (s : State) (tag : Nat) (a : List Word) (c : Cmd), Begins s tag 0x091 c ∧ tgtScope c.target = 0)
  ∧ (∃ (s : State) (tag j : Nat) (c : Cmd), Begins s tag 0x092 c ∧ fld (c.arg 0) 9 9 ≠ 0x090 ∧ fld (c.arg 0) 9 9 ≠ 0x092 ∧ runDn s ≠ [] ∧ (ownDigits s).length + (pathDigits c.unit).length ≤ 3 ∧ portTowards s (pathOf (ownDigits s ++ pathDigits c.unit)) = some j) :=
  ⟨⟨0, worker, by decide +kernel⟩,
   ⟨100, 300, 400, 500, true, worker, by decide +kernel⟩,
   ⟨1, 3, 1000, 0, { port 1 { st := .run } with tree.evtEn := false }, by decide +kernel⟩,
   ⟨3, 900, { m := 3, at_ := 900, due := 1000, r := 0, own := true }, { up with tree.fab := [{ m := 3, at_ := 900, due := 1000, r := 0, own := true }] }, by decide +kernel⟩,
   ⟨3, 800, { m := 3, at_ := 800, due := 960, r := 0, own := true }, { up with tree.fab := [{ m := 3, at_ := 800, due := 960, r := 0, own := true }] }, by decide +kernel⟩,
   ⟨0, true, { up with pins.tevOn := true }, by decide +kernel⟩,
   ⟨500, 2000, 0, worker, by decide +kernel⟩,
   ⟨7, worker, by decide +kernel⟩,
   ⟨900, 200000, { one { regUp with active := .uplink } with ports := [(0, { st := .run })], tree := { st := 1, joinAt := some 900 } }, by decide +kernel⟩,
   ⟨900, 901, 7, { up with tree.joinAt := some 900 }, by decide +kernel⟩,
   ⟨900, 7, { one { regUp with active := .uplink } with ports := [(0, { st := .run })], tree := { st := 1, joinAt := some 900 } }, by decide +kernel⟩,
   ⟨0, [1, 2, 3], worker, by decide +kernel⟩,
   ⟨[0x201, 0, 3], [], { worker with tree.inbox := [[0x201, 0, 3]] }, by decide +kernel⟩,
   ⟨1, 0x40, 0, 3, false, [1, 2], (port 1 { st := .run }), by decide +kernel⟩,
   ⟨1, 4, (port 1 { st := .run }), by decide +kernel⟩,
   ⟨(has 0x90 0 [] up), 5, (cmd 0x90 0 []), [], by unfold Begins; decide +kernel⟩,
   ⟨(has 0x90 0 [] (port 1 { st := .run })), 5, 0x40, 7, 9, (cmd 0x90 0 []), by unfold Begins; decide +kernel⟩,
   ⟨(has 0x91 0x30040 [] up), 5, (cmd 0x91 0x30040 []), by unfold Begins; decide +kernel⟩,
   ⟨(has 0x91 0x30040 [] (port 1 { st := .run })), 5, [1, 2, 3, 4], (cmd 0x91 0x30040 []), by unfold Begins; decide +kernel⟩,
   ⟨(has 0x91 0 [] up), 5, [], (cmd 0x91 0 []), by unfold Begins; decide +kernel⟩,
   ⟨(has 0x92 0x30040 [0x201, 0, 3] (port 1 { st := .run })), 5, 1, (cmd 0x92 0x30040 [0x201, 0, 3]), by unfold Begins; decide +kernel⟩⟩

theorem wit_RegisterWritesObeyTheirTypes :
  (∃ (a : Nat) (v : Word) (s : State), Serves s ∧ whole (locate s.hp.strict a) = true ∧ regPresent s (locate s.hp.strict a) = false)
  ∧ (∃ (a : Nat) (v : Word) (s : State), Serves s ∧ whole (locate s.hp.strict a) = true ∧ Open s a ∧ (locate s.hp.strict a).kind = .ro)
  ∧ (∃ (a : Nat) (v : Word) (s : State), Serves s ∧ (locate s.hp.strict a).owned = true ∧ regPresent s (locate s.hp.strict a) = true ∧ s.sec.host < 2)
  ∧ (∃ (v : Word) (s : State), Serves s)
  ∧ (∃ (k : Nat) (v : Word) (s : State), Serves s ∧ k < 6)
  ∧ (∃ (v : Word) (s : State), Serves s ∧ 4 ≤ fld v 0 6 ∧ fld v 0 6 ≤ 32)
  ∧ (∃ (v : Word) (s : State), Serves s ∧ 4 ≤ fld v 0 6 ∧ fld v 0 6 ≤ 32)
  ∧ (∃ (v : Word) (s : State), Serves s ∧ (fld v 0 6 < 4 ∨ 32 < fld v 0 6))
  ∧ (∃ (v : Word) (s : State), Serves s ∧ (fld v 0 6 < 4 ∨ 32 < fld v 0 6))
  ∧ (∃ (s : State), Serves s ∧ s.hc.clasp ≠ .locked)
  ∧ (∃ (v : Word) (s : State), Serves s ∧ s.hc.clasp ≠ .locked ∧ v ≠ 0x2D5A6 ∧ v ≠ 0)
  ∧ (∃ (v : Word) (s : State), Serves s ∧ s.hc.clasp ≠ .locked ∧ v ≠ 0x2D5A6 ∧ v ≠ 0)
  ∧ (∃ (v : Word) (s : State), Serves s ∧ s.hc.clasp = .locked)
  ∧ (∃ (s : State), s.hc.clasp = .opened)
  ∧ (∃ (a : Nat) (v : Word) (s : State), Serves s ∧ whole (locate s.hp.strict a) = true ∧ Open s a ∧ (locate s.hp.strict a).kind = .rwc ∧ s.hc.clasp ≠ .opened)
  ∧ (∃ (a p : Nat) (v : Word) (s : State), Serves s ∧ locate s.hp.strict a = .cell p 0x1A ∧ Open s a ∧ regReach s (.cell p 0x1A) = .ok ∧ s.hc.clasp = .opened)
  ∧ (∃ (v : Word) (s : State), Serves s ∧ s.hc.clasp = .opened ∧ mayResetChip s s.sec.host = true ∧ v.getLsbD 0 = true ∧ s.pwr.phase ≠ .reset)
  ∧ (∃ (v : Word) (s : State), Serves s ∧ s.hc.clasp ≠ .opened)
  ∧ (∃ (a : Nat) (v : Word) (s : State), Serves s ∧ whole (locate s.hp.strict a) = true ∧ Open s a ∧ (locate s.hp.strict a).kind = .wo1 ∧ woWritten s (locate s.hp.strict a) = true)
  ∧ (∃ (v : Word) (s : State), Serves s ∧ s.hc.pinWritten = false) :=
  ⟨⟨0x20000, 7, { up with fuses.variant := 0x1C000 }, by unfold Serves; decide +kernel⟩,
   ⟨0x101, 7, up, by unfold Serves Open; decide +kernel⟩,
   ⟨0x20000, 7, { up with sec.host := 1 }, by unfold Serves; decide +kernel⟩,
   ⟨0x3F, up, by unfold Serves; decide +kernel⟩,
   ⟨5, 1, up, by unfold Serves; decide +kernel⟩,
   ⟨0x20104, up, by unfold Serves; decide +kernel⟩,
   ⟨0x00020, up, by unfold Serves; decide +kernel⟩,
   ⟨3, up, by unfold Serves; decide +kernel⟩,
   ⟨33, up, by unfold Serves; decide +kernel⟩,
   ⟨up, by unfold Serves; decide +kernel⟩,
   ⟨7, up, by unfold Serves; decide +kernel⟩,
   ⟨7, { up with hc.consec := 15 }, by unfold Serves; decide +kernel⟩,
   ⟨7, { up with hc.clasp := .locked }, by unfold Serves; decide +kernel⟩,
   ⟨{ up with hc.clasp := .opened }, by decide +kernel⟩,
   ⟨0x2001A, 7, up, by unfold Serves Open; decide +kernel⟩,
   ⟨0x2001A, 0, 7, { up with hc.clasp := .opened }, by unfold Serves Open; decide +kernel⟩,
   ⟨1, { up with hc.clasp := .opened }, by unfold Serves; decide +kernel⟩,
   ⟨1, up, by unfold Serves; decide +kernel⟩,
   ⟨0x109, 1, { up with hc.pinWritten := true }, by unfold Serves Open; decide +kernel⟩,
   ⟨1, up, by unfold Serves; decide +kernel⟩⟩

theorem wit_SqcWriteBacksAndSnapshots :
  (∃ (a : Nat) (q : Sqc) (s : State), Serves s ∧ s.hp.strict = true ∧ Open s a ∧ (locate true a).kind = .sqc ∧ regReach s (locate true a) = .ok ∧ sqcOf s (locate true a) = some q)
  ∧ (∃ (a : Nat) (q : Sqc) (s : State), Serves s ∧ s.hp.strict = true ∧ Open s a ∧ (locate true a).kind = .sqc ∧ regReach s (locate true a) = .ok ∧ sqcOf s (locate true a) = some q)
  ∧ (∃ (a : Nat) (v : Word) (q : Sqc) (s : State), Serves s ∧ s.hp.strict = true ∧ whole (locate true a) = true ∧ Open s a ∧ (locate true a).kind = .sqc ∧ regReach s (locate true a) = .ok ∧ sqcOf s (locate true a) = some q)
  ∧ (∃ (a : Nat) (v : Word) (q : Sqc) (s : State), Serves s ∧ s.hp.strict = true ∧ whole (locate true a) = true ∧ Open s a ∧ (locate true a).kind = .sqc ∧ regReach s (locate true a) = .ok ∧ sqcOf s (locate true a) = some q)
  ∧ (∃ (a : Nat) (s : State), Serves s ∧ s.hp.strict = true ∧ Open s a ∧ regReach s (locate true a) ≠ .gated ∧ (locate true a).group ≠ [] ∧ (locate true a).group.head? = some (locate true a)) :=
  ⟨⟨0x107, {}, strict, by unfold Serves Open; decide +kernel⟩,
   ⟨0x303, {}, strict, by unfold Serves Open; decide +kernel⟩,
   ⟨0x107, 0x3005, { seq := 3, ev := 0x0F }, { strict with hc.events := { seq := 3, ev := 0x0F } }, by unfold Serves Open; decide +kernel⟩,
   ⟨0x107, 0x3005, { seq := 3, ev := 0x0F, count := 64 }, { strict with hc.events := { seq := 3, ev := 0x0F, count := 64 } }, by unfold Serves Open; decide +kernel⟩,
   ⟨0x24004, strict, by unfold Serves Open; decide +kernel⟩⟩

theorem wit_Th64ModeChangesWhenQuiet :
  (∃ (r : Nat) (v : Word) (s : State), r < 4 ∧ Serves s ∧ 2 ≤ s.sec.host ∧ Runs s r ∧ v.getLsbD 0 ≠ (s.mem r).th64.getLsbD 0 ∧ regionEngineActive s r = false ∧ (s.acq r).armed = false ∧ maintIn s r = false)
  ∧ (∃ (r : Nat) (v : Word) (s : State), r < 4 ∧ Serves s ∧ 2 ≤ s.sec.host ∧ Runs s r ∧ v.getLsbD 0 ≠ (s.mem r).th64.getLsbD 0 ∧ (regionEngineActive s r = true ∨ (s.acq r).armed = true ∨ maintIn s r = true))
  ∧ (∃ (r : Nat) (v : Word) (s : State), r < 4 ∧ Serves s ∧ 2 ≤ s.sec.host ∧ Runs s r ∧ v.getLsbD 0 = (s.mem r).th64.getLsbD 0) :=
  ⟨⟨0, 1, up, by unfold Runs Serves; decide +kernel⟩,
   ⟨0, 1, (acq0 { regs.st := .wait }), by unfold Runs Serves; decide +kernel⟩,
   ⟨0, 0, up, by unfold Runs Serves; decide +kernel⟩⟩

theorem wit_FramesAreCheckedBeforeTheyAct :
  (∃ (bits : List Bool) (s : State), portServes s = true ∧ bits ≠ [] ∧ bits.length < 4)
  ∧ (∃ (i : Instr) (bits : List Bool) (s : State), portServes s = true ∧ (i = .readFrame bits [] ∨ i = .writeFrame bits) ∧ frameOp bits = (if i = .writeFrame bits then some 2 else some 1) ∧ (hdrOf bits).reqLen ≤ bits.length ∧ (crc16 (bits.take ((hdrOf bits).reqLen - 16))).toNat ≠ bitsAt bits ((hdrOf bits).reqLen - 16) 16)
  ∧ (∃ (i : Instr) (bits : List Bool) (s : State), portServes s = true ∧ (i = .readFrame bits [] ∨ i = .writeFrame bits) ∧ frameOp bits = (if i = .writeFrame bits then some 2 else some 1) ∧ (hdrOf bits).reqLen ≤ bits.length ∧ (crc16 (bits.take ((hdrOf bits).reqLen - 16))).toNat = bitsAt bits ((hdrOf bits).reqLen - 16) 16 ∧ s.hp.anyAlive = false ∧ (hdrOf bits).alive ≠ s.hp.alive.toNat)
  ∧ (∃ (bits : List Bool) (s : State), portServes s = true ∧ frameOp bits = some 0 ∧ (hdrOf bits).reqLen ≤ bits.length ∧ endCheck s (hdrOf bits) bits = 0 ∧ lengthOk s (hdrOf bits) bits.length = true ∧ s.hp.next = none)
  ∧ (∃ (bits : List Bool) (late : List Nat) (s : State), portServes s = true ∧ frameOp bits = some 1 ∧ (hdrOf bits).reqLen ≤ bits.length ∧ endCheck s (hdrOf bits) bits = 0 ∧ lengthOk s (hdrOf bits) bits.length = true)
  ∧ (∃ (bits : List Bool) (s : State), portServes s = true ∧ frameOp bits = some 1 ∧ (hdrOf bits).reqLen ≤ bits.length ∧ endCheck s (hdrOf bits) bits = 0 ∧ lengthOk s (hdrOf bits) bits.length = false)
  ∧ (∃ (bits : List Bool) (s : State), portServes s = true ∧ frameOp bits = some 2 ∧ (hdrOf bits).reqLen ≤ bits.length ∧ endCheck s (hdrOf bits) bits = 0 ∧ lengthOk s (hdrOf bits) bits.length = true ∧ (hdrOf bits).size = 0 ∧ (hdrOf bits).fixed = false ∧ (hdrOf bits).count = 0 ∧ (hdrOf bits).addr = 0x102 ∧ s.hp.next = none)
  ∧ (∃ (bits : List Bool) (s : State), portServes s = true ∧ frameOp bits = some 2 ∧ (hdrOf bits).reqLen ≤ bits.length ∧ endCheck s (hdrOf bits) bits = 0 ∧ lengthOk s (hdrOf bits) bits.length = false)
  ∧ (∃ (s : State), portServes s = true ∧ s.hp.empties ≠ 15)
  ∧ (∃ (s : State), portServes s = true ∧ s.hp.empties = 15) :=
  ⟨⟨[true, false, true], up, by decide +kernel⟩,
   ⟨(.readFrame (List.replicate 7 false ++ [true] ++ List.replicate 424 false) []), (List.replicate 7 false ++ [true] ++ List.replicate 424 false), up, by decide +kernel⟩,
   ⟨(.readFrame (frameBits 5 1 0 0x102 [] 432) []), (frameBits 5 1 0 0x102 [] 432), { up with hp.anyAlive := false, hp.alive := 4 }, by decide +kernel⟩,
   ⟨(frameBits 5 0 0 0 [] 432), up, by decide +kernel⟩,
   ⟨(frameBits 5 1 0 0x102 [] 432), [], up, by decide +kernel⟩,
   ⟨(frameBits 5 1 0 0x102 [] 433), up, by decide +kernel⟩,
   ⟨(frameBits 5 2 0 0x102 [9] 432), up, by decide +kernel⟩,
   ⟨(frameBits 5 2 0 0x102 [9] 433), up, by decide +kernel⟩,
   ⟨up, by decide +kernel⟩,
   ⟨{ up with hp.empties := 15 }, by decide +kernel⟩⟩

theorem wit_FlashPortRunsItsAccesses :
  (∃ (v : Word) (resp : List Byte) (eff : List (Nat × Byte)) (g : Nat) (s : State), 2 ≤ s.sec.host ∧ fld v 15 2 = 1 ∧ v.getLsbD 14 = false ∧ v.getLsbD 13 = false ∧ v.getLsbD 12 = false ∧ flashBusy s = false ∧ flashSel s = some g ∧ s.fl.dead.getLsbD g = false)
  ∧ (∃ (v : Word) (g i : Nat) (s : State), 2 ≤ s.sec.host ∧ fld v 15 2 = 2 ∧ v.getLsbD 14 = true ∧ v.getLsbD 12 = true ∧ fld v 0 8 = 0x12 ∧ flashBusy s = false ∧ flashSel s = some g ∧ s.fl.dead.getLsbD g = false ∧ flashProtected s (seqAddr s) = false ∧ seqAddr s + s.fl.fifo.length ≤ 2 ^ 32 ∧ i < s.fl.len.toNat ∧ i < s.fl.fifo.length)
  ∧ (∃ (v : Word) (resp : List Byte) (eff : List (Nat × Byte)) (g : Nat) (s : State), 2 ≤ s.sec.host ∧ fld v 15 2 ≠ 3 ∧ v.getLsbD 14 = true ∧ v.getLsbD 12 = true ∧ flashBusy s = false ∧ flashSel s = some g ∧ flashProtected s (seqAddr s) = true)
  ∧ (∃ (v : Word) (resp : List Byte) (eff : List (Nat × Byte)) (s : State), 2 ≤ s.sec.host ∧ fld v 15 2 ≠ 3 ∧ flashBusy s = false ∧ flashSel s = none)
  ∧ (∃ (v : Word) (s : State), 2 ≤ s.sec.host ∧ s.fl.fifo.length ≤ 254)
  ∧ (∃ (s : State), 2 ≤ s.sec.host)
  ∧ (∃ (v : Word) (s : State), 2 ≤ s.sec.host ∧ flashBusy s = false)
  ∧ (∃ (v : Word) (s : State), 2 ≤ s.sec.host ∧ flashBusy s = true)
  ∧ (∃ (v : Word) (s : State), 2 ≤ s.sec.host ∧ fld v 3 3 ≤ 5 ∧ fld v 0 2 ≤ 1 ∧ flashBusy s = false)
  ∧ (∃ (v : Word) (s : State), 2 ≤ s.sec.host ∧ fld v 3 3 ≤ 5 ∧ fld v 0 2 ≤ 1 ∧ flashBusy s = true)
  ∧ (∃ (v : Word) (s : State), 2 ≤ s.sec.host ∧ (5 < fld v 3 3 ∨ 1 < fld v 0 2))
  ∧ (∃ (v : Word) (resp : List Byte) (eff : List (Nat × Byte)) (s : State), s.sec.host < 2)
  ∧ (∃ (a g : Nat) (s : State), inWindow a = true ∧ flashBusy s = false ∧ flashSel s = some g ∧ s.fl.dead.getLsbD g = false)
  ∧ (∃ (a : Nat) (b : Byte) (s : State), inWindow a = true ∧ (flashSel s).isSome = true ∧ flashProtected s (windowAddr s a) = true ∧ s.fl.queue = [])
  ∧ (∃ (a g : Nat) (b : Byte) (s : State), inWindow a = true ∧ flashSel s = some g ∧ s.fl.dead.getLsbD g = false ∧ flashBusy s = false ∧ flashProtected s (windowAddr s a) = false ∧ s.fl.queue = [])
  ∧ (∃ (s : State), flashBusy s = true ∧ s.fl.queue = [] ∧ s.fl.selHeld = none ∧ s.fl.cfgNext = none)
  ∧ (∃ (s : State), flashBusy s = true ∧ s.fl.cfgNext = none) :=
  ⟨⟨0x08003, [1, 2], [], 0, { up with fl.sel := 1, fl.len := 2 }, by decide +kernel⟩,
   ⟨0x15012, 0, 0, { up with fl.sel := 1, fl.len := 2, fl.addrLo := 0x100, fl.fifo := [1, 2] }, by decide +kernel⟩,
   ⟨0x15012, [], [], 0, { up with fl.sel := 1, fl.wpLo := 0, fl.wpHi := 5 }, by decide +kernel⟩,
   ⟨0x08003, [1, 2], [], up, by decide +kernel⟩,
   ⟨7, up, by decide +kernel⟩,
   ⟨up, by decide +kernel⟩,
   ⟨2, up, by decide +kernel⟩,
   ⟨2, { up with fl.polling := some true }, by decide +kernel⟩,
   ⟨0x29, up, by decide +kernel⟩,
   ⟨0x29, { up with fl.polling := some true }, by decide +kernel⟩,
   ⟨0x02, up, by decide +kernel⟩,
   ⟨7, [], [], { up with sec.host := 1 }, by decide +kernel⟩,
   ⟨0x400000, 0, { up with fl.sel := 1 }, by decide +kernel⟩,
   ⟨0x400000, 7, { up with fl.sel := 1, fl.wpLo := 0, fl.wpHi := 5 }, by decide +kernel⟩,
   ⟨0x7FFFFF, 0, 7, { up with fl.sel := 1 }, by decide +kernel⟩,
   ⟨{ up with fl.polling := some true }, by decide +kernel⟩,
   ⟨{ up with fl.polling := some true }, by decide +kernel⟩⟩

theorem wit_FirmwareUpdatesAndDiagnostics :
  (∃ (s : State) (tag : Nat) (c : Cmd), Begins s tag 0x0B0 c ∧ slotValid (bootSel s) (otherSlot s) = false)
  ∧ (∃ (s : State) (tag : Nat) (c : Cmd), Begins s tag 0x0B1 c ∧ s.boot.upd.isSome = true)
  ∧ (∃ (s : State) (tag : Nat) (c : Cmd), Begins s tag 0x0B1 c ∧ s.boot.upd = none ∧ (c.arg 0 ++ c.arg 1).toNat ≤ 0x100000)
  ∧ (∃ (s : State) (tag n : Nat) (c : Cmd), Begins s tag 0x0B2 c ∧ s.boot.upd = some n ∧ (c.arg 0 ++ c.arg 1).toNat ≠ s.boot.got)
  ∧ (∃ (s : State) (tag n : Nat) (c : Cmd), Begins s tag 0x0B2 c ∧ s.boot.upd = some n ∧ (c.arg 0 ++ c.arg 1).toNat = s.boot.got)
  ∧ (∃ (s : State) (tag n : Nat) (c : Cmd), Begins s tag 0x0B3 c ∧ s.boot.upd = some n ∧ s.boot.got < n)
  ∧ (∃ (s : State) (tag : Nat) (c : Cmd), Begins s tag 0x038 c ∧ (c.arg 0).getLsbD 0 = false ∧ (∀ k ∈ [1, 2, 3, 4, 5, 6, 7, 8], c.arg k = 0x3FFFF))
  ∧ (∃ (s : State) (tag : Nat) (c : Cmd), Begins s tag 0x038 c ∧ (c.arg 0).getLsbD 0 = false ∧ fld (c.arg 1) 9 9 = 0x101)
  ∧ (∃ (s : State) (tag i j : Nat) (c : Cmd), Begins s tag 0x038 c ∧ (c.arg 0).getLsbD 0 = false ∧ i < j ∧ j < 16 ∧ (∀ k, k < 16 → fld (c.arg (1 + k / 2)) (if k % 2 = 0 then 9 else 0) 9 = if k = i ∨ k = j then 0x100 else 0x1FF) ∧ (s.cell (inService s (16 * c.unit + i))).cfg.ctl.en = true ∧ (s.cell (inService s (16 * c.unit + j))).cfg.ctl.en = true)
  ∧ (∃ (s : State) (tag : Nat) (c : Cmd), Begins s tag 0x0A0 c ∧ (fld (c.arg 1) 0 10 = 0 ∨ 512 < fld (c.arg 1) 0 10))
  ∧ (∃ (s : State) (tag : Nat) (c : Cmd), Begins s tag 0x0A0 c ∧ (fld (c.arg 1) 0 10 = 0 ∨ 512 < fld (c.arg 1) 0 10))
  ∧ (∃ (s : State) (tag : Nat) (c : Cmd), Begins s tag 0x0A0 c ∧ tgtScope c.target = 0 ∧ fld (c.arg 1) 0 10 = 1)
  ∧ (∃ (s : State) (tag : Nat) (c : Cmd), Begins s tag 0x0A0 c ∧ tgtScope c.target = 3 ∧ fld (c.arg 1) 0 10 = 1 ∧ (c.arg 0).toNat ≤ 63)
  ∧ (∃ (s : State) (tag : Nat) (v : Word) (c : Cmd), Begins s tag 0x0A1 c ∧ tgtScope c.target = 0 ∧ c.args.drop 2 = [v] ∧ c.arg 0 = 0x102 ∧ s.hp.next = none ∧ s.pwr.wiped = true)
  ∧ (∃ (s : State) (tag : Nat) (c : Cmd), Begins s tag 0x0A2 c ∧ tgtScope c.target = 3)
  ∧ (∃ (code : Byte) (s : State), pinsTaken code = pinsTaken s.pins.jtag)
  ∧ (∃ (code : Byte) (s : State), pinsTaken s.pins.jtag = false ∧ pinsTaken code = true)
  ∧ (∃ (code : Byte) (s : State), pinsTaken s.pins.jtag = true ∧ pinsTaken code = false)
  ∧ (∃ (s : State), pinsTaken s.pins.jtag = false) :=
  ⟨⟨(has 0xB0 0 [] (writeSel up 0 1 false)), 5, (cmd 0xB0 0 []), by unfold Begins; decide +kernel⟩,
   ⟨{ has 0xB1 0 [0, 9] up with boot.upd := some 3 }, 5, (cmd 0xB1 0 [0, 9]), by unfold Begins; decide +kernel⟩,
   ⟨(has 0xB1 0 [0, 9] up), 5, (cmd 0xB1 0 [0, 9]), by unfold Begins; decide +kernel⟩,
   ⟨{ has 0xB2 0 [0, 9, 1] up with boot.upd := some 100 }, 5, 100, (cmd 0xB2 0 [0, 9, 1]), by unfold Begins; decide +kernel⟩,
   ⟨{ has 0xB2 0 [0, 0, 1] up with boot.upd := some 100 }, 5, 100, (cmd 0xB2 0 [0, 0, 1]), by unfold Begins; decide +kernel⟩,
   ⟨{ has 0xB3 0 [0] up with boot.upd := some 100 }, 5, 100, (cmd 0xB3 0 [0]), by unfold Begins; decide +kernel⟩,
   ⟨(has 0x38 0x10000 [0, 0x3FFFF, 0x3FFFF, 0x3FFFF, 0x3FFFF, 0x3FFFF, 0x3FFFF, 0x3FFFF, 0x3FFFF] up), 5, (cmd 0x38 0x10000 [0, 0x3FFFF, 0x3FFFF, 0x3FFFF, 0x3FFFF, 0x3FFFF, 0x3FFFF, 0x3FFFF, 0x3FFFF]), by unfold Begins; decide +kernel⟩,
   ⟨(has 0x38 0x10000 [0, 0x20200, 0x3FFFF, 0x3FFFF, 0x3FFFF, 0x3FFFF, 0x3FFFF, 0x3FFFF, 0x3FFFF] up), 5, (cmd 0x38 0x10000 [0, 0x20200, 0x3FFFF, 0x3FFFF, 0x3FFFF, 0x3FFFF, 0x3FFFF, 0x3FFFF, 0x3FFFF]), by unfold Begins; decide +kernel⟩,
   ⟨{ has 0x38 0x10000 [0, 0x20100, 0x3FFFF, 0x3FFFF, 0x3FFFF, 0x3FFFF, 0x3FFFF, 0x3FFFF, 0x3FFFF] up with cells := [(0, lockedCell 1), (1, { cfg.ctl.en := true, vals.freq.f := 858993459 })] }, 5, 0, 1, (cmd 0x38 0x10000 [0, 0x20100, 0x3FFFF, 0x3FFFF, 0x3FFFF, 0x3FFFF, 0x3FFFF, 0x3FFFF, 0x3FFFF]), by unfold Begins; decide +kernel⟩,
   ⟨(has 0xA0 0 [0x102, 0] up), 5, (cmd 0xA0 0 [0x102, 0]), by unfold Begins; decide +kernel⟩,
   ⟨(has 0xA0 0 [0x102, 513] up), 5, (cmd 0xA0 0 [0x102, 513]), by unfold Begins; decide +kernel⟩,
   ⟨(has 0xA0 0 [0x102, 1] up), 5, (cmd 0xA0 0 [0x102, 1]), by unfold Begins; decide +kernel⟩,
   ⟨(has 0xA0 0x18000 [0x10, 1] up), 5, (cmd 0xA0 0x18000 [0x10, 1]), by unfold Begins; decide +kernel⟩,
   ⟨(has 0xA1 0 [0x102, 0, 9] up), 5, 9, (cmd 0xA1 0 [0x102, 0, 9]), by unfold Begins; decide +kernel⟩,
   ⟨(has 0xA2 0x18000 [] up), 5, (cmd 0xA2 0x18000 []), by unfold Begins; decide +kernel⟩,
   ⟨0x01, up, by decide +kernel⟩,
   ⟨0x00, up, by decide +kernel⟩,
   ⟨0x02, { cell0 { cfg.ctl := { en := true, outEn := true }, out.drv := .toggling } with pins.jtag := 0x00 }, by decide +kernel⟩,
   ⟨up, by decide +kernel⟩⟩

theorem wit_MemoriesStayCanonical :
  ∃ s t : State, s.memWf ∧ step s = .next t :=
  ⟨up, idleEdge up, by decide +kernel, rfl⟩

theorem wit_FusesAndIdentityNeverChange :
  ∃ s t : State, step s = .next t :=
  ⟨up, idleEdge up, rfl⟩

theorem wit_FaultLogKeepsItsDepths :
  ∃ s t : State, s.logWf ∧ step s = .next t :=
  ⟨up, idleEdge up, by decide +kernel, rfl⟩

theorem wit_CompletionQueueKeepsItsReservations :
  ∃ s t : State, s.cqWf ∧ step s = .next t :=
  ⟨up, idleEdge up, by decide +kernel, rfl⟩

theorem wit_ThresholdsKeepTheirOrder :
  (∃ (i : Nat) (hi : Bool) (v : Word) (s : State), 2 ≤ s.sec.host ∧ evinReach s i = .ok ∧ (if hi then fld v 0 10 < (s.evin i).thrLo.toNat else (s.evin i).thrHi.toNat < fld v 0 10))
  ∧ (∃ (i : Nat) (hi : Bool) (v : Word) (s : State), 2 ≤ s.sec.host ∧ evinReach s i = .ok ∧ (if hi then fld v 0 10 < (s.evin i).thrLo.toNat else (s.evin i).thrHi.toNat < fld v 0 10))
  ∧ (∃ (i : Nat) (hi : Bool) (v : Word) (s : State), s.sec.host < 2)
  ∧ (∃ (i a level : Nat) (hi : Bool) (v : Word) (s : State), locate s.hp.strict a = .evin i (if hi then 1 else 2) ∧ regPresent s (.evin i (if hi then 1 else 2)) = true ∧ writeDenied (.evin i (if hi then 1 else 2)) level = false ∧ evinReach s i = .ok ∧ (if hi then fld v 0 10 < (s.evin i).thrLo.toNat else (s.evin i).thrHi.toNat < fld v 0 10))
  ∧ (∃ (i a level : Nat) (hi : Bool) (v : Word) (s : State), locate s.hp.strict a = .evin i (if hi then 1 else 2) ∧ regPresent s (.evin i (if hi then 1 else 2)) = true ∧ writeDenied (.evin i (if hi then 1 else 2)) level = false ∧ evinReach s i = .ok ∧ (if hi then fld v 0 10 < (s.evin i).thrLo.toNat else (s.evin i).thrHi.toNat < fld v 0 10))
  ∧ (∃ (i : Nat) (hi : Bool) (v : Word) (s : State), 2 ≤ s.sec.host ∧ evinReach s i = .ok ∧ (s.evin i).thrLo.toNat ≤ (s.evin i).thrHi.toNat)
  ∧ (∃ (s : State) (tag : Nat) (c : Cmd), Begins s tag 0x050 c ∧ (c.arg 1).toNat < (c.arg 2).toNat) :=
  ⟨⟨0, true, 511, up, by decide +kernel⟩,
   ⟨0, false, 513, up, by decide +kernel⟩,
   ⟨0, true, 511, { up with sec.host := 1 }, by decide +kernel⟩,
   ⟨0, 0x26001, 3, true, 511, up, by decide +kernel⟩,
   ⟨0, 0x26002, 3, false, 513, up, by decide +kernel⟩,
   ⟨0, true, 512, up, by decide +kernel⟩,
   ⟨(has 0x50 0x18000 [1, 400, 401] up), 5, (cmd 0x50 0x18000 [1, 400, 401]), by unfold Begins; decide +kernel⟩⟩

theorem wit_ResetCtlTakesClaspAndPermission :
  (∃ (v : Word) (s : State), Serves s ∧ s.hc.clasp = .opened ∧ (s.sec.host = 3 ∨ (protRow s.lk s.sec.host).getLsbD 3 = true) ∧ v.getLsbD 0 = true ∧ s.pwr.phase ≠ .reset)
  ∧ (∃ (v : Word) (s : State), Serves s ∧ s.hc.clasp = .opened ∧ (¬ (s.sec.host = 3 ∨ (protRow s.lk s.sec.host).getLsbD 3 = true)))
  ∧ (∃ (v : Word) (s : State), Serves s ∧ s.hc.clasp ≠ .opened) :=
  ⟨⟨1, { up with hc.clasp := .opened }, by unfold Serves; decide +kernel⟩,
   ⟨1, { up with hc.clasp := .opened, sec.host := 0 }, by unfold Serves; decide +kernel⟩,
   ⟨1, up, by unfold Serves; decide +kernel⟩⟩

theorem wit_CheckWordBindsAProfileToItsRow :
  (∃ (s : State) (c c' n n' p p' : Nat), n < 256 ∧ n' < 256 ∧ p < 192 ∧ p' < 192 ∧ (n, p) ≠ (n', p') ∧ fetch s c n p = .ok ∧ profRow s n' p' = profRow s n p)
  ∧ (∃ (s : State) (c n p : Nat), profRow s n p = List.replicate 10 0) :=
  ⟨⟨{ up with profiles := tabPut (tabPut [] (profKey 0 3) (row ++ [checkWord 0 3 row])) (profKey 1 3) (row ++ [checkWord 0 3 row]) }, 0, 0, 0, 1, 3, 3, by decide +kernel⟩,
   ⟨up, 0, 0, 3, by decide +kernel⟩⟩

theorem wit_UndefinedOpcodesAreBadArgAtDispatch :
  (∃ (x tag : Nat) (ws : List Word) (tun : Bool), x < 512 ∧ tag < 512)
  ∧ (∃ (s : State) (tag : Nat) (c : Cmd), findCmd s tag = some c ∧ c.opcode ∉ [0x001, 0x002, 0x003, 0x004, 0x010, 0x011, 0x012, 0x013, 0x014, 0x020, 0x021, 0x022, 0x023, 0x024, 0x025, 0x026, 0x027, 0x030, 0x031, 0x032, 0x033, 0x034, 0x038, 0x040, 0x041, 0x042, 0x043, 0x050, 0x051, 0x052, 0x053, 0x054, 0x055, 0x060, 0x061, 0x062, 0x063, 0x064, 0x070, 0x071, 0x072, 0x073, 0x080, 0x081, 0x082, 0x083, 0x084, 0x085, 0x086, 0x087, 0x088, 0x089, 0x090, 0x091, 0x092, 0x0A0, 0x0A1, 0x0A2, 0x0A3, 0x0B0, 0x0B1, 0x0B2, 0x0B3] ∧ mayDispatch s c = true) :=
  ⟨⟨511, 511, [], false, by decide +kernel⟩,
   ⟨(has 0 0 [] up), 5, (cmd 0 0 []), by decide +kernel⟩⟩

theorem wit_AccessesBeyondTheEndAreHarmless :
  (∃ (h : Hdr) (i : Nat), h.fixed = false ∧ i ≤ h.count)
  ∧ (∃ (x : ReadRun) (a : Nat), 0x3FFFF < a)
  ∧ (∃ (h : Hdr) (l : List Bool) (x : State × WrFlags) (i a : Nat), 0x3FFFF < a)
  ∧ (∃ (h : Hdr) (u : Bool) (f : RdFlags), h.count < 128 ∧ h.op ≠ 0)
  ∧ (∃ (bits : List Bool) (s : State), portServes s = true ∧ 36 ≤ bits.length ∧ (hdrOf bits).op = 2 ∧ (hdrOf bits).reqLen ≤ bits.length ∧ endCheck { s with hp.empties := 0 } (hdrOf bits) bits = 0 ∧ lengthOk { s with hp.empties := 0 } (hdrOf bits) bits.length = true)
  ∧ (∃ (h : Hdr), h.fixed = true ∧ h.addr ≤ 0x3FFFF ∧ (h.size = 1 → h.addr % 2 = 0)) :=
  ⟨⟨{ alive := 0, op := 1, size := 0, fixed := false, count := 127, addr := 0x3FFFF }, 127, by decide +kernel⟩,
   ⟨{ st := up }, 0x40000, by decide +kernel⟩,
   ⟨{ alive := 0, op := 2, size := 0, fixed := false, count := 1, addr := 0x3FFFF }, [], (up, {}), 1, 0x40000, by decide +kernel⟩,
   ⟨{ alive := 0, op := 1, size := 1, fixed := false, count := 127, addr := 0x3FFFE }, true, { denied := true, fault := true }, by decide +kernel⟩,
   ⟨(frameBits 5 2 0 0x3FFFF [9] 432), up, by decide +kernel⟩,
   ⟨{ alive := 0, op := 1, size := 1, fixed := true, count := 127, addr := 0x3FFFE }, by decide +kernel⟩⟩

theorem wit_VariantSLacksAcquisitionAndHalfItsTius :
  (∃ (s : State), (s.fuses.variant = 0x1E07F ∨ s.fuses.variant = 0x3E07F))
  ∧ (∃ (s : State) (c : Cmd), s.fuses.variant = 0x1E07F ∧ findCmd s 5 = some c ∧ c.opcode = 0x051 ∧ c.st = .accepted ∧ mayDispatch s c = true ∧ (formOf 0x051).isSome = true ∧ (∀ f, permitted s c f = true))
  ∧ (∃ (s : State) (c : Cmd), s.fuses.variant = 0x1E07F ∧ findCmd s 5 = some c ∧ c.opcode = 0x041 ∧ c.st = .accepted ∧ mayDispatch s c = true ∧ (formOf 0x041).isSome = true ∧ (∀ f, permitted s c f = true) ∧ tgtScope c.target = 4 ∧ 2 ≤ tgtIndex c.target % 4) :=
  ⟨⟨{ up with fuses.variant := 0x1E07F }, by decide +kernel⟩,
   ⟨{ has 0x51 0x28000 [0, 0, 0, 0] up with fuses.variant := 0x1E07F }, cmd 0x51 0x28000 [0, 0, 0, 0], by decide +kernel, by decide +kernel, by decide +kernel, by decide +kernel, by decide +kernel, by decide +kernel, fun _ => rfl⟩,
   ⟨{ has 0x41 0x20002 [0] up with fuses.variant := 0x1E07F }, cmd 0x41 0x20002 [0], by decide +kernel, by decide +kernel, by decide +kernel, by decide +kernel, by decide +kernel, by decide +kernel, fun _ => rfl, by decide +kernel⟩⟩

end Sys2Proof.Tests
end

section
/-! SUPPORT. The dispatch of a Hitan row: which shape its meaning has, and what it answers to a command that fails a
check (R232). -/
namespace Sys2Proof.Claims
open Sys2Proof Sys2Proof.Machine

/-- The dispatch to a target of this device is a dispatch whose target is never out of reach. -/
theorem exists_hitanReach_of_hitan {o : Out} {s : State} {tag op : Nat} (h : ∃ body, o = .next (hitan s tag op body)) :
    ∃ body, o = .next (hitanReach s tag op (fun _ => false) body) := h

/-- Every Hitan row but RESET and EPOCH_SET is one call of the dispatch, whose target is out of reach as `unreached`
says. -/
theorem exec_eq_hitanReach {i : Instr} {tag op : Nat} (h : hitanOp i = some (tag, op)) (hr : op ≠ 0x002) (he : op ≠ 0x014)
    (s : State) : ∃ body, exec i s = .next (hitanReach s tag op (unreached i s) body) := by
  cases i <;> cases h
  case reset => exact absurd rfl hr
  case epochSet => exact absurd rfl he
  case treeStatus | treeTunnel => exact ⟨_, rfl⟩
  all_goals exact exists_hitanReach_of_hitan ⟨_, rfl⟩

/-- RESET is the only row of its opcode. -/
theorem eq_reset_of_hitanOp {i : Instr} {tag : Nat} (h : hitanOp i = some (tag, 0x002)) : i = .reset tag := by
  cases i <;> cases h; rfl

/-- EPOCH_SET is the only row of its opcode. -/
theorem eq_epochSet_of_hitanOp {i : Instr} {tag : Nat} (h : hitanOp i = some (tag, 0x014)) : i = .epochSet tag := by
  cases i <;> cases h; rfl

variable {s : State} {tag st : Nat} {c : Cmd}

/-- An accepted command that fails a check, the reach of its target among them, completes with that status. -/
theorem hitanReach_refused (hf : findCmd s tag = some c) (hd : mayDispatch s c = true) (ha : c.st = .accepted)
    {absent : Cmd → Bool} (hc : checkReach s c (absent c) = some st) (body : State → Cmd → State) :
    hitanReach s tag c.opcode absent body = complete (unqueue s c) tag st [] := by
  simp [hitanReach, hf, hd, ha, hc]

theorem execReset_refused (hf : findCmd s tag = some c) (ho : c.opcode = 0x002) (hd : mayDispatch s c = true)
    (hc : dispatchCheck s c = some st) : execReset tag s = .next (complete (unqueue s c) tag st []) := by
  rw [unqueue_eq s (by simp [ho]) (by simp [ho])]
  simp [execReset, hf, ho, hd, hc]

theorem execEpochSet_refused (hf : findCmd s tag = some c) (ho : c.opcode = 0x014) (hd : mayDispatch s c = true)
    (ha : c.st = .accepted) (hc : dispatchCheck s c = some st) :
    execEpochSet tag s = .next (complete (unqueue s c) tag st []) := by
  have hlate : epochLate s c = false := by simp [epochLate, hc]
  simp [execEpochSet, hf, hlate, ← ho, hitan_refused hf hd ha hc]

/-- Whatever the row, an accepted command of its opcode whose turn has come and that fails a check completes with the
status of that check and only leaves its arbiter's queue. -/
theorem exec_refused {i : Instr} {op : Nat} (hi : hitanOp i = some (tag, op)) (hf : findCmd s tag = some c)
    (ho : c.opcode = op) (ha : c.st = .accepted) (hd : mayDispatch s c = true)
    (hc : checkReach s c (unreached i s c) = some st) : exec i s = .next (complete (unqueue s c) tag st []) := by
  by_cases hr : op = 0x002
  · subst hr
    obtain rfl := eq_reset_of_hitanOp hi
    exact execReset_refused hf ho hd hc
  by_cases he : op = 0x014
  · subst he
    obtain rfl := eq_epochSet_of_hitanOp hi
    exact execEpochSet_refused hf ho hd ha hc
  obtain ⟨body, hbody⟩ := exec_eq_hitanReach hi hr he s
  subst ho
  rw [hbody, hitanReach_refused hf hd ha hc]

/-- A permitted command fails the check of its target with BADTARGET, whether or not the target could be reached. -/
theorem checkReach_badTarget {f : Form} (hform : formOf c.opcode = some f) (hp : inRom s = true ∨ permitted s c f = true)
    (ht : targetOk s c f = false) (absent : Bool) : checkReach s c absent = some BADTARGET := by
  have hp' : ¬ (inRom s = false ∧ permitted s c f = false) := by
    rintro ⟨h1, h2⟩
    simp [h1, h2] at hp
  simp only [checkReach, hform, if_neg hp', if_pos ht]

end Sys2Proof.Claims
end

section
/-! SUPPORT. What the variant MQ256-S has and lacks (R4, R8). -/
namespace Sys2Proof.Claims
open Sys2Proof Sys2Proof.Machine

/-- ID_VARIANT of MQ256-S, packaged or as a die (R4). -/
def IsVariantS (s : State) : Prop := s.fuses.variant = 0x1E07F ∨ s.fuses.variant = 0x3E07F

variable {s : State}

/-- The presence bits: every region has its bit, no acquisition engine has one, and TIUs 2 and 3 have none. -/
theorem IsVariantS.presence (hs : IsVariantS s) :
    (∀ r < 4, s.fuses.variant.getLsbD (13 + r) = true) ∧ (∀ r < 4, s.fuses.variant.getLsbD (9 + r) = false)
    ∧ ∀ k < 4, 2 ≤ k → s.fuses.variant.getLsbD (5 + k) = false := by
  rcases hs with h | h <;> rw [h] <;> decide

theorem IsVariantS.regionPresent (hs : IsVariantS s) {r : Nat} (hr : r < 4) : regionPresent s r = true := by
  obtain ⟨hregion, -, -⟩ := hs.presence
  simp [Machine.regionPresent, hr, hregion r hr]

theorem IsVariantS.acqPresent (hs : IsVariantS s) (r : Nat) : acqPresent s r = false := by
  obtain ⟨-, hacq, -⟩ := hs.presence
  by_cases hr : r < 4
  · simp [Machine.acqPresent, hacq r hr]
  · simp [Machine.acqPresent, Machine.regionPresent, hr]

theorem IsVariantS.tiuPresent (hs : IsVariantS s) {t : Nat} (ht : 2 ≤ t % 4) : tiuPresent s t = false := by
  obtain ⟨-, -, htiu⟩ := hs.presence
  simp [Machine.tiuPresent, htiu (t % 4) (Nat.mod_lt t (by decide)) ht]

/-- Every channel cell and event input lies in a present region. -/
theorem IsVariantS.cellPresent (hs : IsVariantS s) {p : Nat} (hp : p < 256) : cellPresent s p = true := by
  have hr : cellRegion p < 4 := by rw [cellRegion, if_pos hp]; omega
  simp [Machine.cellPresent, hs.regionPresent hr, show p < 272 by omega]

/-- The commands of acquisition name an acquisition engine and nothing else (R261). -/
theorem scopes_of_acqOp {op : Nat} {f : Form} (h : op ∈ [0x051, 0x052, 0x053, 0x054, 0x055]) (hform : formOf op = some f) :
    f.scopes = [5] := by
  simp only [List.mem_cons, List.not_mem_nil, or_false] at h
  rcases h with rfl | rfl | rfl | rfl | rfl <;> cases hform <;> rfl

/-- EVIN_CONFIG names an input by its channel, or a block (R261). -/
theorem scopes_of_evinConfig {f : Form} (hform : formOf 0x050 = some f) : f.scopes = [3, 2] := by cases hform; rfl

theorem IsVariantS.targetOk_evinConfig (hs : IsVariantS s) {c : Cmd} {f : Form} (hform : formOf 0x050 = some f)
    (hsc : tgtScope c.target = 3) (hi : tgtIndex c.target < 256) : targetOk s c f = true := by
  simp [targetOk, scopes_of_evinConfig hform, hsc, hs.cellPresent hi, hi]

theorem IsVariantS.targetOk_acq (hs : IsVariantS s) {c : Cmd} {f : Form} (hf : f.scopes = [5]) : targetOk s c f = false := by
  by_cases hsc : tgtScope c.target = 5
  · simp [targetOk, hsc, hs.acqPresent]
  · simp [targetOk, hf, hsc]

theorem IsVariantS.targetOk_tiu (hs : IsVariantS s) {c : Cmd} (hsc : tgtScope c.target = 4) (ht : 2 ≤ tgtIndex c.target % 4)
    (f : Form) : targetOk s c f = false := by
  simp [targetOk, hsc, hs.tiuPresent ht]

/-- Settles O56: on MQ256-S the target check passes every event input, and refuses the acquisition engines and TIUs 2
and 3, so that dispatch answers BADTARGET. -/
theorem variantSLacksAcquisitionAndHalfItsTius : Obligations.VariantSLacksAcquisitionAndHalfItsTius := by
  unfold Obligations.VariantSLacksAcquisitionAndHalfItsTius
  intro s (hs : IsVariantS s)
  refine ⟨fun c f hform hsc hi => hs.targetOk_evinConfig hform hsc hi, ?_⟩
  intro i tag op c f hi hfind hop hacc hturn hform hperm hlacks
  have htarget : targetOk s c f = false := by
    rcases hlacks with hacq | ⟨hsc, ht⟩
    · exact hs.targetOk_acq (scopes_of_acqOp hacq hform)
    · exact hs.targetOk_tiu hsc ht f
  exact exec_refused hi hfind hop hacc hturn (checkReach_badTarget (hop ▸ hform) hperm htarget _)

end Sys2Proof.Claims
end

section
/-! SUPPORT. The check word of a profile row and what an accepted fetch says of the row (R92, R95). -/
namespace Sys2Proof.Claims
open Sys2Proof Sys2Proof.Machine

variable {s : State} {c n n' p p' : Nat}

/-- A fetch is accepted exactly when the row has no uncorrectable word, is valid, carries its own check word, and asks
of an LVDS cell no frequency above its limit (R95). -/
theorem fetch_eq_ok_iff : fetch s c n p = .ok ↔
    profBad s n p = false ∧ bitOf ((profRow s n p).getD 0 0) 14 = true
      ∧ checkWord n p (profRow s n p) = (profRow s n p).getD 9 0
      ∧ ¬ ((s.cell c).cfg.lvds = true ∧ aboveLvds (profFreq (s.cell c).vals.freq (profRow s n p))
          (profD (profRow s n p)).toNat (profL (profRow s n p)).toNat = true) := by
  simp only [fetch]
  split_ifs with hbad hvalid hcheck hlvds
  · exact iff_of_false nofun fun ⟨h, _⟩ => Bool.eq_false_iff.mp h hbad
  · exact iff_of_false nofun fun ⟨_, h, _⟩ => Bool.eq_false_iff.mp hvalid h
  · exact iff_of_false nofun fun ⟨_, _, h, _⟩ => hcheck h
  · exact iff_of_false nofun fun ⟨_, _, _, h⟩ => h hlvds
  · exact iff_of_true rfl ⟨Bool.eq_false_iff.mpr hbad, Bool.eq_true_of_not_eq_false hvalid, not_not.mp hcheck, hlvds⟩

theorem valid_of_fetch_ok (h : fetch s c n p = .ok) : bitOf ((profRow s n p).getD 0 0) 14 = true := by
  obtain ⟨-, hvalid, -, -⟩ := fetch_eq_ok_iff.mp h
  exact hvalid

theorem checkWord_of_fetch_ok (h : fetch s c n p = .ok) :
    checkWord n p (profRow s n p) = (profRow s n p).getD 9 0 := by
  obtain ⟨-, -, hcheck, -⟩ := fetch_eq_ok_iff.mp h
  exact hcheck

/-- The formula of R92, with its nine terms written out. -/
theorem checkWord_nine (n p : Nat) (w0 w1 w2 w3 w4 w5 w6 w7 w8 : Word) :
    checkWord n p [w0, w1, w2, w3, w4, w5, w6, w7, w8] =
      w0.rotateLeft 0 ^^^ w1.rotateLeft 1 ^^^ w2.rotateLeft 2 ^^^ w3.rotateLeft 3 ^^^ w4.rotateLeft 4 ^^^ w5.rotateLeft 5
        ^^^ w6.rotateLeft 6 ^^^ w7.rotateLeft 7 ^^^ w8.rotateLeft 8 ^^^ BitVec.ofNat 18 (256 * n + p) ^^^ 0x15555 := by
  simp [checkWord, rotl, wd, List.range_succ]

/-- The term of R92 that names the row is a native word that no two rows share: 256n + p stays below 2^16. -/
theorem wd_row_inj (hn : n < 256) (hn' : n' < 256) (hp : p < 192) (hp' : p' < 192)
    (h : wd (256 * n + p) = wd (256 * n' + p')) : n = n' ∧ p = p' := by
  have hnat : (256 * n + p) % 2 ^ 18 = (256 * n' + p') % 2 ^ 18 := congrArg BitVec.toNat h
  omega

/-- The same words have the same check word in one row only. -/
theorem checkWord_inj_row (hn : n < 256) (hn' : n' < 256) (hp : p < 192) (hp' : p' < 192) {w : List Word}
    (h : checkWord n p w = checkWord n' p' w) : (n, p) = (n', p') := by
  simp only [checkWord, BitVec.xor_left_inj, BitVec.xor_right_inj] at h
  obtain ⟨rfl, rfl⟩ := wd_row_inj hn hn' hp hp' h
  rfl

/-- Two rows of the same words that both pass their fetch are one row: each carries its own check word in word 9. -/
theorem row_eq_of_fetch_ok {c' : Nat} (hn : n < 256) (hn' : n' < 256) (hp : p < 192) (hp' : p' < 192)
    (hrow : profRow s n' p' = profRow s n p) (h : fetch s c n p = .ok) (h' : fetch s c' n' p' = .ok) :
    (n, p) = (n', p') := by
  have hcheck : checkWord n' p' (profRow s n p) = (profRow s n p).getD 9 0 := hrow ▸ checkWord_of_fetch_ok h'
  exact checkWord_inj_row hn hn' hp hp' ((checkWord_of_fetch_ok h).trans hcheck.symm)

/-- A zero-filled row has its valid bit clear. -/
theorem fetch_ne_ok_of_zero (hrow : profRow s n p = List.replicate 10 0) : fetch s c n p ≠ .ok := by
  intro h
  have hvalid := valid_of_fetch_ok h
  rw [hrow] at hvalid
  exact absurd hvalid (by decide)

/-- Settles O53: the check word is R92's sum, in which 256n + p tells every two rows apart, so that a copied row fails its
check; a zero row fails on its valid bit. -/
theorem checkWordBindsAProfileToItsRow : Obligations.CheckWordBindsAProfileToItsRow := by
  unfold Obligations.CheckWordBindsAProfileToItsRow
  refine ⟨checkWord_nine, ?_, fun s c n p hrow => fetch_ne_ok_of_zero hrow⟩
  intro s c c' n n' p p' hn hn' hp hp' hne hok hrow hok'
  exact hne (row_eq_of_fetch_ok hn hn' hp hp' hrow hok hok')

end Sys2Proof.Claims
end

section
/-! SUPPORT. How a command that begins is answered (R236 to R238), and how a direct write meets a register of type RW
(R286, R303, R305). -/
namespace Sys2Proof.Claims
open Sys2Proof Sys2Proof.Machine

variable {s : State} {tag op : Nat} {c : Cmd}

theorem Begins.findCmd_eq (hb : Begins s tag op c) : findCmd s tag = some c := by
  obtain ⟨hfind, -⟩ := hb
  exact hfind

/-- A command that begins runs the body of its row. -/
theorem Begins.hitan_eq (hb : Begins s tag op c) (body : State → Cmd → State) :
    hitan s tag op body = body (begun s tag) c := by
  obtain ⟨hfind, rfl, hacc, hturn, hcheck, hlate, hwait, hhold⟩ := hb
  exact hitan_runs hfind hturn (by rw [if_pos hacc, hcheck]) hlate hwait hhold body

/-- An update of one command that keeps its tag leaves the commands of the other tags as they are. -/
theorem setCmd_cmds_filter_ne (s : State) (tag : Nat) {f : Cmd → Cmd} (hf : ∀ c, (f c).tag = c.tag) :
    (setCmd s tag f).mbx.cmds.filter (fun x => x.tag != tag) = s.mbx.cmds.filter (fun x => x.tag != tag) := by
  unfold setCmd
  dsimp only
  induction s.mbx.cmds with
  | nil => rfl
  | cons c l ih => by_cases h : c.tag = tag <;> simp [h, hf, ih]

/-- The completion of a command in execution is its answer. -/
theorem answered_complete_begun (hfind : findCmd s tag = some c) (status : Nat) (res : List Word) :
    Answered s (complete (begun s tag) tag status res) c status res := by
  have htag : c.tag = tag := by simpa using List.find?_some hfind
  subst htag
  refine ⟨(complete_cmds ..).trans (setCmd_cmds_filter_ne s c.tag fun _ => rfl), fun htun => ?_⟩
  have hbegun : findCmd (begun s c.tag) c.tag = some { c with st := .executing } := by
    rw [begun, findCmd_setCmd s c.tag _ (fun _ => by rfl), hfind, Option.map_some]
  rw [complete_cq hbegun htun, begun, setCmd_cq]
  rfl

variable {x : Reg} {level a : Nat}

/-- A write to the address of a whole register is a write of that register. -/
theorem writeAt_eq_writeReg (hloc : locate s.hp.strict a = x) (hx : whole x = true) (v : Word) :
    writeAt s level a v = writeReg s level a x v := by
  unfold writeAt
  rw [hloc]
  cases x with
  | bit h k => exact absurd hx (by simp [whole])
  | _ => rfl

/-- A permitted write of an RW register whose unit lets it through stores the value, and the register's parity is fresh. -/
theorem writeReg_rw (hpres : regPresent s x = true) (hden : writeDenied x level = false) (hkind : x.kind = .rw)
    (hreach : regReach s x = .ok) (v : Word) : writeReg s level a x v = storeReg (s.parityFresh x.addr) level x v := by
  simp [writeReg, writeReach, writeKind, hpres, hden, hkind, hreach]

end Sys2Proof.Claims
end

section
/-! SUPPORT. The thresholds of an event input: what a write of THR_HI or THR_LO does, by the row and by the register's
address, and what EVIN_CONFIG does with a pair out of order (R201). -/
namespace Sys2Proof.Claims
open Sys2Proof Sys2Proof.Machine

/-- A write of v to THR_HI (`hi`) or THR_LO would put THR_LO above THR_HI. -/
def ThrCrosses (e : EvinSt) (hi : Bool) (v : Word) : Prop :=
  if hi then fld v 0 10 < e.thrLo.toNat else e.thrHi.toNat < fld v 0 10

/-- THR_LO is not above THR_HI. -/
def ThrOrdered (e : EvinSt) : Prop := e.thrLo.toNat ≤ e.thrHi.toNat

/-- The input after a refused write of a threshold. -/
def thrRefused (e : EvinSt) : EvinSt := { e with cfgErr := true }

/-- The input after an accepted write of a threshold, which comes into force at `edge` (R202). -/
def thrWritten (hi : Bool) (v : Word) (edge : Nat) (e : EvinSt) : EvinSt :=
  { e with
    thrHi := if hi then v.extractLsb' 0 10 else e.thrHi, thrLo := if hi then e.thrLo else v.extractLsb' 0 10,
    cfgErr := false, applyAt := some edge }

/-- A write of the threshold register computes its parity afresh (R303). -/
def thrFresh (s : State) (i : Nat) (hi : Bool) : State := s.parityFresh (evinBase i + if hi then 1 else 2)

/-- The reply to a threshold write of the row: ignored, when it leaves cfg_err set (R286). -/
def thrReported (i : Nat) (s : State) : State := if (s.evin i).cfgErr then { s with hp.ign := true } else s

variable {s : State} {i : Nat} {hi : Bool} {v : Word}

theorem toNat_extractLsb'_eq_fld (v : Word) (lo n : Nat) : (v.extractLsb' lo n).toNat = fld v lo n := by
  rw [BitVec.extractLsb'_toNat, Nat.shiftRight_eq_div_pow, fld]

/-- The model's test of a value against the other threshold. -/
theorem thrCrosses_iff (e : EvinSt) (hi : Bool) (v : Word) :
    (if hi then decide ((v.extractLsb' 0 10).toNat < e.thrLo.toNat)
      else decide (e.thrHi.toNat < (v.extractLsb' 0 10).toNat)) = true ↔ ThrCrosses e hi v := by
  rw [toNat_extractLsb'_eq_fld, ThrCrosses]
  cases hi <;> simp

/-- A refused write of a threshold only sets cfg_err. -/
theorem writeThr_crossing (h : ThrCrosses (s.evin i) hi v) :
    writeThr s i hi v = s.updEvin i thrRefused :=
  if_pos ((thrCrosses_iff ..).mpr h)

/-- An accepted write of a threshold puts it into the pair. -/
theorem writeThr_accepted (h : ¬ ThrCrosses (s.evin i) hi v) :
    writeThr s i hi v = s.updEvin i (thrWritten hi v ((s.region (i / 64)).edge + 1)) :=
  if_neg (mt (thrCrosses_iff ..).mp h)

/-- An accepted write puts the pair in order, the value on its own side of the other threshold. -/
theorem thrOrdered_thrWritten {e : EvinSt} (h : ¬ ThrCrosses e hi v) (edge : Nat) :
    ThrOrdered (thrWritten hi v edge e) := by
  cases hi with
  | true => exact (Nat.not_lt.mp h).trans_eq (toNat_extractLsb'_eq_fld v 0 10).symm
  | false => exact (toNat_extractLsb'_eq_fld v 0 10).trans_le (Nat.not_lt.mp h)

/-- Words 1 and 2 of an input's window are THR_HI and THR_LO (R204). -/
theorem writeEvin_thr (s : State) (i : Nat) (hi : Bool) (v : Word) :
    writeEvin s i (if hi then 1 else 2) v = writeThr s i hi v := by
  cases hi <;> rfl

theorem updEvin_onlyEvin (s : State) (i : Nat) (f : EvinSt → EvinSt) : OnlyEvin s (s.updEvin i f) i :=
  ⟨s.updEvin_only i f, fun _ hk => s.evin_updEvin_ne f hk⟩

theorem thrOrdered_updEvin {f : EvinSt → EvinSt} (h : ThrOrdered (f (s.evin i))) :
    ThrOrdered ((s.updEvin i f).evin i) := by
  rwa [State.evin_updEvin_self]

theorem thrReported_refused (s : State) (i : Nat) :
    thrReported i (s.updEvin i thrRefused) = { s.updEvin i thrRefused with hp.ign := true } :=
  if_pos (by rw [State.evin_updEvin_self]; rfl)

theorem thrReported_written (s : State) (i : Nat) (hi : Bool) (v : Word) (edge : Nat) :
    thrReported i (s.updEvin i (thrWritten hi v edge)) = s.updEvin i (thrWritten hi v edge) :=
  if_neg (by rw [State.evin_updEvin_self]; exact Bool.false_ne_true)

/-- THRESHOLD_WRITE of an Owner session that reaches the input writes the threshold and reports the outcome. -/
theorem exec_thresholdWrite_reached (howner : 2 ≤ s.sec.host) (hreach : evinReach s i = .ok) (hi : Bool) (v : Word) :
    exec (.thresholdWrite i hi v) s = .next (thrReported i (writeThr (thrFresh s i hi) i hi v)) := by
  change Host.Outcome.next (evinWrite s i (if hi then 1 else 2) v) = _
  rw [evinWrite, ownerWrite_owner howner]
  simp only [hreach, writeEvin_thr]
  cases hi <;> rfl

theorem exec_thresholdWrite_crossing (howner : 2 ≤ s.sec.host) (hreach : evinReach s i = .ok)
    (h : ThrCrosses (s.evin i) hi v) :
    exec (.thresholdWrite i hi v) s = .next { (thrFresh s i hi).updEvin i thrRefused with hp.ign := true } := by
  rw [exec_thresholdWrite_reached howner hreach, writeThr_crossing (s := thrFresh s i hi) h, thrReported_refused]

theorem exec_thresholdWrite_accepted (howner : 2 ≤ s.sec.host) (hreach : evinReach s i = .ok)
    (h : ¬ ThrCrosses (s.evin i) hi v) :
    exec (.thresholdWrite i hi v) s
      = .next ((thrFresh s i hi).updEvin i (thrWritten hi v (((thrFresh s i hi).region (i / 64)).edge + 1))) := by
  rw [exec_thresholdWrite_reached howner hreach, writeThr_accepted (s := thrFresh s i hi) h, thrReported_written]

/-- Below an Owner session the row is denied (log 72). -/
theorem exec_thresholdWrite_denied (h : s.sec.host < 2) (i : Nat) (hi : Bool) (v : Word) :
    exec (.thresholdWrite i hi v) s = .next { s with hp.denied := true } :=
  congrArg Host.Outcome.next (ownerWrite_denied h _)

/-- The store that every path to the register ends in. -/
theorem storeReg_thr_crossing (h : ThrCrosses (s.evin i) hi v) (level : Nat) :
    storeReg s level (.evin i (if hi then 1 else 2)) v = (s.updEvin i thrRefused, wrIgn) := by
  simp only [storeReg, writeEvin_thr, writeThr_crossing h, State.evin_updEvin_self]
  cases hi <;> rfl

theorem evinKind_thr (hi : Bool) : evinKind (if hi then 1 else 2) = .rw := by cases hi <;> rfl

theorem writeAt_thr_crossing {a level : Nat} (hloc : locate s.hp.strict a = .evin i (if hi then 1 else 2))
    (hpres : regPresent s (.evin i (if hi then 1 else 2)) = true)
    (hden : writeDenied (.evin i (if hi then 1 else 2)) level = false) (hreach : evinReach s i = .ok)
    (h : ThrCrosses (s.evin i) hi v) : writeAt s level a v = ((thrFresh s i hi).updEvin i thrRefused, wrIgn) := by
  rw [writeAt_eq_writeReg hloc rfl, writeReg_rw hpres hden (evinKind_thr hi) hreach]
  exact storeReg_thr_crossing (s := thrFresh s i hi) h level

/-- A begun EVIN_CONFIG with THR_LO above THR_HI ends before it writes an input. -/
theorem exec_evinConfig_crossing {tag : Nat} {c : Cmd} (hb : Begins s tag 0x050 c)
    (h : (c.arg 1).toNat < (c.arg 2).toNat) :
    exec (.evinConfig tag) s = .next (complete (begun s tag) tag BADARG []) := by
  refine congrArg Host.Outcome.next ((hb.hitan_eq _).trans ?_)
  exact if_pos (.inr (.inr (.inr (.inr h))))

/-- Settles O51: whatever the path, a crossing write only sets cfg_err and is reported as ignored, and an acceptable one
updates its input alone and keeps the order; EVIN_CONFIG tests the pair before it writes any input. -/
theorem thresholdsKeepTheirOrder : Obligations.ThresholdsKeepTheirOrder := by
  unfold Obligations.ThresholdsKeepTheirOrder
  refine ⟨?refusedRow, ?deniedRow, ?refusedWrite, ?order, ?config⟩
  case refusedRow => exact fun i hi v s howner hreach h => exec_thresholdWrite_crossing howner hreach h
  case deniedRow => exact fun i hi v s h => exec_thresholdWrite_denied h i hi v
  case refusedWrite =>
    intro i a level hi v s hloc hpres hden hreach h
    exact Prod.ext_iff.mp (writeAt_thr_crossing hloc hpres hden hreach h)
  case order =>
    intro i hi v s howner hreach (ho : ThrOrdered (s.evin i))
    by_cases h : ThrCrosses (s.evin i) hi v
    · exact ⟨_, exec_thresholdWrite_crossing howner hreach h,
        thrOrdered_updEvin (s := thrFresh s i hi) (f := thrRefused) ho, (if_pos h).mpr rfl⟩
    · exact ⟨_, exec_thresholdWrite_accepted howner hreach h,
        thrOrdered_updEvin (thrOrdered_thrWritten h _), (if_neg h).mpr (updEvin_onlyEvin ..)⟩
  case config =>
    intro s tag c hb h
    exact ⟨exec_evinConfig_crossing hb h, complete_evins .., answered_complete_begun hb.findCmd_eq BADARG []⟩

end Sys2Proof.Claims
end

section
/-! SUPPORT. The opcode of a descriptor, the opcodes that have a form, and the answer to one that has none (R230, R246). -/
namespace Sys2Proof.Claims
open Sys2Proof Sys2Proof.Machine

/-- The opcodes of R255 to R257. -/
def opcodesLow : List Nat :=
  [0x001, 0x002, 0x003, 0x004, 0x010, 0x011, 0x012, 0x013, 0x014, 0x020, 0x021, 0x022, 0x023, 0x024, 0x025, 0x026, 0x027]

/-- The opcodes of R258 to R261. -/
def opcodesMid : List Nat :=
  [0x030, 0x031, 0x032, 0x033, 0x034, 0x038, 0x040, 0x041, 0x042, 0x043, 0x050, 0x051, 0x052, 0x053, 0x054, 0x055]

/-- The opcodes of R262 to R264. -/
def opcodesHigh : List Nat :=
  [0x060, 0x061, 0x062, 0x063, 0x064, 0x070, 0x071, 0x072, 0x073, 0x080, 0x081, 0x082, 0x083, 0x084, 0x085, 0x086, 0x087,
   0x088, 0x089]

/-- The opcodes of R265 to R267. -/
def opcodesTop : List Nat := [0x090, 0x091, 0x092, 0x0A0, 0x0A1, 0x0A2, 0x0A3, 0x0B0, 0x0B1, 0x0B2, 0x0B3]

/-- One row of a table of forms: it adds its opcode to those of the rows below it. -/
theorem isSome_ite_some_iff {α : Type} {p : Prop} [Decidable p] {a : α} {rest : Option α} :
    (if p then some a else rest).isSome = true ↔ p ∨ rest.isSome = true := by
  by_cases h : p <;> simp [h]

theorem isSome_formLow_iff (op : Nat) : (formLow op).isSome = true ↔ op ∈ opcodesLow := by
  simp only [formLow, opcodesLow, isSome_ite_some_iff, Option.isSome_none, Bool.false_eq_true, List.mem_cons, List.not_mem_nil]

theorem isSome_formMid_iff (op : Nat) : (formMid op).isSome = true ↔ op ∈ opcodesMid := by
  simp only [formMid, opcodesMid, isSome_ite_some_iff, Option.isSome_none, Bool.false_eq_true, List.mem_cons, List.not_mem_nil]

theorem isSome_formHigh_iff (op : Nat) : (formHigh op).isSome = true ↔ op ∈ opcodesHigh := by
  simp only [formHigh, opcodesHigh, isSome_ite_some_iff, Option.isSome_none, Bool.false_eq_true, List.mem_cons, List.not_mem_nil]

theorem isSome_formTop_iff (op : Nat) : (formTop op).isSome = true ↔ op ∈ opcodesTop := by
  simp only [formTop, opcodesTop, isSome_ite_some_iff, Option.isSome_none, Bool.false_eq_true, List.mem_cons, List.not_mem_nil]

/-- The form of an opcode is that of the first table that lists it. -/
theorem formOf_eq_or (op : Nat) : formOf op = (formLow op).or ((formMid op).or ((formHigh op).or (formTop op))) := by
  unfold formOf
  cases formLow op <;> cases formMid op <;> cases formHigh op <;> rfl

/-- An opcode is decoded exactly when one of the chapter's tables lists it. -/
theorem isSome_formOf_iff (op : Nat) :
    (formOf op).isSome = true ↔ op ∈ opcodesLow ++ opcodesMid ++ opcodesHigh ++ opcodesTop := by
  simp only [formOf_eq_or, Option.isSome_or, Bool.or_eq_true, isSome_formLow_iff, isSome_formMid_iff, isSome_formHigh_iff,
    isSome_formTop_iff, List.mem_append, or_assoc]

/-- Two nine-bit fields side by side in a native word: the upper one is read back. -/
theorem fld_wd_upper {x : Nat} (hx : x < 512) {tag : Nat} (ht : tag < 512) : fld (wd (x * 0x200 + tag)) 9 9 = x := by
  simp only [fld, wd, BitVec.toNat_ofNat]
  omega

/-- Two nine-bit fields side by side in a native word: the lower one is read back. -/
theorem fld_wd_lower (x : Nat) {tag : Nat} (ht : tag < 512) : fld (wd (x * 0x200 + tag)) 0 9 = tag := by
  simp only [fld, wd, BitVec.toNat_ofNat]
  omega

/-- Check 1 of R232: a command whose opcode has no form fails with BADARG, before anything of it is looked at. -/
theorem dispatchCheck_of_formOf_none {c : Cmd} (hform : formOf c.opcode = none) (s : State) :
    dispatchCheck s c = some BADARG := by
  simp only [dispatchCheck, checkReach, hform]

/-- A command whose opcode has no form completes with BADARG when its turn has come, and leaves nothing else behind. -/
theorem exec_unknownOpcode_of_formOf_none {s : State} {tag : Nat} {c : Cmd} (hfind : findCmd s tag = some c)
    (hform : formOf c.opcode = none) (hturn : mayDispatch s c = true) :
    exec (.unknownOpcode tag) s = .next (complete s tag BADARG []) := by
  change execUnknownOpcode tag s = _
  simp [execUnknownOpcode, hfind, hform, hturn]

/-- Settles O54: the fields of word 0 read back, the tables of forms hold the chapter's opcodes and no other, and an opcode
without a form answers BADARG. -/
theorem undefinedOpcodesAreBadArgAtDispatch : Obligations.UndefinedOpcodesAreBadArgAtDispatch := by
  unfold Obligations.UndefinedOpcodesAreBadArgAtDispatch
  refine ⟨fun x tag ws tun hx ht => ⟨fld_wd_upper hx ht, fld_wd_lower x ht⟩, isSome_formOf_iff, ?_⟩
  intro s tag c hfind hunlisted hturn
  have hform : formOf c.opcode = none := Option.not_isSome_iff_eq_none.mp (mt (isSome_formOf_iff c.opcode).mp hunlisted)
  exact ⟨dispatchCheck_of_formOf_none hform s, exec_unknownOpcode_of_formOf_none hfind hform hturn⟩

end Sys2Proof.Claims
end

section
/-! SUPPORT. The end of the address space at the host port: the addresses of a frame, what an access beyond 0x3FFFF does,
and the words that the trailer counts (R277, R284, R285). -/
namespace Sys2Proof.Claims
open Sys2Proof Sys2Proof.Machine

variable {h : Hdr} {a i : Nat}

theorem addrs_length (h : Hdr) : h.addrs.length = h.count + 1 := by
  rw [Hdr.addrs, List.length_map, List.length_range]

theorem addrs_getElem?_of_increment (hinc : h.fixed = false) (hi : i ≤ h.count) :
    h.addrs[i]? = some (h.addr + h.itemsPer * i) := by
  simp [Hdr.addrs, hinc, List.getElem?_range (Nat.lt_succ_of_le hi)]

theorem eq_addr_of_mem_addrs_of_fixed (hfix : h.fixed = true) (ha : a ∈ h.addrs) : a = h.addr := by
  obtain ⟨i, -, rfl⟩ := List.mem_map.mp ha
  exact if_pos hfix

theorem words_length (h : Hdr) (a : Nat) : (h.words a).length = h.itemsPer := by
  rw [Hdr.words, Hdr.itemsPer, apply_ite List.length]
  rfl

/-- The accesses of a frame touch one word for each data item. -/
theorem length_flatMap_words (h : Hdr) : (h.addrs.flatMap h.words).length = h.items := by
  simp only [List.length_flatMap, words_length, List.map_const', addrs_length, List.sum_replicate, smul_eq_mul, Hdr.items,
    Nat.mul_comm]

/-- An aligned access that begins inside the space ends inside it: a pair begins at an even address, and the last address
of the space is odd. -/
theorem le_end_of_mem_words (ha : a ≤ 0x3FFFF) (heven : h.size = 1 → a % 2 = 0) {b : Nat} (hb : b ∈ h.words a) :
    b ≤ 0x3FFFF := by
  unfold Hdr.words at hb
  split_ifs at hb with hsize
  · have := heven hsize
    simp only [List.mem_cons, List.not_mem_nil, or_false] at hb
    omega
  · rwa [List.mem_singleton.mp hb]

theorem beyond_of_op (hop : h.op ≠ 0) :
    h.beyond = ((h.addrs.flatMap h.words).filter (fun a => decide (0x3FFFF < a))).length :=
  if_neg hop

theorem beyond_le_items (h : Hdr) : h.beyond ≤ h.items := by
  unfold Hdr.beyond
  split_ifs
  · exact Nat.zero_le _
  · exact (List.length_filter_le ..).trans_eq (length_flatMap_words h)

/-- The header's seven-bit count bounds the number of words beyond the end, which therefore fits its field. -/
theorem beyond_le (hcount : h.count < 128) : h.beyond ≤ 256 := by
  have hper : h.itemsPer ≤ 2 := by
    unfold Hdr.itemsPer
    split_ifs <;> decide
  calc h.beyond ≤ h.items := beyond_le_items h
    _ ≤ 2 * 128 := Nat.mul_le_mul hper hcount

/-- Every access of a fixed-address frame lies where the first one lies. -/
theorem beyond_of_fixed (hfix : h.fixed = true) (haddr : h.addr ≤ 0x3FFFF) (heven : h.size = 1 → h.addr % 2 = 0) :
    h.beyond = 0 := by
  have hin : ∀ b ∈ h.addrs.flatMap h.words, b ≤ 0x3FFFF := by
    intro b hb
    obtain ⟨a, ha, hba⟩ := List.mem_flatMap.mp hb
    obtain rfl := eq_addr_of_mem_addrs_of_fixed hfix ha
    exact le_end_of_mem_words haddr heven hba
  unfold Hdr.beyond
  split_ifs
  · rfl
  · simpa using hin

theorem word_beyond (ha : 0x3FFFF < a) (x : ReadRun) : x.word a = (0, x) := if_pos ha

theorem doWrite_beyond (ha : 0x3FFFF < a) (h : Hdr) (l : List Bool) (x : State × WrFlags) (i : Nat) :
    doWrite h l x i a = x := by
  simp [doWrite, ha, WrFlags.join]

theorem b2n_le_one (b : Bool) : b2n b ≤ 1 := by cases b <;> decide

theorem decide_b2n_eq_one (b : Bool) : decide (b2n b = 1) = b := by cases b <;> rfl

variable {n : Nat}

/-- BEYOND is bit 16 of the trailer, above the count and the flags of the reads (R277). -/
theorem trailerWord_beyond (hn : n < 2 ^ 14) (u : Bool) (f : RdFlags) :
    (trailerWord u n f).getLsbD 16 = decide (n ≠ 0) := by
  have hd := b2n_le_one f.denied
  have hf := b2n_le_one f.fault
  have hb := b2n_le_one (decide (n ≠ 0))
  rw [← decide_b2n_eq_one (decide (n ≠ 0))]
  simp only [trailerWord, wd, BitVec.getLsbD_ofNat, Nat.testBit_eq_decide_div_mod_eq, Nat.reduceLT, decide_true, Bool.true_and,
    decide_eq_decide]
  omega

/-- The count stands in the low fourteen bits of the trailer (R277). -/
theorem trailerWord_count (hn : n < 2 ^ 14) (u : Bool) (f : RdFlags) : fld (trailerWord u n f) 0 14 = n := by
  simp only [trailerWord, fld, wd, BitVec.toNat_ofNat]
  omega

end Sys2Proof.Claims
end

section
/-! SUPPORT. The acceptance of a WRITE frame, and what lies beyond the end of the space (R278, R280, R285). -/
namespace Sys2Proof.Claims
open Sys2Proof Sys2Proof.Machine

variable {s : State} {h : Hdr} {l : List Bool}

theorem frameOp_of_long (hlong : 36 ≤ l.length) : frameOp l = some (hdrOf l).op := if_neg (Nat.not_lt.mpr hlong)

theorem releaseCfg_prev (s : State) : (releaseCfg s).hp.prev = s.hp.prev := by
  unfold releaseCfg
  split <;> rfl

/-- A served frame that is no READ and passes the checks at request end is judged and applied at its release. -/
theorem frame_eq_finishWrite (hserve : portServes s = true) (hlong : 36 ≤ l.length) (hread : (hdrOf l).op ≠ 1)
    (hreq : (hdrOf l).reqLen ≤ l.length) (hcheck : endCheck { s with hp.empties := 0 } (hdrOf l) l = 0) (late : List Nat) :
    frame s l late = finishWrite { s with hp.empties := 0 } (hdrOf l) l := by
  have hserve' : portServes { s with hp.empties := 0 } = true := hserve
  have hshort : ¬ l.length < 4 := by omega
  have hcut : ¬ (l.length < 36 ∨ l.length < (hdrOf l).reqLen) := by omega
  simp [frame, hserve', hshort, hcut, hcheck, hread]

/-- The state and the flags that the writes of a frame leave at its release, if it is a WRITE (R280). -/
def releaseWrites (s : State) (h : Hdr) (l : List Bool) : State × WrFlags :=
  let s1 := drove (nextAlive s h) (replyBits s h l.length 0 [] {} [])
  if h.op = 2 then doWrites s1 h l else (s1, {})

/-- The end of an accepted frame: ACCEPTED is recorded with the flags of its writes, and a written HOST_CFG comes into
force (R271, R276). -/
def acceptFrame (x : State × WrFlags) : State :=
  releaseCfg { x.1 with
    hp.prev := 0, hp.ign := x.2.ign, hp.busy := x.2.busy, hp.denied := x.2.denied, hp.fault := x.2.fault }

theorem acceptFrame_prev (x : State × WrFlags) : (acceptFrame x).hp.prev = 0 := releaseCfg_prev _

/-- A frame whose length is right is accepted, unless one of its own writes resets the chip and the port with it. -/
theorem finishWrite_accepted (hlen : lengthOk s h l.length = true) :
    finishWrite s h l =
      if (releaseWrites s h l).1.pwr.wiped = false then (releaseWrites s h l).1 else acceptFrame (releaseWrites s h l) :=
  if_neg (by rw [hlen]; decide)

theorem finishWrite_prev (hlen : lengthOk s h l.length = true) (hwiped : (finishWrite s h l).pwr.wiped = true) :
    (finishWrite s h l).hp.prev = 0 := by
  rw [finishWrite_accepted hlen] at hwiped ⊢
  by_cases hreset : (releaseWrites s h l).1.pwr.wiped = false
  · rw [if_pos hreset, hreset] at hwiped
    exact absurd hwiped Bool.false_ne_true
  · rw [if_neg hreset, acceptFrame_prev]

theorem exec_writeFrame (hlong : 36 ≤ l.length) (hop : (hdrOf l).op = 2) (s : State) :
    exec (.writeFrame l) s = .next (frame s l []) := by
  change execWriteFrame l s = _
  rw [execWriteFrame, if_pos (by rw [frameOp_of_long hlong, hop])]

/-- Settles O55: the addresses of an incrementing frame do not wrap, an access beyond the end reads zero or writes nothing,
the trailer counts the words there, and no check asks where the words of an aligned WRITE lie. -/
theorem accessesBeyondTheEndAreHarmless : Obligations.AccessesBeyondTheEndAreHarmless := by
  unfold Obligations.AccessesBeyondTheEndAreHarmless
  refine ⟨?addresses, ?read, ?write, ?trailer, ?accepted, ?fixed⟩
  case addresses => exact fun h i hinc hi => addrs_getElem?_of_increment hinc hi
  case read => exact fun x a ha => word_beyond ha x
  case write => exact fun h l x i a ha => doWrite_beyond ha h l x i
  case trailer =>
    intro h u f hcount hop
    have hn : h.beyond < 2 ^ 14 := (beyond_le hcount).trans_lt (by decide)
    exact ⟨beyond_of_op hop, trailerWord_beyond hn u f, trailerWord_count hn u f⟩
  case accepted =>
    intro l s hserve hlong hop hreq hcheck hlen
    have hread : (hdrOf l).op ≠ 1 := by rw [hop]; decide
    refine ⟨_, exec_writeFrame hlong hop s, ?_⟩
    rw [frame_eq_finishWrite hserve hlong hread hreq hcheck]
    exact finishWrite_prev hlen
  case fixed => exact fun h hfix haddr heven => beyond_of_fixed hfix haddr heven

end Sys2Proof.Claims
end

section
/-! SUPPORT. A register of type RWC and its CLASP check (R296, R297), the chip reset that RESET_CTL makes (R311, R459), and
what a write of a register leaves at the host port's release (R271, R286). -/
namespace Sys2Proof.Claims
open Sys2Proof Sys2Proof.Machine

variable {s t : State} {x : Reg} {f : WrFlags} {level a : Nat} {v : Word}

theorem claspCheck_opened (h : s.hc.clasp = .opened) : claspCheck s = ({ s with hc.clasp := .shut }, true) := if_pos h

theorem claspCheck_missed (h : s.hc.clasp ≠ .opened) : claspCheck s = (s.postHost 0, false) := if_neg h

/-- A write of an RWC register that the session reaches consumes an open CLASP before it meets the register's unit. -/
theorem writeReg_rwc_opened (hpres : regPresent s x = true) (hden : writeDenied x level = false) (hkind : x.kind = .rwc)
    (hclasp : s.hc.clasp = .opened) (v : Word) :
    writeReg s level a x v = writeReach { s with hc.clasp := .shut } level a x v := by
  simp [writeReg, hpres, hden, hkind, claspCheck_opened hclasp]

/-- Without an open CLASP the write is ignored and posts the miss. -/
theorem writeReg_rwc_missed (hpres : regPresent s x = true) (hden : writeDenied x level = false) (hkind : x.kind = .rwc)
    (hclasp : s.hc.clasp ≠ .opened) (v : Word) : writeReg s level a x v = (s.postHost 0, wrIgn) := by
  simp [writeReg, hpres, hden, hkind, claspCheck_missed hclasp]

/-- RESET_CTL lies at 0x120 in both kinds of decoding (R310). -/
theorem locate_resetCtl (strict : Bool) : locate strict 0x120 = .host 0x120 := rfl

/-- The state in which RESET_CTL takes a write that has passed the CLASP check: CLASP consumed, the register's parity
fresh (R297, R303). -/
def resetCtlReached (s : State) : State := { s.parityFresh 0x120 with hc.clasp := .shut }

theorem writeAt_resetCtl_opened (hclasp : s.hc.clasp = .opened) (level : Nat) (v : Word) :
    writeAt s level 0x120 v = writeResetCtl (resetCtlReached s) level v := by
  rw [writeAt_eq_writeReg (locate_resetCtl _) rfl, writeReg_rwc_opened rfl rfl rfl hclasp]
  rfl

theorem writeAt_resetCtl_missed (hclasp : s.hc.clasp ≠ .opened) (level : Nat) (v : Word) :
    writeAt s level 0x120 v = (s.postHost 0, wrIgn) := by
  rw [writeAt_eq_writeReg (locate_resetCtl _) rfl, writeReg_rwc_missed rfl rfl rfl hclasp]

/-- Class 3 is permitted to the Vendor level, or by bit 3 of the level's row of the protection table (R422). -/
theorem mayResetChip_iff : mayResetChip s level = true ↔ level = 3 ∨ (protRow s.lk level).getLsbD 3 = true := by
  simp [mayResetChip]

theorem writeAt_resetCtl_permitted (hclasp : s.hc.clasp = .opened) (hperm : mayResetChip s level = true)
    (hbit : v.getLsbD 0 = true) : writeAt s level 0x120 v = (chipReset (resetCtlReached s) 4, {}) := by
  have hperm' : mayResetChip (resetCtlReached s) level = true := hperm
  rw [writeAt_resetCtl_opened hclasp]
  simp [writeResetCtl, bitOf, hperm', hbit]

theorem writeAt_resetCtl_denied (hclasp : s.hc.clasp = .opened) (hperm : mayResetChip s level = false) (v : Word) :
    writeAt s level 0x120 v = (resetCtlReached s, { denied := true }) :=
  (writeAt_resetCtl_opened hclasp level v).trans (if_pos hperm)

/-- Start-up step 1 changes only the pace sequencer. -/
theorem exists_release_eq (s : State) : ∃ p, release s = { s with pace := p } := by
  unfold release
  split
  · exact ⟨_, rfl⟩
  · exact ⟨s.pace, rfl⟩

/-- After a chip reset only the pace sequencer may differ from the state that the reset holds. -/
theorem exists_chipReset_eq (s : State) (cause : Nat) : ∃ p, chipReset s cause = { resetState s cause with pace := p } :=
  exists_release_eq _

/-- A cause that comes while no reset is held is latched as it is (R459). -/
theorem resetState_latch (hphase : s.pwr.phase ≠ .reset) (cause : Nat) : (resetState s cause).pwr.latch = cause :=
  if_neg fun h => hphase h.1

theorem noteFlags_denied (s : State) : noteFlags s { denied := true } = { s with hp.denied := true } := by
  simp [noteFlags]

theorem noteFlags_ign (s : State) : noteFlags s wrIgn = { s with hp.ign := true } := by simp [noteFlags]

/-- A write that keeps the port serving, with no HOST_CFG pending, leaves its state and its flags. -/
theorem portWrite_of_serves (hserves : Serves s) (hwrite : writeAt s s.sec.host a v = (t, f)) (hpwr : t.pwr = s.pwr)
    (hnext : t.hp.next = s.hp.next) : portWrite s a v = noteFlags t f := by
  obtain ⟨hport, hnone⟩ := hserves
  obtain ⟨hwiped, -⟩ := Bool.and_eq_true_iff.mp hport
  have hrelease : releaseCfg t = t := by simp [releaseCfg, hnext, hnone]
  simp [portWrite, hport, hwrite, hpwr, hwiped, hrelease]

/-- A write that resets the chip, and the port with it, reaches no release of its frame. -/
theorem portWrite_of_reset (hport : portServes s = true) (hwrite : writeAt s s.sec.host a v = (t, f))
    (hwiped : t.pwr.wiped = false) : portWrite s a v = t := by
  simp [portWrite, hport, hwrite, hwiped]

theorem exec_resetCtlWrite (v : Word) (s : State) : exec (.resetCtlWrite v) s = .next (portWrite s 0x120 v) := rfl

/-- Settles O52: an open CLASP is consumed before the session is judged by class 3; a permitted write then resets the chip, and
a denied one leaves only its report. A write without an open CLASP posts only the miss, bit 0 of the host's events
(CLASP_MISS, R312). -/
theorem resetCtlTakesClaspAndPermission : Obligations.ResetCtlTakesClaspAndPermission := by
  unfold Obligations.ResetCtlTakesClaspAndPermission
  refine ⟨?permitted, ?denied, ?missed⟩
  case permitted =>
    intro v s ⟨hport, _⟩ hclasp hperm hbit hphase
    have hwrite := writeAt_resetCtl_permitted hclasp (mayResetChip_iff.mpr hperm) hbit
    obtain ⟨p, hreset⟩ := exists_chipReset_eq (resetCtlReached s) 4
    rw [hreset] at hwrite
    rw [exec_resetCtlWrite, portWrite_of_reset hport hwrite rfl]
    exact ⟨_, rfl, rfl, resetState_latch (s := resetCtlReached s) hphase 4, rfl, rfl, rfl⟩
  case denied =>
    intro v s hserves hclasp hperm
    have hmay : mayResetChip s s.sec.host = false := Bool.eq_false_iff.mpr fun h => hperm (mayResetChip_iff.mp h)
    rw [exec_resetCtlWrite, portWrite_of_serves hserves (writeAt_resetCtl_denied hclasp hmay v) rfl rfl, noteFlags_denied]
    rfl
  case missed =>
    intro v s hserves hclasp
    rw [exec_resetCtlWrite, portWrite_of_serves hserves (writeAt_resetCtl_missed hclasp _ v) rfl rfl, noteFlags_ign]
    rfl

end Sys2Proof.Claims
end

section
/-! SUPPORT. What every row keeps: the remaining rows' `Keeps`, and one step of any state. -/
namespace Sys2Proof.Claims
open Sys2Proof Sys2Proof.Machine

/-- The outcome is a next state, and the change to it spoils nothing of what `Keeps` lists. -/
def KeepsNext (s : State) (o : Host.Outcome State Fault Refusal) : Prop := ∃ t, o = .next t ∧ Keeps s t

variable {s t : State} {tag op : Nat}

theorem KeepsNext.next (h : Keeps s t) : KeepsNext s (.next t) := ⟨t, rfl, h⟩

theorem KeepsNext.ite {a b : Host.Outcome State Fault Refusal} {c : Prop} [Decidable c] (ha : c → KeepsNext s a)
    (hb : ¬ c → KeepsNext s b) : KeepsNext s (if c then a else b) := by
  split
  · exact ha ‹_›
  · exact hb ‹_›

/-- What dispatch can do with a command: its own steps keep everything, and otherwise the body runs on a state so kept. -/
theorem hitan_cases {P : State → Prop} (s : State) (tag op : Nat) (body : State → Cmd → State)
    (hkeeps : ∀ t, Keeps s t → P t) (hbody : ∀ s' c, Keeps s s' → P (body s' c)) : P (hitan s tag op body) := by
  have h := Keeps.refl s
  unfold hitan hitanReach
  split
  · exact hkeeps _ h
  · split
    · exact hkeeps _ h
    · split
      · exact hkeeps _ (complete_keeps (unqueue_keeps h _) ..)
      · split
        · exact hkeeps _ (complete_keeps (unqueue_keeps h _) ..)
        · split
          · exact hkeeps _ (setCmd_keeps h ..)
          · split
            · exact hkeeps _ (.ite (fun _ => complete_keeps (setCmd_keeps h ..) ..) fun _ => setCmd_keeps h ..)
            · exact hbody _ _ (setCmd_keeps h ..)

theorem fwReads_keeps {s0 s : State} (h : Keeps s0 s) (level : Nat) (l : List Nat) : Keeps s0 (fwReads level l s).2.2 := by
  induction l generalizing s with
  | nil => exact h
  | cons a l ih => exact ih (readAt_keeps h true level a)

theorem fwWrites_keeps {s0 s : State} (h : Keeps s0 s) (level : Nat) (l : List (Nat × Word)) :
    Keeps s0 (fwWrites level l s).2.2.2.2 := by
  induction l generalizing s with
  | nil => exact h
  | cons x l ih =>
    obtain ⟨a, v⟩ := x
    have hw := writeAt_keeps h level a v
    simp only [fwWrites]
    split
    · exact hw
    · split
      · exact hw
      · exact ih (releaseCfg_keeps hw)

theorem execRegRead_keeps (tag : Nat) (s : State) : KeepsNext s (execRegRead tag s) := by
  refine .next (hitan_keeps (.refl s) _ _ _ fun s' c h => ?_)
  dsimp only
  split
  · exact complete_keeps h ..
  · split
    · exact complete_keeps h ..
    · exact streamOut_keeps (fwReads_keeps h ..) ..

theorem execRegWrite_keeps (tag : Nat) (s : State) : KeepsNext s (execRegWrite tag s) := by
  refine .next (hitan_keeps (.refl s) _ _ _ fun s' c h => ?_)
  dsimp only
  split
  · exact complete_keeps h ..
  · exact complete_keeps (mirrorNamed_keeps (fwWrites_keeps h ..) ..) ..

theorem execLoupe_keeps (tag : Nat) (s : State) : KeepsNext s (execLoupe tag s) := by
  refine .next (hitan_keeps (.refl s) _ _ _ fun s' c h => ?_)
  dsimp only
  split <;> exact streamOut_keeps (fwReads_keeps h ..) ..

/-- A mailbox that takes an untagged record has room for it. -/
theorem cqFree_of_cqAccepts (h : cqAccepts s = true) : 0 < cqFree s := by
  simp only [cqAccepts, Bool.and_eq_true, decide_eq_true_eq] at h
  exact h.1

theorem execHeldRecordPost_keeps (acq : Bool) (i : Nat) (s : State) : KeepsNext s (execHeldRecordPost acq i s) := by
  unfold execHeldRecordPost
  split <;> split
  · exact .next (.refl s)
  · split
    · exact .next (Keeps.updAcq (cqPush_keeps (.refl s) _ (cqFree_of_cqAccepts ‹_›)) _ _ fun _ h => h)
    · exact .next (.refl s)
  · exact .next (.refl s)
  · split
    · exact .next (Keeps.updCell (cqPush_keeps (.refl s) _ (cqFree_of_cqAccepts ‹_›)) _ _)
    · exact .next (.refl s)

theorem execProtSet_keeps (tag : Nat) (s : State) : KeepsNext s (execProtSet tag s) := by
  refine .next (secure_keeps (.refl s) _ _ _ fun s' c h => ?_)
  dsimp only
  split
  · exact complete_keeps h ..
  · obtain ⟨hfactory, hlc, hepoch⟩ := setProt_keeps s'.lk (fld (c.arg 0) 0 2)
      (if fld (c.arg 0) 0 2 = 2 then BitVec.ofNat 32 (fld (c.arg 1) 0 16 * 2 ^ 16 + fld (c.arg 2) 0 16) ||| 0x07000000
        else BitVec.ofNat 32 (fld (c.arg 1) 0 16 * 2 ^ 16 + fld (c.arg 2) 0 16))
    exact complete_keeps (.lit' s' h rfl hfactory hlc id id id id id id id id (hepoch ▸ le_refl _)) ..

theorem foldl_takeMeas_keeps {s0 s : State} (h : Keeps s0 s) (B point : Nat) (l : List Meas) (n m : Nat) :
    Keeps s0 (l.foldl (takeMeas B point) (s, n, m)).1 :=
  Keeps.foldl_fst h fun _ m h => takeMeas_keeps h B point _ h m

theorem execCalUnitMeasured_keeps (b : Nat) (pinOk : Bool) (meas : List Meas) (s : State) :
    KeepsNext s (execCalUnitMeasured b pinOk meas s) := by
  unfold execCalUnitMeasured
  split
  · exact .next (.refl s)
  · split
    · exact .next (.refl s)
    · split
      · exact .next (.refl s)
      · extract_lets refuse mine a runs cal s1
        have ha : Keeps s a.1 := foldl_takeMeas_keeps (.refl s) ..
        clear_value a
        have h : Keeps s s1 := .lit rfl ha
        clear_value s1
        split
        · exact .next (seat_keeps h ..)
        · split
          · exact .next (maintDone_keeps h _)
          · exact .next (calUnitEnd_keeps h ..)

theorem execCalImportTh64_keeps (tag : Nat) (s : State) : KeepsNext s (execCalImportTh64 tag s) := by
  refine .next (hitan_keeps (.refl s) _ _ _ fun s' c h => ?_)
  extract_lets r st drop
  have hdrop : Keeps s drop := Keeps.updMem h _ _
  clear_value drop
  split
  · exact complete_keeps h ..
  · split
    · exact complete_keeps hdrop ..
    · split
      · exact complete_keeps (Keeps.updMem h _ _) ..
      · split
        · exact complete_keeps hdrop ..
        · exact complete_keeps (Keeps.foldl_fst (s := (drop, 0, 0)) hdrop fun acc x h => importTh64_keeps h ..) ..

theorem execProgLoad_keeps (tag : Nat) (s : State) : KeepsNext s (execProgLoad tag s) := by
  refine .next (hitan_keeps (.refl s) _ _ _ fun s' c h => ?_)
  dsimp only
  split
  · exact complete_keeps h ..
  · split
    · exact complete_keeps h ..
    · exact complete_keeps (Keeps.with_hopTab (clearBad_keeps h 10 _ _) _ fun k => tabWf_tabPut _ _ k) ..

theorem execPartitionComplete_keeps (r : Nat) (s : State) : KeepsNext s (execPartitionComplete r s) := by
  unfold execPartitionComplete
  split
  · exact .next (.refl s)
  · refine .next (complete_keeps (Keeps.updMem ?_ _ _) _ _ _)
    exact .lit' s (.refl s) rfl rfl rfl id (fun k => tabWf_tabDrop _ k) id id id id id id (le_refl _)

/-- The antifuse bank with one entry written, and nothing else that `Keeps` looks at, changed. -/
theorem keeps_fuse (s : State) (k : Nat) (e : BitVec 32) : Keeps s { s with bist.fuse := tabSet 0 s.bist.fuse k e } :=
  .lit' s (.refl s) rfl rfl rfl id id id (fun h => tabWf_tabSet _ _ h) id id id id (le_refl _)

theorem keeps_burn {s0 s : State} (h : Keeps s0 s) (b : Option (Nat × List (BitVec 32) × Option Nat)) :
    Keeps s0 { s with bist.burn := b } := .lit rfl h

theorem execFuseEntryBurned_keeps (ok : Bool) (s : State) : KeepsNext s (execFuseEntryBurned ok s) := by
  unfold execFuseEntryBurned
  split
  · exact .next (.refl s)
  · exact .next (.lit rfl (.refl s))
  · have h := keeps_fuse s (fuseUsed s) ‹_›
    dsimp only
    split
    · exact .next (complete_keeps (keeps_burn h _) ..)
    · split
      · exact .next (keeps_burn h _)
      · refine .next (complete_keeps (keeps_burn ?_ _) ..)
        split
        · exact h
        · exact Keeps.updBlock h _ _

theorem execTunnelDeliver_keeps (s : State) : KeepsNext s (execTunnelDeliver s) := by
  unfold execTunnelDeliver
  split
  · exact .next (.refl s)
  · split
    · exact .next (.refl s)
    · split
      · rename_i hparse
        have h := hparse ▸ parseBatch_keeps true _ _ s (.refl s)
        exact .next (.lit rfl h)
      · exact .next (.refl s)

theorem execMpRestart_keeps (s : State) : KeepsNext s (execMpRestart s) := by
  unfold execMpRestart
  split
  · exact .next (.refl s)
  · extract_lets s1 s2 mbx s3
    have h2 : Keeps s s2 := abortCmds_keeps (bistRestart_keeps (calRestart_keeps (.refl s))) _
    clear_value s2
    have h3 : Keeps s s3 := untag_keeps (.lit' s2 h2 rfl rfl rfl id id id id id (fun k => by simpa using k) id id (le_refl _))
    clear_value s3
    refine .next (State.postMbx_keeps (paceRelease_keeps ?_) _)
    exact .ite (fun _ => drainFifo_keeps h3) fun _ => h3

/-- What `Keeps` says, but for the life cycle, which may have advanced by one state. -/
structure Advances (s t : State) : Prop where
  fuses : t.fuses = s.fuses
  factory : t.lk.factory = s.lk.factory
  lc_le : s.lk.lc ≤ t.lk.lc
  lc_le_succ : t.lk.lc ≤ s.lk.lc + 1
  epoch : s.lk.minEpoch.toNat ≤ t.lk.minEpoch.toNat
  mem : s.memWf → t.memWf
  log : s.logWf → t.logWf
  cq : s.cqWf → t.cqWf

theorem Advances.of_keeps (h : Keeps s t) : Advances s t :=
  ⟨h.fuses, h.factory, h.lc.ge, h.lc.le.trans (Nat.le_succ _), h.epoch, h.mem, h.log, h.cq⟩

/-- One step of the life cycle, between changes that keep it. -/
theorem Advances.of_next_lc {s' : State} (h : Keeps s s') (k : Keeps { s' with lk.lc := s'.lk.lc + 1 } t) : Advances s t where
  fuses := k.fuses.trans h.fuses
  factory := k.factory.trans h.factory
  lc_le := (h.lc.ge.trans (Nat.le_succ _)).trans k.lc.ge
  lc_le_succ := k.lc.le.trans (Nat.succ_le_succ h.lc.le)
  epoch := h.epoch.trans k.epoch
  mem := fun x => k.mem (h.mem x)
  log := fun x => k.log (h.log x)
  cq := fun x => k.cq (h.cq x)

/-- LIFECYCLE_SET is the one row that moves the life cycle, and it moves it to the next state alone (R418). -/
theorem exists_execLifecycleSet_advances (tag : Nat) (s : State) : ∃ t, execLifecycleSet tag s = .next t ∧ Advances s t := by
  refine ⟨_, rfl, ?_⟩
  refine hitan_cases s tag 0x088 _ (fun _ => .of_keeps) fun s' c h => ?_
  · dsimp only
    split
    · exact .of_keeps (complete_keeps h ..)
    · split
      · exact .of_keeps (complete_keeps h ..)
      · split
        · exact .of_keeps (complete_keeps h ..)
        · rename_i htarget _
          rw [not_not.mp htarget]
          have hw : Keeps { s' with lk.lc := s'.lk.lc + 1 } (wipeLocket { s' with lk.lc := s'.lk.lc + 1, lk.wipe := true, sec.wiping := some (some tag, none) }) :=
            wipeLocket_keeps (.lit rfl (.refl _))
          exact .of_next_lc h (.ite (fun _ => disableAll_keeps hw) fun _ => hw)

/-! The rows whose change is one of the shared operations, or a few of them in the branches of its rule. -/

theorem execCellCtlEnSet_keeps (p : Nat) (v : Word) (s : State) : KeepsNext s (execCellCtlEnSet p v s) :=
  .next (directWrite_keeps (.refl s) _ _ _ (fun _ _ h => writeCellCtl_keeps h ..))

theorem execCellCtlEnClear_keeps (p : Nat) (v : Word) (s : State) : KeepsNext s (execCellCtlEnClear p v s) :=
  .next (directWrite_keeps (.refl s) _ _ _ (fun _ _ h => writeCellCtl_keeps h ..))

theorem execCellCtlOutEnSet_keeps (p : Nat) (v : Word) (s : State) : KeepsNext s (execCellCtlOutEnSet p v s) :=
  .next (directWrite_keeps (.refl s) _ _ _ (fun _ _ h => writeCellCtl_keeps h ..))

theorem execCellCtlOutEnClear_keeps (p : Nat) (v : Word) (s : State) : KeepsNext s (execCellCtlOutEnClear p v s) :=
  .next (directWrite_keeps (.refl s) _ _ _ (fun _ _ h => writeCellCtl_keeps h ..))

theorem execCellCtlMuteSet_keeps (p : Nat) (v : Word) (s : State) : KeepsNext s (execCellCtlMuteSet p v s) :=
  .next (directWrite_keeps (.refl s) _ _ _ (fun _ _ h => writeCellCtl_keeps h ..))

theorem execCellCtlMuteClear_keeps (p : Nat) (v : Word) (s : State) : KeepsNext s (execCellCtlMuteClear p v s) :=
  .next (directWrite_keeps (.refl s) _ _ _ (fun _ _ h => writeCellCtl_keeps h ..))

theorem execCellCtlHoldSet_keeps (p : Nat) (v : Word) (s : State) : KeepsNext s (execCellCtlHoldSet p v s) :=
  .next (directWrite_keeps (.refl s) _ _ _ (fun _ _ h => writeCellCtl_keeps h ..))

theorem execCellCtlHoldClear_keeps (p : Nat) (v : Word) (s : State) : KeepsNext s (execCellCtlHoldClear p v s) :=
  .next (directWrite_keeps (.refl s) _ _ _ (fun _ _ h => writeCellCtl_keeps h ..))

theorem execFcwIntCommit_keeps (p : Nat) (v : Word) (s : State) : KeepsNext s (execFcwIntCommit p v s) :=
  .next (directWrite_keeps (.refl s) _ _ _ (fun _ _ h => writeFcw_keeps h ..))

theorem execLowDivCommit_keeps (p : Nat) (v : Word) (s : State) : KeepsNext s (execLowDivCommit p v s) :=
  .next (directWrite_keeps (.refl s) _ _ _ (fun _ _ h => writeLowDiv_keeps h ..))

theorem execPhaseHiCommit_keeps (p : Nat) (v : Word) (s : State) : KeepsNext s (execPhaseHiCommit p v s) :=
  .next (directWrite_keeps (.refl s) _ _ _ (fun _ _ h => writePhaseHi_keeps h ..))

theorem execOutCfgWrite_keeps (p : Nat) (v : Word) (s : State) : KeepsNext s (execOutCfgWrite p v s) :=
  .next (directWrite_keeps (.refl s) _ _ _ (fun _ _ h => writeOutCfg_keeps h ..))

theorem execLoopBwWrite_keeps (p : Nat) (v : Word) (s : State) : KeepsNext s (execLoopBwWrite p v s) :=
  .next (directWrite_keeps (.refl s) _ _ _ (fun _ _ h => writeLoopBw_keeps h ..))

theorem execLockThrWrite_keeps (p : Nat) (v : Word) (s : State) : KeepsNext s (execLockThrWrite p v s) :=
  .next (directWrite_keeps (.refl s) _ _ _ (fun _ _ h => writeLockThr_keeps h ..))

theorem execLockCntWrite_keeps (p : Nat) (v : Word) (s : State) : KeepsNext s (execLockCntWrite p v s) :=
  .next (directWrite_keeps (.refl s) _ _ _ (fun _ _ h => writeLockCnt_keeps h ..))

theorem execBandSearchEnd_keeps (p : Nat) (found : Bool) (band : BitVec 7) (fine : Word) (s : State) : KeepsNext s
    (execBandSearchEnd p found band fine s) := by
  unfold execBandSearchEnd
  dsimp only
  with_reducible repeat' first
    | exact Keeps.refl _ | assumption | intro _ | apply KeepsNext.next | apply bandChosen_keeps | apply Keeps.updCell
    | apply loseLock_keeps | apply Keeps.ite | exact Keeps.lit rfl ‹_› | split

theorem execBandSwitchSettled_keeps (p : Nat) (s : State) : KeepsNext s (execBandSwitchSettled p s) :=
  .ite (fun _ => .next (bandChosen_keeps (Keeps.updCell (.refl s) ..) ..)) fun _ => .next (.refl s)

theorem execGearPeriodEnd_keeps (p : Nat) (s : State) : KeepsNext s (execGearPeriodEnd p s) := .next (gearEnd_keeps (.refl s) ..)

theorem execSlewPeriod_keeps (p : Nat) (s : State) : KeepsNext s (execSlewPeriod p s) := .next (slewPeriod_keeps (.refl s) ..)

theorem execDividerChangeover_keeps (p : Nat) (s : State) : KeepsNext s (execDividerChangeover p s) :=
  .next (dividerChange_keeps (.refl s) ..)

theorem execHopRetime_keeps (p : Nat) (s : State) : KeepsNext s (execHopRetime p s) := .next (hopRetime_keeps (.refl s) ..)

theorem execRetimeFirstRise_keeps (p : Nat) (s : State) : KeepsNext s (execRetimeFirstRise p s) :=
  .next (retimeRise_keeps (.refl s) ..)

theorem execToutMuteAtFall_keeps (p : Nat) (s : State) : KeepsNext s (execToutMuteAtFall p s) :=
  .next (muteAtFall_keeps (.refl s) ..)

theorem execToutActiveAtAnchor_keeps (p : Nat) (s : State) : KeepsNext s (execToutActiveAtAnchor p s) :=
  .next (toutActive_keeps (.refl s) ..)

theorem execToutDisableDelay_keeps (p : Nat) (s : State) : KeepsNext s (execToutDisableDelay p s) :=
  .next (toutDisable_keeps (.refl s) ..)

theorem execLockDeclared_keeps (p : Nat) (fine pherr : Word) (s : State) : KeepsNext s (execLockDeclared p fine pherr s) :=
  .ite (fun _ => .next (lockNow_keeps (Keeps.updCell (.refl s) ..) ..)) fun _ => .next (.refl s)

theorem execLockLoss_keeps (p : Nat) (pherr : Word) (s : State) : KeepsNext s (execLockLoss p pherr s) :=
  .ite (fun _ => .next (loseLock_keeps (Keeps.updCell (.refl s) ..) ..)) fun _ => .next (.refl s)

theorem execFineCodeRail_keeps (p : Nat) (fine : Word) (s : State) : KeepsNext s (execFineCodeRail p fine s) :=
  .ite (fun _ => .next (.refl s)) fun _ => .next (railCheck_keeps (Keeps.updCell (.refl s) ..) ..)

theorem execAcqTimeout_keeps (p : Nat) (s : State) : KeepsNext s (execAcqTimeout p s) := .next (acqTimeout_keeps (.refl s) ..)

theorem execRelockFail_keeps (p : Nat) (s : State) : KeepsNext s (execRelockFail p s) := .next (relockTimeout_keeps (.refl s) ..)

theorem execHintStale_keeps (p : Nat) (s : State) : KeepsNext s (execHintStale p s) := .next (hintStale_keeps (.refl s) ..)

theorem execDrvFault_keeps (p : Nat) (legs : BitVec 2) (s : State) : KeepsNext s (execDrvFault p legs s) :=
  .ite (fun _ => .ite (fun _ => .next (.refl s)) fun _ => .next (causeE_keeps (Keeps.updCell (.refl s) ..) ..)) fun _ => .next
    (.refl s)

theorem execProfileFetchComplete_keeps (p : Nat) (soft : Bool) (s : State) : KeepsNext s (execProfileFetchComplete p soft s)
    := by
  unfold execProfileFetchComplete
  with_reducible repeat' first
    | exact Keeps.refl _ | assumption | intro _ | apply KeepsNext.next | apply hostFetched_keeps | apply softProfile_keeps
    | apply engFetched_keeps | apply Keeps.ite | exact Keeps.lit rfl ‹_› | split

theorem execHopEffectEdge_keeps (p : Nat) (s : State) : KeepsNext s (execHopEffectEdge p s) := .next (hopEdge_keeps (.refl s) ..)

theorem execLearnWriteback_keeps (p : Nat) (s : State) : KeepsNext s (execLearnWriteback p s) :=
  .next (learnDone_keeps (.refl s) ..)

theorem execMbxPushWrite_keeps (w : Word) (s : State) : KeepsNext s (execMbxPushWrite w s) :=
  .next (.ite (fun _ => pushWord_keeps (.refl s) ..) fun _ => .refl s)

theorem execMbxDoorbellWrite_keeps (w : Word) (s : State) : KeepsNext s (execMbxDoorbellWrite w s) :=
  .next (.ite (fun _ => ringDoorbell_keeps (.refl s) ..) fun _ => .refl s)

theorem execBatchParse_keeps (s : State) : KeepsNext s (execBatchParse s) := .next (parseAll_keeps (.refl s) ..)

theorem execParseResume_keeps (s : State) : KeepsNext s (execParseResume s) :=
  .next (.ite (fun _ => parseAll_keeps (.refl s) ..) fun _ => .refl s)

theorem execContinuationResume_keeps (tag : Nat) (s : State) : KeepsNext s (execContinuationResume tag s) :=
  .next (pump_keeps (.refl s) ..)

theorem execUnknownOpcode_keeps (tag : Nat) (s : State) : KeepsNext s (execUnknownOpcode tag s) := by
  unfold execUnknownOpcode
  with_reducible repeat' first
    | exact Keeps.refl _ | assumption | intro _ | apply KeepsNext.next | apply complete_keeps | apply Keeps.ite
    | exact Keeps.lit rfl ‹_› | split

theorem execDeadlineExpiry_keeps (tag : Nat) (s : State) : KeepsNext s (execDeadlineExpiry tag s) := by
  unfold execDeadlineExpiry
  with_reducible repeat' first
    | exact Keeps.refl _ | assumption | intro _ | apply KeepsNext.next | apply complete_keeps | apply unqueue_keeps
    | apply Keeps.ite | exact Keeps.lit rfl ‹_› | split

theorem execMbxPopRead_keeps (s : State) : KeepsNext s (execMbxPopRead s) :=
  .next (.ite (fun _ => popStep_keeps (.refl s)) fun _ => .refl s)

theorem execCoalesceAgeExpiry_keeps (s : State) : KeepsNext s (execCoalesceAgeExpiry s) :=
  .next (.ite (fun _ => .lit rfl (.refl s)) fun _ => .refl s)

theorem execEvinCtlWrite_keeps (i : Nat) (v : Word) (s : State) : KeepsNext s (execEvinCtlWrite i v s) :=
  .next (evinWrite_keeps (.refl s) ..)

theorem execThresholdWrite_keeps (i : Nat) (hi : Bool) (v : Word) (s : State) : KeepsNext s (execThresholdWrite i hi v s) :=
  .next (evinWrite_keeps (.refl s) ..)

theorem execEvinEnableSettle_keeps (i : Nat) (s : State) : KeepsNext s (execEvinEnableSettle i s) :=
  .next (.ite (fun _ => Keeps.updEvin (.refl s) ..) fun _ => .refl s)

theorem execTriggerQuietTime_keeps (r slot n : Nat) (s : State) : KeepsNext s (execTriggerQuietTime r slot n s) :=
  .ite (fun _ => .next (runTo_keeps (.refl s) ..)) fun _ => .next (.refl s)

theorem execTrigRegisterWrite_keeps (r off : Nat) (v : Word) (s : State) : KeepsNext s (execTrigRegisterWrite r off v s) :=
  .next (.ite (fun _ => acqWrite_keeps (.refl s) ..) fun _ => .refl s)

theorem execAcqCtlArm_keeps (r : Nat) (v : Word) (s : State) : KeepsNext s (execAcqCtlArm r v s) :=
  .next (acqWrite_keeps (.refl s) ..)

theorem execAcqCtlStop_keeps (r : Nat) (s : State) : KeepsNext s (execAcqCtlStop r s) := .next (acqWrite_keeps (.refl s) ..)

theorem execAcqStartEdge_keeps (r : Nat) (s : State) : KeepsNext s (execAcqStartEdge r s) := .next (acqStart_keeps (.refl s) ..)

theorem execPostTimeExpiry_keeps (r : Nat) (s : State) : KeepsNext s (execPostTimeExpiry r s) := by
  unfold execPostTimeExpiry
  dsimp only
  with_reducible repeat' first
    | exact Keeps.refl _ | assumption | intro _ | apply KeepsNext.next | apply postOver_keeps | apply runTo_keeps
    | apply Keeps.ite | exact Keeps.lit rfl ‹_› | split

theorem execRearmEnd_keeps (r : Nat) (s : State) : KeepsNext s (execRearmEnd r s) := .next (acqReopen_keeps (.refl s) ..)

theorem execGapClose_keeps (r slot : Nat) (s : State) : KeepsNext s (execGapClose r slot s) :=
  .ite (fun _ => .next (runTo_keeps (.refl s) ..)) fun _ => .next (.refl s)

theorem execStreamPacketSend_keeps (r : Nat) (s : State) : KeepsNext s (execStreamPacketSend r s) := by
  unfold execStreamPacketSend
  dsimp only
  with_reducible repeat' first
    | exact Keeps.refl _ | assumption | intro _ | apply KeepsNext.next | apply State.postPort_keeps | apply Keeps.updPort
    | apply sendBlock_keeps | apply Keeps.updAcq | apply meetBeads_keeps | apply meetHeader_keeps | apply Keeps.ite
    | exact Keeps.lit rfl ‹_› | split

theorem execEvinConfig_keeps (tag : Nat) (s : State) : KeepsNext s (execEvinConfig tag s) := by
  unfold execEvinConfig
  dsimp only
  with_reducible repeat' first
    | exact Keeps.refl _ | assumption | intro _ | apply KeepsNext.next | apply hitan_keeps | apply complete_keeps
    | apply forAll_keeps | apply writeEvinCtl_keeps | apply Keeps.updEvin | apply Keeps.ite

theorem execTrigConfig_keeps (tag : Nat) (s : State) : KeepsNext s (execTrigConfig tag s) := by
  unfold execTrigConfig
  dsimp only
  with_reducible repeat' first
    | exact Keeps.refl _ | assumption | intro _ | apply KeepsNext.next | apply hitan_keeps | apply complete_keeps
    | apply setTrig_keeps | apply Keeps.updAcq | apply Keeps.ite

theorem execAcqArm_keeps (tag : Nat) (s : State) : KeepsNext s (execAcqArm tag s) := by
  unfold execAcqArm
  dsimp only
  with_reducible repeat' first
    | exact Keeps.refl _ | assumption | intro _ | apply KeepsNext.next | apply hitan_keeps | apply complete_keeps
    | apply Keeps.updAcq | apply acqArm_keeps | apply Keeps.ite

theorem execAcqStop_keeps (tag : Nat) (s : State) : KeepsNext s (execAcqStop tag s) :=
  .next (hitan_keeps (.refl s) _ _ _ (fun _ _ h => complete_keeps (acqStop_keeps h ..) ..))

theorem execAcqRead_keeps (tag : Nat) (soft : Bool) (s : State) : KeepsNext s (execAcqRead tag soft s) := by
  unfold execAcqRead
  dsimp only
  with_reducible repeat' first
    | exact Keeps.refl _ | assumption | intro _ | apply KeepsNext.next | apply hitan_keeps | apply complete_keeps
    | apply corrected_keeps | apply meetBeads_keeps | apply meetHeader_keeps | apply completeWith_keeps | apply Keeps.ite

theorem execAcqStream_keeps (tag : Nat) (s : State) : KeepsNext s (execAcqStream tag s) := by
  unfold execAcqStream
  dsimp only
  with_reducible repeat' first
    | exact Keeps.refl _ | assumption | intro _ | apply KeepsNext.next | apply hitan_keeps | apply complete_keeps
    | apply Keeps.updAcq | apply Keeps.ite

theorem execArbiterGrant_keeps (b : Nat) (s : State) : KeepsNext s (execArbiterGrant b s) := by
  unfold execArbiterGrant
  dsimp only
  with_reducible repeat' first
    | exact Keeps.refl _ | assumption | intro _ | apply KeepsNext.next | apply Keeps.updBlock | apply grantCal_keeps
    | apply grantOnline_keeps | apply grantOffline_keeps | apply Keeps.ite | exact Keeps.lit rfl ‹_› | split

theorem execChangeoverEdge_keeps (b : Nat) (s : State) : KeepsNext s (execChangeoverEdge b s) :=
  .next (changeover_keeps (.refl s) ..)

theorem execSelectorSwitch_keeps (b : Nat) (s : State) : KeepsNext s (execSelectorSwitch b s) :=
  .next (selectorSwitch_keeps (.refl s) ..)

theorem execSeatingTimeout_keeps (b : Nat) (s : State) : KeepsNext s (execSeatingTimeout b s) :=
  .next (seatExpired_keeps (.refl s) ..)

theorem execSessionOpen_keeps (tag : Nat) (s : State) : KeepsNext s (execSessionOpen tag s) := by
  unfold execSessionOpen
  dsimp only
  with_reducible repeat' first
    | exact Keeps.refl _ | assumption | intro _ | apply KeepsNext.next | apply secure_keeps | apply complete_keeps
    | apply openOperator_keeps | apply openStep0_keeps | apply openStepSig_keeps | apply Keeps.ite

theorem execPinFailDelayEnd_keeps (s : State) : KeepsNext s (execPinFailDelayEnd s) := by
  unfold execPinFailDelayEnd
  dsimp only
  with_reducible repeat' first
    | exact Keeps.refl _ | assumption | intro _ | apply KeepsNext.next | apply complete_keeps | apply Keeps.ite
    | exact Keeps.lit rfl ‹_› | split | refine Keeps.lit rfl ?_

theorem execChallengeExpiry_keeps (s : State) : KeepsNext s (execChallengeExpiry s) := .next (dropChallenge_keeps (.refl s))

theorem execSessionEnd_keeps (tag : Nat) (s : State) : KeepsNext s (execSessionEnd tag s) :=
  .next (secure_keeps (.refl s) _ _ _ (fun _ _ h => complete_keeps (dropChallenge_keeps (setSession_keeps h ..)) ..))

theorem execPinSet_keeps (tag : Nat) (s : State) : KeepsNext s (execPinSet tag s) := by
  unfold execPinSet
  dsimp only
  with_reducible repeat' first
    | exact Keeps.refl _ | assumption | intro _ | apply KeepsNext.next | apply secure_keeps | apply complete_keeps
    | apply Keeps.ite | exact Keeps.lit rfl ‹_›

theorem execProtRead_keeps (tag : Nat) (s : State) : KeepsNext s (execProtRead tag s) :=
  .next (secure_keeps (.refl s) _ _ _ (fun _ _ h => .ite (fun _ => complete_keeps h ..) fun _ => complete_keeps h ..))

theorem execIdRead_keeps (tag : Nat) (s : State) : KeepsNext s (execIdRead tag s) :=
  .next (hitan_keeps (.refl s) _ _ _ (fun _ _ h => streamOut_keeps h ..))

theorem execCertRead_keeps (tag : Nat) (s : State) : KeepsNext s (execCertRead tag s) :=
  .next (secure_keeps (.refl s) _ _ _ (fun _ _ h => streamOut_keeps h ..))

theorem execOwnerTransfer_keeps (tag : Nat) (s : State) : KeepsNext s (execOwnerTransfer tag s) := by
  unfold execOwnerTransfer
  dsimp only
  with_reducible repeat' first
    | exact Keeps.refl _ | assumption | intro _ | apply KeepsNext.next | apply secure_keeps | apply complete_keeps
    | apply wipeLocket_keeps | apply Keeps.ite | exact Keeps.lit rfl ‹_›

theorem execLifecycleWipeDone_keeps (ok : Bool) (s : State) : KeepsNext s (execLifecycleWipeDone ok s) := by
  unfold execLifecycleWipeDone
  dsimp only
  with_reducible repeat' first
    | exact Keeps.refl _ | assumption | intro _ | apply KeepsNext.next | apply endVendor_keeps | apply eraseUserArea_keeps
    | apply complete_keeps | apply startUpWiped_keeps | apply faultChip_keeps | apply Keeps.ite | exact Keeps.lit rfl ‹_›
    | split | refine Keeps.lit rfl ?_

theorem execHoursTick_keeps (s : State) : KeepsNext s (execHoursTick s) :=
  .next (.ite (fun _ => .refl s) fun _ => .lit rfl (.refl s))

theorem execCalRun_keeps (tag : Nat) (s : State) : KeepsNext s (execCalRun tag s) := by
  unfold execCalRun
  dsimp only
  with_reducible repeat' first
    | exact Keeps.refl _ | assumption | intro _ | apply KeepsNext.next | apply hitan_keeps | apply complete_keeps
    | apply calFinish_keeps | apply forAll_keeps | apply Keeps.updBlock | apply Keeps.ite | exact Keeps.lit rfl ‹_›

theorem execCalStatus_keeps (tag : Nat) (s : State) : KeepsNext s (execCalStatus tag s) :=
  .next (hitan_keeps (.refl s) _ _ _ (fun _ _ h => complete_keeps h ..))

theorem execCalCommit_keeps (tag : Nat) (s : State) : KeepsNext s (execCalCommit tag s) := by
  unfold execCalCommit
  dsimp only
  with_reducible repeat' first
    | exact Keeps.refl _ | assumption | intro _ | apply KeepsNext.next | apply secure_keeps | apply complete_keeps
    | apply setBank_keeps | apply Keeps.ite | exact Keeps.lit rfl ‹_› | split | refine Keeps.lit rfl ?_

theorem execCalCommitWritten_keeps (ok : Bool) (s : State) : KeepsNext s (execCalCommitWritten ok s) := by
  unfold execCalCommitWritten
  dsimp only
  with_reducible repeat' first
    | exact Keeps.refl _ | assumption | intro _ | apply KeepsNext.next | apply setBank_keeps | apply complete_keeps
    | apply Keeps.ite | exact Keeps.lit rfl ‹_› | split | refine Keeps.lit rfl ?_

theorem execCalDeferredApply_keeps (r : Nat) (s : State) : KeepsNext s (execCalDeferredApply r s) := by
  unfold execCalDeferredApply
  with_reducible repeat' first
    | exact Keeps.refl _ | assumption | intro _ | apply KeepsNext.next | apply forAll_keeps | apply loadCell_keeps
    | apply Keeps.ite | exact Keeps.lit rfl ‹_› | split

theorem execCalApplicationEdge_keeps (r : Nat) (s : State) : KeepsNext s (execCalApplicationEdge r s) :=
  .next (applicationEdge_keeps (.refl s) ..)

theorem execCalExport_keeps (tag : Nat) (s : State) : KeepsNext s (execCalExport tag s) := by
  unfold execCalExport
  dsimp only
  with_reducible repeat' first
    | exact Keeps.refl _ | assumption | intro _ | apply KeepsNext.next | apply secure_keeps | apply streamOut_keeps
    | apply complete_keeps | apply Keeps.ite

theorem execRcWindowEnd_keeps (count : Nat) (s : State) : KeepsNext s (execRcWindowEnd count s) := by
  unfold execRcWindowEnd
  dsimp only
  with_reducible repeat' first
    | exact Keeps.refl _ | assumption | intro _ | apply KeepsNext.next | apply xoGained_keeps | apply xoLose_keeps
    | apply Keeps.ite | exact Keeps.lit rfl ‹_› | split | refine Keeps.lit rfl ?_

theorem execRefinWindowEnd_keeps (count256 : Nat) (s : State) : KeepsNext s (execRefinWindowEnd count256 s) := by
  unfold execRefinWindowEnd
  dsimp only
  with_reducible repeat' first
    | exact Keeps.refl _ | assumption | intro _ | apply KeepsNext.next | apply qualNotify_keeps | apply sourceLost_keeps
    | apply refMoved_keeps | apply Keeps.ite | exact Keeps.lit rfl ‹_› | split | refine Keeps.lit rfl ?_

theorem execUplinkWindowEnd_keeps (count256 : Nat) (s : State) : KeepsNext s (execUplinkWindowEnd count256 s) := by
  unfold execUplinkWindowEnd
  dsimp only
  with_reducible repeat' first
    | exact Keeps.refl _ | assumption | intro _ | apply KeepsNext.next | apply sourceLost_keeps | apply uplinkSelect_keeps
    | apply refMoved_keeps | apply Keeps.ite | exact Keeps.lit rfl ‹_› | split | refine Keeps.lit rfl ?_

theorem execActivityMonitorFire_keeps (src : Nat) (s : State) : KeepsNext s (execActivityMonitorFire src s) := by
  unfold execActivityMonitorFire
  dsimp only
  with_reducible repeat' first
    | exact Keeps.refl _ | assumption | intro _ | apply KeepsNext.next | apply monitorFires_keeps | apply xoLose_keeps
    | apply qualNotify_keeps | apply Keeps.ite | exact Keeps.lit rfl ‹_› | split | refine Keeps.lit rfl ?_

theorem execRefinCfgWrite_keeps (v : Word) (s : State) : KeepsNext s (execRefinCfgWrite v s) :=
  .next (chipWrite_keeps (.refl s) _ _ (fun _ h => writeRefinCfg_keeps h ..))

theorem execRefinFreqCommit_keeps (hi : Word) (s : State) : KeepsNext s (execRefinFreqCommit hi s) :=
  .next (chipWrite_keeps (.refl s) _ _ (fun _ h => .ite (fun _ => commitRefin_keeps h ..) fun _ => .lit rfl (commitRefin_keeps
    h ..)))

theorem execRefCtlSrcWrite_keeps (r : Nat) (v : Word) (s : State) : KeepsNext s (execRefCtlSrcWrite r v s) :=
  .next (ownerWrite_keeps (.refl s) _ (fun _ h => writeRefCtl_keeps h ..))

theorem execRefCtlBwWrite_keeps (r : Nat) (v : Word) (s : State) : KeepsNext s (execRefCtlBwWrite r v s) :=
  .next (ownerWrite_keeps (.refl s) _ (fun _ h => writeRefCtl_keeps h ..))

theorem execMuxChangeover_keeps (r : Nat) (present : Bool) (s : State) : KeepsNext s (execMuxChangeover r present s) :=
  .ite (fun _ => .next (changeEnd_keeps (.refl s) ..)) fun _ => .next (.refl s)

theorem execMuxWatchdog_keeps (r : Nat) (present : Bool) (s : State) : KeepsNext s (execMuxWatchdog r present s) :=
  .ite (fun _ => .next (relockStart_keeps (changeEnd_keeps (refForced_keeps (.refl s) ..) ..) ..)) fun _ => .next (.refl s)

theorem execHoldoverLong_keeps (r : Nat) (s : State) : KeepsNext s (execHoldoverLong r s) := by
  unfold execHoldoverLong
  dsimp only
  with_reducible repeat' first
    | exact Keeps.refl _ | assumption | intro _ | apply KeepsNext.next | apply Keeps.updRegion | apply State.postRef_keeps
    | apply faultRegion_keeps | apply Keeps.ite | exact Keeps.lit rfl ‹_› | split

theorem execBorrowDelayExpiry_keeps (r : Nat) (s : State) : KeepsNext s (execBorrowDelayExpiry r s) :=
  .ite (fun _ => .next (refMoved_keeps (Keeps.updRegion (.refl s) ..))) fun _ => .next (.refl s)

theorem execRrpLocked_keeps (r : Nat) (s : State) : KeepsNext s (execRrpLocked r s) :=
  .ite (fun _ => .next (startCheck_keeps (refMoved_keeps (Keeps.updRegion (.refl s) ..)))) fun _ => .next (.refl s)

theorem execRealigned_keeps (r : Nat) (s : State) : KeepsNext s (execRealigned r s) := by
  unfold execRealigned
  dsimp only
  with_reducible repeat' first
    | exact Keeps.refl _ | assumption | intro _ | apply KeepsNext.next | apply Keeps.updRegion | apply forAll_keeps
    | apply Keeps.updCell | apply State.postRef_keeps | apply Keeps.ite | exact Keeps.lit rfl ‹_› | split

theorem execRegionRealignTick_keeps (r : Nat) (s : State) : KeepsNext s (execRegionRealignTick r s) := by
  unfold execRegionRealignTick
  dsimp only
  with_reducible repeat' first
    | exact Keeps.refl _ | assumption | intro _ | apply KeepsNext.next | apply startTick_keeps | apply Keeps.updRegion
    | apply State.postRef_keeps | apply rootsMoved_keeps | apply complete_keeps | apply Keeps.ite
    | exact Keeps.lit rfl ‹_› | split

theorem execEpochLoad_keeps (s : State) : KeepsNext s (execEpochLoad s) := .next (epochLoad_keeps (.refl s))

theorem execRefSelect_keeps (tag : Nat) (s : State) : KeepsNext s (execRefSelect tag s) := by
  unfold execRefSelect
  dsimp only
  with_reducible repeat' first
    | exact Keeps.refl _ | assumption | intro _ | apply KeepsNext.next | apply hitan_keeps | apply complete_keeps
    | apply Keeps.updRegion | apply requestSource_keeps | apply Keeps.ite | exact Keeps.lit rfl ‹_› | split
    | refine Keeps.lit rfl ?_

theorem execRefQualify_keeps (tag : Nat) (s : State) : KeepsNext s (execRefQualify tag s) := by
  unfold execRefQualify
  dsimp only
  with_reducible repeat' first
    | exact Keeps.refl _ | assumption | intro _ | apply KeepsNext.next | apply hitan_keeps | apply complete_keeps
    | apply refinRestart_keeps | apply Keeps.ite | exact Keeps.lit rfl ‹_› | split | refine Keeps.lit rfl ?_

theorem execRrpConfig_keeps (tag : Nat) (s : State) : KeepsNext s (execRrpConfig tag s) := by
  unfold execRrpConfig
  dsimp only
  with_reducible repeat' first
    | exact Keeps.refl _ | assumption | intro _ | apply KeepsNext.next | apply hitan_keeps | apply complete_keeps
    | apply requestSource_keeps | apply refFields_keeps | apply Keeps.updRegion | apply refMoved_keeps | apply Keeps.ite

theorem execTimeRead_keeps (tag : Nat) (s : State) : KeepsNext s (execTimeRead tag s) :=
  .next (hitan_keeps (.refl s) _ _ _ (fun _ _ h => complete_keeps h ..))

theorem execEpochSet_keeps (tag : Nat) (s : State) : KeepsNext s (execEpochSet tag s) := by
  unfold execEpochSet
  with_reducible repeat' first
    | exact Keeps.refl _ | assumption | intro _ | apply KeepsNext.next | apply complete_keeps | apply hitan_keeps
    | apply epochBegin_keeps | apply Keeps.ite | exact Keeps.lit rfl ‹_› | split

theorem execHalt_keeps (p : Nat) (s : State) : KeepsNext s (execHalt p s) := .next (doHalt_keeps (.refl s) ..)

theorem execNop_keeps (p : Nat) (s : State) : KeepsNext s (execNop p s) := .next (doNop_keeps (.refl s) ..)

theorem execHopInstr_keeps (p : Nat) (s : State) : KeepsNext s (execHopInstr p s) := .next (doHop_keeps (.refl s) ..)

theorem execHopl_keeps (p : Nat) (s : State) : KeepsNext s (execHopl p s) := .next (doHop_keeps (.refl s) ..)

theorem execWaitc_keeps (p : Nat) (s : State) : KeepsNext s (execWaitc p s) := .next (doWaitc_keeps (.refl s) ..)

theorem execWaitt_keeps (p : Nat) (s : State) : KeepsNext s (execWaitt p s) := .next (doWaitt_keeps (.refl s) ..)

theorem execWaite_keeps (p : Nat) (s : State) : KeepsNext s (execWaite p s) := .next (doWaite_keeps (.refl s) ..)

theorem execSync_keeps (p : Nat) (s : State) : KeepsNext s (execSync p s) := .next (doSync_keeps (.refl s) ..)

theorem execMark_keeps (p : Nat) (s : State) : KeepsNext s (execMark p s) := .next (doMark_keeps (.refl s) ..)

theorem execPhs_keeps (p : Nat) (s : State) : KeepsNext s (execPhs p s) := .next (doPhs_keeps (.refl s) ..)

theorem execSeto_keeps (p : Nat) (s : State) : KeepsNext s (execSeto p s) := .next (doSeto_keeps (.refl s) ..)

theorem execLoop_keeps (p : Nat) (s : State) : KeepsNext s (execLoop p s) := .next (doLoop_keeps (.refl s) ..)

theorem execEndl_keeps (p : Nat) (s : State) : KeepsNext s (execEndl p s) := .next (doEndl_keeps (.refl s) ..)

theorem execJmp_keeps (p : Nat) (s : State) : KeepsNext s (execJmp p s) := .next (doJmp_keeps (.refl s) ..)

theorem execBrl_keeps (p : Nat) (s : State) : KeepsNext s (execBrl p s) := .next (doBrl_keeps (.refl s) ..)

theorem execIrq_keeps (p : Nat) (s : State) : KeepsNext s (execIrq p s) := .next (doIrq_keeps (.refl s) ..)

theorem execExt_keeps (p : Nat) (s : State) : KeepsNext s (execExt p s) := .next (doExt_keeps (.refl s) ..)

theorem execIllegalOpcode_keeps (p : Nat) (s : State) : KeepsNext s (execIllegalOpcode p s) :=
  .next (doIllegal_keeps (.refl s) ..)

theorem execEngineRunaway_keeps (p : Nat) (s : State) : KeepsNext s (execEngineRunaway p s) :=
  .ite (fun _ => .next (engFault_keeps (.refl s) ..)) fun _ => .next (.refl s)

theorem execEngineLate_keeps (p : Nat) (s : State) : KeepsNext s (execEngineLate p s) :=
  .ite (fun _ => .next (engLate_keeps (.refl s) ..)) fun _ => .next (.refl s)

theorem execWaitTimeout_keeps (p : Nat) (s : State) : KeepsNext s (execWaitTimeout p s) := .next (waitTimeout_keeps (.refl s) ..)

theorem execEngCtlRun_keeps (p : Nat) (v : Word) (s : State) : KeepsNext s (execEngCtlRun p v s) :=
  .next (directWrite_keeps (.refl s) _ _ _ (fun _ _ h => writeEngRun_keeps h ..))

theorem execEngCtlStop_keeps (p : Nat) (v : Word) (s : State) : KeepsNext s (execEngCtlStop p v s) :=
  .next (directWrite_keeps (.refl s) _ _ _ (fun _ _ h => writeEngRun_keeps h ..))

theorem execEngCtlStep_keeps (p : Nat) (v : Word) (s : State) : KeepsNext s (execEngCtlStep p v s) :=
  .next (directWrite_keeps (.refl s) _ _ _ (fun _ _ h => writeEngCtl_keeps h ..))

theorem execEngineStart_keeps (tag : Nat) (s : State) : KeepsNext s (execEngineStart tag s) := by
  unfold execEngineStart
  dsimp only
  with_reducible repeat' first
    | exact Keeps.refl _ | assumption | intro _ | apply KeepsNext.next | apply hitan_keeps | apply complete_keeps
    | apply Keeps.updCell | apply engStart_keeps | apply Keeps.ite

theorem execEngineStop_keeps (tag : Nat) (s : State) : KeepsNext s (execEngineStop tag s) :=
  .next (hitan_keeps (.refl s) _ _ _ (fun _ _ h => complete_keeps (engStop_keeps h ..) ..))

theorem execEngineStatus_keeps (tag : Nat) (s : State) : KeepsNext s (execEngineStatus tag s) :=
  .next (hitan_keeps (.refl s) _ _ _ (fun _ _ h => complete_keeps h ..))

theorem execHoptablePartition_keeps (tag : Nat) (s : State) : KeepsNext s (execHoptablePartition tag s) := by
  unfold execHoptablePartition
  dsimp only
  with_reducible repeat' first
    | exact Keeps.refl _ | assumption | intro _ | apply KeepsNext.next | apply hitan_keeps | apply partitionBegin_keeps
    | apply complete_keeps | apply Keeps.updMem | apply Keeps.ite

theorem execSelfTestSlotGrant_keeps (s : State) : KeepsNext s (execSelfTestSlotGrant s) := by
  unfold execSelfTestSlotGrant
  dsimp only
  with_reducible repeat' first
    | exact Keeps.refl _ | assumption | intro _ | apply KeepsNext.next | apply enterGrant_keeps | apply setRun_keeps
    | apply Keeps.ite | exact Keeps.lit rfl ‹_› | split | refine Keeps.lit rfl ?_

theorem execBistRun_keeps (tag : Nat) (s : State) : KeepsNext s (execBistRun tag s) := by
  unfold execBistRun
  dsimp only
  with_reducible repeat' first
    | exact Keeps.refl _ | assumption | intro _ | apply KeepsNext.next | apply hitan_keeps | apply complete_keeps
    | apply Keeps.ite | exact Keeps.lit rfl ‹_›

theorem execBistTestsDone_keeps (b : Nat) (outs : List TestOut) (dur : Nat) (s : State) : KeepsNext s (execBistTestsDone b
    outs dur s) := by
  unfold execBistTestsDone
  dsimp only
  with_reducible repeat' first
    | exact Keeps.refl _ | assumption | intro _ | apply KeepsNext.next | apply Keeps.foldl | apply forAll_keeps
    | apply putResult_keeps | apply Keeps.updBlock | apply setRun_keeps | apply onlineFail_keeps | apply bistEnd_keeps
    | apply bistIdle_keeps | apply State.postBlock_keeps | apply seat_keeps | apply Keeps.ite | exact Keeps.lit rfl ‹_›
    | split

theorem execOfflineStart_keeps (r : Nat) (s : State) : KeepsNext s (execOfflineStart r s) := by
  unfold execOfflineStart
  dsimp only
  with_reducible repeat' first
    | exact Keeps.refl _ | assumption | intro _ | apply KeepsNext.next | apply forAll_keeps | apply Keeps.updBlock
    | apply offlineCell_keeps | apply forcedGap_keeps | apply Keeps.updMem | apply setRun_keeps | apply Keeps.ite
    | exact Keeps.lit rfl ‹_› | split

theorem execOfflineRestore_keeps (r : Nat) (outs : List TestOut) (dur : Nat) (s : State) : KeepsNext s (execOfflineRestore r
    outs dur s) := by
  unfold execOfflineRestore
  dsimp only
  with_reducible repeat' first
    | exact Keeps.refl _ | assumption | intro _ | apply KeepsNext.next | apply forAll_keeps | apply restoreCell_keeps
    | apply Keeps.updMem | apply Keeps.updBlock | apply forcedGap_keeps | apply Keeps.foldl | apply applyUnits_keeps
    | apply recordCells_keeps | apply putResult_keeps | apply applyRegion_keeps | apply bistEnd_keeps | apply setRun_keeps
    | apply paceRelease_keeps | apply Keeps.ite | exact Keeps.lit rfl ‹_› | split

theorem execBistResult_keeps (tag : Nat) (s : State) : KeepsNext s (execBistResult tag s) :=
  .next (hitan_keeps (.refl s) _ _ _ (fun _ _ h => .ite (fun _ => complete_keeps h ..) fun _ => complete_keeps h ..))

theorem execRepairApply_keeps (tag : Nat) (s : State) : KeepsNext s (execRepairApply tag s) := by
  unfold execRepairApply
  dsimp only
  with_reducible repeat' first
    | exact Keeps.refl _ | assumption | intro _ | apply KeepsNext.next | apply hitan_keeps | apply complete_keeps
    | apply grantWait_keeps | apply repairReturn_keeps | apply repairMap_keeps | apply Keeps.updBlock | apply Keeps.ite

theorem execRepairBurn_keeps (tag : Nat) (s : State) : KeepsNext s (execRepairBurn tag s) := by
  unfold execRepairBurn
  dsimp only
  with_reducible repeat' first
    | exact Keeps.refl _ | assumption | intro _ | apply KeepsNext.next | apply hitan_keeps | apply complete_keeps
    | apply grantWait_keeps | apply Keeps.ite | exact Keeps.lit rfl ‹_› | split | refine Keeps.lit rfl ?_

theorem execCellEnable_keeps (tag : Nat) (s : State) : KeepsNext s (execCellEnable tag s) := by
  unfold execCellEnable
  dsimp only
  with_reducible repeat' first
    | exact Keeps.refl _ | assumption | intro _ | apply KeepsNext.next | apply hitan_keeps | apply onChannel_keeps
    | apply writeCellCtl_keeps | apply complete_keeps | apply Keeps.updCell | apply Keeps.ite

theorem execProfileWrite_keeps (tag : Nat) (s : State) : KeepsNext s (execProfileWrite tag s) :=
  .next (hitan_keeps (.refl s) _ _ _ (fun _ _ h => .ite (fun _ => complete_keeps h ..) fun _ => complete_keeps
    (storeProfile_keeps h ..) ..))

theorem execProfileRead_keeps (tag : Nat) (soft : Bool) (s : State) : KeepsNext s (execProfileRead tag soft s) := by
  unfold execProfileRead
  dsimp only
  with_reducible repeat' first
    | exact Keeps.refl _ | assumption | intro _ | apply KeepsNext.next | apply hitan_keeps | apply complete_keeps
    | apply softProfile_keeps | apply meetProfile_keeps | apply completeWith_keeps | apply Keeps.ite

theorem execHop_keeps (tag : Nat) (s : State) : KeepsNext s (execHop tag s) :=
  .next (hitan_keeps (.refl s) _ _ _ (fun _ _ h => .ite (fun _ => complete_keeps h ..) fun _ => .ite (fun _ => complete_keeps
    h ..) fun _ => Keeps.updCell h ..))

theorem execPhaseSet_keeps (tag : Nat) (s : State) : KeepsNext s (execPhaseSet tag s) := by
  unfold execPhaseSet
  dsimp only
  with_reducible repeat' first
    | exact Keeps.refl _ | assumption | intro _ | apply KeepsNext.next | apply hitan_keeps | apply onChannel_keeps
    | apply writePhaseSlew_keeps | apply writePhaseHi_keeps | apply Keeps.updCell | apply complete_keeps | apply Keeps.ite

theorem execOutConfig_keeps (tag : Nat) (s : State) : KeepsNext s (execOutConfig tag s) := by
  unfold execOutConfig
  dsimp only
  with_reducible repeat' first
    | exact Keeps.refl _ | assumption | intro _ | apply KeepsNext.next | apply hitan_keeps | apply complete_keeps
    | apply onChannel_keeps | apply writeOutCfg_keeps | apply writeLowDiv_keeps | apply Keeps.updCell | apply Keeps.ite

theorem execLockConfig_keeps (tag : Nat) (s : State) : KeepsNext s (execLockConfig tag s) := by
  unfold execLockConfig
  dsimp only
  with_reducible repeat' first
    | exact Keeps.refl _ | assumption | intro _ | apply KeepsNext.next | apply hitan_keeps | apply complete_keeps
    | apply onChannel_keeps | apply writeGear_keeps | apply writeLoopBw_keeps | apply writeLockAction_keeps
    | apply writeLockCnt_keeps | apply writeLockThr_keeps | apply Keeps.ite

theorem execCellStatus_keeps (tag : Nat) (s : State) : KeepsNext s (execCellStatus tag s) :=
  .next (hitan_keeps (.refl s) _ _ _ (fun _ _ h => complete_keeps h ..))

theorem execFlashWindowRead_keeps (a : Nat) (s : State) : KeepsNext s (execFlashWindowRead a s) := by
  unfold execFlashWindowRead
  dsimp only
  with_reducible repeat' first
    | exact Keeps.refl _ | assumption | intro _ | apply KeepsNext.next | apply clkCheck_keeps | apply Keeps.ite
    | exact Keeps.lit rfl ‹_› | split | refine Keeps.lit rfl ?_

theorem execFlashWindowWrite_keeps (a : Nat) (bytes : List Byte) (s : State) : KeepsNext s (execFlashWindowWrite a bytes s)
    := by
  unfold execFlashWindowWrite
  dsimp only
  with_reducible repeat' first
    | exact Keeps.refl _ | assumption | intro _ | apply KeepsNext.next | apply startPage_keeps | apply Keeps.ite
    | exact Keeps.lit rfl ‹_› | split | refine Keeps.lit rfl ?_

theorem execFlashWipPoll_keeps (wip : Bool) (s : State) : KeepsNext s (execFlashWipPoll wip s) :=
  .ite (fun _ => .next (startPage_keeps (accessEnd_keeps (.lit rfl (.refl s))))) fun _ => .next (.refl s)

theorem execFlashPollTimeout_keeps (s : State) : KeepsNext s (execFlashPollTimeout s) := by
  unfold execFlashPollTimeout
  dsimp only
  with_reducible repeat' first
    | exact Keeps.refl _ | assumption | intro _ | apply KeepsNext.next | apply accessEnd_keeps | apply faultChip_keeps
    | apply Keeps.ite | exact Keeps.lit rfl ‹_› | split | refine Keeps.lit rfl ?_

theorem execFlashCfgWrite_keeps (v : Word) (s : State) : KeepsNext s (execFlashCfgWrite v s) :=
  .next (chipWrite_keeps (.refl s) _ _ (fun _ h => .ite (fun _ => .lit rfl h) fun _ => writeFlashCfg_keeps h ..))

theorem execFlashSelWrite_keeps (v : Word) (s : State) : KeepsNext s (execFlashSelWrite v s) :=
  .next (chipWrite_keeps (.refl s) _ _ (fun _ h => writeFlashSel_keeps h ..))

theorem execFlashDataWrite_keeps (v : Word) (s : State) : KeepsNext s (execFlashDataWrite v s) :=
  .next (ownerWrite_keeps (.refl s) _ (fun _ h => writeFlashData_keeps h ..))

theorem execFlashDataRead_keeps (s : State) : KeepsNext s (execFlashDataRead s) :=
  .next (.ite (fun _ => .refl s) fun _ => .lit rfl (.refl s))

theorem execFlashCmdGo_keeps (v : Word) (resp : List Byte) (eff : List (Nat × Byte)) (s : State) : KeepsNext s
    (execFlashCmdGo v resp eff s) :=
  .next (chipWrite_keeps (.refl s) _ _ (fun _ h => .lit rfl (writeFlashCmd_keeps h ..)))

theorem execFwInfo_keeps (tag : Nat) (s : State) : KeepsNext s (execFwInfo tag s) :=
  .next (hitan_keeps (.refl s) _ _ _ (fun _ _ h => complete_keeps h ..))

theorem execFwUpdateBegin_keeps (tag : Nat) (s : State) : KeepsNext s (execFwUpdateBegin tag s) := by
  unfold execFwUpdateBegin
  dsimp only
  with_reducible repeat' first
    | exact Keeps.refl _ | assumption | intro _ | apply KeepsNext.next | apply hitan_keeps | apply complete_keeps
    | apply writeSel_keeps | apply flashErase_keeps | apply Keeps.ite | exact Keeps.lit rfl ‹_› | split
    | refine Keeps.lit rfl ?_

theorem execFwUpdateData_keeps (tag : Nat) (s : State) : KeepsNext s (execFwUpdateData tag s) := by
  unfold execFwUpdateData
  dsimp only
  with_reducible repeat' first
    | exact Keeps.refl _ | assumption | intro _ | apply KeepsNext.next | apply hitan_keeps | apply complete_keeps
    | apply programPages_keeps | apply Keeps.ite | exact Keeps.lit rfl ‹_› | split

theorem execFwUpdateEnd_keeps (tag : Nat) (s : State) : KeepsNext s (execFwUpdateEnd tag s) := by
  unfold execFwUpdateEnd
  dsimp only
  with_reducible repeat' first
    | exact Keeps.refl _ | assumption | intro _ | apply KeepsNext.next | apply hitan_keeps | apply complete_keeps
    | apply flashProgram_keeps | apply writeSel_keeps | apply Keeps.ite | exact Keeps.lit rfl ‹_› | split
    | refine Keeps.lit rfl ?_

theorem execSignalDetect_keeps (i : Nat) (s : State) : KeepsNext s (execSignalDetect i s) :=
  .ite (fun _ => .next (Keeps.updPort (.refl s) ..)) fun _ => .next (.refl s)

theorem execBlockLock_keeps (i : Nat) (s : State) : KeepsNext s (execBlockLock i s) :=
  .ite (fun _ => .next (sendBlock_keeps (Keeps.updPort (.refl s) ..) ..)) fun _ => .next (.refl s)

theorem execIdentBlockReceive_keeps (i : Nat) (serial3 : Word) (role depth path : Nat) (s : State) : KeepsNext s
    (execIdentBlockReceive i serial3 role depth path s) := by
  unfold execIdentBlockReceive
  dsimp only
  with_reducible repeat' first
    | exact Keeps.refl _ | assumption | intro _ | apply KeepsNext.next | apply Keeps.updPort | apply measure_keeps
    | apply forAll_keeps | apply sendBlock_keeps | apply Keeps.ite | exact Keeps.lit rfl ‹_› | split | refine Keeps.lit rfl ?_

theorem execMeasureComplete_keeps (i : Nat) (oneway asymInt : Word) (s : State) : KeepsNext s (execMeasureComplete i oneway
    asymInt s) := by
  unfold execMeasureComplete
  dsimp only
  with_reducible repeat' first
    | exact Keeps.refl _ | assumption | intro _ | apply KeepsNext.next | apply measure_keeps | apply Keeps.updPort
    | apply setOneway_keeps | apply State.postPort_keeps | apply Keeps.ite | exact Keeps.lit rfl ‹_› | split
    | refine Keeps.lit rfl ?_

theorem execLossOfSignal_keeps (i : Nat) (s : State) : KeepsNext s (execLossOfSignal i s) :=
  .ite (fun _ => .next (portFall_keeps (countRetrain_keeps (.refl s) ..) ..)) fun _ => .next (.refl s)

theorem execPlCtlRetrain_keeps (i : Nat) (s : State) : KeepsNext s (execPlCtlRetrain i s) :=
  .next (chipWrite_keeps (.refl s) _ _ (fun _ h => retrain_keeps h ..))

theorem execInvalidBlock_keeps (i : Nat) (badHeader : Bool) (s : State) : KeepsNext s (execInvalidBlock i badHeader s) := by
  unfold execInvalidBlock
  dsimp only
  with_reducible repeat' first
    | exact Keeps.refl _ | assumption | intro _ | apply KeepsNext.next | apply Keeps.updPort | apply State.postPort_keeps
    | apply retrain_keeps | apply Keeps.ite | exact Keeps.lit rfl ‹_› | split

theorem execTimeExchange_keeps (i : Nat) (s : State) : KeepsNext s (execTimeExchange i s) := by
  unfold execTimeExchange
  dsimp only
  with_reducible repeat' first
    | exact Keeps.refl _ | assumption | intro _ | apply KeepsNext.next | apply sendBlock_keeps | apply Keeps.updPort
    | apply Keeps.ite | exact Keeps.lit rfl ‹_› | split

theorem execTimeBlockReceive_keeps (i : Nat) (t1 t2 t3 t4 : Int) (parentAligned : Bool) (s : State) : KeepsNext s
    (execTimeBlockReceive i t1 t2 t3 t4 parentAligned s) := by
  unfold execTimeBlockReceive
  dsimp only
  with_reducible repeat' first
    | exact Keeps.refl _ | assumption | intro _ | apply KeepsNext.next | apply setOneway_keeps | apply Keeps.ite
    | exact Keeps.lit rfl ‹_› | split | refine Keeps.lit rfl ?_

theorem execEventBlockReceive_keeps (i m : Nat) (edge10 : BitVec 10) (s : State) : KeepsNext s (execEventBlockReceive i m
    edge10 s) := by
  unfold execEventBlockReceive
  dsimp only
  with_reducible repeat' first
    | exact Keeps.refl _ | assumption | intro _ | apply KeepsNext.next | apply eventsLate_keeps | apply sendBlock_keeps
    | apply eventDown_keeps | apply Keeps.ite | exact Keeps.lit rfl ‹_› | split | refine Keeps.lit rfl ?_

theorem execEventDelivery_keeps (m : Nat) (edge : BitVec 54) (s : State) : KeepsNext s (execEventDelivery m edge s) := by
  unfold execEventDelivery
  with_reducible repeat' first
    | exact Keeps.refl _ | assumption | intro _ | apply KeepsNext.next | apply deliverEvent_keeps | apply Keeps.ite
    | exact Keeps.lit rfl ‹_› | split

theorem execTevEdge_keeps (i : Nat) (rising : Bool) (s : State) : KeepsNext s (execTevEdge i rising s) :=
  .ite (fun _ => .next (State.tick_keeps (Keeps.forAll (.lit rfl (.refl s)) fun _ _ h => register_keeps h ..) ..)) fun _ =>
    .next (.refl s)

theorem execEpochBlockReceive_keeps (value tl : BitVec 54) (s : State) : KeepsNext s (execEpochBlockReceive value tl s) :=
    by
  unfold execEpochBlockReceive
  dsimp only
  with_reducible repeat' first
    | exact Keeps.refl _ | assumption | intro _ | apply KeepsNext.next | apply forAll_keeps | apply sendBlock_keeps
    | apply Keeps.ite | exact Keeps.lit rfl ‹_› | split | refine Keeps.lit rfl ?_

theorem execJoinBlockReceive_keeps (boundary : BitVec 54) (s : State) : KeepsNext s (execJoinBlockReceive boundary s) :=
  .ite (fun _ => .next (.lit rfl (.refl s))) fun _ => .next (.refl s)

theorem execJoinBoundary_keeps (parentTime : BitVec 54) (diffPs : Nat) (s : State) : KeepsNext s (execJoinBoundary
    parentTime diffPs s) := by
  unfold execJoinBoundary
  dsimp only
  with_reducible repeat' first
    | exact Keeps.refl _ | assumption | intro _ | apply KeepsNext.next | apply eventsLate_keeps | apply forAll_keeps
    | apply Keeps.updRegion | apply epochAll_keeps | apply Keeps.ite | exact Keeps.lit rfl ‹_› | split | refine Keeps.lit rfl ?_

theorem execTunnelFrameReceive_keeps (i path : Nat) (up : Bool) (words : List Word) (s : State) : KeepsNext s
    (execTunnelFrameReceive i path up words s) := by
  unfold execTunnelFrameReceive
  dsimp only
  with_reducible repeat' first
    | exact Keeps.refl _ | assumption | intro _ | apply KeepsNext.next | apply tunnelReturn_keeps | apply sendBlock_keeps
    | apply Keeps.ite | exact Keeps.lit rfl ‹_› | split | refine Keeps.lit rfl ?_

theorem execStreamPacketReceive_keeps (i path r strand : Nat) (lost : Bool) (words : List Word) (s : State) : KeepsNext s
    (execStreamPacketReceive i path r strand lost words s) :=
  .ite (fun _ => .next (forwardPackets_keeps (.refl s) ..)) fun _ => .next (.refl s)

theorem execCreditBlockReceive_keeps (i n : Nat) (s : State) : KeepsNext s (execCreditBlockReceive i n s) :=
  .ite (fun _ => .next (.ite (fun _ => forwardPackets_keeps (Keeps.updPort (.refl s) ..) ..) fun _ => Keeps.updPort (.refl s)
    ..)) fun _ => .next (.refl s)

theorem execTreeScan_keeps (tag : Nat) (found : List (Nat × Word × Nat)) (s : State) : KeepsNext s (execTreeScan tag found
    s) :=
  .next (hitan_keeps (.refl s) _ _ _ (fun _ _ h => .ite (fun _ => complete_keeps h ..) fun _ => completeWith_keeps h ..))

theorem execTreeStatus_keeps (tag : Nat) (ans : List Word) (s : State) : KeepsNext s (execTreeStatus tag ans s) := by
  unfold execTreeStatus
  with_reducible repeat' first
    | exact Keeps.refl _ | assumption | intro _ | apply KeepsNext.next | apply hitanReach_keeps | apply complete_keeps
    | apply Keeps.ite

theorem execTreeTunnel_keeps (tag : Nat) (joined : Bool) (s : State) : KeepsNext s (execTreeTunnel tag joined s) := by
  unfold execTreeTunnel
  dsimp only
  with_reducible repeat' first
    | exact Keeps.refl _ | assumption | intro _ | apply KeepsNext.next | apply hitanReach_keeps | apply complete_keeps
    | apply sendBlock_keeps | apply Keeps.ite | exact Keeps.lit rfl ‹_› | split

theorem execPowerOnResetRelease_keeps (s : State) : KeepsNext s (execPowerOnResetRelease s) :=
  .next (.ite (fun _ => release_keeps (.lit rfl (.refl s))) fun _ => .refl s)

theorem execRstNAssert_keeps (ns : Nat) (s : State) : KeepsNext s (execRstNAssert ns s) := by
  unfold execRstNAssert
  dsimp only
  with_reducible repeat' first
    | exact Keeps.refl _ | assumption | intro _ | apply KeepsNext.next | apply chipReset_keeps | apply State.tick_keeps
    | apply Keeps.ite | exact Keeps.lit rfl ‹_› | split | refine Keeps.lit rfl ?_

theorem execRstNRelease_keeps (s : State) : KeepsNext s (execRstNRelease s) :=
  .next (.ite (fun _ => release_keeps (.lit rfl (.refl s))) fun _ => .refl s)

theorem execWipeEnd_keeps (s : State) : KeepsNext s (execWipeEnd s) :=
  .next (.ite (fun _ => wipeEnded_keeps (.refl s)) fun _ => .refl s)

theorem execXoQualTimeout_keeps (s : State) : KeepsNext s (execXoQualTimeout s) :=
  .next (.ite (fun _ => .lit rfl (.refl s)) fun _ => .refl s)

theorem execFirmwareStart_keeps (s : State) : KeepsNext s (execFirmwareStart s) :=
  .next (.ite (fun _ => firmwareStart_keeps (.refl s)) fun _ => .refl s)

theorem execReadyAssert_keeps (s : State) : KeepsNext s (execReadyAssert s) :=
  .next (.ite (fun _ => readyUp_keeps (.refl s)) fun _ => .refl s)

theorem execFrstNRelease_keeps (s : State) : KeepsNext s (execFrstNRelease s) := by
  unfold execFrstNRelease
  dsimp only
  with_reducible repeat' first
    | exact Keeps.refl _ | assumption | intro _ | apply KeepsNext.next | apply romRecords_keeps | apply Keeps.ite
    | exact Keeps.lit rfl ‹_› | split | refine Keeps.lit rfl ?_

theorem execBrownOut_keeps (rail : Nat) (s : State) : KeepsNext s (execBrownOut rail s) :=
  .ite (fun _ => .next (chipReset_keeps (.lit rfl (.refl s)) ..)) fun _ => .next (.refl s)

theorem execDcoSupply_keeps (r : Nat) (s : State) : KeepsNext s (execDcoSupply r s) :=
  .ite (fun _ => .next (.refl s)) fun _ => .next (State.postRegion_keeps (holdRegion_keeps (pushFault_keeps (.refl s) ..) ..)
    ..)

theorem execSupplyWindow_keeps (rail mv : Nat) (s : State) : KeepsNext s (execSupplyWindow rail mv s) :=
  .ite (fun _ => .next (.refl s)) fun _ => .next (faultChip_keeps (.lit rfl (readVmon_keeps (.refl s) ..)) ..)

theorem execRailBackInWindow_keeps (rail mv : Nat) (s : State) : KeepsNext s (execRailBackInWindow rail mv s) :=
  .next (.lit rfl (readVmon_keeps (.refl s) ..))

theorem execSupplyHoldRelease_keeps (r : Nat) (s : State) : KeepsNext s (execSupplyHoldRelease r s) :=
  .ite (fun _ => .next (.ite (fun _ => Keeps.updRegion (.refl s) ..) fun _ => endHold_keeps (.refl s) ..)) fun _ => .next
    (.refl s)

theorem execUndervolt_keeps (mv : Nat) (s : State) : KeepsNext s (execUndervolt mv s) :=
  .ite (fun _ => .next (.refl s)) fun _ => .next (faultChip_keeps (.lit rfl (readVmon_keeps (.refl s) ..)) ..)

theorem execPaceConfirm_keeps (mv : Nat) (s : State) : KeepsNext s (execPaceConfirm mv s) := by
  unfold execPaceConfirm
  dsimp only
  with_reducible repeat' first
    | exact Keeps.refl _ | assumption | intro _ | apply KeepsNext.next | apply readVmon_keeps | apply romStart_keeps
    | apply paceEnd_keeps | apply Keeps.ite | exact Keeps.lit rfl ‹_› | split | refine Keeps.lit rfl ?_

theorem execPaceConfirmTimeout_keeps (mv : Nat) (s : State) : KeepsNext s (execPaceConfirmTimeout mv s) := by
  unfold execPaceConfirmTimeout
  dsimp only
  with_reducible repeat' first
    | exact Keeps.refl _ | assumption | intro _ | apply KeepsNext.next | apply readVmon_keeps | apply faultChip_keeps
    | apply paceEnd_keeps | apply Keeps.ite | exact Keeps.lit rfl ‹_› | split | refine Keeps.lit rfl ?_

theorem execPaceDrainEnd_keeps (s : State) : KeepsNext s (execPaceDrainEnd s) :=
  .next (.ite (fun _ => .lit rfl (.refl s)) fun _ => .refl s)

theorem execPaceCtlModeWrite_keeps (v : Word) (voutMode : Option Byte) (s : State) : KeepsNext s (execPaceCtlModeWrite v
    voutMode s) :=
  .next (chipWrite_keeps (.refl s) _ _ (fun _ h => writePaceCtl_keeps h ..))

theorem execPmAlertNAssert_keeps (status : BitVec 16) (s : State) : KeepsNext s (execPmAlertNAssert status s) :=
  .ite (fun _ => .next (.refl s)) fun _ => .next (faultChip_keeps (.lit rfl (.refl s)) ..)

theorem execSensorConversion_keeps (B : Nat) (t : Int) (s : State) : KeepsNext s (execSensorConversion B t s) := by
  unfold execSensorConversion
  dsimp only
  with_reducible repeat' first
    | exact Keeps.refl _ | assumption | intro _ | apply KeepsNext.next | apply Keeps.updBlock | apply Keeps.foldl
    | apply faultBlock_keeps | apply thermJudge_keeps | apply track_keeps | apply Keeps.ite | exact Keeps.lit rfl ‹_›
    | split

theorem execThermRelease_keeps (s : State) : KeepsNext s (execThermRelease s) := by
  unfold execThermRelease
  dsimp only
  with_reducible repeat' first
    | exact Keeps.refl _ | assumption | intro _ | apply KeepsNext.next | apply forAll_keeps | apply endHold_keeps
    | apply Keeps.ite | exact Keeps.lit rfl ‹_› | split | refine Keeps.lit rfl ?_

theorem execUnitResetEnd_keeps (scope index : Nat) (s : State) : KeepsNext s (execUnitResetEnd scope index s) := by
  unfold execUnitResetEnd
  with_reducible repeat' first
    | exact Keeps.refl _ | assumption | intro _ | apply KeepsNext.next | apply leaveReset_keeps | apply complete_keeps
    | apply Keeps.ite | exact Keeps.lit rfl ‹_› | split

theorem execInfo_keeps (tag : Nat) (s : State) : KeepsNext s (execInfo tag s) :=
  .next (hitan_keeps (.refl s) _ _ _ (fun _ _ h => complete_keeps h ..))

theorem execReset_keeps (tag : Nat) (s : State) : KeepsNext s (execReset tag s) := by
  unfold execReset
  with_reducible repeat' first
    | exact Keeps.refl _ | assumption | intro _ | apply KeepsNext.next | apply complete_keeps | apply chipReset_keeps
    | apply unitReset_keeps | apply setCmd_keeps | apply Keeps.ite | exact Keeps.lit rfl ‹_› | split

theorem execPaceSet_keeps (tag : Nat) (s : State) : KeepsNext s (execPaceSet tag s) := by
  unfold execPaceSet
  dsimp only
  with_reducible repeat' first
    | exact Keeps.refl _ | assumption | intro _ | apply KeepsNext.next | apply hitan_keeps | apply complete_keeps
    | apply setCmd_keeps | apply paceAnswer_keeps | apply Keeps.ite | exact Keeps.lit rfl ‹_›

theorem execTempRead_keeps (tag : Nat) (s : State) : KeepsNext s (execTempRead tag s) :=
  .next (hitan_keeps (.refl s) _ _ _ (fun _ _ h => complete_keeps h ..))

theorem execMpWatchdog_keeps (s : State) : KeepsNext s (execMpWatchdog s) := .next (mpFault_keeps (.refl s) ..)

theorem execMpLockstep_keeps (addr : Word) (s : State) : KeepsNext s (execMpLockstep addr s) := .next (mpFault_keeps (.refl s) ..)

theorem execMpRamEcc_keeps (addr : Word) (s : State) : KeepsNext s (execMpRamEcc addr s) := .next (mpFault_keeps (.refl s) ..)

theorem execChipWatchdog_keeps (s : State) : KeepsNext s (execChipWatchdog s) :=
  .next (.ite (fun _ => chipReset_keeps (.refl s) ..) fun _ => .refl s)

theorem execFabricDeadlock_keeps (seg unit : Nat) (s : State) : KeepsNext s (execFabricDeadlock seg unit s) :=
  .ite (fun _ => .next (.refl s)) fun _ => .next (segReset_keeps (pushFault_keeps (countDeadlock_keeps (.refl s) ..) ..) ..)

theorem execEccScrub_keeps (r mem addr : Nat) (uncorr bad : Bool) (s : State) : KeepsNext s (execEccScrub r mem addr uncorr
    bad s) := by
  unfold execEccScrub
  dsimp only
  with_reducible repeat' first
    | exact Keeps.refl _ | assumption | intro _ | apply KeepsNext.next | apply meetUncorr_keeps | apply corrected_keeps
    | apply Keeps.ite | exact Keeps.lit rfl ‹_› | split | refine Keeps.lit rfl ?_

theorem execLogOverflow_keeps (s : State) : KeepsNext s (execLogOverflow s) := by
  unfold execLogOverflow
  dsimp only
  with_reducible repeat' first
    | exact Keeps.refl _ | assumption | intro _ | apply KeepsNext.next | apply faultChip_keeps | apply Keeps.ite
    | exact Keeps.lit rfl ‹_› | split | refine Keeps.lit rfl ?_

theorem execMirrorWrite_keeps (ok : Bool) (s : State) : KeepsNext s (execMirrorWrite ok s) := by
  unfold execMirrorWrite
  dsimp only
  with_reducible repeat' first
    | exact Keeps.refl _ | assumption | intro _ | apply KeepsNext.next | apply flashErase_keeps | apply flashProgram_keeps
    | apply faultChip_keeps | apply Keeps.ite | exact Keeps.lit rfl ‹_› | split | refine Keeps.lit rfl ?_

theorem execFaultLogRead_keeps (tag : Nat) (s : State) : KeepsNext s (execFaultLogRead tag s) :=
  .next (hitan_keeps (.refl s) _ _ _ (fun _ _ h => .ite (fun _ => complete_keeps h ..) fun _ => streamOut_keeps h ..))

theorem execTiuCtlArm_keeps (t : Nat) (v : Word) (s : State) : KeepsNext s (execTiuCtlArm t v s) :=
  .next (tiuWrite_keeps (.refl s) ..)

theorem execTiuCtlAbort_keeps (t : Nat) (s : State) : KeepsNext s (execTiuCtlAbort t s) := .next (tiuWrite_keeps (.refl s) ..)

theorem execGateCommit_keeps (t : Nat) (hi : Word) (s : State) : KeepsNext s (execGateCommit t hi s) :=
  .next (tiuWrite_keeps (.refl s) ..)

theorem execTiuPrecalDone_keeps (t a1 a2 b1 b2 : Nat) (s : State) : KeepsNext s (execTiuPrecalDone t a1 a2 b1 b2 s) := by
  unfold execTiuPrecalDone
  dsimp only
  with_reducible repeat' first
    | exact Keeps.refl _ | assumption | intro _ | apply KeepsNext.next | apply Keeps.updTiu | apply tiuEnd_keeps
    | apply tiuReady_keeps | apply Keeps.ite | exact Keeps.lit rfl ‹_› | split

theorem execTiuReadyAtTime_keeps (t : Nat) (s : State) : KeepsNext s (execTiuReadyAtTime t s) :=
  .next (readyAtTime_keeps (.refl s) ..)

theorem execTiuSourceEdge_keeps (t : Nat) (stop : Bool) (code : Nat) (s : State) : KeepsNext s (execTiuSourceEdge t stop
    code s) :=
  .next (tiuEdge_keeps (.refl s) ..)

theorem execTiuResult_keeps (t : Nat) (s : State) : KeepsNext s (execTiuResult t s) :=
  .ite (fun _ => .next (tiuEnd_keeps (.refl s) ..)) fun _ => .next (.refl s)

theorem execTiuTimeout_keeps (t : Nat) (s : State) : KeepsNext s (execTiuTimeout t s) := .next (tiuLate_keeps (.refl s) ..)

theorem execTiuConfig_keeps (tag : Nat) (s : State) : KeepsNext s (execTiuConfig tag s) := by
  unfold execTiuConfig
  dsimp only
  with_reducible repeat' first
    | exact Keeps.refl _ | assumption | intro _ | apply KeepsNext.next | apply hitan_keeps | apply tiuCommand_keeps
    | apply complete_keeps | apply Keeps.updTiu | apply Keeps.ite

theorem execTiuArm_keeps (tag : Nat) (s : State) : KeepsNext s (execTiuArm tag s) := by
  unfold execTiuArm
  dsimp only
  with_reducible repeat' first
    | exact Keeps.refl _ | assumption | intro _ | apply KeepsNext.next | apply hitan_keeps | apply measure_keeps
    | apply complete_keeps | apply Keeps.updTiu | apply tiuStart_keeps | apply Keeps.ite

theorem execFreqMeasure_keeps (tag : Nat) (s : State) : KeepsNext s (execFreqMeasure tag s) := by
  unfold execFreqMeasure
  dsimp only
  with_reducible repeat' first
    | exact Keeps.refl _ | assumption | intro _ | apply KeepsNext.next | apply hitan_keeps | apply measure_keeps
    | apply complete_keeps | apply Keeps.updTiu | apply tiuStart_keeps | apply Keeps.ite

theorem execTiuRead_keeps (tag : Nat) (s : State) : KeepsNext s (execTiuRead tag s) :=
  .next (hitan_keeps (.refl s) _ _ _ (fun _ _ h => .ite (fun _ => complete_keeps h ..) fun _ => tiuAnswer_keeps h ..))

theorem execResetCtlWrite_keeps (v : Word) (s : State) : KeepsNext s (execResetCtlWrite v s) :=
  .next (portWrite_keeps (.refl s) ..)

theorem execHostCfgWrite_keeps (v : Word) (s : State) : KeepsNext s (execHostCfgWrite v s) := .next (portWrite_keeps (.refl s) ..)

theorem execClaspWrite_keeps (v : Word) (s : State) : KeepsNext s (execClaspWrite v s) := .next (portWrite_keeps (.refl s) ..)

theorem execClaspTimeout_keeps (s : State) : KeepsNext s (execClaspTimeout s) :=
  .next (.ite (fun _ => .lit rfl (.refl s)) fun _ => .refl s)

theorem execRwcWrite_keeps (addr : Nat) (v : Word) (s : State) : KeepsNext s (execRwcWrite addr v s) :=
  .next (portWriteOf_keeps (.refl s) ..)

theorem execSqcRead_keeps (addr : Nat) (s : State) : KeepsNext s (execSqcRead addr s) :=
  .next (.ite (fun _ => portRead_keeps (.refl s) ..) fun _ => .refl s)

theorem execSqcWriteBack_keeps (addr : Nat) (v : Word) (s : State) : KeepsNext s (execSqcWriteBack addr v s) :=
  .next (portWriteOf_keeps (.refl s) ..)

theorem execWo1Write_keeps (addr : Nat) (v : Word) (s : State) : KeepsNext s (execWo1Write addr v s) :=
  .next (portWriteOf_keeps (.refl s) ..)

theorem execBitAliasWrite_keeps (addr : Nat) (v : Word) (s : State) : KeepsNext s (execBitAliasWrite addr v s) := by
  unfold execBitAliasWrite
  with_reducible repeat' first
    | exact Keeps.refl _ | assumption | intro _ | apply KeepsNext.next | apply portWrite_keeps | apply Keeps.ite
    | exact Keeps.lit rfl ‹_› | split

theorem execSnapshotRead_keeps (addr : Nat) (s : State) : KeepsNext s (execSnapshotRead addr s) :=
  .next (.ite (fun _ => portRead_keeps (.refl s) ..) fun _ => .refl s)

theorem execRegisterWrite_keeps (addr : Nat) (v : Word) (s : State) : KeepsNext s (execRegisterWrite addr v s) :=
  .next (portWrite_keeps (.refl s) ..)

theorem execTh64CtlWrite_keeps (r : Nat) (v : Word) (s : State) : KeepsNext s (execTh64CtlWrite r v s) :=
  .next (portWrite_keeps (.refl s) ..)

theorem execRegisterScrub_keeps (addr : Nat) (bad : Bool) (s : State) : KeepsNext s (execRegisterScrub addr bad s) :=
  .ite (fun _ => .next (parityFault_keeps (.lit rfl (.refl s)) ..)) fun _ => .next (.refl s)

theorem execHallmark_keeps (tag : Nat) (s : State) : KeepsNext s (execHallmark tag s) :=
  .next (secure_keeps (.refl s) _ _ _ (fun _ _ h => streamOut_keeps h ..))

theorem execJtagInstructionUpdate_keeps (code : Byte) (s : State) : KeepsNext s (execJtagInstructionUpdate code s) :=
  .next (loadJtag_keeps (.refl s) ..)

theorem execTapReset_keeps (s : State) : KeepsNext s (execTapReset s) := .next (loadJtag_keeps (.refl s) ..)

theorem execNullFrame_keeps (bits : List Bool) (s : State) : KeepsNext s (execNullFrame bits s) :=
  .next (.ite (fun _ => .refl s) fun _ => frame_keeps (.refl s) ..)

theorem execReadFrame_keeps (bits : List Bool) (late : List Nat) (s : State) : KeepsNext s (execReadFrame bits late s) :=
  .next (.ite (fun _ => frame_keeps (.refl s) ..) fun _ => .refl s)

theorem execWriteFrame_keeps (bits : List Bool) (s : State) : KeepsNext s (execWriteFrame bits s) :=
  .next (.ite (fun _ => frame_keeps (.refl s) ..) fun _ => .refl s)

theorem execEmptyFrame_keeps (s : State) : KeepsNext s (execEmptyFrame s) :=
  .ite (fun _ => .next (.refl s)) fun _ => .ite (fun _ => .next (portRecovery_keeps (.refl s))) fun _ => .next (.lit rfl
    (.refl s))

theorem execPlanCheck_keeps (tag : Nat) (s : State) : KeepsNext s (execPlanCheck tag s) :=
  .next (hitan_keeps (.refl s) _ _ _ (fun _ _ h => .ite (fun _ => planTable_keeps h ..) fun _ => planState_keeps h ..))

theorem execTimeWrap_keeps (r : Nat) (s : State) : KeepsNext s (execTimeWrap r s) :=
  .ite (fun _ => .next (idleEdge_keeps (.refl s))) fun _ => .next (.refl s)

theorem execEvinComparatorChange_keeps (r slot : Nat) (chg : List (Nat × Int)) (s : State) :
    KeepsNext s (execEvinComparatorChange r slot chg s) :=
  .ite (fun _ => .next (.forAll (.refl s) fun _ _ h => senseInput_keeps h ..))
    fun _ => .ite (fun _ => .next (.forAll (.refl s) fun _ _ h => Keeps.updEvin h ..)) fun _ => .next (.refl s)


/-- The outcome is a next state, to which the state advances. -/
def AdvancesNext (s : State) (o : Host.Outcome State Fault Refusal) : Prop := ∃ t, o = .next t ∧ Advances s t

theorem AdvancesNext.of_keeps {o : Host.Outcome State Fault Refusal} (h : KeepsNext s o) : AdvancesNext s o := by
  obtain ⟨t, ho, hk⟩ := h
  exact ⟨t, ho, .of_keeps hk⟩


/-- Every row but LIFECYCLE_SET keeps what `Keeps` lists; that one advances the life cycle by one state. -/
theorem exists_exec_advances (i : Instr) (s : State) : AdvancesNext s (exec i s) := by
  cases i with
  | rstNAssert ns => exact .of_keeps (execRstNAssert_keeps ns s)
  | resetCtlWrite v => exact .of_keeps (execResetCtlWrite_keeps v s)
  | brownOut rail => exact .of_keeps (execBrownOut_keeps rail s)
  | dcoSupply r => exact .of_keeps (execDcoSupply_keeps r s)
  | supplyWindow rail mv => exact .of_keeps (execSupplyWindow_keeps rail mv s)
  | supplyHoldRelease r => exact .of_keeps (execSupplyHoldRelease_keeps r s)
  | undervolt mv => exact .of_keeps (execUndervolt_keeps mv s)
  | paceConfirm mv => exact .of_keeps (execPaceConfirm_keeps mv s)
  | paceConfirmTimeout mv => exact .of_keeps (execPaceConfirmTimeout_keeps mv s)
  | paceCtlModeWrite v voutMode => exact .of_keeps (execPaceCtlModeWrite_keeps v voutMode s)
  | pmAlertNAssert status => exact .of_keeps (execPmAlertNAssert_keeps status s)
  | sensorConversion b t => exact .of_keeps (execSensorConversion_keeps b t s)
  | railBackInWindow rail mv => exact .of_keeps (execRailBackInWindow_keeps rail mv s)
  | rcWindowEnd count => exact .of_keeps (execRcWindowEnd_keeps count s)
  | refinWindowEnd count256 => exact .of_keeps (execRefinWindowEnd_keeps count256 s)
  | uplinkWindowEnd count256 => exact .of_keeps (execUplinkWindowEnd_keeps count256 s)
  | activityMonitorFire src => exact .of_keeps (execActivityMonitorFire_keeps src s)
  | refinCfgWrite v => exact .of_keeps (execRefinCfgWrite_keeps v s)
  | refinFreqCommit hi => exact .of_keeps (execRefinFreqCommit_keeps hi s)
  | refCtlSrcWrite r v => exact .of_keeps (execRefCtlSrcWrite_keeps r v s)
  | refCtlBwWrite r v => exact .of_keeps (execRefCtlBwWrite_keeps r v s)
  | muxChangeover r present => exact .of_keeps (execMuxChangeover_keeps r present s)
  | muxWatchdog r present => exact .of_keeps (execMuxWatchdog_keeps r present s)
  | relockFail p => exact .of_keeps (execRelockFail_keeps p s)
  | holdoverLong r => exact .of_keeps (execHoldoverLong_keeps r s)
  | borrowDelayExpiry r => exact .of_keeps (execBorrowDelayExpiry_keeps r s)
  | rrpLocked r => exact .of_keeps (execRrpLocked_keeps r s)
  | realigned r => exact .of_keeps (execRealigned_keeps r s)
  | timeWrap r => exact .of_keeps (execTimeWrap_keeps r s)
  | regionRealignTick r => exact .of_keeps (execRegionRealignTick_keeps r s)
  | unitResetEnd scope index => exact .of_keeps (execUnitResetEnd_keeps scope index s)
  | cellCtlEnSet p v => exact .of_keeps (execCellCtlEnSet_keeps p v s)
  | cellCtlEnClear p v => exact .of_keeps (execCellCtlEnClear_keeps p v s)
  | cellCtlOutEnSet p v => exact .of_keeps (execCellCtlOutEnSet_keeps p v s)
  | cellCtlOutEnClear p v => exact .of_keeps (execCellCtlOutEnClear_keeps p v s)
  | cellCtlMuteSet p v => exact .of_keeps (execCellCtlMuteSet_keeps p v s)
  | cellCtlMuteClear p v => exact .of_keeps (execCellCtlMuteClear_keeps p v s)
  | cellCtlHoldSet p v => exact .of_keeps (execCellCtlHoldSet_keeps p v s)
  | cellCtlHoldClear p v => exact .of_keeps (execCellCtlHoldClear_keeps p v s)
  | fcwIntCommit p v => exact .of_keeps (execFcwIntCommit_keeps p v s)
  | lowDivCommit p v => exact .of_keeps (execLowDivCommit_keeps p v s)
  | phaseHiCommit p v => exact .of_keeps (execPhaseHiCommit_keeps p v s)
  | outCfgWrite p v => exact .of_keeps (execOutCfgWrite_keeps p v s)
  | loopBwWrite p v => exact .of_keeps (execLoopBwWrite_keeps p v s)
  | lockThrWrite p v => exact .of_keeps (execLockThrWrite_keeps p v s)
  | lockCntWrite p v => exact .of_keeps (execLockCntWrite_keeps p v s)
  | engCtlRun p v => exact .of_keeps (execEngCtlRun_keeps p v s)
  | engCtlStop p v => exact .of_keeps (execEngCtlStop_keeps p v s)
  | engCtlStep p v => exact .of_keeps (execEngCtlStep_keeps p v s)
  | bandSearchEnd p found band fine => exact .of_keeps (execBandSearchEnd_keeps p found band fine s)
  | bandSwitchSettled p => exact .of_keeps (execBandSwitchSettled_keeps p s)
  | gearPeriodEnd p => exact .of_keeps (execGearPeriodEnd_keeps p s)
  | slewPeriod p => exact .of_keeps (execSlewPeriod_keeps p s)
  | dividerChangeover p => exact .of_keeps (execDividerChangeover_keeps p s)
  | hopRetime p => exact .of_keeps (execHopRetime_keeps p s)
  | retimeFirstRise p => exact .of_keeps (execRetimeFirstRise_keeps p s)
  | toutMuteAtFall p => exact .of_keeps (execToutMuteAtFall_keeps p s)
  | toutActiveAtAnchor p => exact .of_keeps (execToutActiveAtAnchor_keeps p s)
  | toutDisableDelay p => exact .of_keeps (execToutDisableDelay_keeps p s)
  | lockDeclared p fine pherr => exact .of_keeps (execLockDeclared_keeps p fine pherr s)
  | lockLoss p pherr => exact .of_keeps (execLockLoss_keeps p pherr s)
  | fineCodeRail p fine => exact .of_keeps (execFineCodeRail_keeps p fine s)
  | acqTimeout p => exact .of_keeps (execAcqTimeout_keeps p s)
  | hintStale p => exact .of_keeps (execHintStale_keeps p s)
  | drvFault p legs => exact .of_keeps (execDrvFault_keeps p legs s)
  | learnWriteback p => exact .of_keeps (execLearnWriteback_keeps p s)
  | profileFetchComplete p soft => exact .of_keeps (execProfileFetchComplete_keeps p soft s)
  | hopEffectEdge p => exact .of_keeps (execHopEffectEdge_keeps p s)
  | arbiterGrant b => exact .of_keeps (execArbiterGrant_keeps b s)
  | changeoverEdge b => exact .of_keeps (execChangeoverEdge_keeps b s)
  | selectorSwitch b => exact .of_keeps (execSelectorSwitch_keeps b s)
  | seatingTimeout b => exact .of_keeps (execSeatingTimeout_keeps b s)
  | halt p => exact .of_keeps (execHalt_keeps p s)
  | nop p => exact .of_keeps (execNop_keeps p s)
  | hopInstr p => exact .of_keeps (execHopInstr_keeps p s)
  | hopl p => exact .of_keeps (execHopl_keeps p s)
  | waitc p => exact .of_keeps (execWaitc_keeps p s)
  | waitt p => exact .of_keeps (execWaitt_keeps p s)
  | waite p => exact .of_keeps (execWaite_keeps p s)
  | sync p => exact .of_keeps (execSync_keeps p s)
  | mark p => exact .of_keeps (execMark_keeps p s)
  | phs p => exact .of_keeps (execPhs_keeps p s)
  | seto p => exact .of_keeps (execSeto_keeps p s)
  | loop p => exact .of_keeps (execLoop_keeps p s)
  | endl p => exact .of_keeps (execEndl_keeps p s)
  | jmp p => exact .of_keeps (execJmp_keeps p s)
  | brl p => exact .of_keeps (execBrl_keeps p s)
  | irq p => exact .of_keeps (execIrq_keeps p s)
  | ext p => exact .of_keeps (execExt_keeps p s)
  | illegalOpcode p => exact .of_keeps (execIllegalOpcode_keeps p s)
  | engineRunaway p => exact .of_keeps (execEngineRunaway_keeps p s)
  | engineLate p => exact .of_keeps (execEngineLate_keeps p s)
  | waitTimeout p => exact .of_keeps (execWaitTimeout_keeps p s)
  | heldRecordPost acq i0 => exact .of_keeps (execHeldRecordPost_keeps acq i0 s)
  | tiuCtlArm t v => exact .of_keeps (execTiuCtlArm_keeps t v s)
  | tiuCtlAbort t => exact .of_keeps (execTiuCtlAbort_keeps t s)
  | gateCommit t hi => exact .of_keeps (execGateCommit_keeps t hi s)
  | tiuPrecalDone t a1 a2 b1 b2 => exact .of_keeps (execTiuPrecalDone_keeps t a1 a2 b1 b2 s)
  | tiuReadyAtTime t => exact .of_keeps (execTiuReadyAtTime_keeps t s)
  | tiuSourceEdge t stop code => exact .of_keeps (execTiuSourceEdge_keeps t stop code s)
  | tiuResult t => exact .of_keeps (execTiuResult_keeps t s)
  | tiuTimeout t => exact .of_keeps (execTiuTimeout_keeps t s)
  | evinCtlWrite i0 v => exact .of_keeps (execEvinCtlWrite_keeps i0 v s)
  | thresholdWrite i0 hi v => exact .of_keeps (execThresholdWrite_keeps i0 hi v s)
  | evinEnableSettle i0 => exact .of_keeps (execEvinEnableSettle_keeps i0 s)
  | evinComparatorChange r slot chg => exact .of_keeps (execEvinComparatorChange_keeps r slot chg s)
  | triggerQuietTime r slot n => exact .of_keeps (execTriggerQuietTime_keeps r slot n s)
  | trigRegisterWrite r off v => exact .of_keeps (execTrigRegisterWrite_keeps r off v s)
  | acqCtlArm r v => exact .of_keeps (execAcqCtlArm_keeps r v s)
  | acqCtlStop r => exact .of_keeps (execAcqCtlStop_keeps r s)
  | acqStartEdge r => exact .of_keeps (execAcqStartEdge_keeps r s)
  | postTimeExpiry r => exact .of_keeps (execPostTimeExpiry_keeps r s)
  | rearmEnd r => exact .of_keeps (execRearmEnd_keeps r s)
  | gapClose r slot => exact .of_keeps (execGapClose_keeps r slot s)
  | streamPacketSend r => exact .of_keeps (execStreamPacketSend_keeps r s)
  | mbxPushWrite w => exact .of_keeps (execMbxPushWrite_keeps w s)
  | mbxDoorbellWrite w => exact .of_keeps (execMbxDoorbellWrite_keeps w s)
  | continuationResume tag => exact .of_keeps (execContinuationResume_keeps tag s)
  | unknownOpcode tag => exact .of_keeps (execUnknownOpcode_keeps tag s)
  | deadlineExpiry tag => exact .of_keeps (execDeadlineExpiry_keeps tag s)
  | mpLockstep addr => exact .of_keeps (execMpLockstep_keeps addr s)
  | mpRamEcc addr => exact .of_keeps (execMpRamEcc_keeps addr s)
  | fabricDeadlock seg unit => exact .of_keeps (execFabricDeadlock_keeps seg unit s)
  | registerScrub addr bad => exact .of_keeps (execRegisterScrub_keeps addr bad s)
  | eccScrub r mem addr uncorr bad => exact .of_keeps (execEccScrub_keeps r mem addr uncorr bad s)
  | mirrorWrite ok => exact .of_keeps (execMirrorWrite_keeps ok s)
  | info tag => exact .of_keeps (execInfo_keeps tag s)
  | reset tag => exact .of_keeps (execReset_keeps tag s)
  | paceSet tag => exact .of_keeps (execPaceSet_keeps tag s)
  | tempRead tag => exact .of_keeps (execTempRead_keeps tag s)
  | refSelect tag => exact .of_keeps (execRefSelect_keeps tag s)
  | refQualify tag => exact .of_keeps (execRefQualify_keeps tag s)
  | rrpConfig tag => exact .of_keeps (execRrpConfig_keeps tag s)
  | timeRead tag => exact .of_keeps (execTimeRead_keeps tag s)
  | epochSet tag => exact .of_keeps (execEpochSet_keeps tag s)
  | cellEnable tag => exact .of_keeps (execCellEnable_keeps tag s)
  | profileWrite tag => exact .of_keeps (execProfileWrite_keeps tag s)
  | profileRead tag soft => exact .of_keeps (execProfileRead_keeps tag soft s)
  | hop tag => exact .of_keeps (execHop_keeps tag s)
  | phaseSet tag => exact .of_keeps (execPhaseSet_keeps tag s)
  | outConfig tag => exact .of_keeps (execOutConfig_keeps tag s)
  | lockConfig tag => exact .of_keeps (execLockConfig_keeps tag s)
  | cellStatus tag => exact .of_keeps (execCellStatus_keeps tag s)
  | progLoad tag => exact .of_keeps (execProgLoad_keeps tag s)
  | engineStart tag => exact .of_keeps (execEngineStart_keeps tag s)
  | engineStop tag => exact .of_keeps (execEngineStop_keeps tag s)
  | engineStatus tag => exact .of_keeps (execEngineStatus_keeps tag s)
  | hoptablePartition tag => exact .of_keeps (execHoptablePartition_keeps tag s)
  | partitionComplete r => exact .of_keeps (execPartitionComplete_keeps r s)
  | planCheck tag => exact .of_keeps (execPlanCheck_keeps tag s)
  | tiuConfig tag => exact .of_keeps (execTiuConfig_keeps tag s)
  | tiuArm tag => exact .of_keeps (execTiuArm_keeps tag s)
  | freqMeasure tag => exact .of_keeps (execFreqMeasure_keeps tag s)
  | tiuRead tag => exact .of_keeps (execTiuRead_keeps tag s)
  | evinConfig tag => exact .of_keeps (execEvinConfig_keeps tag s)
  | trigConfig tag => exact .of_keeps (execTrigConfig_keeps tag s)
  | acqArm tag => exact .of_keeps (execAcqArm_keeps tag s)
  | acqStop tag => exact .of_keeps (execAcqStop_keeps tag s)
  | acqRead tag soft => exact .of_keeps (execAcqRead_keeps tag soft s)
  | acqStream tag => exact .of_keeps (execAcqStream_keeps tag s)
  | calRun tag => exact .of_keeps (execCalRun_keeps tag s)
  | calUnitMeasured b pinOk meas => exact .of_keeps (execCalUnitMeasured_keeps b pinOk meas s)
  | calStatus tag => exact .of_keeps (execCalStatus_keeps tag s)
  | calCommit tag => exact .of_keeps (execCalCommit_keeps tag s)
  | calCommitWritten ok => exact .of_keeps (execCalCommitWritten_keeps ok s)
  | calDeferredApply r => exact .of_keeps (execCalDeferredApply_keeps r s)
  | calApplicationEdge r => exact .of_keeps (execCalApplicationEdge_keeps r s)
  | calExport tag => exact .of_keeps (execCalExport_keeps tag s)
  | calImportTh64 tag => exact .of_keeps (execCalImportTh64_keeps tag s)
  | bistRun tag => exact .of_keeps (execBistRun_keeps tag s)
  | bistTestsDone b outs dur => exact .of_keeps (execBistTestsDone_keeps b outs dur s)
  | offlineStart r => exact .of_keeps (execOfflineStart_keeps r s)
  | offlineRestore r outs dur => exact .of_keeps (execOfflineRestore_keeps r outs dur s)
  | bistResult tag => exact .of_keeps (execBistResult_keeps tag s)
  | repairApply tag => exact .of_keeps (execRepairApply_keeps tag s)
  | repairBurn tag => exact .of_keeps (execRepairBurn_keeps tag s)
  | fuseEntryBurned ok => exact .of_keeps (execFuseEntryBurned_keeps ok s)
  | idRead tag => exact .of_keeps (execIdRead_keeps tag s)
  | certRead tag => exact .of_keeps (execCertRead_keeps tag s)
  | hallmark tag => exact .of_keeps (execHallmark_keeps tag s)
  | sessionOpen tag => exact .of_keeps (execSessionOpen_keeps tag s)
  | sessionEnd tag => exact .of_keeps (execSessionEnd_keeps tag s)
  | pinSet tag => exact .of_keeps (execPinSet_keeps tag s)
  | protSet tag => exact .of_keeps (execProtSet_keeps tag s)
  | protRead tag => exact .of_keeps (execProtRead_keeps tag s)
  | lifecycleSet tag => exact exists_execLifecycleSet_advances tag s
  | ownerTransfer tag => exact .of_keeps (execOwnerTransfer_keeps tag s)
  | lifecycleWipeDone ok => exact .of_keeps (execLifecycleWipeDone_keeps ok s)
  | treeScan tag found => exact .of_keeps (execTreeScan_keeps tag found s)
  | treeStatus tag ans => exact .of_keeps (execTreeStatus_keeps tag ans s)
  | treeTunnel tag joined => exact .of_keeps (execTreeTunnel_keeps tag joined s)
  | regRead tag => exact .of_keeps (execRegRead_keeps tag s)
  | regWrite tag => exact .of_keeps (execRegWrite_keeps tag s)
  | loupe tag => exact .of_keeps (execLoupe_keeps tag s)
  | faultLogRead tag => exact .of_keeps (execFaultLogRead_keeps tag s)
  | fwInfo tag => exact .of_keeps (execFwInfo_keeps tag s)
  | fwUpdateBegin tag => exact .of_keeps (execFwUpdateBegin_keeps tag s)
  | fwUpdateData tag => exact .of_keeps (execFwUpdateData_keeps tag s)
  | fwUpdateEnd tag => exact .of_keeps (execFwUpdateEnd_keeps tag s)
  | nullFrame bits => exact .of_keeps (execNullFrame_keeps bits s)
  | readFrame bits late => exact .of_keeps (execReadFrame_keeps bits late s)
  | writeFrame bits => exact .of_keeps (execWriteFrame_keeps bits s)
  | hostCfgWrite v => exact .of_keeps (execHostCfgWrite_keeps v s)
  | claspWrite v => exact .of_keeps (execClaspWrite_keeps v s)
  | rwcWrite addr v => exact .of_keeps (execRwcWrite_keeps addr v s)
  | sqcRead addr => exact .of_keeps (execSqcRead_keeps addr s)
  | sqcWriteBack addr v => exact .of_keeps (execSqcWriteBack_keeps addr v s)
  | wo1Write addr v => exact .of_keeps (execWo1Write_keeps addr v s)
  | bitAliasWrite addr v => exact .of_keeps (execBitAliasWrite_keeps addr v s)
  | snapshotRead addr => exact .of_keeps (execSnapshotRead_keeps addr s)
  | registerWrite addr v => exact .of_keeps (execRegisterWrite_keeps addr v s)
  | flashCmdGo v resp eff => exact .of_keeps (execFlashCmdGo_keeps v resp eff s)
  | flashDataWrite v => exact .of_keeps (execFlashDataWrite_keeps v s)
  | flashSelWrite v => exact .of_keeps (execFlashSelWrite_keeps v s)
  | flashCfgWrite v => exact .of_keeps (execFlashCfgWrite_keeps v s)
  | flashWindowRead a => exact .of_keeps (execFlashWindowRead_keeps a s)
  | flashWindowWrite a bytes => exact .of_keeps (execFlashWindowWrite_keeps a bytes s)
  | flashWipPoll wip => exact .of_keeps (execFlashWipPoll_keeps wip s)
  | signalDetect i0 => exact .of_keeps (execSignalDetect_keeps i0 s)
  | blockLock i0 => exact .of_keeps (execBlockLock_keeps i0 s)
  | identBlockReceive i0 serial3 role depth path => exact .of_keeps (execIdentBlockReceive_keeps i0 serial3 role depth path s)
  | measureComplete i0 oneway asymInt => exact .of_keeps (execMeasureComplete_keeps i0 oneway asymInt s)
  | invalidBlock i0 badHeader => exact .of_keeps (execInvalidBlock_keeps i0 badHeader s)
  | lossOfSignal i0 => exact .of_keeps (execLossOfSignal_keeps i0 s)
  | plCtlRetrain i0 => exact .of_keeps (execPlCtlRetrain_keeps i0 s)
  | timeExchange i0 => exact .of_keeps (execTimeExchange_keeps i0 s)
  | timeBlockReceive i0 t1 t2 t3 t4 parentAligned => exact .of_keeps (execTimeBlockReceive_keeps i0 t1 t2 t3 t4 parentAligned s)
  | eventBlockReceive i0 m edge10 => exact .of_keeps (execEventBlockReceive_keeps i0 m edge10 s)
  | eventDelivery m edge => exact .of_keeps (execEventDelivery_keeps m edge s)
  | tevEdge i0 rising => exact .of_keeps (execTevEdge_keeps i0 rising s)
  | epochBlockReceive value tl => exact .of_keeps (execEpochBlockReceive_keeps value tl s)
  | joinBlockReceive boundary => exact .of_keeps (execJoinBlockReceive_keeps boundary s)
  | joinBoundary parentTime diffPs => exact .of_keeps (execJoinBoundary_keeps parentTime diffPs s)
  | tunnelFrameReceive i0 path up words => exact .of_keeps (execTunnelFrameReceive_keeps i0 path up words s)
  | streamPacketReceive i0 path r strand lost words => exact .of_keeps (execStreamPacketReceive_keeps i0 path r strand lost words s)
  | creditBlockReceive i0 n => exact .of_keeps (execCreditBlockReceive_keeps i0 n s)
  | jtagInstructionUpdate code => exact .of_keeps (execJtagInstructionUpdate_keeps code s)
  | th64CtlWrite r v => exact .of_keeps (execTh64CtlWrite_keeps r v s)
  | powerOnResetRelease => exact .of_keeps (execPowerOnResetRelease_keeps s)
  | rstNRelease => exact .of_keeps (execRstNRelease_keeps s)
  | wipeEnd => exact .of_keeps (execWipeEnd_keeps s)
  | xoQualTimeout => exact .of_keeps (execXoQualTimeout_keeps s)
  | firmwareStart => exact .of_keeps (execFirmwareStart_keeps s)
  | readyAssert => exact .of_keeps (execReadyAssert_keeps s)
  | frstNRelease => exact .of_keeps (execFrstNRelease_keeps s)
  | paceDrainEnd => exact .of_keeps (execPaceDrainEnd_keeps s)
  | thermRelease => exact .of_keeps (execThermRelease_keeps s)
  | hoursTick => exact .of_keeps (execHoursTick_keeps s)
  | epochLoad => exact .of_keeps (execEpochLoad_keeps s)
  | selfTestSlotGrant => exact .of_keeps (execSelfTestSlotGrant_keeps s)
  | batchParse => exact .of_keeps (execBatchParse_keeps s)
  | parseResume => exact .of_keeps (execParseResume_keeps s)
  | mbxPopRead => exact .of_keeps (execMbxPopRead_keeps s)
  | coalesceAgeExpiry => exact .of_keeps (execCoalesceAgeExpiry_keeps s)
  | mpWatchdog => exact .of_keeps (execMpWatchdog_keeps s)
  | mpRestart => exact .of_keeps (execMpRestart_keeps s)
  | chipWatchdog => exact .of_keeps (execChipWatchdog_keeps s)
  | logOverflow => exact .of_keeps (execLogOverflow_keeps s)
  | pinFailDelayEnd => exact .of_keeps (execPinFailDelayEnd_keeps s)
  | challengeExpiry => exact .of_keeps (execChallengeExpiry_keeps s)
  | emptyFrame => exact .of_keeps (execEmptyFrame_keeps s)
  | claspTimeout => exact .of_keeps (execClaspTimeout_keeps s)
  | flashDataRead => exact .of_keeps (execFlashDataRead_keeps s)
  | flashPollTimeout => exact .of_keeps (execFlashPollTimeout_keeps s)
  | tunnelDeliver => exact .of_keeps (execTunnelDeliver_keeps s)
  | tapReset => exact .of_keeps (execTapReset_keeps s)

/-- A step of any state answers a next state to which it advances: the queue's rest is none of what is kept. -/
theorem step_advances (s : State) : AdvancesNext s (step s) := by
  unfold step
  split
  · exact .of_keeps (.next (idleEdge_keeps (.refl s)))
  · rename_i c rest _
    obtain ⟨t, ht, h⟩ := exists_exec_advances c { s with pending := rest }
    exact ⟨t, ht, h.fuses, h.factory, h.lc_le, h.lc_le_succ, h.epoch, h.mem, h.log, h.cq⟩

theorem advances_of_step (h : step s = .next t) : Advances s t := by
  obtain ⟨t', ht', ha⟩ := step_advances s
  rw [h] at ht'
  cases ht'
  exact ha

/-- Settles O47: no row puts an entry out of canonical form (`step_advances`). -/
theorem memoriesStayCanonical : Obligations.MemoriesStayCanonical :=
  fun _ _ hmem hstep => (advances_of_step hstep).mem hmem

/-- Settles O48: no row but LIFECYCLE_SET moves the life cycle, none the fuses or the factory's items. -/
theorem fusesAndIdentityNeverChange : Obligations.FusesAndIdentityNeverChange := by
  intro s t hstep
  obtain ⟨hfuses, hfactory, hle, hsucc, hepoch, -, -, -⟩ := advances_of_step hstep
  exact ⟨hfuses, hfactory, hle, hsucc, hepoch⟩

/-- Settles O49: a record that finds the FIFO full is counted, and the ring drops its oldest entry. -/
theorem faultLogKeepsItsDepths : Obligations.FaultLogKeepsItsDepths :=
  fun _ _ hlog hstep => (advances_of_step hstep).log hlog

/-- Settles O50: a record enters the queue on a command's reservation or on free room. -/
theorem completionQueueKeepsItsReservations : Obligations.CompletionQueueKeepsItsReservations :=
  fun _ _ hcq hstep => (advances_of_step hstep).cq hcq

/-- Settles O45: every row, and the idle edge, answers a next state. -/
theorem everyCommandCompletes : Obligations.EveryCommandCompletes := by
  intro s
  obtain ⟨t, ht, -⟩ := step_advances s
  exact ⟨t, ht⟩

theorem reset_thresholds_ordered (i : Nat) : (State.reset.evin i).thrLo.toNat ≤ (State.reset.evin i).thrHi.toNat := by
  simp [State.evin, State.reset, tabGet_nil]

/-- Settles O46: the memories, the queue and the logs of the reset state are empty. -/
theorem resetMeetsTheInvariants : Obligations.ResetMeetsTheInvariants :=
  ⟨by decide, by decide, by decide, by decide, reset_thresholds_ordered⟩

/-- Settles O1, by the definition of a step. -/
theorem stepTakesTheFrontCommand : Obligations.StepTakesTheFrontCommand :=
  ⟨fun _ _ _ => rfl, fun _ => rfl⟩

/-- Settles O2: the tables of the reset state are empty, so each unit has its initial value. -/
theorem resetLeavesTheStatedValues : Obligations.ResetLeavesTheStatedValues := by
  refine ⟨rfl, rfl, rfl, rfl, rfl, fun r => ?region, fun p => ?cell, fun t => ?tiu, rfl, rfl, rfl, rfl, rfl, rfl, rfl, rfl, rfl,
    fun a => ?mem⟩
  case region => exact ⟨rfl, rfl, rfl, rfl⟩
  case cell => exact ⟨rfl, rfl, rfl, rfl, rfl, rfl⟩
  case tiu => exact ⟨rfl, rfl⟩
  case mem => exact ⟨rfl, rfl⟩

end Sys2Proof.Claims
end

section
/-! SUPPORT. The mailbox's queue of words and its parser. -/
namespace Sys2Proof.Claims
open Sys2Proof Sys2Proof.Machine
variable {s : State} {tag : Nat}

/-- A discard counts words, and of the mailbox it changes that count alone. -/
theorem discardWords_mbx (s : State) (n : Nat) :
    (discardWords s n).mbx = { s.mbx with discard := satAdd 0x3FFFF s.mbx.discard n } := by
  simp only [discardWords]
  split <;> rfl

/-- Nothing is parsed of an empty batch. -/
theorem parseBatch_nil (tun : Bool) (n : Nat) (s : State) : parseBatch tun n [] s = ([], s) := by
  cases n <;> rfl

theorem parseBatch_length_of_go {ws rest : List Word} {s1 : State} (tun : Bool) (hne : ws ≠ []) (hgo : parseOne s ws tun = .go rest s1)
    (hrest : rest = []) : parseBatch tun ws.length ws s = ([], s1) := by
  obtain ⟨w, ws, rfl⟩ := List.exists_cons_of_ne_nil hne
  subst hrest
  simp [parseBatch, hgo, parseBatch_nil]

theorem malformed_nil : malformed [] = true := rfl

/-- A well-formed descriptor of a free tag is accepted, and the parser goes on behind its words (R234). -/
theorem parseOne_accepted {ws : List Word} {tun : Bool} (hroom : cqFree s ≠ 0) (hform : malformed ws = false)
    (htag : tagInFlight s (cmdOf ws tun).tag = false) :
    parseOne s ws tun = .go (ws.drop (cmdOf ws tun).len) { s with mbx.cmds := s.mbx.cmds ++ [cmdOf ws tun] } := by
  simp [parseOne, hroom, hform, htag]

/-- A malformed descriptor is answered BADARG, and the rest of its batch is discarded with event 3 (R235). -/
theorem parseOne_malformed {ws : List Word} {tun : Bool} (hroom : cqFree s ≠ 0) (hform : malformed ws = true)
    (htag : tagInFlight s (cmdOf ws tun).tag = false) :
    parseOne s ws tun
      = .go [] ((discardWords (recordOut s tun (cmdRecord (cmdOf ws tun) BADARG false [])) (ws.length - 3)).postMbx 3) := by
  simp [parseOne, hroom, hform, htag]

/-- Parsing the one batch waiting, when it holds one well-formed descriptor of a free tag. -/
theorem parseAll_accepted {b : List Word} (hroom : cqFree s ≠ 0) (hform : malformed b = false)
    (htag : tagInFlight s (cmdOf b false).tag = false) (hlen : fld (b.getD 2 0) 0 5 = b.length) :
    parseAll [b] s = { s with mbx.cmds := s.mbx.cmds ++ [cmdOf b false], mbx.unparsed := [] } := by
  have hne : b ≠ [] := fun h => by rw [h, malformed_nil] at hform; cases hform
  have hdrop : b.drop (cmdOf b false).len = [] := List.drop_of_length_le hlen.ge
  simp only [parseAll, parseBatch_length_of_go false hne (parseOne_accepted hroom hform htag) hdrop]

theorem parseAll_malformed {b : List Word} (hne : b ≠ []) (hroom : cqFree s ≠ 0) (hform : malformed b = true)
    (htag : tagInFlight s (cmdOf b false).tag = false) :
    parseAll [b] s = { (discardWords (recordOut s false (cmdRecord (cmdOf b false) BADARG false [])) (b.length - 3)).postMbx 3 with
      mbx.unparsed := [] } := by
  simp only [parseAll, parseBatch_length_of_go false hne (parseOne_malformed hroom hform htag) rfl]

/-- A stream with no record left completes its command. -/
theorem pump_of_done {n st : Nat} {c : Cmd} {res : List Word} (hc : findCmd s tag = some c) (hout : c.out = some (n, [], st, res))
    (hstream : s.mbx.streaming = none ∨ s.mbx.streaming = some tag) : pump s tag = complete s tag st res := by
  simp only [pump, hc, hout, if_pos hstream, pumpGo]

/-- Settles O30, a clause for each of the mailbox's rows. -/
theorem theMailboxQueuesParsesAndPops : Obligations.TheMailboxQueuesParsesAndPops := by
  unfold Obligations.TheMailboxQueuesParsesAndPops
  refine ⟨?pushed, ?full, ?rung, ?miscounted, ?empty, ?accepted, ?malformed, ?resumed, ?noRoom, ?popped, ?moved, ?aged, ?streamed,
    ?unknown, ?late⟩
  case pushed =>
    intro w s hport hfree
    change Host.Outcome.next (if s.pwr.wiped then pushWord s w else s) = _
    rw [if_pos hport, pushWord, if_neg hfree]
  case full =>
    intro w s hport hfull
    refine ⟨(discardWords { s with mbx.batchBad := true } 1).postMbx 1, ?_, ?_⟩
    · change Host.Outcome.next (if s.pwr.wiped then pushWord s w else s) = _
      rw [if_pos hport, pushWord, if_pos hfull]
    · simp [State.postMbx, discardWords_mbx]
  case rung =>
    intro w s hport hne hgood hcount
    change Host.Outcome.next (if s.pwr.wiped then ringDoorbell s w else s) = _
    simp [hport, ringDoorbell, hne, hgood, hcount]
  case miscounted =>
    intro w s hport hne hcount
    refine ⟨(discardWords { s with mbx.batch := [], mbx.batchBad := false } s.mbx.batch.length).postMbx 2, ?_, ?_⟩
    · change Host.Outcome.next (if s.pwr.wiped then ringDoorbell s w else s) = _
      simp [hport, ringDoorbell, hne, hcount]
    · simp [State.postMbx, discardWords_mbx]
  case empty =>
    intro w s hnil hzero
    change Host.Outcome.next (if s.pwr.wiped then ringDoorbell s w else s) = _
    simp [ringDoorbell, hnil, hzero]
  case accepted =>
    intro b s hone hroom hform htag hlen
    change Host.Outcome.next (parseAll s.mbx.unparsed s) = _
    rw [hone, parseAll_accepted hroom hform htag hlen]
  case malformed =>
    intro b s hone hne hroom hform htag
    have hparse := (congrArg (parseAll · s) hone).trans (parseAll_malformed hne hroom hform htag)
    refine ⟨_, congrArg Host.Outcome.next hparse, ?_⟩
    simp [State.postMbx, discardWords_mbx, recordOut, cqPush]
  case resumed =>
    intro b s hone hroom hform htag hlen
    change Host.Outcome.next (if 0 < cqFree s then parseAll s.mbx.unparsed s else s) = _
    rw [if_pos (Nat.pos_of_ne_zero hroom), hone, parseAll_accepted hroom hform htag hlen]
  case noRoom =>
    intro s hfull
    change Host.Outcome.next (if 0 < cqFree s then parseAll s.mbx.unparsed s else s) = _
    rw [if_neg (by omega)]
  case popped =>
    intro r rs s hport hcq hlast
    change Host.Outcome.next (if s.pwr.wiped then popStep s else s) = _
    simp only [hport, if_true, popStep, hcq, if_pos hlast]
  case moved =>
    intro s hport hne hpos
    obtain ⟨r, rs, hcq⟩ := List.exists_cons_of_ne_nil hne
    change Host.Outcome.next (if s.pwr.wiped then popStep s else s) = _
    simp only [hport, if_true, popStep, hcq, if_neg hpos]
  case aged =>
    intro s hne htime
    exact congrArg _ (if_pos ⟨hne, htime⟩)
  case streamed =>
    intro s tag n st c res hc hout hstream
    exact congrArg _ (pump_of_done hc hout hstream)
  case unknown =>
    intro s tag c hc hform hmay
    change execUnknownOpcode tag s = _
    simp [execUnknownOpcode, hc, hform, hmay]
  case late =>
    intro s tag c hc hrestart hst hdeadline
    change execDeadlineExpiry tag s = _
    simp [execDeadlineExpiry, hc, hrestart, hst, hdeadline]

end Sys2Proof.Claims
end

section
/-! SUPPORT. A command that begins: what its state keeps, how LOCKET's commands run, and how a completion answers it. -/
namespace Sys2Proof.Claims
open Sys2Proof Sys2Proof.Machine
variable {s t : State} {tag op : Nat} {c : Cmd}

/-! The mark of execution changes the mailbox alone. -/

@[simp] theorem begun_pending (s : State) (tag : Nat) : (begun s tag).pending = s.pending := rfl
@[simp] theorem begun_free (s : State) (tag : Nat) : (begun s tag).free = s.free := rfl
@[simp] theorem begun_fuses (s : State) (tag : Nat) : (begun s tag).fuses = s.fuses := rfl
@[simp] theorem begun_pwr (s : State) (tag : Nat) : (begun s tag).pwr = s.pwr := rfl
@[simp] theorem begun_pace (s : State) (tag : Nat) : (begun s tag).pace = s.pace := rfl
@[simp] theorem begun_ref (s : State) (tag : Nat) : (begun s tag).ref = s.ref := rfl
@[simp] theorem begun_regions (s : State) (tag : Nat) : (begun s tag).regions = s.regions := rfl
@[simp] theorem begun_rmem (s : State) (tag : Nat) : (begun s tag).rmem = s.rmem := rfl
@[simp] theorem begun_blocks (s : State) (tag : Nat) : (begun s tag).blocks = s.blocks := rfl
@[simp] theorem begun_cells (s : State) (tag : Nat) : (begun s tag).cells = s.cells := rfl
@[simp] theorem begun_tius (s : State) (tag : Nat) : (begun s tag).tius = s.tius := rfl
@[simp] theorem begun_evins (s : State) (tag : Nat) : (begun s tag).evins = s.evins := rfl
@[simp] theorem begun_acqs (s : State) (tag : Nat) : (begun s tag).acqs = s.acqs := rfl
@[simp] theorem begun_profiles (s : State) (tag : Nat) : (begun s tag).profiles = s.profiles := rfl
@[simp] theorem begun_hopTab (s : State) (tag : Nat) : (begun s tag).hopTab = s.hopTab := rfl
@[simp] theorem begun_flt (s : State) (tag : Nat) : (begun s tag).flt = s.flt := rfl
@[simp] theorem begun_hc (s : State) (tag : Nat) : (begun s tag).hc = s.hc := rfl
@[simp] theorem begun_cal (s : State) (tag : Nat) : (begun s tag).cal = s.cal := rfl
@[simp] theorem begun_bist (s : State) (tag : Nat) : (begun s tag).bist = s.bist := rfl
@[simp] theorem begun_hp (s : State) (tag : Nat) : (begun s tag).hp = s.hp := rfl
@[simp] theorem begun_fl (s : State) (tag : Nat) : (begun s tag).fl = s.fl := rfl
@[simp] theorem begun_boot (s : State) (tag : Nat) : (begun s tag).boot = s.boot := rfl
@[simp] theorem begun_lk (s : State) (tag : Nat) : (begun s tag).lk = s.lk := rfl
@[simp] theorem begun_sec (s : State) (tag : Nat) : (begun s tag).sec = s.sec := rfl
@[simp] theorem begun_ports (s : State) (tag : Nat) : (begun s tag).ports = s.ports := rfl
@[simp] theorem begun_tree (s : State) (tag : Nat) : (begun s tag).tree = s.tree := rfl
@[simp] theorem begun_pins (s : State) (tag : Nat) : (begun s tag).pins = s.pins := rfl
@[simp] theorem begun_evRegs (s : State) (tag : Nat) : (begun s tag).evRegs = s.evRegs := rfl
@[simp] theorem region_begun (s : State) (tag i : Nat) : (begun s tag).region i = s.region i := rfl
@[simp] theorem mem_begun (s : State) (tag i : Nat) : (begun s tag).mem i = s.mem i := rfl
@[simp] theorem block_begun (s : State) (tag i : Nat) : (begun s tag).block i = s.block i := rfl
@[simp] theorem cell_begun (s : State) (tag i : Nat) : (begun s tag).cell i = s.cell i := rfl
@[simp] theorem tiu_begun (s : State) (tag i : Nat) : (begun s tag).tiu i = s.tiu i := rfl
@[simp] theorem evin_begun (s : State) (tag i : Nat) : (begun s tag).evin i = s.evin i := rfl
@[simp] theorem acq_begun (s : State) (tag i : Nat) : (begun s tag).acq i = s.acq i := rfl
@[simp] theorem port_begun (s : State) (tag i : Nat) : (begun s tag).port i = s.port i := rfl
@[simp] theorem begun_cq (s : State) (tag : Nat) : (begun s tag).mbx.cq = s.mbx.cq := rfl
@[simp] theorem begun_status (s : State) (tag : Nat) : (begun s tag).mbx.status = s.mbx.status := rfl
@[simp] theorem begun_streaming (s : State) (tag : Nat) : (begun s tag).mbx.streaming = s.mbx.streaming := rfl

/-- Equal states are equal outcomes. -/
theorem next_eq (h : s = t) : (Host.Outcome.next s : Host.Outcome State Fault Refusal) = .next t := congrArg _ h

theorem Begins.opcode_eq (hb : Begins s tag op c) : c.opcode = op := hb.2.1

theorem Begins.tag_eq (hb : Begins s tag op c) : c.tag = tag := by
  simpa using List.find?_some hb.findCmd_eq

/-- The command in execution stands in the mailbox with that mark. -/
theorem Begins.findCmd_begun (hb : Begins s tag op c) : findCmd (begun s tag) tag = some { c with st := .executing } := by
  rw [begun, findCmd_setCmd s tag _ (fun _ => by rfl), hb.findCmd_eq, Option.map_some]

/-- With a sound LOCKET a command of its own runs its body. -/
theorem Begins.secure_eq (hb : Begins s tag op c) (hsound : s.flt.locketBad = false) (body : State → Cmd → State) :
    secure s tag op body = body (begun s tag) c := by
  rw [secure, hb.hitan_eq]
  simp [hsound]

/-- With a failed LOCKET check every command of its own is answered FAULT (R420). -/
theorem Begins.secure_eq_fault (hb : Begins s tag op c) (hbad : s.flt.locketBad = true) (body : State → Cmd → State) :
    secure s tag op body = complete (begun s tag) tag FAULT [] := by
  rw [secure, hb.hitan_eq]
  simp [hbad]

/-- A body that leaves the mailbox as it finds it answers its command by completing it. -/
theorem Begins.answered (hb : Begins s tag op c) (hmbx : t.mbx = (begun s tag).mbx) (status : Nat) (res : List Word) :
    Answered s (complete t tag status res) c status res := by
  obtain ⟨hcmds, hcq⟩ := answered_complete_begun hb.findCmd_eq status res
  have hfind : findCmd t tag = some { c with st := .executing } := by
    rw [findCmd, hmbx]
    exact hb.findCmd_begun
  refine ⟨?_, fun htun => ?_⟩
  · rw [complete_cmds] at hcmds ⊢
    rw [hmbx, hcmds]
  · have hcq' := hcq htun
    rw [complete_cq hb.findCmd_begun htun] at hcq'
    rw [complete_cq hfind htun, hmbx, hcq']

end Sys2Proof.Claims
end

section
/-! SUPPORT. Sessions, the PIN and the protection table: the bodies of LOCKET's commands by the case they meet. -/
namespace Sys2Proof.Claims
open Sys2Proof Sys2Proof.Machine
variable {s : State} {tag op level : Nat} {c : Cmd}

/-- What SESSION_OPEN does once it runs (R421). -/
def sessionOpenBody (tag : Nat) (s : State) (c : Cmd) : State :=
  if fld (c.arg 0) 0 2 = 0 then complete s tag BADARG []
  else if openable s.lk (fld (c.arg 0) 0 2) = false then complete s tag PRECOND []
  else if fld (c.arg 0) 0 2 = 1 then openOperator s c
  else if fld (c.arg 0) 2 3 = 0 then openStep0 s c (fld (c.arg 0) 0 2)
  else if fld (c.arg 0) 2 3 ≤ 3 then openStepSig s c (fld (c.arg 0) 0 2) (fld (c.arg 0) 2 3)
  else complete s tag BADARG []

theorem Begins.exec_sessionOpen (hb : Begins s tag 0x083 c) (hsound : s.flt.locketBad = false) :
    exec (.sessionOpen tag) s = .next (sessionOpenBody tag (begun s tag) c) :=
  next_eq (hb.secure_eq hsound _)

section
variable (hb : Begins s tag 0x083 c) (hsound : s.flt.locketBad = false) (hlevel : 2 ≤ level) (hl : fld (c.arg 0) 0 2 = level)
include hb hsound

/-- An Operator request that may open is judged by its PIN. -/
theorem exec_sessionOpen_operator (hlevel : fld (c.arg 0) 0 2 = 1) (hopen : openable s.lk 1 = true) :
    exec (.sessionOpen tag) s = .next (openOperator (begun s tag) c) := by
  rw [hb.exec_sessionOpen hsound]
  simp [sessionOpenBody, hlevel, hopen]

include hlevel hl

theorem exec_sessionOpen_step0 (hopen : openable s.lk level = true) (hstep : fld (c.arg 0) 2 3 = 0) :
    exec (.sessionOpen tag) s = .next (openStep0 (begun s tag) c level) := by
  rw [hb.exec_sessionOpen hsound]
  simp [sessionOpenBody, hl, hopen, hstep, show level ≠ 0 by omega, show level ≠ 1 by omega]

theorem exec_sessionOpen_step3 (hopen : openable s.lk level = true) (hstep : fld (c.arg 0) 2 3 = 3) :
    exec (.sessionOpen tag) s = .next (openStepSig (begun s tag) c level 3) := by
  rw [hb.exec_sessionOpen hsound]
  simp [sessionOpenBody, hl, hopen, hstep, show level ≠ 0 by omega, show level ≠ 1 by omega]

end

/-- A command of LOCKET runs through `secure` (R420). -/
theorem exists_exec_eq_secure {i : Instr} (hi : hitanOp i = some (tag, op))
    (hop : op ∈ [0x081, 0x082, 0x083, 0x084, 0x085, 0x086, 0x087, 0x088, 0x089]) :
    ∃ body, exec i s = .next (secure s tag op body) := by
  cases i with
  | certRead => cases hi; exact ⟨_, rfl⟩
  | hallmark => cases hi; exact ⟨_, rfl⟩
  | sessionOpen => cases hi; exact ⟨_, rfl⟩
  | sessionEnd => cases hi; exact ⟨_, rfl⟩
  | pinSet => cases hi; exact ⟨_, rfl⟩
  | protSet => cases hi; exact ⟨_, rfl⟩
  | protRead => cases hi; exact ⟨_, rfl⟩
  | lifecycleSet => cases hi; exact ⟨_, rfl⟩
  | ownerTransfer => cases hi; exact ⟨_, rfl⟩
  | _ => simp [hitanOp] at hi <;> simp [← hi.2] at hop

/-- Settles O35: each command through the case of its body that the clause describes. -/
theorem sessionsPinAndProtection : Obligations.SessionsPinAndProtection := by
  unfold Obligations.SessionsPinAndProtection
  refine ⟨?closed, ?pinRight, ?pinWrong, ?delayEnd, ?locked, ?challenge, ?sigWrong, ?sigRight, ?expiry, ?ended, ?pinSet, ?ownerRow,
    ?operatorRow, ?read, ?fault⟩
  case closed =>
    intro s tag c hb hsound hlevel hopen
    rw [hb.exec_sessionOpen hsound]
    simp [sessionOpenBody, hlevel, hopen]
  case pinRight =>
    intro s tag c h salt hb hsound hlevel hopen hlocked hpin hhash htun
    rw [exec_sessionOpen_operator hb hsound hlevel hopen]
    simp [openOperator, hlocked, hpin, hhash, htun, setSession, hb.tag_eq]
  case pinWrong =>
    intro s tag c h salt hb hsound hlevel hopen hlocked hpin hhash
    rw [exec_sessionOpen_operator hb hsound hlevel hopen]
    refine ⟨_, rfl, ?_⟩
    simp [openOperator, hlocked, hpin, hhash, hb.tag_eq]
    exact fun hlt => if_pos hlt
  case delayEnd =>
    intro s t hwait
    change execPinFailDelayEnd s = _
    simp only [execPinFailDelayEnd, hwait]
  case locked =>
    intro s tag c hb hsound hlevel hopen hlocked
    rw [exec_sessionOpen_operator hb hsound hlevel hopen]
    simp [openOperator, hlocked, hb.tag_eq]
  case challenge =>
    intro s tag l c hb hsound hl hlevel hopen hstep
    rw [exec_sessionOpen_step0 hb hsound hl hlevel hopen hstep]
    refine ⟨_, rfl, ?_⟩
    simp [openStep0, streamOut, rand256]
  case sigWrong =>
    intro s tag l ch c hb hsound hl hlevel hopen hstep hchal hlen hsig
    rw [List.drop_one] at hsig
    rw [exec_sessionOpen_step3 hb hsound hl hlevel hopen hstep]
    simp [openStepSig, hchal, hlen, hsig, dropChallenge, hb.tag_eq]
  case sigRight =>
    intro s tag l ch c hb hsound hl hlevel hopen hstep hchal hlen htun hsig
    rw [List.drop_one] at hsig
    rw [exec_sessionOpen_step3 hb hsound hl hlevel hopen hstep]
    simp [openStepSig, hchal, hlen, hsig, setSession, htun, hb.tag_eq]
  case expiry => exact fun s => rfl
  case ended =>
    intro s tag c hb hsound htun
    refine (next_eq (hb.secure_eq hsound _)).trans ?_
    simp [dropChallenge, setSession, htun]
  case pinSet =>
    intro s tag c hb hsound hhi hlo
    refine ⟨_, next_eq (hb.secure_eq hsound _), ?_⟩
    simp only [hhi, hlo, Bool.and_self, if_true]
    refine ⟨?_, ?_, ?_, ?_, hb.answered (by rfl) _ _⟩ <;> simp [rand128]
  case ownerRow =>
    intro s tag c hb hsound hrow
    refine ⟨_, next_eq (hb.secure_eq hsound _), ?_⟩
    simp only [hrow, if_true, Nat.reduceEqDiff, if_false]
    refine ⟨?_, ?_, ?_, ?_, ?_, hb.answered (by rfl) _ _⟩ <;> simp [setProt]
  case operatorRow =>
    intro s tag c hb hsound hrow
    refine ⟨_, next_eq (hb.secure_eq hsound _), ?_⟩
    simp only [hrow, Nat.reduceEqDiff, if_false]
    refine ⟨?_, ?_, ?_, hb.answered (by rfl) _ _⟩ <;> simp [setProt]
  case read =>
    intro s tag c hb hsound hrow
    refine (next_eq (hb.secure_eq hsound _)).trans ?_
    simp [hrow]
  case fault =>
    intro i s tag op c hi hop hb hbad
    obtain ⟨body, hexec⟩ := exists_exec_eq_secure hi hop
    rw [hexec, hb.secure_eq_fault hbad]

end Sys2Proof.Claims
end

section
/-! SUPPORT. A port of the tree: operations that change one port alone, and a link that falls. -/
namespace Sys2Proof.Claims
open Sys2Proof Sys2Proof.Machine
variable {s t u : State} {i : Nat}

theorem OnlyPort.refl (s : State) (i : Nat) : OnlyPort s s i := ⟨rfl, fun _ _ => rfl⟩

theorem OnlyPort.trans (h : OnlyPort s t i) (k : OnlyPort t u i) : OnlyPort s u i := by
  obtain ⟨hst, hports⟩ := h
  obtain ⟨htu, hports'⟩ := k
  refine ⟨?_, fun j hj => (hports' j hj).trans (hports j hj)⟩
  rw [← hst, ← htu]

theorem OnlyPort.updPort (h : OnlyPort s t i) (f : PortSt → PortSt) : OnlyPort s (t.updPort i f) i :=
  h.trans ⟨rfl, fun _ hj => State.port_updPort_ne _ _ hj⟩

theorem OnlyPort.ite {c : Prop} [Decidable c] (ht : OnlyPort s t i) (hu : OnlyPort s u i) : OnlyPort s (if c then t else u) i := by
  split
  · exact ht
  · exact hu

theorem OnlyPort.cells (h : OnlyPort s t i) : t.cells = s.cells := by
  have := congrArg State.cells h.1
  exact this

theorem OnlyPort.tree (h : OnlyPort s t i) : t.tree = s.tree := by
  have := congrArg State.tree h.1
  exact this

theorem onlyPort_setOneway (s : State) (i : Nat) (d : Int) : OnlyPort s (setOneway s i d) i := by
  have h := (OnlyPort.refl s i).updPort fun p =>
    { p with oneway := if d < 0 then 0 else if 262143 ≤ d then 0x3FFFF else wd d.toNat, evtLong := decide (i ≠ 0) && decide (260000 < d) }
  exact .ite (h.updPort _) h

/-- The one-way delay taken, and the event of a long one: nothing else of the port changes. -/
theorem port_setOneway (s : State) (i : Nat) (d : Int) :
    ∃ v l e, (setOneway s i d).port i = { s.port i with oneway := v, evtLong := l, events := e } := by
  unfold setOneway
  dsimp only
  split
  · exact ⟨_, _, _, by rw [State.postPort, State.port_updPort_self, State.port_updPort_self]⟩
  · exact ⟨_, _, (s.port i).events, by rw [State.port_updPort_self]⟩

theorem onlyPort_countRetrain (s : State) (i : Nat) : OnlyPort s (countRetrain s i) i := by
  have h := (OnlyPort.refl s i).updPort fun p => { p with retrains := satAdd 0x3FFFF (s.port i).retrains 1 }
  exact .ite (h.updPort _) h

theorem retrains_countRetrain (s : State) (i : Nat) :
    ((countRetrain s i).port i).retrains = satAdd 0x3FFFF (s.port i).retrains 1 := by
  unfold countRetrain
  dsimp only
  split <;> simp [State.postPort]

/-- With no tunnel open nothing hangs on a DN link. -/
theorem dropTunnels_of_nil (h : s.tree.tunnels = []) (i : Nat) : dropTunnels s i = s := by
  simp only [dropTunnels, h, List.filter_nil, forAll_nil]
  rw [← h]

theorem portFall_of_dn (hi : i ≠ 0) (h : s.tree.tunnels = []) (next : PortState) (bits : BitVec 12) :
    portFall s i next bits = s.updPort i (fun p => { p with
      st := next, stopped := false, partner := 0, badHdr := [], credits := 0, tx := [], part := [],
      events := if bits = 0 then p.events else p.events.post bits }) := by
  simp only [portFall, linkDown, if_neg hi]
  exact dropTunnels_of_nil (by simpa using h) i

/-- A DN port that counts a retrain and falls, where no tunnel hangs on it (R340, R341). -/
theorem fall_of_dn (hi : i ≠ 0) (h : s.tree.tunnels = []) (next : PortState) (bits : BitVec 12) :
    OnlyPort s (portFall (countRetrain s i) i next bits) i
    ∧ ((portFall (countRetrain s i) i next bits).port i).st = next
    ∧ ((portFall (countRetrain s i) i next bits).port i).tx = []
    ∧ ((portFall (countRetrain s i) i next bits).port i).credits = 0
    ∧ ((portFall (countRetrain s i) i next bits).port i).retrains = satAdd 0x3FFFF (s.port i).retrains 1 := by
  have hcount := onlyPort_countRetrain s i
  rw [portFall_of_dn hi (by rw [hcount.tree, h])]
  refine ⟨hcount.updPort _, ?_, ?_, ?_, ?_⟩ <;> simp [retrains_countRetrain]

theorem retrain_of_live (h : (s.port i).st.live = true) : retrain s i = portFall (countRetrain s i) i .locking 0b10 := if_pos h

theorem retrain_of_dead (h : (s.port i).st.live = false) : retrain s i = s := by simp [retrain, h]

/-- The state in which an invalid block of a live port is counted and its event posted, with that of a full count (R340). -/
def blockCounted (s : State) (i : Nat) : State :=
  let n := satAdd 0x3FFFF (s.port i).crcErr 1
  let s1 := (s.updPort i (fun p => { p with crcErr := n })).postPort i 3
  if (s.port i).crcErr < 0x3FFFF ∧ n = 0x3FFFF then s1.postPort i 6 else s1

theorem onlyPort_blockCounted (s : State) (i : Nat) : OnlyPort s (blockCounted s i) i := by
  have h := ((OnlyPort.refl s i).updPort fun p => { p with crcErr := satAdd 0x3FFFF (s.port i).crcErr 1 }).updPort
    fun p => { p with events := p.events.postBit 3 }
  exact .ite (h.updPort _) h

theorem st_blockCounted (s : State) (i : Nat) : ((blockCounted s i).port i).st = (s.port i).st := by
  unfold blockCounted
  dsimp only
  split <;> simp [State.postPort]

/-- Short of a full count the block is counted with its own event alone. -/
theorem blockCounted_of_lt (h : (s.port i).crcErr < 0x3FFFE) :
    blockCounted s i = (s.updPort i (fun p => { p with crcErr := (s.port i).crcErr + 1 })).postPort i 3 := by
  have hcount : satAdd 0x3FFFF (s.port i).crcErr 1 = (s.port i).crcErr + 1 := if_pos (by omega)
  simp only [blockCounted, hcount]
  exact if_neg (by omega)

theorem exec_invalidBlock_good (hlive : (s.port i).st.live = true) : exec (.invalidBlock i false) s = .next (blockCounted s i) := by
  change execInvalidBlock i false s = _
  simp [execInvalidBlock, hlive, blockCounted]

/-- The sixteenth bad header among the blocks counted retrains the port (log entry 40). -/
theorem exec_invalidBlock_sixteenth (hlive : (s.port i).st.live = true)
    (hbad : 15 ≤ ((s.port i).badHdr.filter (fun e => decide (leadEdge s ≤ e + 322))).length) :
    exec (.invalidBlock i true) s = .next (retrain (blockCounted s i) i) := by
  change execInvalidBlock i true s = _
  simp [execInvalidBlock, hlive, hbad, blockCounted]

/-- The state of a port that reaches RUN (R335). -/
def measured (s : State) (i : Nat) (ow as : Word) : State :=
  (setOneway (s.updPort i (fun p => { p with st := .run, asymInt := as, partner := p.ident, credits := 16, xnum := 0 })) i
    ow.toNat).postPort i 2

theorem onlyPort_measured (s : State) (i : Nat) (ow as : Word) : OnlyPort s (measured s i ow as) i :=
  (((OnlyPort.refl s i).updPort _).trans (onlyPort_setOneway ..)).updPort _

theorem port_measured (s : State) (i : Nat) (ow as : Word) :
    ((measured s i ow as).port i).st = .run ∧ ((measured s i ow as).port i).credits = 16
    ∧ ((measured s i ow as).port i).partner = (s.port i).ident ∧ ((measured s i ow as).port i).asymInt = as
    ∧ ((measured s i ow as).port i).xnum = 0 := by
  obtain ⟨v, l, e, h⟩ := port_setOneway
    (s.updPort i (fun p => { p with st := .run, asymInt := as, partner := p.ident, credits := 16, xnum := 0 })) i ow.toNat
  simp [measured, State.postPort, h]

/-- Settles O37. -/
theorem linksComeUpAndFall : Obligations.LinksComeUpAndFall := by
  unfold Obligations.LinksComeUpAndFall
  refine ⟨?signal, ?lock, ?identUp, ?identDn, ?stopped, ?measureDn, ?measureUp, ?counted, ?sixteenth, ?lost, ?retrained, ?dead, ?denied⟩
  case signal => exact fun i s hon hst => if_pos ⟨hon, hst⟩
  case lock =>
    intro i s hst
    refine ⟨_, if_pos hst, ((OnlyPort.refl s i).updPort _).updPort _, ?_, ?_⟩ <;> simp [sendBlock]
  case identUp =>
    intro s3 role d p s hst hrun hup
    refine ⟨{ s.updPort 0 (fun p => { p with st := .measure, ident := s3 }) with tree.path := d % 4 * 64 + p % 64 }, ?_, ?_⟩
    · change execIdentBlockReceive 0 s3 role d p s = _
      simp [execIdentBlockReceive, hst, hrun, hup]
    · have hport := State.port_updPort_self s 0 fun p => { p with st := .measure, ident := s3 }
      exact ⟨congrArg PortSt.st hport, congrArg PortSt.ident hport, rfl, rfl, rfl⟩
  case identDn =>
    intro i s3 d p s hi hst hrun hdepth
    change execIdentBlockReceive i s3 roleWorker d p s = _
    simp [execIdentBlockReceive, hst, hrun, hi, Nat.not_le.2 hdepth]
  case stopped =>
    intro i s3 role d p s hi hst hrun hrole
    change execIdentBlockReceive i s3 role d p s = _
    simp [execIdentBlockReceive, hst, hrun, hi, hrole]
  case measureDn =>
    intro i ow as s hi hst
    refine ⟨measured s i ow as, ?_, onlyPort_measured s i ow as, port_measured s i ow as⟩
    change execMeasureComplete i ow as s = _
    simp only [execMeasureComplete, if_pos hst, hi, false_and, if_false]
    rfl
  case measureUp =>
    intro ow as s hst hup
    obtain ⟨hrun, -⟩ := port_measured s 0 ow as
    refine ⟨{ measured s 0 ow as with
      tree.st := 1, tree.theta := [], tree.parentAligned := false, tree.joinAt := none,
      ref.upState := if s.ref.xoQual then 2 else 1, ref.upWin := [] }, ?_, hrun, rfl, rfl, (onlyPort_measured s 0 ow as).cells⟩
    change execMeasureComplete 0 ow as s = _
    simp only [execMeasureComplete, if_pos hst, hup, and_self, if_true]
    rfl
  case counted =>
    intro i s hlive hcount
    refine ⟨_, exec_invalidBlock_good hlive, onlyPort_blockCounted s i, ?_, st_blockCounted s i, ?_⟩
    all_goals simp [blockCounted_of_lt hcount, State.postPort]
  case sixteenth =>
    intro i s hi htun hlive hbad
    have hcounted := onlyPort_blockCounted s i
    have hlive' : ((blockCounted s i).port i).st.live = true := by rw [st_blockCounted, hlive]
    obtain ⟨hfall, hst, htx, -⟩ := fall_of_dn (s := blockCounted s i) hi (by rw [hcounted.tree, htun]) .locking 0b10
    refine ⟨_, exec_invalidBlock_sixteenth hlive hbad, ?_⟩
    rw [retrain_of_live hlive']
    exact ⟨hcounted.trans hfall, hst, htx⟩
  case lost =>
    intro i s hi htun hlive
    exact ⟨_, if_pos hlive, fall_of_dn hi htun .los 0b11⟩
  case retrained =>
    intro i s hi htun hlive hsession
    obtain ⟨hfall, hst, htx, -, hcount⟩ := fall_of_dn (s := s.parityFresh (0x18800 + 0x40 * i)) hi htun .locking 0b10
    refine ⟨_, (next_eq (chipWrite_owner hsession _ _)).trans (next_eq (retrain_of_live hlive)), hfall, hst, htx, hcount⟩
  case dead =>
    intro i s hdead
    refine ⟨if_neg (by simp [hdead]), if_pos hdead, fun hsession => ?_⟩
    exact (next_eq (chipWrite_owner hsession _ _)).trans (next_eq (retrain_of_dead hdead))
  case denied => exact fun i s hsession => next_eq (chipWrite_denied hsession _ _)

end Sys2Proof.Claims
end

section
/-! SUPPORT. What a moved reference leaves as it is: the settings of every region, and a change already under way. -/
namespace Sys2Proof.Claims
open Sys2Proof Sys2Proof.Machine
variable {s t : State} {tag r : Nat} {c : Cmd}

/-- A region's settings stand, and a change under way in it stands. -/
structure SwitchKept (g g' : RegionSt) : Prop where
  bw : g'.bw = g.bw
  borrowEn : g'.borrowEn = g.borrowEn
  borrowDelay : g'.borrowDelay = g.borrowDelay
  change : g.rrp = .switching → g.change ≠ none → g'.rrp = .switching ∧ g'.srcReg = g.srcReg ∧ g'.change = g.change

theorem SwitchKept.refl (g : RegionSt) : SwitchKept g g := ⟨rfl, rfl, rfl, fun h _ => ⟨h, rfl, rfl⟩⟩

theorem SwitchKept.trans {g g' g'' : RegionSt} (h : SwitchKept g g') (k : SwitchKept g' g'') : SwitchKept g g'' where
  bw := k.bw.trans h.bw
  borrowEn := k.borrowEn.trans h.borrowEn
  borrowDelay := k.borrowDelay.trans h.borrowDelay
  change hrrp hchange := by
    obtain ⟨hr, hs, hc⟩ := h.change hrrp hchange
    obtain ⟨hr', hs', hc'⟩ := k.change hr (hc ▸ hchange)
    exact ⟨hr', hs'.trans hs, hc'.trans hc⟩

/-- The cells and the chip's reference stand, and so do every region's settings and changes under way. -/
structure SwitchesKept (s t : State) : Prop where
  cells : t.cells = s.cells
  ref : t.ref = s.ref
  region : ∀ r, SwitchKept (s.region r) (t.region r)

theorem SwitchesKept.refl (s : State) : SwitchesKept s s := ⟨rfl, rfl, fun _ => .refl _⟩

theorem SwitchesKept.trans {u : State} (h : SwitchesKept s t) (k : SwitchesKept t u) : SwitchesKept s u :=
  ⟨k.cells.trans h.cells, k.ref.trans h.ref, fun r => (h.region r).trans (k.region r)⟩

theorem SwitchesKept.updRegion (h : SwitchesKept s t) {f : RegionSt → RegionSt}
    (hf : SwitchKept (t.region r) (f (t.region r))) : SwitchesKept s (t.updRegion r f) := by
  refine h.trans ⟨rfl, rfl, fun q => ?_⟩
  rw [State.region_updRegion]
  split
  · rename_i hq
    exact hq ▸ hf
  · exact .refl _

/-- A change starts in a region that has none under way. -/
theorem changeStart_kept (h : ¬ ((s.region r).rrp = .switching ∧ (s.region r).change ≠ none)) (src : Src) (borrow : Bool)
    (tag : Option Nat) : SwitchesKept s (changeStart s r src borrow tag) :=
  (SwitchesKept.refl s).updRegion ⟨rfl, rfl, rfl, fun hrrp hchange => absurd ⟨hrrp, hchange⟩ h⟩

theorem borrowTry_kept (s : State) (r : Nat) : SwitchesKept s (borrowTry s r) := by
  unfold borrowTry
  dsimp only
  split
  · rename_i h
    obtain ⟨hheld, -⟩ := h
    exact changeStart_kept (fun ⟨hrrp, _⟩ => by simp [hrrp, Rrp.held] at hheld) ..
  · exact .refl s

theorem bootTry_kept (s : State) (w : Nat × Src) : SwitchesKept s (bootTry s w) := by
  unfold bootTry
  dsimp only
  split
  · rename_i h
    obtain ⟨-, -, -, hnone, -⟩ := h
    have hsrc : SwitchesKept s
        ({ s with boot.want := s.boot.want.filter (fun x => decide (x ≠ w)) }.updRegion w.1 (fun g => { g with srcReg := w.2 })) :=
      ⟨rfl, rfl, fun q => by
        simp only [State.region_updRegion]
        split
        · rename_i hq
          subst hq
          exact ⟨rfl, rfl, rfl, fun _ hchange => absurd hnone hchange⟩
        · exact .refl _⟩
    split
    · exact hsrc
    · refine hsrc.trans (changeStart_kept (fun ⟨_, hchange⟩ => hchange ?_) ..)
      rw [State.region_updRegion_self]
      exact hnone
  · exact .refl s

theorem rootsMoved_kept (s : State) : SwitchesKept s (rootsMoved s) := by
  refine forAll_keeps (P := SwitchesKept s) (.refl s) fun u q _ h => ?_
  dsimp only
  split
  · exact (h.updRegion ⟨rfl, rfl, rfl, fun hr _ => ⟨hr, rfl, rfl⟩⟩).updRegion ⟨rfl, rfl, rfl, fun hr _ => ⟨hr, rfl, rfl⟩⟩
  · exact h.updRegion ⟨rfl, rfl, rfl, fun hr _ => ⟨hr, rfl, rfl⟩⟩

theorem refMoved_kept (s : State) : SwitchesKept s (refMoved s) := by
  have hborrow : SwitchesKept s (forAll (runningRegions s) borrowTry s) :=
    forAll_keeps (.refl s) fun u q _ h => h.trans (borrowTry_kept u q)
  have hboot : SwitchesKept s (forAll (forAll (runningRegions s) borrowTry s).boot.want bootTry (forAll (runningRegions s) borrowTry s)) :=
    forAll_keeps hborrow fun u w _ h => h.trans (bootTry_kept u w)
  exact hboot.trans (rootsMoved_kept _)

/-- A request of a qualified source in a region without a change under way starts the change that carries its tag (R44). -/
theorem requestSource_starts {src : Src} (hnone : (s.region r).change = none) (hqual : srcQual s r src = true)
    (hother : ¬ ((s.region r).rrp = .locked ∧ (s.region r).active = src)) (tag : Option Nat) :
    requestSource s r src tag = refMoved (changeStart s r src false tag) := by
  have h : ¬ ((s.region r).change = none ∧ (s.region r).rrp = .locked ∧ (s.region r).active = src) := fun h => hother h.2
  unfold requestSource
  dsimp only
  rw [if_neg h, if_neg (by simp [hqual]), hnone]

/-- Qualification looks at the chip's reference, at the regions present, and at the regions' locks. -/
theorem srcQual_congr (href : t.ref = s.ref) (hpresent : ∀ k, regionPresent t k = regionPresent s k)
    (hregion : ∀ k, (t.region k).rrp = (s.region k).rrp ∧ (t.region k).active = (s.region k).active) (r : Nat) (src : Src) :
    srcQual t r src = srcQual s r src := by
  cases src with
  | neighbour =>
    obtain ⟨hrrp, hactive⟩ := hregion (nbr r)
    simp only [srcQual, hpresent, hrrp, hactive]
  | _ => simp only [srcQual, href]

/-- The state in which a command has named a source for a region (R44). -/
def sourceNamed (s : State) (r : Nat) (src : Src) : State :=
  { s.updRegion r (fun g => { g with srcReg := src }) with tree.joinEn := s.tree.joinEn && ! isWorker s }

theorem region_sourceNamed (s : State) (r k : Nat) (src : Src) :
    (sourceNamed s r src).region k = if k = r then { s.region r with srcReg := src } else s.region k :=
  State.region_updRegion s k r fun g => { g with srcReg := src }

theorem srcQual_sourceNamed (s : State) (r q : Nat) (src x : Src) : srcQual (sourceNamed s r x) q src = srcQual s q src := by
  refine srcQual_congr (s := s) (t := sourceNamed s r x) rfl (fun _ => rfl) (fun k => ?_) q src
  rw [region_sourceNamed]
  split
  · rename_i hk
    exact hk ▸ ⟨rfl, rfl⟩
  · exact ⟨rfl, rfl⟩

/-- Settles O11. -/
theorem referenceCommandsAct : Obligations.ReferenceCommandsAct := by
  unfold Obligations.ReferenceCommandsAct
  refine ⟨?select, ?qualify, ?config, ?timeRead, ?epoch⟩
  case select =>
    intro s tag c hb hqual hnone hother
    set src := Src.ofCode (fld (c.arg 0) 0 2)
    have hexec : exec (.refSelect tag) s = .next (requestSource (sourceNamed (begun s tag) c.unit src) c.unit src (some tag)) := by
      refine (next_eq (hb.hitan_eq _)).trans (next_eq (if_neg ?_))
      rintro ⟨hunqual, -⟩
      exact absurd hqual (by rw [hunqual]; decide)
    have hnamed := region_sourceNamed (begun s tag) c.unit c.unit src
    rw [if_pos rfl] at hnamed
    rw [requestSource_starts (by rw [hnamed]; exact hnone) (by rw [srcQual_sourceNamed]; exact hqual) (by rw [hnamed]; exact hother)] at hexec
    set named := sourceNamed (begun s tag) c.unit src
    refine ⟨_, hexec, ?_⟩
    have hkept := (refMoved_kept (changeStart named c.unit src false (some tag))).region c.unit
    have hstart : (changeStart named c.unit src false (some tag)).region c.unit = { named.region c.unit with
        rrp := .switching, borrowWait := 0,
        change := some { target := src, borrow := false, tag := some tag, afterHoldover := (named.region c.unit).rrp.held } } :=
      State.region_updRegion_self ..
    rw [hstart, hnamed] at hkept
    obtain ⟨hrrp, hsrc, hchange⟩ := hkept.change rfl (by simp)
    exact ⟨hrrp, hsrc, by rw [hchange]; rfl⟩
  case qualify =>
    intro s tag c hb hset hwait
    refine (next_eq (hb.hitan_eq _)).trans (next_eq ?_)
    simp only [bitOf, hset, hwait, Bool.false_eq_true, false_and, if_false]
    rfl
  case config =>
    intro s tag c hb hset
    have hkept := refMoved_kept (refFields (begun s tag) c.unit (c.arg 0))
    have hfields : (refFields (begun s tag) c.unit (c.arg 0)).region c.unit = { s.region c.unit with
        bw := (c.arg 0).extractLsb' 2 2, borrowEn := bitOf (c.arg 0) 4, borrowDelay := (c.arg 0).extractLsb' 5 3 } :=
      State.region_updRegion_self ..
    have hregion := hkept.region c.unit
    rw [hfields] at hregion
    refine ⟨refMoved (refFields (begun s tag) c.unit (c.arg 0)), ?_, hregion.bw, hregion.borrowEn, hregion.borrowDelay, hkept.cells, hkept.ref⟩
    refine (next_eq (hb.hitan_eq _)).trans (next_eq ?_)
    simp only [bitOf, hset, Bool.false_eq_true, if_false]
  case timeRead =>
    intro s tag c hb hscope
    refine (next_eq (hb.hitan_eq _)).trans (next_eq ?_)
    simp only [hscope]
    rfl
  case epoch =>
    intro s tag c r hb hroot hnone hlead hdn
    change execEpochSet tag s = _
    have hnotLate : epochLate s c = false := by simp [epochLate, hnone]
    simp only [execEpochSet, hb.findCmd_eq, hnotLate, Bool.false_eq_true, if_false, hb.hitan_eq]
    have hroot' : isWorker (begun s tag) = false := hroot
    have hlead' : leadRegion (begun s tag) = some r := hlead
    have hdn' : runDn (begun s tag) = [] := hdn
    simp [epochBegin, hroot', hlead', hdn', hnone]

end Sys2Proof.Claims
end

section
/-! SUPPORT. Words of a table as a block, the records a stream sends, and the profile memory. -/
namespace Sys2Proof.Claims
open Sys2Proof Sys2Proof.Machine
variable {s : State} {tag : Nat} {c : Cmd}

theorem length_tabWords (t : Tab Word) (k n : Nat) : (tabWords t k n).length = n := by simp [tabWords]

/-- The words put into a table at a key stand there. -/
theorem tabWords_tabPut (t : Tab Word) (k : Nat) (ws : List Word) : tabWords (tabPut t k ws) k ws.length = ws := by
  refine List.ext_getElem (length_tabWords ..) fun i _ hi => ?_
  simp only [tabWords, List.getElem_map, List.getElem_range]
  rw [tabGet_tabPut_in t ws (Nat.le_add_right k i) (by omega)]
  simp [hi]

/-- A completed command has left the mailbox. -/
theorem findCmd_complete (s : State) (tag status : Nat) (res : List Word) : findCmd (complete s tag status res) tag = none := by
  rw [findCmd, complete_cmds]
  simp

/-- Two records of data go out one behind the other where there is room for both (R238). -/
theorem pumpGo_pair (n : Nat) (d e : List Word) (hroom : 2 ≤ cqFree s) :
    pumpGo false tag n [d, e] s = (n + 2, [], cqPush (cqPush s (contRecord tag n d)) (contRecord tag (n + 1) e)) := by
  have hfirst : 0 < cqFree s := by omega
  have hsecond : 0 < cqFree (cqPush s (contRecord tag n d)) := by
    simp only [cqFree, cqPush, List.length_append, List.length_singleton] at hroom ⊢
    omega
  simp [pumpGo, recordOut, hfirst, hsecond]

theorem chunks7_cons {l : List Word} (hl : l ≠ []) (n : Nat) : chunks7 (n + 1) l = l.take 7 :: chunks7 n (l.drop 7) := by
  cases l with
  | nil => exact absurd rfl hl
  | cons w ws => rfl

theorem chunks7_nil (n : Nat) : chunks7 n [] = [] := by cases n <;> rfl

/-- Eight to fourteen words go out in two records of data. -/
theorem chunks7_pair {w : List Word} (hlo : 7 < w.length) (hhi : w.length ≤ 14) : chunks7 w.length w = [w.take 7, w.drop 7] := by
  obtain ⟨k, hk⟩ : ∃ k, w.length = k + 2 := ⟨w.length - 2, by omega⟩
  have hw : w ≠ [] := List.ne_nil_of_length_pos (by omega)
  have hrest : w.drop 7 ≠ [] := List.ne_nil_of_length_pos (by rw [List.length_drop]; omega)
  have hlast : (w.drop 7).take 7 = w.drop 7 := List.take_of_length_le (by rw [List.length_drop]; omega)
  have hend : (w.drop 7).drop 7 = [] := List.drop_eq_nil_of_le (by rw [List.length_drop]; omega)
  rw [hk, chunks7_cons hw, chunks7_cons hrest, hlast, hend, chunks7_nil]

/-- The state in which a command starts to send its words in two records of data. -/
def streamsPair (s : State) (tag : Nat) (w : List Word) (status : Nat) (res : List Word) : State :=
  setCmd s tag fun c => { c with out := some (0, [w.take 7, w.drop 7], status, res), st := .executing }

theorem findCmd_streamsPair (hfind : findCmd s tag = some c) (w : List Word) (status : Nat) (res : List Word) :
    findCmd (streamsPair s tag w status res) tag
      = some { c with out := some (0, [w.take 7, w.drop 7], status, res), st := .executing } := by
  rw [streamsPair, findCmd_setCmd s tag _ (fun _ => by rfl), hfind, Option.map_some]

theorem findCmd_cqPush (s : State) (r : List Word) (tag : Nat) : findCmd (cqPush s r) tag = findCmd s tag := rfl

/-- With no other stream open and room for both, the two records go out and the command completes. -/
theorem completeWith_pair_eq {w : List Word} (hfind : findCmd s tag = some c) (hlo : 7 < w.length) (hhi : w.length ≤ 14) (htun : c.tun = false)
    (hstream : s.mbx.streaming = none) (hroom : 2 ≤ cqFree s) (status : Nat) (res : List Word) :
    completeWith s tag status w res
      = complete (cqPush (cqPush (streamsPair s tag w status res) (contRecord tag 0 (w.take 7))) (contRecord tag 1 (w.drop 7)))
          tag status res := by
  have hne : w ≠ [] := List.ne_nil_of_length_pos (by omega)
  have hfree : 2 ≤ cqFree (streamsPair s tag w status res) := by simpa [cqFree, streamsPair, setCmd] using hroom
  rw [completeWith, if_neg hne, chunks7_pair hlo hhi]
  change pump (streamsPair s tag w status res) tag = _
  simp only [pump, findCmd_streamsPair hfind, htun, pumpGo_pair 0 _ _ hfree]
  exact if_pos (.inl hstream)

/-- A command of the host that answers eight to fourteen words: two records of data and the completion, and the command leaves. -/
theorem completeWith_pair {w : List Word} (hfind : findCmd s tag = some c) (hlo : 7 < w.length) (hhi : w.length ≤ 14) (htun : c.tun = false)
    (hstream : s.mbx.streaming = none) (hroom : 2 ≤ cqFree s) (status : Nat) (res : List Word) :
    findCmd (completeWith s tag status w res) tag = none
    ∧ (completeWith s tag status w res).mbx.cq = s.mbx.cq
      ++ [contRecord tag 0 (w.take 7), contRecord tag 1 (w.drop 7), cmdRecord c (finalStatus c status) false res] := by
  rw [completeWith_pair_eq hfind hlo hhi htun hstream hroom]
  have hfind' := findCmd_streamsPair hfind w status res
  refine ⟨findCmd_complete .., ?_⟩
  rw [complete_cq ((findCmd_cqPush ..).trans ((findCmd_cqPush ..).trans hfind')) htun]
  simp [streamsPair, cqPush, cmdRecord, finalStatus]

/-- A stored profile with its check word, and the words outside its row. -/
theorem profRow_storeProfile (n i : Nat) {w : List Word} (hw : w.length = 9) :
    profRow (storeProfile s n i w) n i = w ++ [checkWord n i w] := by
  have hten : (w ++ [checkWord n i w]).length = 10 := by simp [hw]
  rw [profRow, ← hten]
  exact tabWords_tabPut ..

theorem tabGet_storeProfile_outside {k : Nat} (n i : Nat) {w : List Word} (hw : w.length = 9)
    (hk : k < profKey n i ∨ profKey n i + 10 ≤ k) :
    tabGet 0 (storeProfile s n i w).profiles k = tabGet 0 s.profiles k := by
  rcases hk with hlt | hge
  · exact tabGet_tabPut_lt _ _ hlt
  · exact tabGet_tabPut_ge _ _ (by simpa [hw] using hge)

theorem length_profileStored {learn : Bool} {ws : List Word} : (profileStored learn ws).length = ws.length := by
  cases ws <;> rfl

/-- Telling a corrected error of a profile changes no profile, no cell and nothing of the mailbox. -/
theorem softProfile_frame (s : State) (n i : Nat) (soft : Bool) :
    (softProfile s n i soft).profiles = s.profiles ∧ (softProfile s n i soft).cells = s.cells ∧ (softProfile s n i soft).mbx = s.mbx := by
  unfold softProfile corrected
  split
  · dsimp only
    split <;> simp
  · exact ⟨rfl, rfl, rfl⟩

/-- Settles O23. -/
theorem profilesAreStoredWithTheirCheckWord : Obligations.ProfilesAreStoredWithTheirCheckWord := by
  unfold Obligations.ProfilesAreStoredWithTheirCheckWord
  refine ⟨?write, ?refused, ?read⟩
  case write =>
    intro s tag c hb hargs hlimit hok
    have hw : (profileStored ((c.arg 0).getLsbD 17) (c.args.drop 1)).length = 9 := by simp [length_profileStored, hargs]
    generalize hstored : profileStored ((c.arg 0).getLsbD 17) (c.args.drop 1) = w at hok hw
    have hexec : exec (.profileWrite tag) s = .next (complete (storeProfile (begun s tag) c.unit (fld (c.arg 0) 0 8) w) tag OK
        [checkWord c.unit (fld (c.arg 0) 0 8) w]) := by
      refine (next_eq (hb.hitan_eq _)).trans ?_
      have haccepted : ¬ (profileLimit (begun s tag) c.unit ≤ fld (c.arg 0) 0 8 ∨ profileOk w = false) := by
        rw [hok]
        exact not_or.2 ⟨Nat.not_le.2 hlimit, by decide⟩
      simp only [bitOf, hstored]
      rw [if_neg haccepted]
    refine ⟨_, hexec, hb.answered (by rfl) _ _, ?_, fun k hk => ?_, ?_, ?_⟩
    · rw [profRow, complete_profiles]
      exact profRow_storeProfile _ _ hw
    · rw [complete_profiles]
      exact tabGet_storeProfile_outside _ _ hw hk
    · rw [complete_hopTab]
      rfl
    · rw [complete_cells]
      rfl
  case refused =>
    intro s tag c hb hbad
    exact (next_eq (hb.hitan_eq _)).trans (congrArg _ (if_pos hbad))
  case read =>
    intro s tag soft c hb hlimit hgood hstream htun hroom hout
    obtain ⟨hprof, hcells, hmbx⟩ := softProfile_frame (begun s tag) c.unit (fld (c.arg 0) 0 8) soft
    set told := softProfile (begun s tag) c.unit (fld (c.arg 0) 0 8) soft with htold
    have hten : (profRow s c.unit (fld (c.arg 0) 0 8)).length = 10 := length_tabWords ..
    set w := profRow s c.unit (fld (c.arg 0) 0 8)
    refine ⟨completeWith told tag OK w [10, wd (b2n (decide (checkWord c.unit (fld (c.arg 0) 0 8) w = w.getD 9 0)) + 2 * b2n soft)], ?_, ?_⟩
    · refine (next_eq (hb.hitan_eq _)).trans ?_
      have hlt : ¬ profileLimit (begun s tag) c.unit ≤ fld (c.arg 0) 0 8 := Nat.not_le.2 hlimit
      have hsound : profBad (begun s tag) c.unit (fld (c.arg 0) 0 8) = false := hgood
      have hrow : profRow (begun s tag) c.unit (fld (c.arg 0) 0 8) = w := rfl
      simp only [if_neg hlt, hsound, hrow, ← htold, Bool.false_eq_true, if_false]
      rfl
    · have hfind : findCmd told tag = some { c with st := .executing } := by
        rw [findCmd, hmbx]
        exact hb.findCmd_begun
      have hfree : 2 ≤ cqFree told := by
        have hcount : cqFree told = cqFree s := by simp [cqFree, hmbx, begun, setCmd]
        omega
      obtain ⟨hleft, hcq⟩ := completeWith_pair (w := w) hfind (by omega) (by omega) htun (by rw [hmbx]; exact hstream)
        hfree OK [10, wd (b2n (decide (checkWord c.unit (fld (c.arg 0) 0 8) w = w.getD 9 0)) + 2 * b2n soft)]
      refine ⟨hleft, ?_, ?_, ?_⟩
      · rw [completeWith_profiles, hprof, begun_profiles]
      · rw [completeWith_cells, hcells, begun_cells]
      · rw [hcq, hmbx]
        rfl

end Sys2Proof.Claims
end

section
/-! SUPPORT. What the dispatch answers to a command that passes its checks and does not run: a deadline passed, a
predecessor or a fence ahead, a hold (R236, R237, R253). -/
namespace Sys2Proof.Claims
open Sys2Proof Sys2Proof.Machine
variable {s : State} {i : Instr} {tag op : Nat} {c : Cmd} {absent : Cmd → Bool}

/-- An EPOCH_SET that comes late apart, every row but RESET is one call of the dispatch. -/
theorem exec_eq_hitanReach_of_epochLate_false (hi : hitanOp i = some (tag, op)) (hf : findCmd s tag = some c) (hr : op ≠ 0x002)
    (hlate : epochLate s c = false) : ∃ body, exec i s = .next (hitanReach s tag op (unreached i s) body) := by
  by_cases he : op = 0x014
  · subst he
    obtain rfl := eq_epochSet_of_hitanOp hi
    refine ⟨epochBegin, ?_⟩
    change execEpochSet tag s = _
    simp only [execEpochSet, hf, hlate, Bool.false_eq_true, if_false]
    rfl
  · exact exec_eq_hitanReach hi hr he s

section
variable (hf : findCmd s tag = some c) (hd : mayDispatch s c = true) (ha : c.st = .accepted) (hc : checkReach s c (absent c) = none)
include hf hd ha hc

theorem hitanReach_timeout (ht : deadlinePassed s c = true) (body : State → Cmd → State) :
    hitanReach s tag c.opcode absent body = complete (unqueue s c) tag TIMEOUT [] := by
  simp [hitanReach, hf, hd, ha, hc, ht]

variable (ht : deadlinePassed s c = false)
include ht

theorem hitanReach_waits (hw : mustWait s c = true) (body : State → Cmd → State) :
    hitanReach s tag c.opcode absent body = setCmd s tag (fun c => { c with st := .waiting }) := by
  simp [hitanReach, hf, hd, ha, hc, ht, hw]

theorem hitanReach_held (hw : mustWait s c = false) (hh : onHold s c = true) (body : State → Cmd → State) :
    hitanReach s tag c.opcode absent body =
      if c.noWait then complete (setCmd s tag (fun c => { c with st := .waiting, held := true })) tag BUSY []
      else setCmd s tag (fun c => { c with st := .waiting, held := true }) := by
  simp [hitanReach, hf, hd, ha, hc, ht, hw, hh]

end

/-- RESET waits for nothing, but its deadline counts. -/
theorem execReset_timeout (hf : findCmd s tag = some c) (ho : c.opcode = 0x002) (hd : mayDispatch s c = true)
    (hc : dispatchCheck s c = none) (ht : deadlinePassed s c = true) :
    execReset tag s = .next (complete (unqueue s c) tag TIMEOUT []) := by
  rw [unqueue_eq s (by simp [ho]) (by simp [ho])]
  simp [execReset, hf, ho, hd, hc, ht]

/-- Settles O29: RESET and a late EPOCH_SET by their own rows, every other case by the dispatch. -/
theorem refusedCommandsOnlyAnswer : Obligations.RefusedCommandsOnlyAnswer := by
  unfold Obligations.RefusedCommandsOnlyAnswer
  intro i tag op s c hi hf ho ha hd
  refine ⟨fun st hc => exec_refused hi hf ho ha hd hc, fun hc ht => ?timeout, fun hlate => ?late,
    fun hr hc ht hlate hw => ?waits, fun hr hc ht hlate hw hh => ?held⟩
  case timeout =>
    by_cases hr : op = 0x002
    · subst hr
      obtain rfl := eq_reset_of_hitanOp hi
      exact execReset_timeout hf ho hd hc ht
    · obtain ⟨body, hbody⟩ := exec_eq_hitanReach_of_epochLate_false hi hf hr (by simp [epochLate, ht])
      rw [hbody, ← ho, hitanReach_timeout hf hd ha hc ht]
  case late =>
    have hop : c.opcode = 0x014 := by
      by_contra hne
      simp [epochLate, hne] at hlate
    obtain rfl := eq_epochSet_of_hitanOp (hi.trans (by rw [← ho, hop]))
    change execEpochSet tag s = _
    simp only [execEpochSet, hf, hlate, if_true]
  case waits =>
    obtain ⟨body, hbody⟩ := exec_eq_hitanReach_of_epochLate_false hi hf hr hlate
    rw [hbody, ← ho, hitanReach_waits hf hd ha hc ht hw]
  case held =>
    obtain ⟨body, hbody⟩ := exec_eq_hitanReach_of_epochLate_false hi hf hr hlate
    rw [hbody, ← ho, hitanReach_held hf hd ha hc ht hw hh]

end Sys2Proof.Claims
end

section
/-! SUPPORT. The flash devices: page programs, and what the port's sequencer and window do by case (R318 to R326). -/
namespace Sys2Proof.Claims
open Sys2Proof Sys2Proof.Machine
variable {s : State} {g : Nat}

/-- A page program changes the flash's bytes alone. -/
theorem flashProgram_frame (s : State) (g a : Nat) (bs : List Byte) : ∃ m, flashProgram s g a bs = { s with fl.mem := m } := by
  induction bs generalizing s a with
  | nil => exact ⟨_, rfl⟩
  | cons b bs ih =>
    obtain ⟨m, h⟩ := ih { s with fl.mem := tabSet 0xFF s.fl.mem (flashKey g a) (flashByte s g a &&& b) } (a + 1)
    exact ⟨m, h⟩

theorem flashKey_ne {a b : Nat} (h : a ≠ b) (ha : a < 2 ^ 32) (hb : b < 2 ^ 32) : flashKey g a ≠ flashKey g b := by
  unfold flashKey
  omega

/-- The first byte programmed takes the bits that are clear (R322). -/
theorem flashByte_program_head (s : State) (g a : Nat) (b : Byte) :
    flashByte { s with fl.mem := tabSet 0xFF s.fl.mem (flashKey g a) (flashByte s g a &&& b) } g a = flashByte s g a &&& b :=
  tabGet_tabSet_self ..

/-- Bytes before the address programmed stand. -/
theorem flashByte_flashProgram_lt {a b : Nat} (bs : List Byte) (h : b < a) (ha : a + bs.length ≤ 2 ^ 32) :
    flashByte (flashProgram s g a bs) g b = flashByte s g b := by
  induction bs generalizing s a with
  | nil => rfl
  | cons x bs ih =>
    simp only [List.length_cons] at ha
    refine (ih (by omega) (by omega)).trans (tabGet_tabSet_ne _ _ _ (flashKey_ne (by omega) ?_ ?_)) <;> omega

/-- Every byte programmed takes the bits that are clear, where the program does not wrap (R322). -/
theorem flashByte_flashProgram {a i : Nat} {bs : List Byte} (hi : i < bs.length) (ha : a + bs.length ≤ 2 ^ 32) :
    flashByte (flashProgram s g a bs) g (a + i) = flashByte s g (a + i) &&& bs.getD i 0 := by
  induction bs generalizing s a i with
  | nil => cases hi
  | cons b bs ih =>
    simp only [List.length_cons] at hi ha
    cases i with
    | zero => exact (flashByte_flashProgram_lt bs (Nat.lt_succ_self a) (by omega)).trans (flashByte_program_head ..)
    | succ i =>
      have hne : flashKey g (a + (i + 1)) ≠ flashKey g a := flashKey_ne (by omega) (by omega) (by omega)
      have hbyte : flashByte { s with fl.mem := tabSet 0xFF s.fl.mem (flashKey g a) (flashByte s g a &&& b) } g (a + (i + 1))
          = flashByte s g (a + (i + 1)) := tabGet_tabSet_ne _ _ _ hne
      have := ih (s := { s with fl.mem := tabSet 0xFF s.fl.mem (flashKey g a) (flashByte s g a &&& b) }) (a := a + 1) (i := i)
        (by omega) (by omega)
      rw [show a + 1 + i = a + (i + 1) by omega, hbyte] at this
      exact this

/-- The port's clock falls back to RC: nothing but the clock's own fields changes. -/
theorem clkCheck_frame (s : State) :
    ∃ src div reg fb, clkCheck s = { s with fl.clkSrc := src, fl.div := div, fl.clkReg := reg, fl.clkFb := fb } := by
  unfold clkCheck
  split
  · exact ⟨_, _, _, _, rfl⟩
  · exact ⟨s.fl.clkSrc, s.fl.div, s.fl.clkReg, s.fl.clkFb, rfl⟩

/-- With no configuration held, the end of an access puts no more than a held select in force. -/
theorem accessEnd_frame (h : s.fl.cfgNext = none) :
    ∃ sel held gpio, accessEnd s = { s with fl.sel := sel, fl.selHeld := held, pwr.gpio := gpio } := by
  unfold accessEnd
  split <;> dsimp only <;> split
  · rename_i x _ v hv
    exact absurd (hv.symm.trans h) (by simp)
  · exact ⟨_, _, _, rfl⟩
  · rename_i v hv
    exact absurd (hv.symm.trans h) (by simp)
  · exact ⟨s.fl.sel, s.fl.selHeld, s.pwr.gpio, rfl⟩

theorem flashSel_lt (h : flashSel s = some g) : g < 4 := by
  unfold flashSel at h
  split at h
  · rename_i g' hone
    cases h
    have hmem : g ∈ [0, 1, 2, 3].filter (fun g => s.fl.sel.getLsbD g) := by simp [hone]
    have := List.mem_of_mem_filter hmem
    simp only [List.mem_cons, List.not_mem_nil, or_false] at this
    omega
  · cases h

/-- The go bit of FLASH_CMD is its bit 17 alone. -/
theorem getLsbD_go : ∀ k < 17, (0x20000 : Word).getLsbD k = false := by decide

/-- A field of FLASH_CMD below its go bit reads as written. -/
theorem fld_or_go (v : Word) {lo n : Nat} (h : lo + n ≤ 17) : fld (v ||| 0x20000) lo n = fld v lo n := by
  rw [← toNat_extractLsb'_eq_fld, ← toNat_extractLsb'_eq_fld]
  congr 1
  refine BitVec.eq_of_getLsbD_eq fun i hi => ?_
  simp only [BitVec.getLsbD_extractLsb', BitVec.getLsbD_or, getLsbD_go (lo + i) (by omega), Bool.or_false]

theorem bitOf_or_go (v : Word) {k : Nat} (h : k < 17) : bitOf (v ||| 0x20000) k = v.getLsbD k := by
  simp only [bitOf, BitVec.getLsbD_or, getLsbD_go k h, Bool.or_false]

theorem bitOf_or_go_17 (v : Word) : bitOf (v ||| 0x20000) 17 = true := by simp [bitOf]

/-! ### FLASH_CMD with go (R326) -/

@[simp] theorem parityFresh_fl (s : State) (a : Nat) : (s.parityFresh a).fl = s.fl := rfl

/-- A go from an Owner session leaves in the port what the write of FLASH_CMD leaves there. -/
theorem exists_exec_flashCmdGo {u : State} {v : Word} {resp : List Byte} {eff : List (Nat × Byte)} (h : 2 ≤ s.sec.host)
    (hw : writeFlashCmd (s.parityFresh 0x19008) (v ||| 0x20000) resp eff = u) :
    ∃ t, exec (.flashCmdGo v resp eff) s = .next t ∧ t.fl = u.fl :=
  ⟨_, next_eq (chipWrite_owner h _ _), by rw [← hw]⟩

theorem flashByte_congr {t : State} (h : t.fl.mem = s.fl.mem) (g a : Nat) : flashByte t g a = flashByte s g a := by
  rw [flashByte, flashByte, h]

section
variable {w : Word} {resp : List Byte} {eff : List (Nat × Byte)} (hgo : bitOf w 17 = true) (hidle : flashBusy s = false)
include hgo hidle

theorem writeFlashCmd_noSelect (htype : fld w 15 2 ≠ 3) (hsel : flashSel s = none) :
    writeFlashCmd s w resp eff = { s with fl.cmd := w &&& 0x1F0FF, fl.fifoOvf := false, fl.selErr := true } := by
  simp [writeFlashCmd, htype, hgo, hidle, hsel]

variable (hsel : flashSel s = some g)
include hsel

theorem writeFlashCmd_protected (htype : fld w 15 2 ≠ 3) (hwrite : bitOf w 14 = true) (haddr : bitOf w 12 = true)
    (hprot : flashProtected s (seqAddr s) = true) :
    writeFlashCmd s w resp eff = { s with fl.cmd := w &&& 0x1F0FF, fl.fifoOvf := false, fl.selErr := false, fl.wpErr := true } := by
  simp [writeFlashCmd, htype, hgo, hidle, hsel, hwrite, haddr, hprot]

variable (hlive : s.fl.dead.getLsbD g = false)
include hlive

/-- A read that sends no address takes what the flash returns into the FIFO. -/
theorem writeFlashCmd_read (htype : fld w 15 2 = 1) (hread : bitOf w 14 = false) (hpoll : bitOf w 13 = false)
    (haddr : bitOf w 12 = false) :
    writeFlashCmd s w resp eff
      = { clkCheck { s with fl.cmd := w &&& 0x1F0FF, fl.fifoOvf := false, fl.selErr := false } with
          fl.fifo := resp.take s.fl.len.toNat } := by
  simp [writeFlashCmd, htype, hgo, hidle, hsel, hread, hpoll, haddr, hlive]

/-- A page program takes its bytes from the FIFO; with the poll asked for, the port is busy behind it. -/
theorem writeFlashCmd_program (htype : fld w 15 2 = 2) (hwrite : bitOf w 14 = true) (haddr : bitOf w 12 = true)
    (hop : fld w 0 8 = 0x12) (hfree : flashProtected s (seqAddr s) = false) :
    writeFlashCmd s w [] []
      = (let s1 := flashProgram { clkCheck { s with fl.cmd := w &&& 0x1F0FF, fl.fifoOvf := false, fl.selErr := false, fl.wpErr := false } with
          fl.fifo := s.fl.fifo.drop s.fl.len.toNat } g (seqAddr s) (s.fl.fifo.take s.fl.len.toNat)
         if bitOf w 13 then { s1 with fl.polling := some true } else s1) := by
  simp [writeFlashCmd, htype, hgo, hidle, hsel, hwrite, haddr, hlive, hop, hfree]

end

@[simp] theorem clkCheck_mem (s : State) : (clkCheck s).fl.mem = s.fl.mem := by
  obtain ⟨src, div, reg, fb, h⟩ := clkCheck_frame s
  rw [h]

@[simp] theorem clkCheck_selErr (s : State) : (clkCheck s).fl.selErr = s.fl.selErr := by
  obtain ⟨src, div, reg, fb, h⟩ := clkCheck_frame s
  rw [h]

@[simp] theorem clkCheck_wpErr (s : State) : (clkCheck s).fl.wpErr = s.fl.wpErr := by
  obtain ⟨src, div, reg, fb, h⟩ := clkCheck_frame s
  rw [h]

/-- A page program leaves every field of the port but the bytes. -/
theorem flashProgram_fl (s : State) (g a : Nat) (bs : List Byte) :
    (flashProgram s g a bs).fl = { s.fl with mem := (flashProgram s g a bs).fl.mem } := by
  obtain ⟨m, h⟩ := flashProgram_frame s g a bs
  rw [h]

/-- A burst of one byte is one page. -/
theorem splitPages_one (a : Nat) (b : Byte) : splitPages 1 a [b] = [{ addr := a, bytes := [b] }] := by
  have : (256 - a % 256) = (255 - a % 256) + 1 := by omega
  simp [splitPages, this]

/-- A waiting page program of a live select starts, and the port is busy. -/
theorem startPage_cons {p : FlashPage} {ps : List FlashPage} (hqueue : s.fl.queue = p :: ps) (hsel : flashSel s = some g)
    (hlive : s.fl.dead.getLsbD g = false) :
    startPage s = flashProgram { clkCheck s with fl.queue := ps, fl.polling := some false, fl.selErr := false } g p.addr p.bytes := by
  simp [startPage, hqueue, hsel, hlive]

/-- The select given up after a poll's time-out. -/
theorem getLsbD_dead_or (dead : BitVec 4) (hg : g < 4) : (dead ||| (1#4 <<< g)).getLsbD (g % 4) = true := by
  interval_cases g <;> simp

/-- A page program from the FIFO, with or without the poll behind it. -/
theorem programmed {fifo bs : List Byte} {a i : Nat} {p : Bool} (hi : i < bs.length) (ha : a + bs.length ≤ 2 ^ 32) :
    let s1 := flashProgram { s with fl.fifo := fifo } g a bs
    let t : State := if p then { s1 with fl.polling := some true } else s1
    t.fl.fifo = fifo ∧ t.fl.wpErr = s.fl.wpErr ∧ flashByte t g (a + i) = flashByte s g (a + i) &&& bs.getD i 0 := by
  intro s1 t
  have hfl : s1.fl = { s.fl with fifo := fifo, mem := s1.fl.mem } := flashProgram_fl ..
  have ht : t.fl.fifo = s1.fl.fifo ∧ t.fl.wpErr = s1.fl.wpErr ∧ t.fl.mem = s1.fl.mem := by
    dsimp only [t]
    split <;> exact ⟨rfl, rfl, rfl⟩
  obtain ⟨hfifo, hwp, hmem⟩ := ht
  refine ⟨?_, ?_, ?_⟩
  · rw [hfifo, hfl]
  · rw [hwp, hfl]
  · rw [flashByte_congr hmem]
    exact flashByte_flashProgram hi ha

/-- A configuration that is not refused, by the state of the port. -/
theorem writeFlashCfg_idle {v : Word} (hok : flashCfgIgn v = false) (hidle : flashBusy s = false) :
    writeFlashCfg s v = applyCfg { s with fl.clkFb := false, fl.pollTo := false, fl.dead := 0 } v := by
  simp [writeFlashCfg, hok, hidle]

theorem writeFlashCfg_busy {v : Word} (hok : flashCfgIgn v = false) (hbusy : flashBusy s = true) :
    writeFlashCfg s v = { s with fl.clkFb := false, fl.pollTo := false, fl.dead := 0, fl.cfgNext := some v } := by
  simp [writeFlashCfg, hok, hbusy]

theorem exec_flashCfgWrite_ok {v : Word} (h : 2 ≤ s.sec.host) (hdiv : fld v 3 3 ≤ 5) (hmode : fld v 0 2 ≤ 1) :
    flashCfgIgn v = false ∧ exec (.flashCfgWrite v) s = .next (writeFlashCfg (s.parityFresh 0x19000) v) := by
  have hok : flashCfgIgn v = false := by simp [flashCfgIgn, hdiv, hmode]
  exact ⟨hok, (next_eq (chipWrite_owner h _ _)).trans (next_eq (if_neg (by simp [hok])))⟩

/-- Settles O43. -/
theorem flashPortRunsItsAccesses : Obligations.FlashPortRunsItsAccesses := by
  unfold Obligations.FlashPortRunsItsAccesses
  refine ⟨?goRead, ?goProgram, ?goProtected, ?goNoSelect, ?dataWrite, ?dataRead, ?sel, ?selHeld, ?cfg, ?cfgHeld, ?cfgRefused, ?denied,
    ?windowRead, ?windowProtected, ?windowWrite, ?polled, ?polling, ?timeout⟩
  case goRead =>
    intro v resp eff g s hsession htype hread hpoll haddr hidle hsel hlive
    obtain ⟨t, ht, hfl⟩ := exists_exec_flashCmdGo hsession
      (writeFlashCmd_read (s := s.parityFresh 0x19008) (resp := resp) (eff := eff) (bitOf_or_go_17 v) hidle hsel hlive
        ((fld_or_go v (by omega)).trans htype) ((bitOf_or_go v (by omega)).trans hread) ((bitOf_or_go v (by omega)).trans hpoll)
        ((bitOf_or_go v (by omega)).trans haddr))
    refine ⟨t, ht, ?_, ?_, ?_⟩ <;> simp [hfl]
  case goProgram =>
    intro v g i s hsession htype hwrite haddr hop hidle hsel hlive hfree hpage hi hi'
    obtain ⟨t, ht, hfl⟩ := exists_exec_flashCmdGo hsession
      (writeFlashCmd_program (s := s.parityFresh 0x19008) (bitOf_or_go_17 v) hidle hsel hlive ((fld_or_go v (by omega)).trans htype)
        ((bitOf_or_go v (by omega)).trans hwrite) ((bitOf_or_go v (by omega)).trans haddr) ((fld_or_go v (by omega)).trans hop) hfree)
    obtain ⟨hfifo, hwp, hbyte⟩ := programmed (s := clkCheck { s.parityFresh 0x19008 with
      fl.cmd := (v ||| 0x20000) &&& 0x1F0FF, fl.fifoOvf := false, fl.selErr := false, fl.wpErr := false }) (g := g)
      (fifo := s.fl.fifo.drop s.fl.len.toNat) (a := seqAddr s) (bs := s.fl.fifo.take s.fl.len.toNat) (i := i)
      (p := bitOf (v ||| 0x20000) 13) (by simp; omega) (by simp; omega)
    refine ⟨t, ht, ?_, ?_, ?_⟩
    · rw [hfl]
      exact hfifo
    · rw [hfl]
      exact hwp.trans (clkCheck_wpErr _)
    · rw [flashByte_congr (congrArg FlashSt.mem hfl)]
      refine hbyte.trans ?_
      rw [flashByte_congr (clkCheck_mem _)]
      simp [List.getD, hi]
      rfl
  case goProtected =>
    intro v resp eff g s hsession htype hwrite haddr hidle hsel hprot
    obtain ⟨t, ht, hfl⟩ := exists_exec_flashCmdGo hsession
      (writeFlashCmd_protected (s := s.parityFresh 0x19008) (resp := resp) (eff := eff) (bitOf_or_go_17 v) hidle hsel
        (by rwa [fld_or_go v (by omega)]) ((bitOf_or_go v (by omega)).trans hwrite) ((bitOf_or_go v (by omega)).trans haddr) hprot)
    refine ⟨t, ht, ?_, ?_, ?_⟩ <;> simp [hfl]
  case goNoSelect =>
    intro v resp eff s hsession htype hidle hsel
    obtain ⟨t, ht, hfl⟩ := exists_exec_flashCmdGo hsession
      (writeFlashCmd_noSelect (s := s.parityFresh 0x19008) (resp := resp) (eff := eff) (bitOf_or_go_17 v) hidle
        (by rwa [fld_or_go v (by omega)]) hsel)
    refine ⟨t, ht, ?_, ?_⟩ <;> simp [hfl]
  case dataWrite =>
    intro v s hsession hroom
    refine ⟨_, next_eq (ownerWrite_owner hsession _), ?_⟩
    have hlen : (s.fl.fifo ++ unpackWords [v]).length ≤ 256 := by simp [unpackWords]; omega
    refine ⟨List.take_of_length_le hlen, ?_, rfl⟩
    simp only [writeFlashData, decide_eq_false (Nat.not_lt.2 hlen), Bool.or_false]
  case dataRead => exact fun s hsession => next_eq (if_neg (Nat.not_lt.2 hsession))
  case sel =>
    intro v s hsession hidle
    exact (next_eq (chipWrite_owner hsession _ _)).trans (next_eq (if_neg (by simp [flashBusy] at hidle ⊢; exact hidle)))
  case selHeld => exact fun v s hsession hbusy => (next_eq (chipWrite_owner hsession _ _)).trans (next_eq (if_pos hbusy))
  case cfg =>
    intro v s hsession hdiv hmode hidle
    obtain ⟨hok, hexec⟩ := exec_flashCfgWrite_ok hsession hdiv hmode
    rw [writeFlashCfg_idle (s := s.parityFresh 0x19000) hok hidle] at hexec
    exact ⟨_, hexec, rfl, rfl, rfl, rfl, rfl, rfl⟩
  case cfgHeld =>
    intro v s hsession hdiv hmode hbusy
    obtain ⟨hok, hexec⟩ := exec_flashCfgWrite_ok hsession hdiv hmode
    rw [writeFlashCfg_busy (s := s.parityFresh 0x19000) hok hbusy] at hexec
    exact ⟨_, hexec, rfl, rfl, rfl⟩
  case cfgRefused =>
    intro v s hsession hbad
    refine (next_eq (chipWrite_owner hsession _ _)).trans (next_eq (if_pos ?_))
    simpa [flashCfgIgn] using hbad
  case denied =>
    intro v resp eff s hsession
    refine ⟨fun i hi => ?_, next_eq (if_pos hsession)⟩
    simp only [List.mem_cons, List.not_mem_nil, or_false] at hi
    rcases hi with rfl | rfl | rfl | rfl
    · exact next_eq (chipWrite_denied hsession _ _)
    · exact next_eq (ownerWrite_denied hsession _)
    · exact next_eq (chipWrite_denied hsession _ _)
    · exact next_eq (chipWrite_denied hsession _ _)
  case windowRead =>
    intro a g s hin hidle hsel hlive
    refine ⟨{ clkCheck s with fl.selErr := false, fl.busErr := false, fl.busData := some (flashByte s g (windowAddr s a)) }, ?_, rfl, rfl,
      clkCheck_mem s⟩
    change execFlashWindowRead a s = _
    simp [execFlashWindowRead, hin, hidle, hsel, hlive]
  case windowProtected =>
    intro a b s hin hsel hprot hqueue
    have hone : (flashSel s).isNone = false := by simpa using hsel
    refine ⟨{ s with fl.wpErr := true, fl.busErr := true, fl.queue := [] }, ?_, rfl, rfl, rfl⟩
    change execFlashWindowWrite a [b] s = _
    simp [execFlashWindowWrite, hin, hone, splitPages_one, hprot, hqueue, startPage]
  case windowWrite =>
    intro a g b s hin hsel hlive hidle hfree hqueue
    refine ⟨flashProgram { clkCheck { s with fl.wpErr := false, fl.busErr := false, fl.queue := [{ addr := windowAddr s a, bytes := [b] }] } with
      fl.queue := [], fl.polling := some false, fl.selErr := false } g (windowAddr s a) [b], ?_, ?_, ?_, ?_⟩
    · change execFlashWindowWrite a [b] s = _
      have hpage : startPage { s with fl.wpErr := false, fl.busErr := false, fl.queue := [{ addr := windowAddr s a, bytes := [b] }] } = _ :=
        startPage_cons rfl hsel hlive
      simp [execFlashWindowWrite, hin, hsel, splitPages_one, hfree, hqueue, hidle, hpage]
    · refine (flashByte_program_head ..).trans ?_
      rw [flashByte_congr (s := s) (by simp)]
    · rfl
    · exact clkCheck_wpErr _
  case polled =>
    intro s hbusy hqueue hheld hcfg
    change execFlashWipPoll false s = _
    simp [execFlashWipPoll, hbusy, accessEnd, hheld, hcfg, startPage, hqueue]
  case polling => exact fun s => if_neg (by simp)
  case timeout =>
    intro s hbusy hcfg
    have hlt : (flashSel s).getD 0 < 4 := by
      cases h : flashSel s with
      | none => decide
      | some g => exact flashSel_lt h
    refine ⟨_, if_pos hbusy, ?_⟩
    obtain ⟨sel, held, gpio, h⟩ := accessEnd_frame (s := faultChip { s with
      fl.polling := none, fl.pollTo := true, fl.dead := s.fl.dead ||| (1#4 <<< (flashSel s).getD 0), fl.queue := [],
      fl.busErr := s.fl.busErr || decide (s.fl.polling = some false) || ! s.fl.queue.isEmpty } 0x3A 1 0 (wd ((flashSel s).getD 0)))
      (by simpa using hcfg)
    rw [h]
    refine ⟨?_, ?_, ?_, ?_, ?_⟩
    case refine_5 => simpa using getLsbD_dead_or s.fl.dead hlt
    all_goals simp

end Sys2Proof.Claims
end

section
/-! SUPPORT. A write of TH64_CTL (R372, R498). -/
namespace Sys2Proof.Claims
open Sys2Proof Sys2Proof.Machine
variable {s t : State} {r : Nat} {v : Word} {f : WrFlags}

/-- TH64_CTL of each region lies in its own window (R310). -/
theorem locate_th64Ctl (strict : Bool) (hr : r < 4) : locate strict (regionBase r + 0x4018) = .region r 0x18 := by
  interval_cases r <;> cases strict <;> rfl

theorem b2n_bits : ∀ x y z : Bool, (wd (b2n x * 2 ^ 17 + b2n y * 2 ^ 16 + b2n z)).getLsbD 0 = z
    ∧ (wd (b2n x * 2 ^ 17 + b2n y * 2 ^ 16 + b2n z)).getLsbD 16 = y ∧ (wd (b2n x * 2 ^ 17 + b2n y * 2 ^ 16 + b2n z)).getLsbD 17 = x := by
  decide

/-- An Owner or Vendor session is denied no register (R286). -/
theorem writeDenied_of_owner {level : Nat} (h : 2 ≤ level) (x : Reg) : writeDenied x level = false := by
  simp only [writeDenied, decide_eq_false (Nat.not_lt.2 h), Bool.and_false]

theorem noteFlags_none (s : State) : noteFlags s {} = s := by simp [noteFlags]

/-- Of a running region TH64_CTL takes every write of an Owner or Vendor session. -/
theorem exec_th64CtlWrite (hr : r < 4) (hserves : Serves s) (hsession : 2 ≤ s.sec.host) (hruns : Runs s r)
    (hwrite : writeTh64 (s.parityFresh (regionBase r + 0x4018)) r v = (t, f)) (hpwr : t.pwr = s.pwr)
    (hnext : t.hp.next = s.hp.next) : exec (.th64CtlWrite r v) s = .next (noteFlags t f) := by
  obtain ⟨hpresent, hreset⟩ := hruns
  have hreach : regReach s (.region r 0x18) = .ok := by simp [regReach, hreset]
  have hstore : writeAt s s.sec.host (regionBase r + 0x4018) v = (t, f) := by
    rw [writeAt_eq_writeReg (locate_th64Ctl _ hr) rfl, writeReg_rw (x := .region r 0x18) hpresent (writeDenied_of_owner hsession _) rfl hreach]
    exact hwrite
  exact next_eq (portWrite_of_serves hserves hstore hpwr hnext)

/-- The region's memory settings behind a write of TH64_CTL: the enable bit is the word's, the two others stand. -/
def th64Taken (m : RegionMem) (v : Word) : RegionMem :=
  { m with
    th64 := wd (b2n (bitOf m.th64 17) * 2 ^ 17 + b2n (bitOf m.th64 16) * 2 ^ 16 + b2n (bitOf v 0))
    thStage := if bitOf v 0 then m.thStage else ([], 0) }

theorem writeTh64_quiet (hnew : v.getLsbD 0 ≠ (s.mem r).th64.getLsbD 0) (heng : regionEngineActive s r = false)
    (hacq : (s.acq r).armed = false) (hmaint : maintIn s r = false) :
    writeTh64 s r v = ({ s.updMem r (fun m => th64Taken m v) with
      cal.applyAt := s.cal.applyAt ++ [(r, alignedEdge (s.region r) 1024, none)] }, {}) := by
  simp only [writeTh64, bitOf, if_neg hnew, heng, hacq, hmaint, Bool.false_eq_true, or_self, if_false]
  rfl

theorem writeTh64_busy (hnew : v.getLsbD 0 ≠ (s.mem r).th64.getLsbD 0)
    (hbusy : regionEngineActive s r = true ∨ (s.acq r).armed = true ∨ maintIn s r = true) : writeTh64 s r v = (s, wrIgn) := by
  simp only [writeTh64, bitOf, if_neg hnew, if_pos hbusy]

theorem writeTh64_same (hsame : v.getLsbD 0 = (s.mem r).th64.getLsbD 0) : writeTh64 s r v = (s, {}) := if_pos hsame

/-- Settles O41. -/
theorem th64ModeChangesWhenQuiet : Obligations.Th64ModeChangesWhenQuiet := by
  unfold Obligations.Th64ModeChangesWhenQuiet
  refine ⟨?quiet, ?busy, ?same⟩
  case quiet =>
    intro r v s hr hserves hsession hruns hnew heng hacq hmaint
    refine ⟨_, exec_th64CtlWrite hr hserves hsession hruns
      (writeTh64_quiet (s := s.parityFresh (regionBase r + 0x4018)) hnew heng hacq hmaint) rfl rfl, ?_⟩
    rw [noteFlags_none]
    obtain ⟨hbit, hcheck, htop⟩ := b2n_bits (bitOf (s.mem r).th64 17) (bitOf (s.mem r).th64 16) (bitOf v 0)
    have hmem := State.mem_updMem_self (s.parityFresh (regionBase r + 0x4018)) r fun m => th64Taken m v
    have hword := congrArg RegionMem.th64 hmem
    exact ⟨(congrArg (·.getLsbD 0) hword).trans hbit, (congrArg (·.getLsbD 17) hword).trans htop,
      (congrArg (·.getLsbD 16) hword).trans hcheck, rfl, rfl⟩
  case busy =>
    intro r v s hr hserves hsession hruns hnew hbusy
    rw [exec_th64CtlWrite hr hserves hsession hruns (writeTh64_busy (s := s.parityFresh (regionBase r + 0x4018)) hnew hbusy) rfl rfl,
      noteFlags_ign]
  case same =>
    intro r v s hr hserves hsession hruns hsame
    rw [exec_th64CtlWrite hr hserves hsession hruns (writeTh64_same (s := s.parityFresh (regionBase r + 0x4018)) hsame) rfl rfl,
      noteFlags_none]

end Sys2Proof.Claims
end

section
/-! SUPPORT. A write of the host port by the type of its register (R286 to R299). -/
namespace Sys2Proof.Claims
open Sys2Proof Sys2Proof.Machine
variable {s t : State} {x : Reg} {level a k : Nat} {v : Word} {f : WrFlags}

/-- A register that is not there takes nothing (R285). -/
theorem writeReg_absent (hpres : regPresent s x = false) (v : Word) : writeReg s level a x v = (s, {}) := if_pos hpres

/-- A session below the register's is denied (R286). -/
theorem writeReg_denied (hpres : regPresent s x = true) (hden : writeDenied x level = true) (v : Word) :
    writeReg s level a x v = (s, { denied := true }) := by
  simp [writeReg, hpres, hden]

/-- A permitted write that needs no CLASP reaches the rule of its register's type, and the register's parity is fresh. -/
theorem writeReg_reached (hpres : regPresent s x = true) (hden : writeDenied x level = false) (hreach : regReach s x = .ok)
    (hnone : x.kind ≠ .none) (hrwc : x.kind ≠ .rwc) (v : Word) :
    writeReg s level a x v = writeKind (s.parityFresh x.addr) level a x v := by
  simp [writeReg, writeReach, hpres, hden, hreach, hnone, hrwc]

/-- A bit's address is none of a unit's registers. -/
theorem whole_of_owned (h : x.owned = true) : whole x = true := by
  cases x with
  | bit => cases h
  | _ => rfl

/-- HOST_CFG lies at 0x100, IRQ_ENABLE at 0x102, CLASP at 0x110 (R310). -/
theorem writeAt_hostCfg (s : State) (level : Nat) (v : Word) : writeAt s level 0x100 v = writeHostCfg (s.parityFresh 0x100) v := by
  rw [writeAt_eq_writeReg (x := .host 0x100) rfl rfl, writeReg_rw rfl rfl rfl rfl]
  rfl

theorem writeAt_irqEnable (s : State) (level : Nat) (v : Word) :
    writeAt s level 0x102 v = ({ s.parityFresh 0x102 with hc.irqEnable := v.extractLsb' 0 6 }, {}) := by
  rw [writeAt_eq_writeReg (x := .host 0x102) rfl rfl, writeReg_rw rfl rfl rfl rfl]
  rfl

theorem writeAt_clasp (s : State) (level : Nat) (v : Word) : writeAt s level 0x110 v = writeClasp (s.parityFresh 0x110) v := by
  rw [writeAt_eq_writeReg (x := .host 0x110) rfl rfl, writeReg_reached rfl rfl rfl (by decide) (by decide)]
  rfl

/-- A HOST_CFG that is accepted is in force from the release of its frame (R288). -/
theorem portWrite_hostCfg (hserves : Serves s) (hlo : 4 ≤ fld v 0 6) (hhi : fld v 0 6 ≤ 32) :
    portWrite s 0x100 v = { s.parityFresh 0x100 with
      hp.strict := v.getLsbD 17, hp.lanes := v.getLsbD 16, hp.lat := v.extractLsb' 8 8, hp.wlen := v.extractLsb' 0 6 } := by
  obtain ⟨hport, hnext⟩ := hserves
  obtain ⟨hwiped, -⟩ := Bool.and_eq_true_iff.mp hport
  have hok : ¬ (fld v 0 6 < 4 ∨ 32 < fld v 0 6) := by omega
  have hwiped' : (s.parityFresh 0x100).pwr.wiped = true := hwiped
  simp [portWrite, hport, writeAt_hostCfg, writeHostCfg, hok, hwiped', releaseCfg, noteFlags, bitOf]
  rw [← hnext]
  rfl

/-- The bits of IRQ_ENABLE have their aliases from 0x1040 on (R295). -/
theorem locate_irqAlias (strict : Bool) (hk : k < 6) : locate strict (0x1040 + k) = .bit 0x102 k := by
  interval_cases k <;> cases strict <;> rfl

theorem getLsbD_bit : ∀ k < 18, ∀ j < 18, (1#18 <<< k).getLsbD j = decide (j = k) := by decide

/-- One bit put into a word. -/
theorem putBits_one (w v : Word) (hk : k < 18) :
    putBits w [(k, v)] = if v.getLsbD 0 then w ||| (1#18 <<< k) else w &&& ~~~(1#18 <<< k) := if_neg (Nat.not_le.2 hk)

theorem getLsbD_putBit (w v : Word) {j : Nat} (hk : k < 18) (hj : j < 18) :
    (putBits w [(k, v)]).getLsbD j = if j = k then v.getLsbD 0 else w.getLsbD j := by
  rw [putBits_one w v hk]
  cases v.getLsbD 0 with
  | true =>
    rw [if_pos rfl, BitVec.getLsbD_or, getLsbD_bit k hk j hj]
    split <;> simp_all
  | false =>
    rw [if_neg Bool.false_ne_true, BitVec.getLsbD_and, BitVec.getLsbD_not, getLsbD_bit k hk j hj]
    split <;> simp_all

/-- A write of one bit of an RW host register writes that register with the bit put into it (R295). -/
theorem writeBits_one {h : Nat} (hkind : hostKind h = .rw) (hk : k < 18) (s : State) (level a : Nat) (v : Word) :
    writeBits s level a h [(k, v)] = writeReg s level a (.host h) (putBits (aliasBase s h) [(k, v)]) := by
  simp [writeBits, hk, hkind]

theorem writeAt_irqAlias (hk : k < 6) (s : State) (level : Nat) (v : Word) :
    writeAt s level (0x1040 + k) v
      = ({ s.parityFresh 0x102 with hc.irqEnable := (putBits (aliasBase s 0x102) [(k, v)]).extractLsb' 0 6 }, {}) := by
  unfold writeAt
  rw [locate_irqAlias _ hk]
  dsimp only
  rw [writeBits_one rfl (by omega), writeReg_rw rfl rfl rfl rfl]
  rfl

theorem getLsbD_aliasBase_irqEnable {j : Nat} (hj : j < 6) : (aliasBase s 0x102).getLsbD j = s.hc.irqEnable.getLsbD j := by
  have hbase : aliasBase s 0x102 = wd s.hc.irqEnable.toNat := rfl
  rw [hbase, wd, BitVec.getLsbD_ofNat]
  simp [show j < 18 by omega, BitVec.getLsbD]

/-! ### CLASP (R296 to R298) -/

theorem portWrite_clasp (hserves : Serves s) (h : writeClasp (s.parityFresh 0x110) v = (t, f)) (hpwr : t.pwr = s.pwr)
    (hnext : t.hp.next = s.hp.next) : portWrite s 0x110 v = noteFlags t f :=
  portWrite_of_serves hserves ((writeAt_clasp ..).trans h) hpwr hnext

theorem writeClasp_key (hclasp : s.hc.clasp ≠ .locked) : writeClasp s 0x2D5A6 = ({ s with hc.clasp := .opened, hc.consec := 0 }, {}) := by
  simp [writeClasp, hclasp]

theorem writeClasp_zero (hclasp : s.hc.clasp ≠ .locked) : writeClasp s 0 = ({ s with hc.clasp := .shut }, {}) := by
  simp [writeClasp, hclasp]

theorem writeClasp_locked (hclasp : s.hc.clasp = .locked) (v : Word) : writeClasp s v = (s, wrIgn) := if_pos hclasp

section
variable (hclasp : s.hc.clasp ≠ .locked) (hkey : v ≠ 0x2D5A6) (hzero : v ≠ 0)
include hclasp hkey hzero

theorem writeClasp_wrong (hcount : s.hc.consec < 15) :
    writeClasp s v = ({ s with hc.clasp := .shut, hc.consec := s.hc.consec + 1 }, {}) := by
  simp only [writeClasp, if_neg hclasp, if_neg hkey, if_neg hzero]
  exact if_neg (by omega)

/-- The sixteenth wrong value on end locks CLASP (R298). -/
theorem writeClasp_sixteenth (hcount : 15 ≤ s.hc.consec) :
    writeClasp s v = ({ s with hc.clasp := .locked, hc.consec := 16, hc.events := s.hc.events.postBit 1 }, {}) := by
  simp only [writeClasp, if_neg hclasp, if_neg hkey, if_neg hzero]
  exact if_pos (by omega)

end

/-! ### WO1 and the trim word (R299, R306) -/

theorem writeKind_ro (hkind : x.kind = .ro) (s : State) (level a : Nat) (v : Word) : writeKind s level a x v = (s, wrIgn) := by
  simp [writeKind, hkind]

theorem writeKind_wo1 (hkind : x.kind = .wo1) (level a : Nat) (v : Word) : writeKind s level a x v = writeWo1 s a x v := by
  simp [writeKind, hkind]

/-- A write of the trim word TDC reaches one cell alone. -/
theorem storeReg_tdc (s : State) (level p : Nat) (v : Word) :
    storeReg s level (.cell p 0x1A) v = (markOwn (writeTrim s p 0x1A v) p 0x1A, {}) := by
  have hwindow : windowWrite s p 0x1A (fun s q => writeCell s q 0x1A v) = (markOwn (writeTrim s p 0x1A v) p 0x1A, false) := by
    simp only [windowWrite, cellRefusable, movesWithChannel]
    cases windowMirror s p <;> rfl
  simp only [storeReg, hwindow]

theorem cell_markOwn (s : State) (p off q : Nat) (hq : q ≠ p) : (markOwn s p off).cell q = s.cell q := by
  unfold markOwn
  split
  · exact State.cell_updCell_ne s _ hq
  · rfl

theorem trim_markOwn (s : State) (p off : Nat) : ((markOwn s p off).cell p).trim = (s.cell p).trim := by
  unfold markOwn
  split
  · rw [State.cell_updCell_self]
  · rfl

theorem markOwn_frame (s : State) (p off : Nat) : ∃ c, markOwn s p off = { s with cells := c } := by
  unfold markOwn
  split
  · exact ⟨_, rfl⟩
  · exact ⟨s.cells, rfl⟩

/-- Settles O39. -/
theorem registerWritesObeyTheirTypes : Obligations.RegisterWritesObeyTheirTypes := by
  unfold Obligations.RegisterWritesObeyTheirTypes
  refine ⟨?absent, ?ro, ?denied, ?irqEnable, ?bitAlias, ?hostCfg, ?hostCfgRefused, ?claspOpens, ?claspWrong, ?claspLocked, ?claspTimeout,
    ?missed, ?trim, ?reset, ?resetMissed, ?wo1Again, ?wo1⟩
  case absent =>
    intro a v s hserves hwhole hpres
    have hwrite := (writeAt_eq_writeReg (level := s.sec.host) rfl hwhole v).trans (writeReg_absent hpres v)
    exact next_eq ((portWrite_of_serves hserves hwrite rfl rfl).trans (noteFlags_none s))
  case ro =>
    intro a v s hserves hwhole hopen hkind
    obtain ⟨hpres, hden, hreach⟩ := hopen
    have hwrite := (writeAt_eq_writeReg (level := s.sec.host) rfl hwhole v).trans
      (writeReg_reached hpres hden hreach (by simp [hkind]) (by simp [hkind]) v)
    rw [writeKind_ro hkind] at hwrite
    exact next_eq ((portWrite_of_serves hserves hwrite rfl rfl).trans (noteFlags_ign _))
  case denied =>
    intro a v s hserves howned hpres hsession
    have hden : writeDenied (locate s.hp.strict a) s.sec.host = true := by simp [writeDenied, howned, hsession]
    have hwrite := (writeAt_eq_writeReg (level := s.sec.host) rfl (whole_of_owned howned) v).trans (writeReg_denied hpres hden v)
    exact next_eq ((portWrite_of_serves hserves hwrite rfl rfl).trans (noteFlags_denied s))
  case irqEnable =>
    exact fun v s hserves => next_eq ((portWrite_of_serves hserves (writeAt_irqEnable ..) rfl rfl).trans (noteFlags_none _))
  case bitAlias =>
    intro k v s hserves hk
    have hport := (portWrite_of_serves hserves (writeAt_irqAlias hk s _ v) rfl rfl).trans (noteFlags_none _)
    have hexec : execBitAliasWrite (0x1040 + k) v s = .next (portWrite s (0x1040 + k) v) := by
      simp only [execBitAliasWrite, locate_irqAlias _ hk]
    refine ⟨_, hexec.trans (next_eq hport), rfl, fun j hj => ?_⟩
    · rw [BitVec.getLsbD_extractLsb', Nat.zero_add, getLsbD_putBit _ _ (by omega) (by omega), getLsbD_aliasBase_irqEnable hj]
      simp [hj]
  case hostCfg => exact fun v s hserves hlo hhi => next_eq (portWrite_hostCfg hserves hlo hhi)
  case hostCfgRefused =>
    intro v s hserves hbad
    have hwrite := (writeAt_hostCfg s s.sec.host v).trans (if_pos hbad)
    exact next_eq ((portWrite_of_serves hserves hwrite rfl rfl).trans (noteFlags_ign _))
  case claspOpens =>
    intro s hserves hclasp
    exact ⟨next_eq ((portWrite_clasp hserves (writeClasp_key hclasp) rfl rfl).trans (noteFlags_none _)),
      next_eq ((portWrite_clasp hserves (writeClasp_zero hclasp) rfl rfl).trans (noteFlags_none _))⟩
  case claspWrong =>
    intro v s hserves hclasp hkey hzero
    by_cases hcount : s.hc.consec < 15
    · have hport := (portWrite_clasp hserves (writeClasp_wrong (s := s.parityFresh 0x110) hclasp hkey hzero hcount) rfl rfl).trans
        (noteFlags_none _)
      exact ⟨_, next_eq hport, rfl, fun _ => ⟨rfl, rfl⟩, fun h => absurd hcount (Nat.not_lt.2 h)⟩
    · have hport := (portWrite_clasp hserves
        (writeClasp_sixteenth (s := s.parityFresh 0x110) hclasp hkey hzero (Nat.not_lt.1 hcount)) rfl rfl).trans (noteFlags_none _)
      exact ⟨_, next_eq hport, rfl, fun h => absurd h hcount, fun _ => ⟨rfl, rfl⟩⟩
  case claspLocked =>
    intro v s hserves hclasp
    exact next_eq ((portWrite_clasp hserves (writeClasp_locked (s := s.parityFresh 0x110) hclasp v) rfl rfl).trans (noteFlags_ign _))
  case claspTimeout => exact fun s hclasp => next_eq (if_pos hclasp)
  case missed =>
    intro a v s hserves hwhole hopen hkind hclasp
    obtain ⟨hpres, hden, -⟩ := hopen
    have hwrite := (writeAt_eq_writeReg (level := s.sec.host) rfl hwhole v).trans (writeReg_rwc_missed hpres hden hkind hclasp v)
    have hport := (portWrite_of_serves hserves hwrite rfl rfl).trans (noteFlags_ign _)
    exact next_eq ((if_pos (by simp [hkind])).trans hport)
  case trim =>
    intro a p v s hserves hloc hopen hreach hclasp
    obtain ⟨hpres, hden, -⟩ := hopen
    rw [hloc] at hpres hden
    have hwrite := (writeAt_eq_writeReg (level := s.sec.host) hloc rfl v).trans (writeReg_rwc_opened hpres hden rfl hclasp v)
    have hreach' : regReach { s with hc.clasp := .shut } (.cell p 0x1A) = .ok := hreach
    simp only [writeReach, hreach'] at hwrite
    have hkind : writeKind (State.parityFresh { s with hc.clasp := .shut } (Reg.cell p 0x1A).addr) s.sec.host a (.cell p 0x1A) v = _ :=
      storeReg_tdc _ s.sec.host p v
    rw [hkind] at hwrite
    obtain ⟨c, hmark⟩ := markOwn_frame (writeTrim (State.parityFresh { s with hc.clasp := .shut } (Reg.cell p 0x1A).addr) p 0x1A v) p 0x1A
    have hpwr := congrArg State.pwr hmark
    have hhp := congrArg State.hp hmark
    have hport := (portWrite_of_serves hserves hwrite hpwr (congrArg HostPort.next hhp)).trans (noteFlags_none _)
    refine ⟨_, next_eq ((if_pos (by rw [hloc]; rfl)).trans hport), ?_, ?_, fun q hq => ?_⟩
    · exact congrArg (fun t => t.hc.clasp) hmark
    · rw [trim_markOwn]
      exact congrArg (fun c => c.trim.tdc) (State.cell_updCell_self ..)
    · rw [cell_markOwn _ _ _ _ hq]
      exact State.cell_updCell_ne _ _ hq
  case reset =>
    intro v s hserves hclasp hperm hbit hphase
    obtain ⟨hport, -⟩ := hserves
    have hwrite := writeAt_resetCtl_permitted hclasp hperm hbit
    obtain ⟨p, hreset⟩ := exists_chipReset_eq (resetCtlReached s) 4
    rw [hreset] at hwrite
    rw [exec_resetCtlWrite, portWrite_of_reset hport hwrite rfl]
    exact ⟨_, rfl, rfl, resetState_latch (s := resetCtlReached s) hphase 4, rfl, rfl, rfl, rfl, rfl⟩
  case resetMissed =>
    intro v s hserves hclasp
    rw [exec_resetCtlWrite, portWrite_of_serves hserves (writeAt_resetCtl_missed hclasp _ v) rfl rfl, noteFlags_ign]
    rfl
  case wo1Again =>
    intro a v s hserves hwhole hopen hkind hwritten
    obtain ⟨hpres, hden, hreach⟩ := hopen
    have hwrite := (writeAt_eq_writeReg (level := s.sec.host) rfl hwhole v).trans
      (writeReg_reached hpres hden hreach (by simp [hkind]) (by simp [hkind]) v)
    have hagain : woWritten (s.parityFresh (locate s.hp.strict a).addr) (locate s.hp.strict a) = true := hwritten
    rw [writeKind_wo1 hkind, writeWo1, if_pos hagain] at hwrite
    have hport := (portWrite_of_serves hserves hwrite rfl rfl).trans (noteFlags_ign _)
    exact next_eq ((if_pos (by simp [hkind])).trans hport)
  case wo1 =>
    intro v s hserves hfirst
    have hwrite : writeAt s s.sec.host 0x109 v = ({ s.parityFresh 0x109 with hc.irqPp := v.getLsbD 0, hc.pinWritten := true }, {}) := by
      rw [writeAt_eq_writeReg (x := .host 0x109) rfl rfl, writeReg_reached rfl rfl rfl (by decide) (by decide), writeKind_wo1 rfl]
      have hfirst' : (s.parityFresh 0x109).hc.pinWritten = false := hfirst
      simp only [writeWo1, woWritten, Reg.addr, hfirst', Bool.false_eq_true, if_false]
      rfl
    exact next_eq ((if_pos rfl).trans ((portWrite_of_serves hserves hwrite rfl rfl).trans (noteFlags_none _)))

end Sys2Proof.Claims
end

section
/-! SUPPORT. An edge record that does not agree with its cell. -/
namespace Sys2Proof.Claims
open Sys2Proof Sys2Proof.Machine

/-- An enabled cell that holds, for the present edge, the record of a SETO which names the cell disabled before it. No run
brings this record about, for a SETO leaves en as it is; but it is a state of the model. -/
def setoUndisabled : CellSt :=
  { ({} : CellSt) with
    cfg.ctl.en := true,
    hop.undo := some { edge := 0, act := .seto, vals := {}, loop := {}, out := {}, ctl := {}, bw := 0 } }

/-- Region 0 of the reset state out of reset, under an Owner session, with that cell as its cell 0. -/
def cellUndoingSeto : State :=
  { State.reset with regions := [(0, { inReset := false })], cells := [(0, setoUndisabled)], sec := { host := 2 } }

theorem cellReach_cellUndoingSeto : cellReach cellUndoingSeto 0 = .ok := by decide

/-- The write that sets en takes the SETO of its edge back first (R144), and with it the cell's en. -/
theorem exec_cellCtlEnSet_cellUndoingSeto :
    (match exec (.cellCtlEnSet 0 0) cellUndoingSeto with
      | .next t => (t.cell 0).cfg.ctl.en
      | _ => true) = false := by decide

/-- Refutes O12: a write of CELL_CTL that finds the record of a SETO of its own edge takes the record's CELL_CTL back and
sets five bits behind it; en of an enabled cell that stays enabled is the record's. In `cellUndoingSeto` that is 0. -/
theorem not_cellCtlWritesTakeSixBits : ¬ Obligations.CellCtlWritesTakeSixBits := by
  unfold Obligations.CellCtlWritesTakeSixBits
  intro h
  obtain ⟨htakes, -⟩ := h 0 0 cellUndoingSeto
  obtain ⟨t, ht, hctl, -⟩ := htakes (by decide) cellReach_cellUndoingSeto (by decide)
  have hen := exec_cellCtlEnSet_cellUndoingSeto
  rw [ht] at hen
  change (t.cell 0).cfg.ctl.en = false at hen
  rw [hctl] at hen
  exact absurd hen (by decide)

end Sys2Proof.Claims
end

section
/-! SUPPORT. Writes into a cell's window: what a direct write leaves as it is, and the cell behind each register's rule. -/
namespace Sys2Proof.Claims
open Sys2Proof Sys2Proof.Machine
variable {s t u : State} {p off : Nat} {f : State → Nat → State}

/-- Nothing of these parts of the state changes but cell p and, while a spare is being seated for it, that spare. -/
def OnlyWindow (s t : State) (p : Nat) : Prop :=
  (∀ q, q ≠ p → windowMirror s p ≠ some q → t.cell q = s.cell q) ∧ t.tius = s.tius ∧ t.profiles = s.profiles ∧ t.hopTab = s.hopTab
  ∧ t.fuses = s.fuses ∧ t.regions = s.regions ∧ t.blocks = s.blocks

/-- Of these parts of the state only cell p changes. -/
structure CellAlone (s t : State) (p : Nat) : Prop where
  cell : ∀ q, q ≠ p → t.cell q = s.cell q
  tius : t.tius = s.tius
  profiles : t.profiles = s.profiles
  hopTab : t.hopTab = s.hopTab
  fuses : t.fuses = s.fuses
  regions : t.regions = s.regions
  blocks : t.blocks = s.blocks

theorem CellAlone.refl (s : State) (p : Nat) : CellAlone s s p := ⟨fun _ _ => rfl, rfl, rfl, rfl, rfl, rfl, rfl⟩

theorem CellAlone.trans (h : CellAlone s t p) (k : CellAlone t u p) : CellAlone s u p where
  cell q hq := (k.cell q hq).trans (h.cell q hq)
  tius := k.tius.trans h.tius
  profiles := k.profiles.trans h.profiles
  hopTab := k.hopTab.trans h.hopTab
  fuses := k.fuses.trans h.fuses
  regions := k.regions.trans h.regions
  blocks := k.blocks.trans h.blocks

theorem CellAlone.updCell (h : CellAlone s t p) (g : CellSt → CellSt) : CellAlone s (t.updCell p g) p :=
  h.trans ⟨fun _ hq => State.cell_updCell_ne _ _ hq, rfl, rfl, rfl, rfl, rfl, rfl⟩

theorem CellAlone.complete (h : CellAlone s t p) (tag status : Nat) (res : List Word) : CellAlone s (complete t tag status res) p :=
  h.trans ⟨fun _ _ => by simp, by simp, by simp, by simp, by simp, by simp, by simp⟩

theorem CellAlone.ite {c : Prop} [Decidable c] (ht : CellAlone s t p) (hu : CellAlone s u p) : CellAlone s (if c then t else u) p := by
  split
  · exact ht
  · exact hu

theorem CellAlone.forAll {α : Type} {l : List α} {g : State → α → State} (h : CellAlone s t p)
    (hg : ∀ u a, CellAlone s u p → CellAlone s (g u a) p) : CellAlone s (forAll l g t) p :=
  forAll_keeps h fun u a _ hu => hg u a hu

theorem CellAlone.markOwn (h : CellAlone s t p) (off : Nat) : CellAlone s (markOwn t p off) p := .ite (h.updCell _) h

/-- The cell behind the mark of its own registers. -/
theorem cell_markOwn_self (s : State) (p off : Nat) : ∃ own, (markOwn s p off).cell p = { s.cell p with own := own } := by
  unfold markOwn
  split
  · exact ⟨_, State.cell_updCell_self ..⟩
  · exact ⟨(s.cell p).own, rfl⟩

/-- A mirror is a spare, and the cell it mirrors a channel cell. -/
theorem ne_of_windowMirror {q : Nat} (h : windowMirror s p = some q) : p ≠ q := by
  unfold windowMirror at h
  split at h
  · cases h
  · split at h
    · rename_i hp
      obtain ⟨hlt, -⟩ := hp
      cases h
      simp only [spareOf]
      omega
    · cases h

/-- A write that is taken changes cell p as its rule says, keeps the register for a return, and of the other cells changes
only a spare being seated for p. -/
theorem windowWrite_taken (href : (cellRefusable off && ((f s p).cell p).loop.cfgErr) = false)
    (halone : CellAlone s (f s p) p) (hmirror : movesWithChannel off = true → ∀ u q, CellAlone u (f u q) q) :
    ∃ t own, windowWrite s p off f = (t, false) ∧ t.cell p = { (f s p).cell p with own := own } ∧ OnlyWindow s t p := by
  obtain ⟨own, hown⟩ := cell_markOwn_self (f s p) p off
  have hmark := halone.markOwn off
  unfold windowWrite
  dsimp only
  rw [href]
  simp only [Bool.false_eq_true, if_false]
  split
  · rename_i hnone
    exact ⟨_, own, rfl, hown, fun q hq _ => hmark.cell q hq, hmark.tius, hmark.profiles, hmark.hopTab, hmark.fuses, hmark.regions,
      hmark.blocks⟩
  · rename_i m hm
    have hne := ne_of_windowMirror hm
    have hspare : ∃ t, (if movesWithChannel off then f (markOwn (f s p) p off) m
        else if off = 0x16 then (markOwn (f s p) p off).updCell m
          (fun c => { c with cfg.lateHalt := ((markOwn (f s p) p off).cell p).cfg.lateHalt }) else markOwn (f s p) p off) = t
        ∧ CellAlone (markOwn (f s p) p off) t m := by
      refine ⟨_, rfl, ?_⟩
      split
      · exact hmirror ‹_› _ m
      · exact .ite ((CellAlone.refl _ m).updCell _) (.refl _ m)
    obtain ⟨t, ht, hm'⟩ := hspare
    rw [ht]
    refine ⟨t, own, rfl, (hm'.cell p hne).trans hown, fun q hq hqm => ?_, hm'.tius.trans hmark.tius, hm'.profiles.trans hmark.profiles,
      hm'.hopTab.trans hmark.hopTab, hm'.fuses.trans hmark.fuses, hm'.regions.trans hmark.regions, hm'.blocks.trans hmark.blocks⟩
    exact (hm'.cell q (fun h => hqm (by rw [hm, h]))).trans (hmark.cell q hq)

theorem windowWrite_refused (h : cellRefusable off = true) (herr : ((f s p).cell p).loop.cfgErr = true) :
    windowWrite s p off f = (f s p, true) := by
  simp [windowWrite, h, herr]

section
variable (hsession : 2 ≤ s.sec.host) (hreach : cellReach s p = .ok)
include hsession hreach

theorem directWrite_reached (off : Nat) (f : State → Nat → State) :
    directWrite s p off f = (if (windowWrite (s.parityFresh (cellBase p + off)) p off f).2
      then { (windowWrite (s.parityFresh (cellBase p + off)) p off f).1 with hp.ign := true }
      else (windowWrite (s.parityFresh (cellBase p + off)) p off f).1) := by
  rw [directWrite, ownerWrite_owner hsession]
  simp only [hreach]

/-- A direct write that is taken. -/
theorem directWrite_taken
    (href : (cellRefusable off && ((f (s.parityFresh (cellBase p + off)) p).cell p).loop.cfgErr) = false)
    (halone : CellAlone (s.parityFresh (cellBase p + off)) (f (s.parityFresh (cellBase p + off)) p) p)
    (hmirror : movesWithChannel off = true → ∀ u q, CellAlone u (f u q) q) :
    ∃ t own, directWrite s p off f = t ∧ t.cell p = { (f (s.parityFresh (cellBase p + off)) p).cell p with own := own }
      ∧ OnlyWindow s t p := by
  obtain ⟨t, own, hwrite, hcell, honly⟩ := windowWrite_taken href halone hmirror
  refine ⟨t, own, ?_, hcell, honly⟩
  rw [directWrite_reached hsession hreach, hwrite]
  rfl

/-- A direct write that the register refuses: reported as ignored. -/
theorem directWrite_refused (h : cellRefusable off = true)
    (herr : ((f (s.parityFresh (cellBase p + off)) p).cell p).loop.cfgErr = true) :
    directWrite s p off f = { f (s.parityFresh (cellBase p + off)) p with hp.ign := true } := by
  rw [directWrite_reached hsession hreach, windowWrite_refused h herr]
  rfl

end

theorem directWrite_busy (hsession : 2 ≤ s.sec.host) (hreach : cellReach s p = .busy) (off : Nat) (f : State → Nat → State) :
    directWrite s p off f = { s with hp.busy := true } := by
  rw [directWrite, ownerWrite_owner hsession]
  simp only [hreach]

/-! ### The cell behind a commit -/

variable {c : CellSt}

/-- Taking back an action of the edge leaves the settings but CELL_CTL and the preset bandwidth. -/
theorem undone_lvds (c : CellSt) (now : Nat) (act : EdgeAct) : (c.undone now act).cfg.lvds = c.cfg.lvds := by
  unfold CellSt.undone
  split <;> rfl

theorem undone_step (c : CellSt) (now : Nat) (act : EdgeAct) : (c.undone now act).cfg.step = c.cfg.step := by
  unfold CellSt.undone
  split <;> rfl

theorem undone_of_none (h : c.hop.undo = none) (now : Nat) (act : EdgeAct) : c.undone now act = c := by
  simp [CellSt.undone, CellSt.undoOf, h]

theorem staged_of_none (h : c.hop.undo = none) (now : Nat) : c.staged now = c.vals := by simp [CellSt.staged, h]

/-- A moved output has the new values, and nothing of its cell but those, delta and the output domain changes. -/
theorem moveOut_eq (c : CellSt) (a ph : Rat) (f : Freq) (d : BitVec 13) (l : BitVec 18) (phi : BitVec 36) (cont zero : Bool) (wait : OutPend) :
    ∃ dl o, c.moveOut a ph f d l phi cont zero wait
      = { c with vals := { c.vals with freq := f, d := d, l := l, phi := phi, delta := dl }, out := o } := by
  unfold CellSt.moveOut
  extract_lets
  split
  · split <;> exact ⟨_, _, rfl⟩
  · split
    · split <;> exact ⟨_, _, rfl⟩
    · split <;> exact ⟨_, _, rfl⟩

theorem acquire_vals (c : CellSt) (now : Nat) (cause : AcqCause) (hint : Option (BitVec 7 × BitVec 18)) (choose : Bool) :
    (c.acquire now cause hint choose).vals = c.vals ∧ (c.acquire now cause hint choose).loop.cfgErr = c.loop.cfgErr := by
  unfold CellSt.acquire
  split <;> exact ⟨rfl, rfl⟩

/-- New dividers are in the channel's values at once, whenever they come to work. -/
theorem moveDiv_vals (c : CellSt) (a : Rat) (d : BitVec 13) (l : BitVec 18) (cont : Bool) :
    (c.moveDiv a d l cont).vals.d = d ∧ (c.moveDiv a d l cont).vals.l = l := by
  unfold CellSt.moveDiv
  split
  · exact ⟨rfl, rfl⟩
  · split
    · exact ⟨rfl, rfl⟩
    · split
      · obtain ⟨dl, o, h⟩ := moveOut_eq c a (c.phaseNow a) c.vals.freq d l c.vals.phi cont false .divAnchored
        rw [h]
        exact ⟨rfl, rfl⟩
      · exact ⟨rfl, rfl⟩

/-- A committed offset is in the channel's values; in step mode the phase is there at once. -/
theorem phaseCommit_vals (c : CellSt) (a : Rat) (ofs : BitVec 36) :
    (c.phaseCommit a ofs).vals.ofs = ofs ∧ (c.cfg.step = true → (c.phaseCommit a ofs).vals.phi = ofs) := by
  unfold CellSt.phaseCommit
  split
  · exact ⟨rfl, fun _ => rfl⟩
  · rename_i h
    have hslew : c.cfg.step = false := by
      by_contra hstep
      exact h (.inl (by simpa using hstep))
    split <;> exact ⟨rfl, fun hstep => by rw [hslew] at hstep; cases hstep⟩

/-- Values loaded at a hop boundary are the cell's trim: its channel values and cfg_err stand. -/
theorem hopBoundary_cell (s : State) (p : Nat) :
    ((hopBoundary s p).cell p).vals = (s.cell p).vals ∧ ((hopBoundary s p).cell p).loop.cfgErr = (s.cell p).loop.cfgErr := by
  unfold hopBoundary
  split
  · unfold loadCell loadCellFrom
    dsimp only
    rw [State.cell_updCell_self]
    exact ⟨rfl, rfl⟩
  · exact ⟨rfl, rfl⟩

theorem hopBoundary_alone (s : State) (p : Nat) : CellAlone s (hopBoundary s p) p := by
  have h : CellAlone s (undefer s p) p := ⟨fun _ _ => rfl, rfl, rfl, rfl, rfl, rfl, rfl⟩
  unfold hopBoundary loadCell loadCellFrom
  exact .ite (h.updCell _) (.refl s p)

/-- A new frequency put in force: the channel's frequency, with its other values' mark of a change and cfg_err as they were. -/
theorem freqHop_cell (s : State) (p : Nat) (f : Freq) :
    ((freqHop s p f).cell p).vals.freq = f ∧ ((freqHop s p f).cell p).vals.modified = (s.cell p).vals.modified
    ∧ ((freqHop s p f).cell p).loop.cfgErr = (s.cell p).loop.cfgErr := by
  unfold freqHop
  dsimp only
  split
  · rw [State.cell_updCell_self]
    exact ⟨rfl, rfl, rfl⟩
  · split
    · rw [State.cell_updCell_self]
      exact ⟨rfl, rfl, rfl⟩
    · obtain ⟨hvals, herr⟩ := hopBoundary_cell s p
      rw [State.cell_updCell_self]
      obtain ⟨dl, o, hmove⟩ := moveOut_eq ((hopBoundary s p).cell p) (nowA s p) (((hopBoundary s p).cell p).phaseNow (nowA s p)) f
        ((hopBoundary s p).cell p).vals.d ((hopBoundary s p).cell p).vals.l ((hopBoundary s p).cell p).vals.phi
        ((hopBoundary s p).cell p).cfg.ctl.cont true .hopRetime
      rw [hmove]
      obtain ⟨hv, he⟩ := acquire_vals ({ (hopBoundary s p).cell p with
        vals := { ((hopBoundary s p).cell p).vals with
          freq := f, d := ((hopBoundary s p).cell p).vals.d, l := ((hopBoundary s p).cell p).vals.l,
          phi := ((hopBoundary s p).cell p).vals.phi, delta := dl }, out := o }) (nowEdge s p) .hop ((hopBoundary s p).cell p).latchHint false
      have hmodified := congrArg CellVals.modified hvals
      exact ⟨congrArg CellVals.freq hv, (congrArg CellVals.modified hv).trans hmodified, he.trans herr⟩

/-! ### The rules of the window's registers -/

theorem setCfgErr_alone (s : State) (p : Nat) (e : Bool) : CellAlone s (setCfgErr s p e) p := (CellAlone.refl s p).updCell _

theorem cell_setCfgErr (s : State) (p : Nat) (e : Bool) :
    (setCfgErr s p e).cell p = { s.cell p with loop.cfgErr := e } := State.cell_updCell_self ..

theorem phaseCheck_alone (s : State) (p : Nat) : CellAlone s (phaseCheck s p) p := by
  unfold phaseCheck slewDone
  refine .ite (.refl s p) ?_
  split
  · exact .refl s p
  · exact ((CellAlone.refl s p).updCell _).complete ..

/-- The end of a slew's wait leaves the cell but for the tag that waited. -/
theorem cell_phaseCheck (s : State) (p : Nat) : ∃ tag, (phaseCheck s p).cell p = { s.cell p with hop.phaseTag := tag } := by
  unfold phaseCheck slewDone
  split
  · exact ⟨(s.cell p).hop.phaseTag, rfl⟩
  · split
    · exact ⟨(s.cell p).hop.phaseTag, rfl⟩
    · exact ⟨none, by rw [cell_complete, State.cell_updCell_self]⟩

theorem endHopTags_alone (s : State) (p status : Nat) : CellAlone s (endHopTags s p status) p :=
  ((CellAlone.refl s p).updCell _).forAll fun _ _ h => h.complete ..

theorem cell_endHopTags (s : State) (p status : Nat) :
    (endHopTags s p status).cell p = { s.cell p with hop.lockTags := (s.cell p).hop.lockTags.filter (fun t => t.2.isNone) } :=
  (forAll_same (fun t => t.cell p) fun _ _ _ => cell_complete ..).trans (State.cell_updCell_self ..)

theorem freqHop_alone (s : State) (p : Nat) (f : Freq) : CellAlone s (freqHop s p f) p :=
  .ite ((CellAlone.refl s p).updCell _) (.ite ((CellAlone.refl s p).updCell _) ((hopBoundary_alone s p).updCell _))

theorem writeFcw_alone (s : State) (p : Nat) (v : Word) : CellAlone s (writeFcw s p v) p := by
  unfold writeFcw
  dsimp only
  refine .ite (setCfgErr_alone ..) ?_
  have h := (CellAlone.refl s p).updCell fun c => { c.undone (nowEdge s p) .engHop with
      loop.cfgErr := false, vals.modified := true, vals.stF := ((s.cell p).staged (nowEdge s p)).stF,
      vals.stK := ((s.cell p).staged (nowEdge s p)).stK, vals.stM := ((s.cell p).staged (nowEdge s p)).stM,
      hop.hostHopAt := some (nowEdge s p), hop.hostFcwAt := some (nowEdge s p) }
  exact .ite h ((h.trans (freqHop_alone ..)).trans (endHopTags_alone ..))

theorem writeLowDiv_alone (s : State) (p : Nat) (v : Word) : CellAlone s (writeLowDiv s p v) p :=
  .ite (setCfgErr_alone ..) ((CellAlone.refl s p).updCell _)

theorem writePhaseHi_alone (s : State) (p : Nat) (v : Word) : CellAlone s (writePhaseHi s p v) p :=
  ((CellAlone.refl s p).updCell _).trans (phaseCheck_alone ..)

theorem writeOutCfg_alone (s : State) (p : Nat) (v : Word) : CellAlone s (writeOutCfg s p v) p :=
  .ite (setCfgErr_alone ..) ((CellAlone.refl s p).updCell _)

theorem writeLoopBw_alone (s : State) (p : Nat) (v : Word) : CellAlone s (writeLoopBw s p v) p := (CellAlone.refl s p).updCell _

theorem writeLockThr_alone (s : State) (p : Nat) (v : Word) : CellAlone s (writeLockThr s p v) p :=
  .ite (setCfgErr_alone ..) ((CellAlone.refl s p).updCell _)

theorem writeLockCnt_alone (s : State) (p : Nat) (v : Word) : CellAlone s (writeLockCnt s p v) p :=
  .ite (setCfgErr_alone ..) ((CellAlone.refl s p).updCell _)

/-- A new frequency that is allowed is in force, marked as a change (R72). -/
theorem cell_writeFcw_new {g : Freq} {v : Word} (hlvds : (s.cell p).cfg.lvds = false) (hok : freqOk g = true)
    (hg : g = fcwOf ((s.cell p).undone (nowEdge s p) .engHop).vals.freq ((s.cell p).staged (nowEdge s p)) v)
    (hnew : sameFreq ((s.cell p).undone (nowEdge s p) .engHop).vals.freq g = false) :
    ((writeFcw s p v).cell p).vals.freq = g ∧ ((writeFcw s p v).cell p).loop.cfgErr = false
    ∧ ((writeFcw s p v).cell p).vals.modified = true := by
  have hno : ¬ (freqOk g = false ∨ (((s.cell p).undone (nowEdge s p) .engHop).cfg.lvds = true
      ∧ aboveLvds g ((s.cell p).undone (nowEdge s p) .engHop).vals.d.toNat ((s.cell p).undone (nowEdge s p) .engHop).vals.l.toNat = true)) := by
    simp [hok, undone_lvds, hlvds]
  simp only [writeFcw, ← hg, if_neg hno, hnew, Bool.false_eq_true, if_false, cell_endHopTags]
  obtain ⟨hfreq, hmod, herr⟩ := freqHop_cell (s.updCell p fun c => { c.undone (nowEdge s p) .engHop with
      loop.cfgErr := false, vals.modified := true, vals.stF := ((s.cell p).staged (nowEdge s p)).stF,
      vals.stK := ((s.cell p).staged (nowEdge s p)).stK, vals.stM := ((s.cell p).staged (nowEdge s p)).stM,
      hop.hostHopAt := some (nowEdge s p), hop.hostFcwAt := some (nowEdge s p) }) p g
  rw [State.cell_updCell_self] at hmod herr
  exact ⟨hfreq, herr, hmod⟩

/-- A frequency out of range only sets cfg_err. -/
theorem writeFcw_refused {v : Word} (hint : v.getLsbD 17 = false) (hundo : (s.cell p).hop.undo = none)
    (hbad : freqOk { (s.cell p).vals.freq with mode := false, n := v.extractLsb' 0 5, f := (s.cell p).vals.stF } = false) :
    writeFcw s p v = setCfgErr s p true := by
  have hn : BitVec.ofNat 5 (fld v 0 5) = v.extractLsb' 0 5 := by
    rw [← toNat_extractLsb'_eq_fld, BitVec.ofNat_toNat, BitVec.setWidth_eq]
  have hfreq : fcwOf (s.cell p).vals.freq (s.cell p).vals v
      = { (s.cell p).vals.freq with mode := false, n := v.extractLsb' 0 5, f := (s.cell p).vals.stF } := by
    simp only [fcwOf, bitOf, hint, Bool.false_eq_true, if_false, hn]
  simp only [writeFcw, undone_of_none hundo, staged_of_none hundo, hfreq, hbad, true_or, if_true]

theorem cell_writeLowDiv {v : Word} (hok : divOk ((s.cell p).staged (nowEdge s p)).stD.toNat v.toNat = true) :
    ((writeLowDiv s p v).cell p).vals.d = ((s.cell p).staged (nowEdge s p)).stD ∧ ((writeLowDiv s p v).cell p).vals.l = v
    ∧ ((writeLowDiv s p v).cell p).loop.cfgErr = false := by
  simp only [writeLowDiv, hok, Bool.true_eq_false, if_false, State.cell_updCell_self]
  obtain ⟨hd, hl⟩ := moveDiv_vals ((s.cell p).undone (nowEdge s p) .engHop) (nowA s p) ((s.cell p).staged (nowEdge s p)).stD v
    ((s.cell p).undone (nowEdge s p) .engHop).cfg.ctl.cont
  exact ⟨hd, hl, trivial⟩

theorem cell_writePhaseHi (s : State) (p : Nat) (v : Word) :
    ((writePhaseHi s p v).cell p).vals.ofs = v ++ ((s.cell p).staged (nowEdge s p)).stPhLo
    ∧ ((s.cell p).cfg.step = true → ((writePhaseHi s p v).cell p).vals.phi = v ++ ((s.cell p).staged (nowEdge s p)).stPhLo)
    ∧ ((writePhaseHi s p v).cell p).loop.cfgErr = false := by
  obtain ⟨tag, h⟩ := cell_phaseCheck (s.updCell p (fun c => { (c.undone (nowEdge s p) .phs).phaseCommit (nowA s p)
      (v ++ ((s.cell p).staged (nowEdge s p)).stPhLo) with
    vals.stPhLo := ((s.cell p).staged (nowEdge s p)).stPhLo, vals.modified := true, loop.cfgErr := false,
    hop.hostPhaseAt := some (nowEdge s p) })) p
  rw [State.cell_updCell_self] at h
  obtain ⟨hofs, hphi⟩ := phaseCommit_vals ((s.cell p).undone (nowEdge s p) .phs) (nowA s p) (v ++ ((s.cell p).staged (nowEdge s p)).stPhLo)
  rw [undone_step] at hphi
  have hcell : (writePhaseHi s p v).cell p = _ := h
  rw [hcell]
  exact ⟨hofs, hphi, rfl⟩

/-! ### ENG_CTL (R125, R143) -/

theorem prepare_alone (s : State) (p : Nat) : CellAlone s (prepare s p) p := by
  unfold prepare
  exact (CellAlone.refl s p).updCell _

theorem cell_prepare (s : State) (p : Nat) :
    ∃ prep from_, (prepare s p).cell p = { s.cell p with eng.prep := prep, eng.prepFrom := from_ } :=
  ⟨_, _, State.cell_updCell_self ..⟩

/-- A start of an idle engine that may start: it runs from its instruction, 256 edges on. -/
theorem writeEngRun_start {v : Word} (hrun : bitOf v 0 = true) (hstart : engCanStart s p = true) (hidle : (s.cell p).eng.active = false) :
    CellAlone s (writeEngRun s p v) p ∧ ((writeEngRun s p v).cell p).eng.st = .running
    ∧ ((writeEngRun s p v).cell p).eng.s = nowEdge s p + 256 ∧ ((writeEngRun s p v).cell p).eng.pc = (s.cell p).eng.pc
    ∧ ((writeEngRun s p v).cell p).cfg.lateHalt = bitOf v 2 := by
  have hlate := State.cell_updCell_self s p fun c => { c with cfg.lateHalt := bitOf v 2 }
  have hstart' : engCanStart (s.updCell p fun c => { c with cfg.lateHalt := bitOf v 2 }) p = true := by
    rw [engCanStart, hlate]
    exact hstart
  have hidle' : ((s.updCell p fun c => { c with cfg.lateHalt := bitOf v 2 }).cell p).eng.active = false := by
    rw [hlate]
    exact hidle
  have hwrite : writeEngRun s p v = engStart (s.updCell p fun c => { c with cfg.lateHalt := bitOf v 2 }) p (nowEdge s p + 256) := by
    simp only [writeEngRun, hrun, hstart', hidle', and_self, if_true]
  rw [hwrite]
  unfold engStart
  refine ⟨(((CellAlone.refl s p).updCell _).updCell _).trans (prepare_alone ..), ?_⟩
  obtain ⟨prep, from_, h⟩ := cell_prepare _ p
  rw [h, State.cell_updCell_self, hlate]
  exact ⟨rfl, rfl, rfl, rfl⟩

/-- Nothing of a program is executed whose schedule edge is still to come. -/
theorem engSettle_of_ahead (hdue : (s.cell p).eng.st = .running → nowEdge s p < (s.cell p).eng.s) (n : Nat) : engSettle p n s = s := by
  cases n with
  | zero => rfl
  | succ n => exact if_neg fun ⟨hrun, hle⟩ => absurd (hdue hrun) (Nat.not_lt.2 hle)

/-- A stop of an engine with nothing due on the edge and no EXT words pending: it stands at its instruction. -/
theorem writeEngRun_stop {v : Word} (hstop : bitOf v 0 = false) (hdue : (s.cell p).eng.st = .running → nowEdge s p < (s.cell p).eng.s)
    (hext : (s.cell p).eng.extN = 0) :
    CellAlone s (writeEngRun s p v) p ∧ ((writeEngRun s p v).cell p).eng.st = .stopped
    ∧ ((writeEngRun s p v).cell p).eng.pc = (s.cell p).eng.pc ∧ ((writeEngRun s p v).cell p).cfg.lateHalt = bitOf v 2 := by
  have hlate := State.cell_updCell_self s p fun c => { c with cfg.lateHalt := bitOf v 2 }
  have hahead : engSettle p 4100 (s.updCell p fun c => { c with cfg.lateHalt := bitOf v 2 }) = _ :=
    engSettle_of_ahead (by rw [hlate]; exact hdue) 4100
  have hwrite : writeEngRun s p v = engStop (s.updCell p fun c => { c with cfg.lateHalt := bitOf v 2 }) p := by
    simp only [writeEngRun, hstop, Bool.false_eq_true, if_false]
  rw [hwrite, engStop, hahead]
  refine ⟨((CellAlone.refl s p).updCell _).updCell _, ?_⟩
  rw [State.cell_updCell_self, hlate]
  exact ⟨rfl, if_neg (by simp [hext]), rfl⟩

/-- A write of ENG_CTL.run = 0 leaves the engine stopped whatever its state. -/
theorem writeEngRun_stopped {v : Word} (hstop : bitOf v 0 = false) (s : State) (p : Nat) :
    ((writeEngRun s p v).cell p).eng.st = .stopped := by
  simp only [writeEngRun, hstop, Bool.false_eq_true, if_false, engStop, State.cell_updCell_self, Engine.halt]

theorem bitOf_set_run (v : Word) : bitOf (v ||| 1) 0 = true ∧ bitOf (v ||| 1) 2 = v.getLsbD 2 := by simp [bitOf]

theorem bitOf_clear_run (v : Word) : bitOf (v &&& ~~~1) 0 = false ∧ bitOf (v &&& ~~~1) 2 = v.getLsbD 2 := by simp [bitOf]

/-- The write behind a stop puts late_halt into the spare's window too, and moves nothing of the cell that is written. -/
theorem windowWrite_engStop (s : State) (p : Nat) (f : State → Nat → State) (hf : ((f s p).cell p).eng.st = .stopped) :
    ((windowWrite s p 0x16 f).1.cell p).eng.st = .stopped := by
  obtain ⟨own, hown⟩ := cell_markOwn_self (f s p) p 0x16
  have hmark : ((markOwn (f s p) p 0x16).cell p).eng.st = .stopped := by rw [hown]; exact hf
  cases hm : windowMirror s p with
  | none =>
    have hwrite : windowWrite s p 0x16 f = (markOwn (f s p) p 0x16, false) := by
      unfold windowWrite
      rw [hm]
      rfl
    rw [hwrite]
    exact hmark
  | some m =>
    have hwrite : windowWrite s p 0x16 f = ((markOwn (f s p) p 0x16).updCell m
        (fun c => { c with cfg.lateHalt := ((markOwn (f s p) p 0x16).cell p).cfg.lateHalt }), false) := by
      unfold windowWrite
      rw [hm]
      rfl
    rw [hwrite, State.cell_updCell_ne _ _ (ne_of_windowMirror hm)]
    exact hmark

/-- A direct write that only sets cfg_err is reported as ignored, and the cell keeps its values and its settings. -/
theorem directWrite_cfgErr (hsession : 2 ≤ s.sec.host) (hreach : cellReach s p = .ok) (h : cellRefusable off = true)
    (hwrite : f (s.parityFresh (cellBase p + off)) p = setCfgErr (s.parityFresh (cellBase p + off)) p true) :
    ∃ t, directWrite s p off f = t ∧ (t.cell p).loop.cfgErr = true ∧ (t.cell p).vals = (s.cell p).vals ∧ (t.cell p).cfg = (s.cell p).cfg
      ∧ OnlyWindow s t p ∧ t.hp.ign = true := by
  have hcell := cell_setCfgErr (s.parityFresh (cellBase p + off)) p true
  have hrefused := directWrite_refused hsession hreach (off := off) (f := f) h (by rw [hwrite, hcell])
  rw [hwrite] at hrefused
  have halone := setCfgErr_alone (s.parityFresh (cellBase p + off)) p true
  have herr := congrArg (fun c => c.loop.cfgErr) hcell
  have hvals := congrArg CellSt.vals hcell
  have hcfg := congrArg CellSt.cfg hcell
  exact ⟨_, hrefused, herr, hvals, hcfg, ⟨fun q hq _ => halone.cell q hq, rfl, rfl, rfl, rfl, rfl, rfl⟩, rfl⟩

/-- A direct write whose rule is an update of the cell that leaves cfg_err clear. -/
theorem directWrite_updCell {g : CellSt → CellSt} (hsession : 2 ≤ s.sec.host) (hreach : cellReach s p = .ok)
    (hwrite : f (s.parityFresh (cellBase p + off)) p = (s.parityFresh (cellBase p + off)).updCell p g)
    (href : (cellRefusable off && (g (s.cell p)).loop.cfgErr) = false) (hmirror : ∀ u q, CellAlone u (f u q) q) :
    ∃ t own, directWrite s p off f = t ∧ t.cell p = { g (s.cell p) with own := own } ∧ OnlyWindow s t p := by
  have hcell : (f (s.parityFresh (cellBase p + off)) p).cell p = g (s.cell p) := by
    rw [hwrite]
    exact State.cell_updCell_self ..
  obtain ⟨t, own, ht, hc, honly⟩ := directWrite_taken hsession hreach (off := off) (f := f) (by rw [hcell]; exact href) (hmirror _ p)
    fun _ => hmirror
  exact ⟨t, own, ht, by rw [hc, hcell], honly⟩

/-- Settles O13. -/
theorem cellWindowCommitsTakeEffect : Obligations.CellWindowCommitsTakeEffect := by
  unfold Obligations.CellWindowCommitsTakeEffect
  intro Only Takes
  refine ⟨?freq, fun c e a hundo => ⟨undone_of_none hundo e a, staged_of_none hundo e⟩, ?freqRefused, ?dividers, ?phase, ?swing, ?swingRefused,
    ?bandwidth, ?threshold, ?thresholdRefused, ?count, ?countRefused, ?started, ?stopped, ?stopsAhead, ?busy⟩
  case freq =>
    intro p v g s ⟨hsession, hreach⟩ hlvds hok hg hnew
    obtain ⟨hfreq, herr, hmod⟩ := cell_writeFcw_new (s := s.parityFresh (cellBase p + 0x06)) hlvds hok hg hnew
    obtain ⟨t, own, ht, hcell, honly⟩ := directWrite_taken (off := 0x06) (f := fun s q => writeFcw s q v) hsession hreach
      (by simp [herr]) (writeFcw_alone ..) fun _ u q => writeFcw_alone ..
    refine ⟨t, next_eq ht, ?_, ?_, ?_, honly⟩ <;> rw [hcell]
    exacts [hfreq, herr, hmod]
  case freqRefused =>
    intro p v s ⟨hsession, hreach⟩ hint hundo hbad
    obtain ⟨t, ht, herr, hvals, -, honly, hign⟩ := directWrite_cfgErr (off := 0x06) (f := fun s q => writeFcw s q v) hsession hreach rfl
      (writeFcw_refused (s := s.parityFresh (cellBase p + 0x06)) hint hundo hbad)
    exact ⟨t, next_eq ht, herr, hvals, honly, hign⟩
  case dividers =>
    intro p v s ⟨hsession, hreach⟩ hok
    obtain ⟨hd, hl, herr⟩ := cell_writeLowDiv (s := s.parityFresh (cellBase p + 0x09)) hok
    obtain ⟨t, own, ht, hcell, honly⟩ := directWrite_taken (off := 0x09) (f := fun s q => writeLowDiv s q v) hsession hreach
      (by simp [herr]) (writeLowDiv_alone ..) fun _ u q => writeLowDiv_alone ..
    refine ⟨t, next_eq ht, ?_, ?_, ?_, honly⟩ <;> rw [hcell]
    exacts [hd, hl, herr]
  case phase =>
    intro p v s ⟨hsession, hreach⟩
    obtain ⟨hofs, hphi, herr⟩ := cell_writePhaseHi (s.parityFresh (cellBase p + 0x0D)) p v
    obtain ⟨t, own, ht, hcell, honly⟩ := directWrite_taken (off := 0x0D) (f := fun s q => writePhaseHi s q v) hsession hreach
      rfl (writePhaseHi_alone ..) fun _ u q => writePhaseHi_alone ..
    refine ⟨t, next_eq ht, ?_, ?_, ?_, honly⟩ <;> rw [hcell]
    exacts [hofs, hphi, herr]
  case swing =>
    intro p v s ⟨hsession, hreach⟩ hswing hsingle
    have hno : ¬ (12 < fld v 0 4 ∨ (bitOf v 4 = true ∧ aboveLvds (s.cell p).vals.freq (s.cell p).vals.d.toNat (s.cell p).vals.l.toNat = true)) := by
      simp only [bitOf, hsingle, Bool.false_eq_true, false_and, or_false]
      omega
    obtain ⟨t, own, ht, hcell, honly⟩ := directWrite_updCell (off := 0x0A) (f := fun s q => writeOutCfg s q v) hsession hreach
      (if_neg hno) (by simp only [CellSt.applyLvds]; split <;> rfl) fun u q => writeOutCfg_alone ..
    have hout : t.cell p = _ := hcell
    refine ⟨t, next_eq ht, ?_, ?_, ?_, honly⟩ <;> rw [hout] <;> simp only [CellSt.applyLvds] <;> split
    exacts [rfl, rfl, hsingle, hsingle, rfl, rfl]
  case swingRefused =>
    intro p v s ⟨hsession, hreach⟩ hswing
    obtain ⟨t, ht, herr, -, hcfg, honly, hign⟩ := directWrite_cfgErr (off := 0x0A) (f := fun s q => writeOutCfg s q v) hsession hreach rfl
      (if_pos (.inl hswing))
    exact ⟨t, next_eq ht, hcfg, herr, honly, hign⟩
  case bandwidth =>
    intro p v s ⟨hsession, hreach⟩
    obtain ⟨t, own, ht, hcell, honly⟩ := directWrite_updCell (off := 0x0E) (f := fun s q => writeLoopBw s q v) hsession hreach
      rfl rfl fun u q => writeLoopBw_alone ..
    refine ⟨t, next_eq ht, ?_, ?_, honly⟩ <;> rw [hcell]
  case threshold =>
    intro p v s ⟨hsession, hreach⟩ hthr
    obtain ⟨t, own, ht, hcell, honly⟩ := directWrite_updCell (off := 0x10) (f := fun s q => writeLockThr s q v) hsession hreach
      (if_neg hthr) rfl fun u q => writeLockThr_alone ..
    refine ⟨t, next_eq ht, ?_, ?_, honly⟩ <;> rw [hcell]
  case thresholdRefused =>
    intro p v s ⟨hsession, hreach⟩ hthr
    obtain ⟨t, ht, herr, -, hcfg, honly, hign⟩ := directWrite_cfgErr (off := 0x10) (f := fun s q => writeLockThr s q v) hsession hreach rfl
      (if_pos hthr)
    exact ⟨t, next_eq ht, hcfg, herr, honly, hign⟩
  case count =>
    intro p v s ⟨hsession, hreach⟩ hlo hhi
    obtain ⟨t, own, ht, hcell, honly⟩ := directWrite_updCell (off := 0x11) (f := fun s q => writeLockCnt s q v) hsession hreach
      (if_neg (by omega)) rfl fun u q => writeLockCnt_alone ..
    refine ⟨t, next_eq ht, ?_, ?_, honly⟩ <;> rw [hcell]
  case countRefused =>
    intro p v s ⟨hsession, hreach⟩ hcount
    obtain ⟨t, ht, herr, -, hcfg, honly, hign⟩ := directWrite_cfgErr (off := 0x11) (f := fun s q => writeLockCnt s q v) hsession hreach rfl
      (if_pos hcount)
    exact ⟨t, next_eq ht, hcfg, herr, honly, hign⟩
  case started =>
    intro p v s ⟨hsession, hreach⟩ hstart hidle
    obtain ⟨hrun, hlate⟩ := bitOf_set_run v
    obtain ⟨halone, hst, hs, hpc, hhalt⟩ := writeEngRun_start (s := s.parityFresh (cellBase p + 0x16)) hrun hstart hidle
    obtain ⟨t, own, ht, hcell, honly⟩ := directWrite_taken (off := 0x16) (f := fun s q => writeEngRun s q (v ||| 1)) hsession hreach
      rfl halone fun hmoves => absurd hmoves (by decide)
    refine ⟨t, next_eq ht, ?_, ?_, ?_, ?_, honly⟩ <;> rw [hcell]
    exacts [hst, hs, hpc, hhalt.trans hlate]
  case stopped =>
    intro p v s ⟨hsession, hreach⟩
    obtain ⟨hrun, -⟩ := bitOf_clear_run v
    refine ⟨_, next_eq (directWrite_reached hsession hreach ..), ?_⟩
    have hst := windowWrite_engStop (s.parityFresh (cellBase p + 0x16)) p (fun s q => writeEngRun s q (v &&& ~~~1)) (writeEngRun_stopped hrun ..)
    split <;> exact hst
  case stopsAhead =>
    intro p v s ⟨hsession, hreach⟩ hdue hext
    obtain ⟨hrun, hlate⟩ := bitOf_clear_run v
    obtain ⟨halone, hst, hpc, hhalt⟩ := writeEngRun_stop (s := s.parityFresh (cellBase p + 0x16)) hrun hdue hext
    obtain ⟨t, own, ht, hcell, honly⟩ := directWrite_taken (off := 0x16) (f := fun s q => writeEngRun s q (v &&& ~~~1)) hsession hreach
      rfl halone fun hmoves => absurd hmoves (by decide)
    refine ⟨t, next_eq ht, ?_, ?_, ?_, honly⟩ <;> rw [hcell]
    exacts [hst, hpc, hhalt.trans hlate]
  case busy =>
    intro p v s hsession hreach
    exact ⟨next_eq (directWrite_busy hsession hreach ..), next_eq (directWrite_busy hsession hreach ..),
      next_eq (directWrite_busy hsession hreach ..)⟩

end Sys2Proof.Claims
end

section
/-! SUPPORT. One engine instruction at its edge: what of the machine it may touch, and which rule it runs. -/
namespace Sys2Proof.Claims
open Sys2Proof Sys2Proof.Machine
variable {s t : State} {p o v : Nat}

theorem EngineOnly.refl (s : State) (p : Nat) : EngineOnly s s p := ⟨⟨rfl, fun _ _ => rfl⟩, rfl⟩

/-- A change of cell p that sets its engine alone stays within `EngineOnly`. -/
theorem EngineOnly.updCell (h : EngineOnly s t p) {f : CellSt → CellSt} (hf : ∀ c, f c = { c with eng := (f c).eng }) :
    EngineOnly s (t.updCell p f) p := by
  obtain ⟨⟨hs, hc⟩, he⟩ := h
  refine ⟨⟨hs, fun q hq => (State.cell_updCell_ne _ _ hq).trans (hc q hq)⟩, ?_⟩
  rw [State.cell_updCell_self, hf, he]

/-- A word that is prepared, or whose check is good, is no uncorrectable one. -/
theorem not_uncorrected {x y : Bool} (h : x = true ∨ y = false) : ¬(x = false ∧ y = true) := by
  rcases h with rfl | rfl <;> simp

/-- Standing at a word of its opcode with the edge come, an instruction runs its rule on the joined operand. -/
theorem EngAt.engIssue_eq (h : EngAt s p o v) (f : State → Engine → Nat → State) : engIssue s p o f = f s (s.cell p).eng v := by
  obtain ⟨hst, hadv, hs, hpc, hbad, hop, hext, harg⟩ := h
  simp only [engIssue, hst, hop, harg, Nat.not_le.2 hadv, Nat.not_lt.2 hs, Nat.not_le.2 hpc, Nat.not_lt.2 hext, if_neg (not_uncorrected hbad)]
  simp

theorem engineOnly_engNext (s : State) (p cost : Nat) : EngineOnly s (engNext s p cost) p :=
  (EngineOnly.refl s p).updCell fun _ => rfl

theorem cell_engNext (s : State) (p cost : Nat) :
    (engNext s p cost).cell p = { s.cell p with eng := (s.cell p).eng.next cost ((s.cell p).eng.pc + 1) } :=
  State.cell_updCell_self ..

theorem moved_engNext (s : State) (p cost : Nat) : Moved s (engNext s p cost) p cost := by
  simp [Moved, cell_engNext, Engine.next]

/-- Waiting after an advance keeps the advance. -/
theorem Moved.updCell {k : Nat} (h : Moved s t p k) {f : CellSt → CellSt}
    (hf : ∀ c, (f c).eng.pc = c.eng.pc ∧ (f c).eng.s = c.eng.s ∧ (f c).eng.ext = c.eng.ext ∧ (f c).eng.extN = c.eng.extN) :
    Moved s (t.updCell p f) p k := by
  obtain ⟨h1, h2, h3, h4⟩ := hf (t.cell p)
  simpa [Moved, h1, h2, h3, h4] using h

theorem engineOnly_prepare (h : EngineOnly s t p) : EngineOnly s (prepare t p) p := h.updCell fun _ => rfl

/-- The advance of WAITT, added to the present time of S, ends in the operand's low bits. -/
theorem waitt_lowBits {t v m : Nat} (ht : t < 2 ^ 54) (hm : m ∣ 2 ^ 54) : (t + (v + 2 ^ 54 - t) % m) % m = v % m := by
  obtain ⟨k, hk⟩ := hm
  rw [Nat.add_mod_mod, show t + (v + 2 ^ 54 - t) = v + m * k by omega, Nat.add_mul_mod_self_left]

end Sys2Proof.Claims
end

section
/-! O18. The engine instructions without effect outside their engine. -/
namespace Sys2Proof.Claims
open Sys2Proof Sys2Proof.Machine
variable {s t : State} {p v : Nat}

theorem exec_nop_at (h : EngAt s p 0x01 v) :
    ∃ t, exec (.nop p) s = .next t ∧ EngineOnly s t p ∧ Moved s t p 1 ∧ (t.cell p).eng.st = .running :=
  ⟨_, next_eq (h.engIssue_eq _), engineOnly_engNext .., moved_engNext .., by rw [cell_engNext]; exact h.1⟩

theorem exec_waitc_at (h : EngAt s p 0x04 v) :
    ∃ t, exec (.waitc p) s = .next t ∧ EngineOnly s t p ∧ Moved s t p v
      ∧ (v = 0 → (t.cell p).eng.st = .running)
      ∧ (v ≠ 0 → (t.cell p).eng.st = .waiting ∧ (t.cell p).eng.wait = .edge ((s.cell p).eng.s + v)) := by
  by_cases hv : v = 0
  · refine ⟨engNext s p v, next_eq ((h.engIssue_eq _).trans (if_pos hv)), engineOnly_engNext .., moved_engNext .., ?_, absurd hv⟩
    exact fun _ => by rw [cell_engNext]; exact h.1
  · refine ⟨_, next_eq ((h.engIssue_eq _).trans (if_neg hv)), (engineOnly_engNext ..).updCell fun _ => rfl,
      (moved_engNext ..).updCell fun _ => ⟨rfl, rfl, rfl, rfl⟩, (absurd · hv), fun _ => ?_⟩
    rw [State.cell_updCell_self]
    exact ⟨rfl, rfl⟩

theorem exec_waitt_at (h : EngAt s p 0x05 v) :
    ∃ t d, exec (.waitt p) s = .next t ∧ EngineOnly s t p ∧ Moved s t p d ∧ d < 2 ^ (13 * ((s.cell p).eng.extN + 1))
      ∧ ((timeAt (s.region (cellRegion p)) (s.cell p).eng.s).toNat + d) % 2 ^ (13 * ((s.cell p).eng.extN + 1))
          = v % 2 ^ (13 * ((s.cell p).eng.extN + 1))
      ∧ (d = 0 → (t.cell p).eng.st = .running)
      ∧ (d ≠ 0 → reached (s.region (cellRegion p)).time (timeAt (s.region (cellRegion p)) (s.cell p).eng.s + BitVec.ofNat 54 d) = false →
          (t.cell p).eng.st = .waiting
          ∧ (t.cell p).eng.wait = .time (timeAt (s.region (cellRegion p)) (s.cell p).eng.s + BitVec.ofNat 54 d)) := by
  have hext : (s.cell p).eng.extN ≤ 3 := h.2.2.2.2.2.2.1
  have hm : 2 ^ (13 * ((s.cell p).eng.extN + 1)) ∣ 2 ^ 54 := Nat.pow_dvd_pow 2 (by omega)
  have hlow := waitt_lowBits (v := v) (timeAt (s.region (cellRegion p)) (s.cell p).eng.s).isLt hm
  have hlt := Nat.mod_lt (v + 2 ^ 54 - (timeAt (s.region (cellRegion p)) (s.cell p).eng.s).toNat)
    (Nat.two_pow_pos (13 * ((s.cell p).eng.extN + 1)))
  have hx : exec (.waitt p) s = .next _ := next_eq (h.engIssue_eq _)
  generalize hd : (v + 2 ^ 54 - (timeAt (s.region (cellRegion p)) (s.cell p).eng.s).toNat) % 2 ^ (13 * ((s.cell p).eng.extN + 1)) = d
    at hlow hlt
  simp only [hd] at hx
  split at hx
  · next hc =>
    refine ⟨_, d, hx, engineOnly_engNext .., moved_engNext .., hlt, hlow, fun _ => ?_, fun h0 hr => ?_⟩
    · rw [cell_engNext]; exact h.1
    · exact absurd hc (by simp [h0, hr])
  · next hc =>
    refine ⟨_, d, hx, (engineOnly_engNext ..).updCell fun _ => rfl, (moved_engNext ..).updCell fun _ => ⟨rfl, rfl, rfl, rfl⟩,
      hlt, hlow, fun h0 => absurd (Or.inl h0) hc, fun _ _ => ?_⟩
    rw [State.cell_updCell_self]
    exact ⟨rfl, rfl⟩

theorem exec_sync_at (h : EngAt s p 0x07 v) (hl : ∀ l, (s.region (cellRegion p)).loadAt = some l → l < (s.cell p).eng.s) :
    ∃ t, exec (.sync p) s = .next t ∧ EngineOnly s t p ∧ Moved s t p 0 ∧ (t.cell p).eng.st = .waiting
      ∧ (t.cell p).eng.wait = .sync (tmoOf (s.cell p).eng.s (v / 2 ^ 13)) := by
  have hnone : (s.region (cellRegion p)).loadAt.filter (fun l => decide ((s.cell p).eng.s ≤ l)) = none := by
    rw [Option.filter_eq_none_iff]
    exact fun l hl' => by simpa using hl l hl'
  have hx : exec (.sync p) s = .next _ := next_eq (h.engIssue_eq _)
  rw [hnone] at hx
  refine ⟨_, hx, (engineOnly_engNext ..).updCell fun _ => rfl, (moved_engNext ..).updCell fun _ => ⟨rfl, rfl, rfl, rfl⟩, ?_⟩
  rw [State.cell_updCell_self]
  exact ⟨rfl, rfl⟩

theorem exec_sync_at_load {l : Nat} (h : EngAt s p 0x07 v) (hl : (s.region (cellRegion p)).loadAt = some l)
    (hs : (s.cell p).eng.s ≤ l) :
    ∃ t, exec (.sync p) s = .next t ∧ EngineOnly s t p ∧ (t.cell p).eng.st = .waiting ∧ (t.cell p).eng.wait = .edge (l + 16)
      ∧ (t.cell p).eng.s = l + 16 ∧ (t.cell p).eng.pc = (s.cell p).eng.pc + 1 := by
  have hx : exec (.sync p) s = .next _ := next_eq (h.engIssue_eq _)
  rw [hl, Option.filter_some_pos (p := fun l => decide ((s.cell p).eng.s ≤ l)) (decide_eq_true hs)] at hx
  refine ⟨_, hx, (engineOnly_engNext ..).updCell fun _ => rfl, ?_⟩
  rw [State.cell_updCell_self, cell_engNext]
  exact ⟨rfl, rfl, rfl, rfl⟩

/-- A WAITE of a named event runs the search of the events already registered. -/
theorem exec_waite_eq (h : EngAt s p 0x06 v) {cls : Nat} (hcls : v / 2 ^ 10 % 8 = cls) (hev : cls = 2 ∨ cls = 3)
    (hidx : v % 2 ^ 10 < 8) :
    exec (.waite p) s = .next (match firstEvent s.evRegs (cellRegion p) cls (v % 2 ^ 10) (s.cell p).eng.s (nowEdge s p)
        (tmoOf (s.cell p).eng.s (v / 2 ^ 13)) with
      | some r => (engNext s p 0).updCell p
          (fun c => { c with eng := { c.eng.waitFor (.edge (r + 16)) with s := r + 16, noAdv := 0 } })
      | none => (engNext s p 0).updCell p (fun c => { c with
          eng := c.eng.waitFor (.event cls (v % 2 ^ 10) (tmoOf (s.cell p).eng.s (v / 2 ^ 13))) })) := by
  subst hcls
  refine next_eq ((h.engIssue_eq _).trans (if_neg ?_))
  omega

theorem exec_waite_at (h : EngAt s p 0x06 v) (hcls : v / 2 ^ 10 % 8 = 2) (hidx : v % 2 ^ 10 < 8)
    (hev : firstEvent s.evRegs (cellRegion p) 2 (v % 2 ^ 10) (s.cell p).eng.s (nowEdge s p) (tmoOf (s.cell p).eng.s (v / 2 ^ 13)) = none) :
    ∃ t, exec (.waite p) s = .next t ∧ EngineOnly s t p ∧ Moved s t p 0 ∧ (t.cell p).eng.st = .waiting
      ∧ (t.cell p).eng.wait = .event 2 (v % 2 ^ 10) (tmoOf (s.cell p).eng.s (v / 2 ^ 13)) := by
  have hx := exec_waite_eq h hcls (.inl rfl) hidx
  rw [hev] at hx
  refine ⟨_, hx, (engineOnly_engNext ..).updCell fun _ => rfl, (moved_engNext ..).updCell fun _ => ⟨rfl, rfl, rfl, rfl⟩, ?_⟩
  rw [State.cell_updCell_self]
  exact ⟨rfl, rfl⟩

theorem exec_waite_at_event {r : Nat} (h : EngAt s p 0x06 v) (hcls : v / 2 ^ 10 % 8 = 3) (hidx : v % 2 ^ 10 < 8)
    (hev : firstEvent s.evRegs (cellRegion p) 3 (v % 2 ^ 10) (s.cell p).eng.s (nowEdge s p) (tmoOf (s.cell p).eng.s (v / 2 ^ 13)) = some r) :
    ∃ t, exec (.waite p) s = .next t ∧ EngineOnly s t p ∧ (t.cell p).eng.st = .waiting ∧ (t.cell p).eng.wait = .edge (r + 16)
      ∧ (t.cell p).eng.s = r + 16 ∧ (t.cell p).eng.pc = (s.cell p).eng.pc + 1 := by
  have hx := exec_waite_eq h hcls (.inr rfl) hidx
  rw [hev] at hx
  refine ⟨_, hx, (engineOnly_engNext ..).updCell fun _ => rfl, ?_⟩
  rw [State.cell_updCell_self, cell_engNext]
  exact ⟨rfl, rfl, rfl, rfl⟩

/-- EXT joins its operand instead of using it, so it is issued by its own rule. -/
theorem exec_ext_at (h : EngAt s p 0x1F v) (hlen : (s.cell p).eng.pc + 1 < engLen s p) :
    ∃ t, exec (.ext p) s = .next t ∧ EngineOnly s t p ∧ (t.cell p).eng.ext = v ∧ (t.cell p).eng.extN = (s.cell p).eng.extN + 1
      ∧ (t.cell p).eng.pc = (s.cell p).eng.pc + 1 ∧ (t.cell p).eng.s = (s.cell p).eng.s ∧ (t.cell p).eng.st = .running := by
  obtain ⟨hst, hadv, hs, hpc, hbad, hop, -, harg⟩ := h
  have hrun : ¬((s.cell p).eng.st ≠ .running ∨ 4096 ≤ (s.cell p).eng.noAdv ∨ nowEdge s p < (s.cell p).eng.s) := by
    simp [hst, Nat.not_le.2 hadv, Nat.not_lt.2 hs]
  have hx : exec (.ext p) s = .next _ := next_eq <|
    (if_neg hrun).trans <| (if_neg (Nat.not_le.2 hpc)).trans <| (if_neg (not_uncorrected hbad)).trans <| (if_neg (not_not.2 hop)).trans <|
      if_neg (Nat.not_le.2 hlen)
  refine ⟨_, hx, ⟨⟨rfl, fun q hq => State.cell_updCell_ne _ _ hq⟩, ?_⟩, ?_⟩
  · rw [State.cell_updCell_self]
  · rw [State.cell_updCell_self]
    exact ⟨harg, rfl, rfl, rfl, hst⟩

theorem exec_loop_at (h : EngAt s p 0x0B v) (hv : v / 4 ≠ 0) :
    ∃ t, exec (.loop p) s = .next t ∧ EngineOnly s t p ∧ Moved s t p 0 ∧ tabGet 0 (t.cell p).eng.ctr (v % 4) = v / 4 % 2 ^ 24
      ∧ tabGet 0 (t.cell p).eng.ctrStart (v % 4) = (s.cell p).eng.pc + 1 := by
  refine ⟨_, next_eq ((h.engIssue_eq _).trans (if_neg hv)), (engineOnly_engNext ..).updCell fun _ => rfl,
    (moved_engNext ..).updCell fun _ => ⟨rfl, rfl, rfl, rfl⟩, ?_⟩
  rw [State.cell_updCell_self, cell_engNext]
  exact ⟨by simp, by simp [Engine.next]⟩

theorem exec_endl_at (h : EngAt s p 0x0C v) :
    ∃ t, exec (.endl p) s = .next t ∧ EngineOnly s t p ∧ (t.cell p).eng.s = (s.cell p).eng.s
      ∧ tabGet 0 (t.cell p).eng.ctr (v % 4) = tabGet 0 (s.cell p).eng.ctr (v % 4) - 1
      ∧ (t.cell p).eng.pc = (if 1 < tabGet 0 (s.cell p).eng.ctr (v % 4) then tabGet 0 (s.cell p).eng.ctrStart (v % 4)
                             else (s.cell p).eng.pc + 1) := by
  refine ⟨_, next_eq (h.engIssue_eq _), (EngineOnly.refl s p).updCell fun _ => rfl, ?_⟩
  rw [State.cell_updCell_self]
  exact ⟨rfl, tabGet_tabSet_self .., rfl⟩

theorem exec_jmp_at (h : EngAt s p 0x0D v) (hv : v < engLen s p) :
    ∃ t, exec (.jmp p) s = .next t ∧ EngineOnly s t p ∧ (t.cell p).eng.pc = v ∧ (t.cell p).eng.s = (s.cell p).eng.s := by
  refine ⟨_, next_eq ((h.engIssue_eq _).trans (if_neg (Nat.not_le.2 hv))), (EngineOnly.refl s p).updCell fun _ => rfl, ?_⟩
  rw [State.cell_updCell_self]
  exact ⟨rfl, rfl⟩

theorem exec_brl_at (h : EngAt s p 0x0E v) (hv : v < engLen s p) (href : (s.cell p).loop.refRelock = false) :
    ∃ t, exec (.brl p) s = .next t ∧ EngineOnly s t p
      ∧ ((s.cell p).eng.lockLost = true → (t.cell p).eng.pc = v ∧ (t.cell p).eng.s = (s.cell p).eng.s + 256 ∧ (t.cell p).eng.lockLost = false)
      ∧ ((s.cell p).eng.lockLost = false → Moved s t p 0) := by
  cases hlost : (s.cell p).eng.lockLost with
  | true =>
    refine ⟨_, next_eq ((h.engIssue_eq _).trans ((if_pos ⟨hlost, href⟩).trans (if_neg (Nat.not_le.2 hv)))),
      engineOnly_prepare ((EngineOnly.refl s p).updCell fun _ => rfl), fun _ => ?_, nofun⟩
    simp [prepare, Engine.next]
  | false =>
    exact ⟨_, next_eq ((h.engIssue_eq _).trans (if_neg (by simp [hlost]))), engineOnly_engNext .., nofun, fun _ => moved_engNext ..⟩

theorem exec_halt_at (h : EngAt s p 0x00 v) (hv : v % 2 = 0) :
    ∃ t, exec (.halt p) s = .next t ∧ EngineOnly s t p ∧ (t.cell p).eng.st = .halted ∧ (t.cell p).eng.pc = (s.cell p).eng.pc + 1 := by
  refine ⟨_, next_eq ((h.engIssue_eq _).trans (if_neg (by omega))), (EngineOnly.refl s p).updCell fun _ => rfl, ?_⟩
  rw [State.cell_updCell_self]
  exact ⟨rfl, rfl⟩

/-- Settles O18: each instruction issues its own rule, and that rule changes the engine of its cell alone. -/
theorem engineInstructionsRunAtTheirEdge : Obligations.EngineInstructionsRunAtTheirEdge :=
  ⟨fun _ _ _ => exec_nop_at, fun _ _ _ => exec_waitc_at, fun _ _ _ => exec_waitt_at, fun _ _ _ => exec_sync_at,
    fun _ _ _ _ => exec_sync_at_load, fun _ _ _ => exec_waite_at, fun _ _ _ _ => exec_waite_at_event, fun _ _ _ => exec_ext_at,
    fun _ _ _ => exec_loop_at, fun _ _ _ => exec_endl_at, fun _ _ _ => exec_jmp_at, fun _ _ _ => exec_brl_at,
    fun _ _ _ => exec_halt_at⟩

end Sys2Proof.Claims
end

section
/-! O14. The events of a cell's search, slew, dividers and driver. -/
namespace Sys2Proof.Claims
open Sys2Proof Sys2Proof.Machine
variable {s : State} {p : Nat}

theorem bandChosen_alone (s : State) {p q : Nat} (h : q ≠ p) : (bandChosen s p).cell q = s.cell q := State.cell_updCell_ne _ _ h

@[simp] theorem activeFrom_loop (c : CellSt) (t : Rat) : (c.activeFrom t).loop = c.loop := by
  unfold CellSt.activeFrom; split <;> rfl

/-- Taking the band as chosen changes nothing else of the loop. -/
theorem bandChosen_loop (s : State) (p : Nat) : ((bandChosen s p).cell p).loop = { (s.cell p).loop with bandChosen := true } := by
  rw [bandChosen, State.cell_updCell_self]
  split
  · next h => rw [← h]
  · dsimp only
    split
    · exact activeFrom_loop ..
    · rfl

theorem exec_bandSearchEnd_found (b : BitVec 7) (f : Word) (hen : (s.cell p).cfg.ctl.en = true)
    (hs : (s.cell p).loop.searching = true) :
    ∃ t, exec (.bandSearchEnd p true b f) s = .next t ∧ (t.cell p).loop.band = b ∧ (t.cell p).loop.fine = f
      ∧ (t.cell p).loop.searching = false ∧ (t.cell p).loop.bandChosen = true ∧ ∀ q, q ≠ p → t.cell q = s.cell q := by
  have hx : exec (.bandSearchEnd p true b f) s = .next _ := (if_pos ⟨hen, hs⟩).trans (if_pos rfl)
  refine ⟨_, hx, ?_⟩
  rw [bandChosen_loop, State.cell_updCell_self]
  exact ⟨rfl, rfl, rfl, rfl, fun q hq => (bandChosen_alone _ hq).trans (State.cell_updCell_ne _ _ hq)⟩

theorem exec_bandSwitchSettled_due (h : (s.cell p).loop.bandSwitch = true) :
    ∃ t, exec (.bandSwitchSettled p) s = .next t ∧ (t.cell p).loop.bandSwitch = false ∧ (t.cell p).loop.bandChosen = true
      ∧ ∀ q, q ≠ p → t.cell q = s.cell q := by
  have hx : exec (.bandSwitchSettled p) s = .next _ := if_pos h
  refine ⟨_, hx, ?_⟩
  rw [bandChosen_loop, State.cell_updCell_self]
  exact ⟨rfl, rfl, fun q hq => (bandChosen_alone _ hq).trans (State.cell_updCell_ne _ _ hq)⟩

/-- The end of a slew completes its command and leaves the cell's values. -/
theorem slewDone_vals (s : State) (p : Nat) : ((slewDone s p).cell p).vals = (s.cell p).vals := by
  unfold slewDone
  split <;> simp

theorem presetPhase_vals (c : CellSt) : c.presetPhase.vals = c.vals := by
  unfold CellSt.presetPhase; rfl

/-- One slew period moves the phase by one step and goes on until it is at its target. -/
theorem cell_slewPeriod_vals (c : CellSt) :
    c.slewPeriod.vals = { c.vals with
      phi := slewStep c.vals.phi c.vals.ofs c.cfg.rate, slewing := decide (slewStep c.vals.phi c.vals.ofs c.cfg.rate ≠ c.vals.ofs) } := by
  simp only [CellSt.slewPeriod, CellSt.stepPhase, presetPhase_vals]

theorem exec_slewPeriod_due (h : (s.cell p).vals.slewing = true)
    (hat : (s.cell p).out.slewAt.all (fun x => decide (x ≤ nowA s p)) = true) :
    ∃ t, exec (.slewPeriod p) s = .next t ∧ (t.cell p).vals.phi = slewStep (s.cell p).vals.phi (s.cell p).vals.ofs (s.cell p).cfg.rate
      ∧ ((t.cell p).vals.slewing = true ↔ (t.cell p).vals.phi ≠ (s.cell p).vals.ofs) ∧ (t.cell p).vals.ofs = (s.cell p).vals.ofs := by
  have hx : exec (.slewPeriod p) s = .next _ := next_eq (if_pos ⟨h, hat⟩)
  refine ⟨_, hx, ?_⟩
  have hv : ∀ {c : Prop} [Decidable c], ((if c then s.updCell p CellSt.slewPeriod else slewDone (s.updCell p CellSt.slewPeriod) p).cell p).vals
      = (s.cell p).slewPeriod.vals := by
    intro c _
    split <;> simp [slewDone_vals]
  rw [hv, cell_slewPeriod_vals]
  simp

/-- What a change of dividers at the falling edge puts to work; anchored, it holds the output low until the next rise. -/
theorem atFall_eq (c : CellSt) (cont : Bool) :
    (c.atFall cont).out.dNow = c.vals.d ∧ (c.atFall cont).out.lNow = c.vals.l ∧ (c.atFall cont).out.pend = .none
    ∧ (c.atFall cont).out.heldLow = (if cont then c.out.heldLow else true)
    ∧ (cont = false → (c.atFall cont).vals = c.vals) := by
  cases cont <;> exact ⟨rfl, rfl, rfl, rfl, by simp [CellSt.atFall, presetPhase_vals]⟩

theorem exec_dividerChangeover_anchored (hp : (s.cell p).out.pend = .divAnchored) (hf : fallCome s p = true) :
    ∃ t, exec (.dividerChangeover p) s = .next t ∧ (t.cell p).out.dNow = (s.cell p).vals.d ∧ (t.cell p).out.lNow = (s.cell p).vals.l
      ∧ (t.cell p).out.heldLow = true ∧ (t.cell p).out.pend = .none ∧ (t.cell p).vals = (s.cell p).vals := by
  have hx : exec (.dividerChangeover p) s = .next (s.updCell p (fun c => c.atFall false)) := by
    refine next_eq ?_
    rw [dividerChange, hp]
    exact if_pos hf
  obtain ⟨hd, hl, hpend, hlow, hv⟩ := atFall_eq (s.cell p) false
  refine ⟨_, hx, ?_⟩
  rw [State.cell_updCell_self]
  exact ⟨hd, hl, hlow, hpend, hv rfl⟩

theorem exec_dividerChangeover_cont (hp : (s.cell p).out.pend = .divCont) (hf : fallCome s p = true) :
    ∃ t, exec (.dividerChangeover p) s = .next t ∧ (t.cell p).out.dNow = (s.cell p).vals.d ∧ (t.cell p).out.lNow = (s.cell p).vals.l
      ∧ (t.cell p).out.heldLow = (s.cell p).out.heldLow ∧ (t.cell p).out.pend = .none := by
  have hx : exec (.dividerChangeover p) s = .next (s.updCell p (fun c => c.atFall true)) := by
    refine next_eq ?_
    rw [dividerChange, hp]
    exact if_pos hf
  obtain ⟨hd, hl, hpend, hlow, -⟩ := atFall_eq (s.cell p) true
  refine ⟨_, hx, ?_⟩
  rw [State.cell_updCell_self]
  exact ⟨hd, hl, hlow, hpend⟩

theorem exec_hopRetime_due (hp : (s.cell p).out.pend = .hopRetime) (hf : fallCome s p = true) :
    ∃ t, exec (.hopRetime p) s = .next t ∧ (t.cell p).out.dNow = (s.cell p).vals.d ∧ (t.cell p).out.lNow = (s.cell p).vals.l
      ∧ (t.cell p).out.heldLow = true ∧ (t.cell p).out.pend = .none ∧ (t.cell p).vals = (s.cell p).vals := by
  have hx : exec (.hopRetime p) s = .next (s.updCell p (fun c => c.atFall false)) := next_eq (if_pos ⟨hp, hf⟩)
  obtain ⟨hd, hl, hpend, hlow, hv⟩ := atFall_eq (s.cell p) false
  refine ⟨_, hx, ?_⟩
  rw [State.cell_updCell_self]
  exact ⟨hd, hl, hlow, hpend, hv rfl⟩

theorem exec_toutMuteAtFall_due {a : Rat} (ha : (s.cell p).out.muteAtFall = some a) (hn : a ≤ nowA s p)
    (hd : (s.cell p).out.drv = .toggling) :
    ∃ t, exec (.toutMuteAtFall p) s = .next t ∧ (t.cell p).out.drv = .muted
      ∧ (t.cell p).out.disableAt = (if (s.cell p).cfg.ctl.outEn then none else some (nowEdge s p + 16)) := by
  have hx : exec (.toutMuteAtFall p) s = .next (s.updCell p (fun c => { c.toMuted with
      out.disableAt := if c.cfg.ctl.outEn then none else some (nowEdge s p + 16) })) := by
    refine next_eq ?_
    rw [muteAtFall, ha]
    exact if_pos (.inl hn)
  refine ⟨_, hx, ?_, ?_⟩ <;> rw [State.cell_updCell_self]
  simp [CellSt.toMuted, CellSt.applyLvds, hd]

theorem exec_toutActiveAtAnchor_due {a : Rat} (ha : (s.cell p).out.activeAfter = some a) (hw : cellWant s p = .active)
    (hd : (s.cell p).out.drv = .muted)
    (hn : if (s.cell p).inHold then a ≤ nowA s p
      else firstAnchor (s.cell p).vals.rho (turns (s.cell p).vals.phi) (s.cell p).vals.delta a ≤ nowA s p) :
    exec (.toutActiveAtAnchor p) s = .next (s.updCell p (fun c => { c with out.drv := .toggling, out.activeAfter := none })) := by
  refine next_eq ?_
  rw [toutActive, ha]
  refine if_pos ⟨?_, hw, hd⟩
  split at hn
  · next hh => rw [if_pos hh]; exact decide_eq_true hn
  · next hh => rw [if_neg hh]; exact decide_eq_true hn

theorem exec_toutDisableDelay_due {e : Nat} (he : (s.cell p).out.disableAt = some e) (hn : e ≤ nowEdge s p)
    (hen : (s.cell p).cfg.ctl.en = false ∨ (s.cell p).cfg.ctl.outEn = false) (hl : 256 ≤ p ∨ chanLost s p = false) :
    ∃ t, exec (.toutDisableDelay p) s = .next t ∧ (t.cell p).out.drv = .disabled ∧ (t.cell p).out.disableAt = none
      ∧ (t.cell p).out.lvdsNow = (s.cell p).cfg.lvds := by
  have hlost : ¬(p < 256 ∧ chanLost s p = true) := by
    rintro ⟨hp, hc⟩
    rcases hl with hl | hl
    · omega
    · exact absurd (hl.symm.trans hc) (by decide)
  have hx : exec (.toutDisableDelay p) s = .next (s.updCell p
      (fun c => { c with out.drv := .disabled, out.disableAt := none }.applyLvds)) := by
    refine next_eq ?_
    rw [toutDisable, he]
    exact if_pos ⟨hn, hen, hlost⟩
  refine ⟨_, hx, ?_⟩
  rw [State.cell_updCell_self]
  exact ⟨rfl, rfl, rfl⟩

/-- Settles O14: each event, when due, runs its rule on its cell. -/
theorem outputEventsMoveTheDriver : Obligations.OutputEventsMoveTheDriver :=
  ⟨fun _ b f _ => exec_bandSearchEnd_found b f, fun _ _ => exec_bandSwitchSettled_due, fun _ _ h he => next_eq (if_pos ⟨h, he⟩),
    fun _ _ => exec_slewPeriod_due, fun _ _ => exec_dividerChangeover_anchored, fun _ _ => exec_dividerChangeover_cont,
    fun _ _ => exec_hopRetime_due, fun _ _ h hr => next_eq (if_pos ⟨h, hr⟩), fun _ _ _ => exec_toutMuteAtFall_due,
    fun _ _ _ => exec_toutActiveAtAnchor_due, fun _ _ _ => exec_toutDisableDelay_due⟩

end Sys2Proof.Claims
end

section
/-! O6. The pace sequencer's rows. -/
namespace Sys2Proof.Claims
open Sys2Proof Sys2Proof.Machine
variable {s : State} {tag mv : Nat} {c : Cmd}

@[simp] theorem slotHeld_begun (s : State) (tag : Nat) : slotHeld (begun s tag) = slotHeld s := by simp [slotHeld]

theorem exec_paceSet_other (hb : Begins s tag 0x003 c) (hslot : slotHeld s = false) (hst : s.pace.st = .steady)
    (hl : fld (c.arg 0) 0 2 ≠ s.pace.level) :
    exec (.paceSet tag) s = .next { begun s tag with
      pace := { s.pace with pendingLevel := none, tag := some tag }.begin (fld (c.arg 0) 0 2) } := by
  refine (next_eq (hb.hitan_eq _)).trans (next_eq ?_)
  simp [hslot, hst, hl]

theorem exec_paceSet_same (hb : Begins s tag 0x003 c) (hslot : slotHeld s = false) (hst : s.pace.st = .steady)
    (hl : fld (c.arg 0) 0 2 = s.pace.level) :
    exec (.paceSet tag) s
      = .next (complete { begun s tag with pace.pendingLevel := none, pace.tag := none } tag OK [wd s.pace.level]) := by
  refine (next_eq (hb.hitan_eq _)).trans (next_eq ?_)
  simp [hslot, hst, hl, paceAnswer, b2n]

/-- With no request waiting, a settled transition only drops the self-test's hold where no slot is held. -/
theorem paceRelease_of_none (h : s.pace.pendingLevel = none) :
    paceRelease s = { s with bist.paceHold := s.bist.paceHold && slotHeld s } := by
  unfold paceRelease
  split
  · next hs => simp [hs]
  · next hs => simp [hs, h]

/-- The state in which a transition without a waiting change of mode has settled at a level. -/
def paceSettled (s : State) (level : Nat) (bits : BitVec 12) : State :=
  { s with pace := { s.pace with
    level := level, limits := level, target := level, st := .steady, resume := none, forTest := false,
    events := s.pace.events.post bits } }

theorem paceEnd_eq (hm : s.pace.modeWait = none) (level status : Nat) (bits : BitVec 12) (ok : Bool) :
    paceEnd s level status bits ok = paceRelease
      (if s.pace.forTest then
        (if ok then bistPaceUp (paceAnswer (paceSettled s level bits) status) else bistPaceFail (paceAnswer (paceSettled s level bits) status))
      else paceAnswer (paceSettled s level bits) status) := by
  have hs : (paceSettled s level bits).pace.settle = (paceSettled s level bits).pace := by
    unfold Pace.settle
    split
    · next h => cases hm.symm.trans h
    · rfl
  change paceRelease (if s.pace.forTest then
      (if ok then bistPaceUp (paceAnswer { s with pace := (paceSettled s level bits).pace.settle } status)
        else bistPaceFail (paceAnswer { s with pace := (paceSettled s level bits).pace.settle } status))
    else paceAnswer { s with pace := (paceSettled s level bits).pace.settle } status) = _
  rw [hs]
  rfl

/-- The end of a transition that no command and no test waits for settles the level. -/
theorem paceEnd_settles (hft : s.pace.forTest = false) (hm : s.pace.modeWait = none) (ht : s.pace.tag = none)
    (hp : s.pace.pendingLevel = none) (level status : Nat) (bits : BitVec 12) (ok : Bool) :
    paceEnd s level status bits ok = { s with
      bist.paceHold := s.bist.paceHold && slotHeld s,
      pace := { s.pace with level := level, limits := level, target := level, st := .steady, resume := none,
                            events := s.pace.events.post bits } } := by
  have ha : paceAnswer (paceSettled s level bits) status = paceSettled s level bits := by
    rw [paceAnswer, show (paceSettled s level bits).pace.tag = none from ht]
  rw [paceEnd_eq hm, hft, if_neg (by decide), ha, paceRelease_of_none (by exact hp)]
  simp [paceSettled, slotHeld, hft]

theorem bistEnd_pace {p : Pace} (r : BistRun) (status : Nat) (h : s.pace = p) (hp : p.pendingLevel = none) :
    (bistEnd s r status).pace = p := by
  subst h
  rw [bistEnd, complete_pace, paceRelease_of_none (by exact hp)]

theorem paceAnswer_pace (s : State) (status : Nat) : (paceAnswer s status).pace = { s.pace with tag := none } := by
  unfold paceAnswer
  split
  · next h => rw [← h]
  · exact complete_pace ..

/-- A failed transition with no request waiting leaves the level it ends at and the VID it had. -/
theorem paceEnd_pace (hm : s.pace.modeWait = none) (hp : s.pace.pendingLevel = none) (level status : Nat) (bits : BitVec 12) :
    (paceEnd s level status bits false).pace = { (paceSettled s level bits).pace with tag := none } := by
  have hfail : ∀ {u : State} {p : Pace}, u.pace = p → p.pendingLevel = none → (bistPaceFail u).pace = p := fun hu hpn =>
    forAll_keeps (P := fun t => t.pace = _) hu fun t r _ ht => bistEnd_pace r PRECOND ht hpn
  have hrel : ∀ {u : State} {p : Pace}, u.pace = p → p.pendingLevel = none → (paceRelease u).pace = p := by
    intro u p hu hpn
    rw [paceRelease_of_none (hu ▸ hpn)]
    exact hu
  rw [paceEnd_eq hm]
  refine hrel ?_ (by exact hp)
  split
  · exact hfail (paceAnswer_pace ..) (by exact hp)
  · exact paceAnswer_pace ..

theorem exec_paceConfirm_up (hph : s.pwr.phase ≠ .reset) (hst : s.pace.st = .confirm) (hup : paceMv s.pace.target ≤ mv + 15)
    (hft : s.pace.forTest = false) (hm : s.pace.modeWait = none) (ht : s.pace.tag = none) (hp : s.pace.pendingLevel = none) :
    exec (.paceConfirm mv) s = .next { s with
      bist.paceHold := s.bist.paceHold && slotHeld s,
      pace := { s.pace with vmon := min mv 1023, level := s.pace.target, limits := s.pace.target, st := .steady, resume := none,
                            events := s.pace.events.post 1 } } := by
  have hx : exec (.paceConfirm mv) s = .next (paceEnd (readVmon s 0 mv) s.pace.target OK 1 true) := by
    change execPaceConfirm mv s = _
    simp [execPaceConfirm, hph, hst, hup]
  exact hx.trans (next_eq (paceEnd_settles (by exact hft) (by exact hm) (by exact ht) (by exact hp) ..))

theorem exec_paceConfirmTimeout_down (hph : s.pwr.phase ≠ .reset) (hst : s.pace.st = .voltDown)
    (hft : s.pace.forTest = false) (hm : s.pace.modeWait = none) (ht : s.pace.tag = none) (hp : s.pace.pendingLevel = none) :
    exec (.paceConfirmTimeout mv) s = .next { s with
      bist.paceHold := s.bist.paceHold && slotHeld s,
      pace := { s.pace with vmon := min mv 1023, level := s.pace.target, limits := s.pace.target, st := .steady, resume := none,
                            events := s.pace.events.post 5 } } := by
  have hx : exec (.paceConfirmTimeout mv) s = .next (paceEnd (readVmon s 0 mv) s.pace.target OK 5 true) := by
    change execPaceConfirmTimeout mv s = _
    simp [execPaceConfirmTimeout, hph, hst]
  exact hx.trans (next_eq (paceEnd_settles (by exact hft) (by exact hm) (by exact ht) (by exact hp) ..))

theorem exec_paceConfirmTimeout_up (hph : s.pwr.phase ≠ .reset) (hst : s.pace.st = .confirm) (hm : s.pace.modeWait = none)
    (hp : s.pace.pendingLevel = none) :
    ∃ t, exec (.paceConfirmTimeout mv) s = .next t ∧ t.pace.level = s.pace.level ∧ t.pace.vid = some s.pace.level := by
  have hx : exec (.paceConfirmTimeout mv) s = .next (paceEnd (faultChip { readVmon s 0 mv with
      pace := (readVmon s 0 mv).pace.drive s.pace.level } 0x34 1 0 (wd mv)) s.pace.level FAULT 4 false) := by
    change execPaceConfirmTimeout mv s = _
    simp [execPaceConfirmTimeout, hph, hst]
  refine ⟨_, hx, ?_⟩
  rw [paceEnd_pace (by rw [faultChip_pace]; exact hm) (by rw [faultChip_pace]; exact hp)]
  simp [paceSettled, Pace.drive]

theorem readFuses_pwr (s : State) (f : BitVec 32 → Bool) : (readFuses s f).pwr = s.pwr :=
  forAll_keeps (P := fun t => t.pwr = s.pwr) rfl fun _ _ _ ht => (faultChip_pwr ..).trans ht

theorem romStart_pwr (s : State) :
    (romStart s).pwr = { s.pwr with phase := .rom, cause := s.pwr.latch, romRun := true, gpio := 1 } := by
  rw [romStart, readFuses_pwr]
  split
  · rfl
  · exact faultChip_pwr ..

theorem exec_paceConfirm_inReset (hph : s.pwr.phase = .reset) (hst : s.pace.st = .confirm) (hup : paceMv s.pace.target ≤ mv + 15) :
    ∃ t, exec (.paceConfirm mv) s = .next t ∧ t.pwr.phase = .rom ∧ t.pwr.cause = s.pwr.latch ∧ t.pwr.romRun = true := by
  have hx : exec (.paceConfirm mv) s = .next (romStart (readVmon s 0 mv)) := by
    change execPaceConfirm mv s = _
    simp [execPaceConfirm, hph, hst, hup]
  refine ⟨_, hx, ?_⟩
  rw [romStart_pwr]
  exact ⟨rfl, rfl, rfl⟩

theorem exec_undervolt_limits (hph : s.pwr.phase ≠ .reset) (hst : s.pace.st ≠ .undervolt) :
    ∃ t, exec (.undervolt mv) s = .next t ∧ t.pace = { s.pace with
      vmon := min mv 1023, limits := 0, resume := some s.pace.st, st := .undervolt, events := s.pace.events.postBit 1 } :=
  ⟨_, if_neg (by simp [hph, hst]), faultChip_pace ..⟩

/-- In an Owner or Vendor session and a steady state PACE_CTL takes its fields at once. -/
theorem exec_paceCtl_steady (v : Word) (a : Option Byte) (hh : 2 ≤ s.sec.host) (hst : s.pace.st = .steady) :
    exec (.paceCtlModeWrite v a) s = .next (if v.getLsbD 0 = s.pace.mode then
        { s.parityFresh 0x18400 with pace := { s.pace with pmbAddr := v.extractLsb' 4 7, pec := v.getLsbD 1 } }
      else { s.parityFresh 0x18400 with
        pace := { s.pace with pmbAddr := v.extractLsb' 4 7, pec := v.getLsbD 1 }.setMode (v.getLsbD 0) a }) :=
  next_eq ((chipWrite_owner hh ..).trans (if_pos hst))

/-- The regulator's answer in linear format turns PMBus mode on. -/
theorem setMode_linear (p : Pace) {x : Byte} (hx : x.toNat < 32) :
    p.setMode true (some x) = { p with mode := true, expo := sgn x.toNat 5, vout := some (voutOf (sgn x.toNat 5) p.level) } :=
  if_pos (by omega)

theorem exec_paceCtl_modeOn {x : Byte} {v : Word} (hh : 2 ≤ s.sec.host) (hst : s.pace.st = .steady) (hm : s.pace.mode = false)
    (hv : v.getLsbD 0 = true) (hx : x.toNat < 32) :
    ∃ t, exec (.paceCtlModeWrite v (some x)) s = .next t ∧ t.pace.mode = true
      ∧ t.pace.vout = some (voutOf (sgn x.toNat 5) s.pace.level) := by
  refine ⟨_, (exec_paceCtl_steady v (some x) hh hst).trans (next_eq (if_neg (by simp [hm, hv]))), ?_⟩
  rw [hv, setMode_linear _ hx]
  exact ⟨rfl, rfl⟩

theorem exec_pmAlert (w : BitVec 16) (hm : s.pace.mode = true) (hph : s.pwr.phase ≠ .reset) :
    ∃ t, exec (.pmAlertNAssert w) s = .next t ∧ t.pace.alert = w ∧ t.pace.events = s.pace.events.postBit 4 := by
  refine ⟨_, if_neg (by simp [hm, hph]), ?_⟩
  rw [faultChip_pace]
  exact ⟨rfl, rfl⟩

/-- Settles O6: the rows of the sequencer, each in the state it acts in. -/
theorem paceTransitionsFollowTheSequencer : Obligations.PaceTransitionsFollowTheSequencer :=
  ⟨fun _ _ _ => exec_paceSet_other, fun _ _ _ => exec_paceSet_same, fun _ _ => exec_paceConfirm_up,
    fun _ _ hph hst hup _ _ => exec_paceConfirm_inReset hph hst hup, fun _ _ => exec_paceConfirmTimeout_down,
    fun _ _ => exec_paceConfirmTimeout_up, fun _ _ => exec_undervolt_limits, fun _ h => next_eq (if_pos h),
    fun v a _ hh hst hm => (exec_paceCtl_steady v a hh hst).trans (next_eq (if_pos hm)), fun _ _ _ => exec_paceCtl_modeOn,
    fun w _ => exec_pmAlert w⟩

end Sys2Proof.Claims
end

section
/-! SUPPORT. What start-up's longer steps leave of the power state and of the boot record. -/
namespace Sys2Proof.Claims
open Sys2Proof Sys2Proof.Machine
/-- The power state and the boot record. -/
def bootPart (s : State) : Power × BootSt := (s.pwr, s.boot)

/-- What a unit that starts afresh leaves as it is: the power state, the boot record and the regions. -/
def unitPart (s : State) : (Power × BootSt) × Tab RegionSt := (bootPart s, s.regions)

theorem regions_of_unitPart {s t : State} (h : unitPart s = unitPart t) : s.regions = t.regions := congrArg Prod.snd h

theorem unitPart_faultChip (s : State) (c a q : Nat) (d : Word) : unitPart (faultChip s c a q d) = unitPart s := by simp [unitPart, bootPart]

theorem bootPart_ite {c : Prop} [Decidable c] {t u v : State} (ht : bootPart t = bootPart v) (hu : bootPart u = bootPart v) :
    bootPart (if c then t else u) = bootPart v := by
  split
  · exact ht
  · exact hu

theorem unitPart_ite {c : Prop} [Decidable c] {t u v : State} (ht : unitPart t = unitPart v) (hu : unitPart u = unitPart v) :
    unitPart (if c then t else u) = unitPart v := by
  split
  · exact ht
  · exact hu

theorem unitPart_loadCell (s : State) (p : Nat) : unitPart (loadCell s p) = unitPart s := rfl

theorem unitPart_loadEvin (s : State) (i : Nat) : unitPart (loadEvin s i) = unitPart s := by
  unfold loadEvin
  split <;> rfl

theorem unitPart_freshCell (s : State) (p : Nat) : unitPart (freshCell s p) = unitPart s := by
  unfold freshCell
  dsimp only
  split
  · exact unitPart_loadCell ..
  · rfl

theorem unitPart_freshEvins (s : State) (l : List Nat) : unitPart (freshEvins s l) = unitPart s := by
  refine forAll_same unitPart fun u i _ => ?_
  dsimp only
  split
  · exact unitPart_loadEvin ..
  · rfl

theorem unitPart_reapplyMap (s : State) (B : Nat) : unitPart (reapplyMap s B) = unitPart s := by
  unfold reapplyMap
  exact unitPart_ite (unitPart_loadCell ..) rfl

theorem unitPart_endInnerResets (s : State) (r : Nat) : unitPart (endInnerResets s r) = unitPart s :=
  forAll_same unitPart fun _ _ _ => by simp [unitPart, bootPart]

theorem unitPart_readFuses (s : State) (f : BitVec 32 → Bool) : unitPart (readFuses s f) = unitPart s :=
  forAll_same unitPart fun u _ _ => unitPart_faultChip u ..

/-- A region that leaves reset reads its fuses, and starts its cells, event inputs and maps afresh. -/
theorem unitPart_leaveReset (s : State) (r : Nat) : unitPart (leaveReset s r)
    = unitPart ((readFuses s (fun w => decide (fuseRegion w = r))).updRegion r
        (fun g => { g with inReset := false, run := .realign, rrp := .acquiring })) := by
  unfold leaveReset
  dsimp only
  refine (unitPart_endInnerResets ..).trans <| (forAll_same unitPart fun u _ _ => unitPart_reapplyMap u _).trans <|
    (unitPart_freshEvins ..).trans <| (forAll_same unitPart fun u p _ => unitPart_freshCell u p).trans <|
    (forAll_same unitPart fun _ _ _ => ?_).trans ?_
  · rfl
  · rfl

theorem bootPart_leaveReset (s : State) (r : Nat) : bootPart (leaveReset s r) = bootPart s :=
  (congrArg Prod.fst (unitPart_leaveReset s r)).trans (congrArg Prod.fst (unitPart_readFuses ..))

theorem bootPart_faultChip (s : State) (c a q : Nat) (d : Word) : bootPart (faultChip s c a q d) = bootPart s :=
  congrArg Prod.fst (unitPart_faultChip ..)

theorem bootPart_startPort (s : State) (i : Nat) : bootPart (startPort s i) = bootPart s := by
  unfold startPort
  split <;> rfl

theorem bootPart_readStore (s : State) : bootPart (readStore s) = bootPart s := by
  unfold readStore
  dsimp only
  split
  · exact bootPart_ite rfl (bootPart_faultChip ..)
  · refine bootPart_ite (bootPart_ite rfl (bootPart_faultChip ..)) (bootPart_ite ?_ (bootPart_ite rfl (bootPart_faultChip ..)))
    exact (bootPart_faultChip ..).trans (bootPart_ite rfl (bootPart_faultChip ..))

theorem bootPart_loadSets (n : Nat) : ∀ (k : Nat) (s : State) (skip : Nat), bootPart (loadSets n k s skip).1 = bootPart s := by
  induction n with
  | zero => exact fun _ _ _ => rfl
  | succ n ih =>
    intro k s skip
    unfold loadSets
    split
    · exact ih ..
    · exact ih ..

theorem bootPart_loadProfileSets (s : State) : bootPart (loadProfileSets s) = bootPart s := by
  unfold loadProfileSets
  dsimp only
  split
  · rfl
  · split
    · exact bootPart_faultChip ..
    · split
      · exact bootPart_loadSets ..
      · exact (bootPart_faultChip ..).trans (bootPart_loadSets ..)

/-- A moved reference starts changes of source in the regions and touches no power state. -/
theorem refMoved_pwr (s : State) : (refMoved s).pwr = s.pwr := by
  have hborrow : ∀ u r, (borrowTry u r).pwr = u.pwr := fun u r => by
    unfold borrowTry; dsimp only; split <;> rfl
  have hboot : ∀ u w, (bootTry u w).pwr = u.pwr := fun u w => by
    unfold bootTry; dsimp only; split
    · split <;> rfl
    · rfl
  have hroots : ∀ u, (rootsMoved u).pwr = u.pwr := fun u => forAll_same (fun v : State => v.pwr) fun v r _ => by
    dsimp only; split <;> rfl
  unfold refMoved
  rw [hroots, forAll_same (fun v : State => v.pwr) fun v w _ => hboot v w, forAll_same (fun v : State => v.pwr) fun v r _ => hborrow v r]

theorem writeSel_pwr (s : State) (pref valid : Nat) (trial : Bool) : (writeSel s pref valid trial).pwr = s.pwr := by
  have hprog : ∀ (u : State) (g a : Nat) (bs : List Byte), (flashProgram u g a bs).pwr = u.pwr := fun u g a bs => by
    obtain ⟨m, hm⟩ := flashProgram_frame u g a bs
    rw [hm]
  exact hprog ..

end Sys2Proof.Claims
end

section
/-! O4. The rows of start-up. -/
namespace Sys2Proof.Claims
open Sys2Proof Sys2Proof.Machine
variable {s : State}

theorem exec_frstNRelease_rom (hr : s.pwr.romRun = true) (hf : s.pwr.frstHigh = false) (hp : s.pwr.phase = .rom) :
    ∃ t, exec .frstNRelease s = .next t ∧ t.pwr.frstHigh = true ∧ t.pwr.phase = .wipe ∧ t.regions = s.regions ∧ t.cells = s.cells
      ∧ t.mbx = s.mbx ∧ t.fl = s.fl ∧ t.lk = s.lk := by
  refine ⟨_, next_eq ((if_pos ⟨hr, hf⟩).trans (if_pos hp)), ?_⟩
  unfold romRecords
  dsimp only
  split <;> exact ⟨rfl, rfl, rfl, rfl, rfl, rfl, rfl⟩

theorem exec_wipeEnd_xo (hp : s.pwr.phase = .wipe) (hw : s.lk.wipe = false) (hlo : 40000 ≤ s.boot.xoKhz) (hhi : s.boot.xoKhz ≤ 60000) :
    exec .wipeEnd s = .next { s with pwr.wiped := true, ref.xoOn := true, pwr.phase := .xoQual } :=
  next_eq ((if_pos hp).trans ((if_neg (by simp [hw])).trans (if_pos ⟨hlo, hhi⟩)))

/-- Start-up's flash port set to one lane, as FIRMWARE_START leaves it before it looks for an image. -/
def flashReady (s : State) : State :=
  { s with
    fl.div := 0
    fl.mode := if s.boot.flags.getLsbD 0 then 1 else 0
    fl.dummy := if s.boot.flags.getLsbD 0 then s.boot.dummy.extractLsb' 0 5 else s.fl.dummy }

/-- Whether a slot's image is acceptable does not depend on the port's settings. -/
theorem imageOk_flashReady (s : State) : imageOk (flashReady s) = imageOk s := rfl

theorem firmwareStart_none (h : s.boot.order.find? (imageOk s) = none) :
    firmwareStart s = { flashReady s with pwr.phase := .recovery } := by
  unfold firmwareStart
  dsimp only
  have hc : chosenImage (flashReady s) = none := h
  rw [flashReady] at hc
  rw [hc]
  rfl

/-- With an acceptable image start-up goes on to INIT with its slot. -/
theorem firmwareStart_some {slot : Nat} (h : s.boot.order.find? (imageOk s) = some slot) :
    (firmwareStart s).pwr.phase = .init ∧ (firmwareStart s).boot.slot = some slot := by
  have hc : chosenImage (flashReady s) = some slot := h
  rw [flashReady] at hc
  unfold firmwareStart
  dsimp only
  rw [hc]
  dsimp only
  have hboot : ∀ t : State, bootPart (drainFifo (loadProfileSets (forAll [0, 1, 2, 3, 4] startPort
      (forAll (startable (readStore t)) leaveReset (readStore t))))) = bootPart t := fun t => by
    have hdrain : ∀ u, bootPart (drainFifo u) = bootPart u := fun _ => rfl
    rw [hdrain, bootPart_loadProfileSets, forAll_same bootPart fun u i _ => bootPart_startPort u i,
      forAll_same bootPart fun u r _ => bootPart_leaveReset u r, bootPart_readStore]
  obtain ⟨hpwr, hslot⟩ := Prod.mk.inj (hboot _)
  rw [hpwr, hslot]
  exact ⟨rfl, rfl⟩

theorem exec_firmwareStart_blank (hp : s.pwr.phase = .fwLoad) (hlc : s.lk.lc = 0) :
    ∃ t, exec .firmwareStart s = .next t ∧ t.pwr.phase = .recovery ∧ t.regions = s.regions ∧ t.cells = s.cells ∧ t.lk = s.lk := by
  have hnone : s.boot.order.find? (imageOk s) = none := List.find?_eq_none.2 fun slot _ => by simp [imageOk, hlc]
  exact ⟨_, next_eq ((if_pos hp).trans (firmwareStart_none hnone)), rfl, rfl, rfl, rfl⟩

theorem exec_firmwareStart_image (hp : s.pwr.phase = .fwLoad) :
    ∃ t, exec .firmwareStart s = .next t ∧ t.pwr.phase = (if s.boot.order.any (imageOk s) then .init else .recovery)
      ∧ t.boot.slot = (s.boot.order.find? (imageOk s)).or s.boot.slot := by
  refine ⟨firmwareStart s, next_eq (if_pos hp), ?_⟩
  cases hf : s.boot.order.find? (imageOk s) with
  | none =>
    have hany : s.boot.order.any (imageOk s) = false := List.any_eq_false.2 (List.find?_eq_none.1 hf)
    rw [firmwareStart_none hf, hany]
    exact ⟨rfl, rfl⟩
  | some slot =>
    have hany : s.boot.order.any (imageOk s) = true :=
      List.any_eq_true.2 ⟨slot, List.mem_of_find?_eq_some hf, List.find?_some hf⟩
    obtain ⟨hphase, hslot⟩ := firmwareStart_some hf
    rw [hany, hphase, hslot]
    exact ⟨rfl, rfl⟩

/-- READY is raised whatever reference changes and trial record follow. -/
theorem readyUp_pwr (s : State) : (readyUp s).pwr = { s.pwr with phase := .ready, readyPin := true } := by
  have hfault : (if s.pwr.cause = 2 then faultChip s 0x3C 12 0 0 else s).pwr = s.pwr := by
    split
    · exact faultChip_pwr ..
    · rfl
  unfold readyUp
  dsimp only
  rw [refMoved_pwr]
  split
  · rw [writeSel_pwr, hfault]
  · rw [hfault]

/-- Settles O4: each row in the phase it acts in. -/
theorem startUpRunsItsStepsInOrder : Obligations.StartUpRunsItsStepsInOrder := by
  refine ⟨fun s hpor hph hrst => ?_, fun s hrst hph hpor => ?_, fun s hr hf hp => next_eq ((if_pos ⟨hr, hf⟩).trans (if_neg hp)),
    fun _ => exec_frstNRelease_rom, fun _ => exec_wipeEnd_xo, fun _ hp => next_eq (if_pos hp), fun _ => exec_firmwareStart_blank,
    fun _ hp _ _ => exec_firmwareStart_image hp, fun s hp hr => ?_⟩
  · exact next_eq ((if_pos hpor).trans (if_pos ⟨hph, rfl, hrst⟩))
  · exact next_eq ((if_pos hrst).trans (if_pos ⟨hph, hpor, rfl⟩))
  · refine ⟨readyUp s, next_eq (if_pos ⟨hp, hr⟩), ?_⟩
    rw [readyUp_pwr]
    exact ⟨rfl, rfl⟩

end Sys2Proof.Claims
end

section
/-! SUPPORT. What a reset of a unit leaves as it is: the reset marks of the regions, and the command that asked for it. -/
namespace Sys2Proof.Claims
open Sys2Proof Sys2Proof.Machine
variable {s : State} {c : Cmd} {tag : Nat}

/-- Whether a region is in reset, and the command that asked for it. -/
def resetMark (s : State) (k : Nat) : Bool × Option Nat := ((s.region k).inReset, (s.region k).resetTag)

theorem resetMark_updRegion (s : State) {f : RegionSt → RegionSt} (hf : ∀ g, (f g).inReset = g.inReset ∧ (f g).resetTag = g.resetTag)
    (j k : Nat) : resetMark (s.updRegion j f) k = resetMark s k := by
  unfold resetMark
  rw [State.region_updRegion]
  split
  · next h => rw [(hf _).1, (hf _).2, h]
  · rfl

theorem resetMark_changeStart (s : State) (r : Nat) (src : Src) (borrow : Bool) (tag : Option Nat) (k : Nat) :
    resetMark (changeStart s r src borrow tag) k = resetMark s k :=
  resetMark_updRegion s (by exact fun _ => ⟨rfl, rfl⟩) r k

theorem resetMark_borrowTry (s : State) (r k : Nat) : resetMark (borrowTry s r) k = resetMark s k := by
  unfold borrowTry
  dsimp only
  split
  · exact resetMark_changeStart ..
  · rfl

theorem resetMark_bootTry (s : State) (w : Nat × Src) (k : Nat) : resetMark (bootTry s w) k = resetMark s k := by
  unfold bootTry
  dsimp only
  split
  · have hsrc := resetMark_updRegion { s with boot.want := s.boot.want.filter (fun x => decide (x ≠ w)) }
      (f := fun g => { g with srcReg := w.2 }) (by exact fun _ => ⟨rfl, rfl⟩) w.1 k
    split
    · exact hsrc
    · exact (resetMark_changeStart ..).trans hsrc
  · rfl

theorem resetMark_rootsMoved (s : State) (k : Nat) : resetMark (rootsMoved s) k = resetMark s k := by
  refine forAll_same (resetMark · k) fun u r _ => ?_
  dsimp only
  split
  · refine (resetMark_updRegion _ ?_ ..).trans (resetMark_updRegion _ ?_ ..) <;> exact fun _ => ⟨rfl, rfl⟩
  · exact resetMark_updRegion _ (by exact fun _ => ⟨rfl, rfl⟩) ..

theorem resetMark_refMoved (s : State) (k : Nat) : resetMark (refMoved s) k = resetMark s k :=
  (resetMark_rootsMoved ..).trans <| (forAll_same (resetMark · k) fun u w _ => resetMark_bootTry u w k).trans <|
    forAll_same (resetMark · k) fun u r _ => resetMark_borrowTry u r k

theorem resetMark_holdoverEnter (s : State) (r : Nat) (lost : Src) (k : Nat) : resetMark (holdoverEnter s r lost) k = resetMark s k := by
  have hfault : ∀ u a b d e f g h, resetMark (pushFault u a b d e f g h) k = resetMark u k := fun u a b d e f g h => by
    simp [resetMark]
  unfold holdoverEnter
  refine (forAll_same (resetMark · k) fun u q _ => resetMark_updRegion u ?_ q k).trans ?_
  · exact fun _ => ⟨rfl, rfl⟩
  · refine (resetMark_updRegion _ ?_ ..).trans ((hfault ..).trans (resetMark_updRegion _ ?_ ..)) <;> exact fun _ => ⟨rfl, rfl⟩

/-- A region's reset leaves it in reset, marked with the command that asked for it. -/
theorem resetMark_regionReset (s : State) (r : Nat) (hold : RegionRun) (tag : Option Nat) (f : Cmd → Bool) :
    resetMark (regionReset s r hold tag f) r = (true, tag) := by
  have hwiped : ∀ u, resetMark (wipeRegion u r hold tag) r = (true, tag) := fun u => by
    have hr : (wipeRegion u r hold tag).region r
        = { everLocked := (u.region r).everLocked, edge := (u.region r).edge, run := hold, inReset := true, resetTag := tag } :=
      tabGet_tabSet_self ..
    simp [resetMark, hr]
  unfold regionReset
  exact (resetMark_refMoved ..).trans <| (forAll_same (resetMark · r) fun u q _ => resetMark_holdoverEnter u q .neighbour r).trans
    (hwiped _)

theorem findCmd_complete_ne {t : Nat} (h : t ≠ tag) (s : State) (status : Nat) (res : List Word) :
    findCmd (complete s t status res) tag = findCmd s tag := by
  unfold findCmd
  rw [complete_cmds, List.find?_filter]
  refine List.find?_congr fun x _ => ?_
  by_cases hx : x.tag = tag <;> simp [hx, Ne.symm h]

theorem findCmd_abortCmds {f : Cmd → Bool} (h : ∀ x, f x = true → x.tag ≠ tag) (s : State) :
    findCmd (abortCmds s f) tag = findCmd s tag := by
  refine forAll_same (findCmd · tag) fun u x hx => ?_
  have hmbx : findCmd (unqueue u x) tag = findCmd u tag := by simp [findCmd]
  exact (findCmd_complete_ne (h x (List.mem_filter.1 hx).2) ..).trans hmbx

/-- An abort of commands leaves the arbiters' seatings and held cells. -/
theorem seating_abortCmds (s : State) (f : Cmd → Bool) (B : Nat) :
    ((abortCmds s f).block B).seating = (s.block B).seating ∧ ((abortCmds s f).block B).holdCell = (s.block B).holdCell := by
  refine Prod.mk.inj (forAll_same (fun u : State => ((u.block B).seating, (u.block B).holdCell)) fun u x _ => ?_)
  have hunqueue : ((unqueue u x).block B).seating = (u.block B).seating ∧ ((unqueue u x).block B).holdCell = (u.block B).holdCell := by
    unfold unqueue
    split
    · rw [State.block_updBlock]
      split
      · next hB => rw [hB]; exact ⟨rfl, rfl⟩
      · exact ⟨rfl, rfl⟩
    · exact ⟨rfl, rfl⟩
  simp [hunqueue]

theorem eng_freshCell (s : State) (p : Nat) : ((freshCell s p).cell p).eng = {} := by
  have hset : ∀ u : State, ({ u with cells := tabSet {} u.cells p { ({} : CellSt) with out.drv := .disabled } } : State).cell p
      = { ({} : CellSt) with out.drv := .disabled } := fun u => by
    simp [State.cell]
  unfold freshCell
  dsimp only
  split
  · refine (congrArg CellSt.eng (State.cell_updCell_self ..)).trans ?_
    exact congrArg CellSt.eng (hset s)
  · exact congrArg CellSt.eng (hset s)

theorem freshCell_mbx (s : State) (p : Nat) : (freshCell s p).mbx = s.mbx := by
  unfold freshCell
  dsimp only
  split <;> rfl

theorem findCmd_freshCell (s : State) (p : Nat) : findCmd (freshCell s p) tag = findCmd s tag := by
  rw [findCmd, freshCell_mbx]
  rfl

theorem bistReset_of_none (h : s.bist.runs = []) (f : BistRun → Bool) : bistReset s f = s := by
  unfold bistReset
  rw [h]
  rfl

theorem calReset_of_none (h : s.cal.runs = []) (f : Scope) : calReset s f = s := by
  unfold calReset
  rw [h]
  rfl

/-- The reset of a cell without seating, cell period or run makes its engine afresh. -/
theorem cellReset_fresh {n : Nat} (hseat : (s.block (cellBlock n)).seating = none) (hhold : (s.block (cellBlock n)).holdCell = none)
    (hbist : s.bist.runs = []) (hcal : s.cal.runs = []) (f : Cmd → Bool) (hf : ∀ x, f x = true → x.tag ≠ tag) :
    ((cellReset s n f).cell (inService s n)).eng = {} ∧ findCmd (cellReset s n f) tag = findCmd s tag := by
  have hpend : ∀ (u : State) g B, (pendReset u g).block B = u.block B := fun _ _ _ => rfl
  obtain ⟨hseat', hhold'⟩ := seating_abortCmds s
    (fun c => f c && decide (tgtScope c.target = 3) && (decide (c.unit = n) || decide (c.unit = inService s n))) (cellBlock n)
  unfold cellReset
  dsimp only
  rw [bistReset_of_none (by simpa using hbist), calReset_of_none (by simpa using hcal), hpend, hseat', hseat, hhold', hhold]
  have hfind : findCmd (pendReset (abortCmds s (fun c => f c && decide (tgtScope c.target = 3)
      && (decide (c.unit = n) || decide (c.unit = inService s n)))) (fun k u => decide (k = 2) && decide (u = inService s n))) tag
        = findCmd s tag :=
    findCmd_abortCmds (fun x hx => hf x (by simp at hx; exact hx.1.1)) s
  simp only [Option.any_none, reduceCtorEq, decide_false, Bool.false_eq_true, false_and, if_false]
  split <;> exact ⟨eng_freshCell .., (findCmd_freshCell ..).trans hfind⟩

end Sys2Proof.Claims
end

section
/-! O7. INFO, TEMP_READ and the resets of units. -/
namespace Sys2Proof.Claims
open Sys2Proof Sys2Proof.Machine
variable {s : State} {c : Cmd} {tag : Nat}

/-- A command that passes its checks has a known opcode and a target that is there. -/
theorem targetOk_of_dispatchCheck (h : dispatchCheck s c = none) : ∃ f, targetOk s c f = true := by
  unfold dispatchCheck checkReach at h
  split at h
  · cases h
  · next f _ =>
    refine ⟨f, ?_⟩
    cases htarget : targetOk s c f with
    | true => rfl
    | false =>
      rw [htarget] at h
      split at h
      · cases h
      · cases (if_pos rfl).symm.trans h

theorem blockPresent_of_dispatchCheck (h : dispatchCheck s c = none) (hsc : tgtScope c.target = 2) : blockPresent s c.unit = true := by
  obtain ⟨f, hf⟩ := targetOk_of_dispatchCheck h
  rw [targetOk, hsc] at hf
  exact (Bool.and_eq_true_iff.1 hf).2

/-- Of a list without repeats, a test that only one member meets keeps that member. -/
theorem filter_eq_singleton {l : List Nat} {a : Nat} {p : Nat → Bool} (hl : l.Nodup) (ha : a ∈ l) (hp : ∀ x ∈ l, p x = (x == a)) :
    l.filter p = [a] := by
  rw [List.filter_congr hp, List.filter_beq, List.count_eq_one_of_mem hl ha]
  rfl

theorem exec_tempRead_block (hb : Begins s tag 0x004 c) (hsc : tgtScope c.target = 2) :
    exec (.tempRead tag) s = .next (complete (begun s tag) tag OK
      [BitVec.ofInt 18 (s.block c.unit).tj, wd c.unit, wd (b2n s.pwr.thermWarn)]) := by
  obtain ⟨-, -, -, -, hcheck, -⟩ := id hb
  have hpresent := blockPresent_of_dispatchCheck hcheck hsc
  have hlt : c.unit < 16 := of_decide_eq_true (Bool.and_eq_true_iff.1 hpresent).1
  have hblocks : (List.range 16).filter (fun B => blockPresent (begun s tag) B && (decide (tgtScope c.target = 0)
      || (decide (tgtScope c.target = 1) && decide (B / 4 = c.unit)) || (decide (tgtScope c.target = 2) && decide (B = c.unit))))
      = [c.unit] := by
    refine filter_eq_singleton List.nodup_range (List.mem_range.2 hlt) fun B _ => ?_
    by_cases hB : B = c.unit
    · subst hB
      simpa [hsc, blockPresent, regionPresent] using hpresent
    · simp [hsc, hB]
  refine (next_eq (hb.hitan_eq _)).trans (next_eq ?_)
  dsimp only
  rw [hblocks]
  simp [hottestBlock]

/-- A begun RESET below the chip resets its unit. -/
theorem exec_reset_unit (hb : Begins s tag 0x002 c) (hsc : tgtScope c.target ≠ 0) :
    exec (.reset tag) s = .next (unitReset (begun s tag) c) := by
  obtain ⟨hfind, hop, -, hdisp, hcheck, hdead, -⟩ := id hb
  change execReset tag s = _
  simp [execReset, hfind, hop, hdisp, hcheck, hdead, hsc, begun]

theorem exec_reset_region (hb : Begins s tag 0x002 c) (hsc : tgtScope c.target = 1) :
    ∃ t, exec (.reset tag) s = .next t ∧ (t.region c.unit).inReset = true ∧ (t.region c.unit).resetTag = some tag := by
  refine ⟨_, exec_reset_unit hb (by omega), ?_⟩
  have hunit : (targetRegion c.target).getD 0 = c.unit := by simp [targetRegion, hsc, Cmd.unit]
  have hmark := resetMark_regionReset (begun s tag) c.unit
    (if ((begun s tag).region c.unit).run = .thermHold ∨ ((begun s tag).region c.unit).run = .supplyHold
      then ((begun s tag).region c.unit).run else .reset) (some c.tag)
    (fun x => ((earlier (begun s tag) c.tag).map (fun x => x.tag)).contains x.tag)
  unfold unitReset
  dsimp only
  rw [if_pos hsc, hunit]
  rw [hb.tag_eq] at hmark ⊢
  exact Prod.mk.inj hmark

theorem exec_reset_cell (hb : Begins s tag 0x002 c) (hsc : tgtScope c.target = 3) (hrun : (s.region (cellRegion c.unit)).inReset = false)
    (hseat : (s.block (cellBlock c.unit)).seating = none) (hhold : (s.block (cellBlock c.unit)).holdCell = none)
    (hbist : s.bist.runs = []) (hcal : s.cal.runs = []) :
    ∃ t, exec (.reset tag) s = .next t ∧ (t.cell (inService s c.unit)).eng = {} ∧ findCmd t tag = findCmd (begun s tag) tag := by
  refine ⟨_, exec_reset_unit hb (by omega), ?_⟩
  have hregion : ((begun s tag).region ((targetRegion c.target).getD 0)).inReset = false := by
    simpa [targetRegion, hsc, Cmd.unit] using hrun
  have hearlier : ∀ x : Cmd, ((earlier (begun s tag) c.tag).map (fun x => x.tag)).contains x.tag = true → x.tag ≠ tag := by
    intro x hx
    obtain ⟨y, hy, hxy⟩ := List.mem_map.1 (List.contains_iff_mem.1 hx)
    have hne := List.mem_takeWhile_imp hy
    rw [← hxy, ← hb.tag_eq]
    simpa using hne
  unfold unitReset
  dsimp only
  rw [if_neg (by omega), if_neg (by rw [hregion]; decide), if_neg (by omega), if_pos hsc]
  exact cellReset_fresh (s := begun s tag) (by simpa using hseat) (by simpa using hhold) (by simpa using hbist)
    (by simpa using hcal) _ hearlier

/-- A region that leaves reset keeps what its reset record says while its units start afresh. -/
theorem exec_unitResetEnd_region {r : Nat} (hr : (s.region r).inReset = true) (hrun : (s.region r).run = .reset)
    (hst : started s = true) :
    ∃ t, exec (.unitResetEnd 1 r) s = .next t ∧ (t.region r).inReset = false ∧ (t.region r).run = .realign := by
  have hx : exec (.unitResetEnd 1 r) s = .next (leaveReset s r) := if_pos ⟨hr, hrun, hst⟩
  refine ⟨_, hx, ?_⟩
  have hregions : (leaveReset s r).regions = ((readFuses s (fun w => decide (fuseRegion w = r))).updRegion r
      (fun g => { g with inReset := false, run := .realign, rrp := .acquiring })).regions :=
    regions_of_unitPart (unitPart_leaveReset s r)
  rw [State.region, hregions, ← State.region, State.region_updRegion_self]
  exact ⟨rfl, rfl⟩

theorem exec_unitResetEnd_unit {sc i : Nat} (hsc : sc ≠ 1) (hrun : (targetRegion c.target).any (fun r => (s.region r).inReset) = false)
    (hfind : s.mbx.cmds.find? (fun c => decide (c.opcode = 0x002) && decide (c.st = .executing) && decide (c.target = unitWord sc i))
      = some c) :
    exec (.unitResetEnd sc i) s = .next (complete s c.tag (if sc = 4 ∧ (s.tiu i).st = .outOfUse then FAULT else OK) []) := by
  change execUnitResetEnd sc i s = _
  rw [execUnitResetEnd, if_neg hsc, hfind]
  exact if_neg (by simp [hrun])

/-- Settles O7: each command in the state it acts in. -/
theorem systemCommandsAnswer : Obligations.SystemCommandsAnswer := by
  refine ⟨fun s tag c hb => ?_, fun _ _ _ => exec_tempRead_block, fun _ _ _ => exec_reset_region,
    fun _ _ => exec_unitResetEnd_region, fun _ _ _ _ => exec_unitResetEnd_unit, fun _ _ _ => exec_reset_cell⟩
  exact (next_eq (hb.hitan_eq _)).trans (next_eq (by simp [readyState]))

end Sys2Proof.Claims
end

section
/-! SUPPORT. What a lost or moved source leaves of the chip's reference record. -/
namespace Sys2Proof.Claims
open Sys2Proof Sys2Proof.Machine
variable {s : State}

theorem refMoved_ref (s : State) : (refMoved s).ref = s.ref := (refMoved_kept s).ref

theorem holdoverEnter_ref (s : State) (r : Nat) (lost : Src) : (holdoverEnter s r lost).ref = s.ref := by
  unfold holdoverEnter
  refine (forAll_same State.ref fun u q _ => State.postRef_ref ..).trans ?_
  exact (faultRegion_ref ..).trans (State.updRegion_ref ..)

theorem sourceLost_ref (s : State) (src : Src) : (sourceLost s src).ref = s.ref :=
  (refMoved_ref _).trans (forAll_same State.ref fun u r _ => holdoverEnter_ref u r src)

/-- Telling the waiting commands of a qualification changes nothing but the list of those that wait. -/
theorem qualNotify_ref (s : State) : ∃ q, (qualNotify s).ref = { s.ref with qualWait := q } := by
  unfold qualNotify
  split
  · exact ⟨_, rfl⟩
  · exact ⟨[], forAll_same State.ref fun u t _ => complete_ref ..⟩

theorem refAnswer_ref (s : State) (r : Nat) (tag : Option Nat) (status : Nat) (words : Bool) :
    (refAnswer s r tag status words).ref = s.ref := by
  unfold refAnswer
  split
  · rfl
  · split
    · rfl
    · exact complete_ref ..

theorem requestSource_ref (s : State) (r : Nat) (src : Src) (tag : Option Nat) : (requestSource s r src tag).ref = s.ref := by
  unfold requestSource
  dsimp only
  split
  · exact (refAnswer_ref ..).trans (State.updRegion_ref ..)
  · split
    · split
      · exact State.postRef_ref ..
      · exact refAnswer_ref ..
    · split
      · exact (State.updRegion_ref ..).trans (refAnswer_ref ..)
      · exact (refMoved_ref _).trans (State.updRegion_ref ..)

theorem uplinkSelect_ref (s : State) : (uplinkSelect s).ref = s.ref := by
  unfold uplinkSelect
  split
  · exact forAll_same State.ref fun u r _ => requestSource_ref u r .uplink none
  · rfl

theorem xoLose_ref (s : State) : (xoLose s).ref.xoQual = false ∧ (xoLose s).ref.xoActive = s.ref.xoActive
    ∧ (s.ref.xoWin = [] → (xoLose s).ref.xoWin = []) := by
  unfold xoLose
  split
  · next h => exact ⟨h, rfl, id⟩
  · rw [sourceLost_ref]
    exact ⟨rfl, rfl, fun _ => rfl⟩

/-- A restart of REFIN's qualification keeps the settings and starts its windows afresh. -/
theorem refinRestart_ref (s : State) : ∃ q, (refinRestart s).ref = { s.ref with
    refinWin := [], refinState := if s.ref.refinEn then (if s.ref.xoQual then 2 else 1) else 0, qualWait := q } := by
  unfold refinRestart
  obtain ⟨q, hq⟩ := qualNotify_ref (sourceLost { s with
    ref.refinWin := []
    ref.refinState := if s.ref.refinEn then (if s.ref.xoQual then 2 else 1) else 0 } .refin)
  exact ⟨q, hq.trans (by rw [sourceLost_ref])⟩

/-- The windows of a source are judged by their count alone: within 20 ppm they are kept and three within 1 ppm qualify. -/
theorem judgeWindow_within {e : Rat} {n : Nat} (w : List Nat) (st : Nat) (hlo : (n : Rat) - e ≤ e * 20 / 1000000)
    (hhi : e - (n : Rat) ≤ e * 20 / 1000000) :
    (judgeWindow e n w st).1 = (n :: w).take 3
    ∧ ((judgeWindow e n w st).2 = 3 ↔ st = 3
        ∨ (((n :: w).take 3).length = 3 ∧ ((spread ((n :: w).take 3) : Nat) : Rat) ≤ e / 1000000)) := by
  have hwithin : (n : Rat) - e ≤ e * 20 / 1000000 ∧ -((n : Rat) - e) ≤ e * 20 / 1000000 := ⟨hlo, by rw [neg_sub]; exact hhi⟩
  unfold judgeWindow
  dsimp only
  rw [if_pos hwithin]
  split
  · next h => exact ⟨rfl, iff_of_true rfl (.inl h)⟩
  · next h =>
    split
    · next hq => exact ⟨rfl, iff_of_true rfl (.inr hq)⟩
    · next hq => exact ⟨rfl, iff_of_false (by dsimp only; split <;> decide) (not_or.2 ⟨h, hq⟩)⟩

theorem judgeWindow_outside {e : Rat} {n : Nat} (w : List Nat) (st : Nat)
    (h : e * 20 / 1000000 < (n : Rat) - e ∨ e * 20 / 1000000 < e - (n : Rat)) :
    judgeWindow e n w st = ([], if st = 3 ∨ st = 5 then 5 else 4) := by
  refine if_neg fun ⟨hlo, hhi⟩ => ?_
  rw [neg_sub] at hhi
  rcases h with h | h
  · exact absurd hlo (not_le.2 h)
  · exact absurd hhi (not_le.2 h)

end Sys2Proof.Claims
end

section
/-! O8. XO, REFIN and UPLINK windows, the activity monitors, and the writes of REFIN's settings. -/
namespace Sys2Proof.Claims
open Sys2Proof Sys2Proof.Machine
variable {s : State} {n : Nat}

/-- The count that a declared XO of 50,000 kHz makes in a window. -/
theorem xoExpect_eq (hf : s.ref.xoFreq = 50000) : 65536 * ((s.ref.xoFreq.toNat : Nat) : Rat) / 40000 = 81920 := by
  rw [hf, show (50000 : Word).toNat = 50000 from rfl]
  norm_num

/-- A window lies within 5 percent of 81,920 counts exactly from 77,824 to 86,016. -/
theorem xoWithin_iff (n : Nat) : ((n : Rat) - 81920 ≤ 81920 / 20 ∧ -((n : Rat) - 81920) ≤ 81920 / 20) ↔ 77824 ≤ n ∧ n ≤ 86016 := by
  constructor
  · rintro ⟨hhi, hlo⟩
    have hlo' : ((77824 : Nat) : Rat) ≤ n := by push_cast; linarith
    have hhi' : (n : Rat) ≤ (86016 : Nat) := by push_cast; linarith
    exact ⟨Nat.cast_le.1 hlo', Nat.cast_le.1 hhi'⟩
  · rintro ⟨hlo, hhi⟩
    have hlo' : ((77824 : Nat) : Rat) ≤ n := Nat.cast_le.2 hlo
    have hhi' : (n : Rat) ≤ (86016 : Nat) := Nat.cast_le.2 hhi
    push_cast at hlo' hhi'
    constructor <;> linarith

/-- 100 ppm of 81,920 counts are 8 whole counts. -/
theorem xoSpread_iff (k : Nat) : (k : Rat) ≤ 81920 / 10000 ↔ k ≤ 8 := by
  constructor
  · intro h
    by_contra hk
    have hk' : ((9 : Nat) : Rat) ≤ k := Nat.cast_le.2 (by omega)
    push_cast at hk'
    linarith
  · intro h
    have hk' : (k : Rat) ≤ (8 : Nat) := Nat.cast_le.2 h
    push_cast at hk'
    linarith

theorem xoGained_ref (s : State) : (xoGained s).ref = { s.ref with
    refinState := if s.ref.refinState = 1 then 2 else s.ref.refinState
    upState := if s.ref.upState = 1 then 2 else s.ref.upState } := refMoved_ref _

/-- A window within the XO's bounds is kept, and qualifies the XO when its four agree. -/
theorem exec_rcWindowEnd_kept (hon : s.ref.xoOn = true) (hf : s.ref.xoFreq = 50000) (hlo : 77824 ≤ n) (hhi : n ≤ 86016) :
    ∃ t, exec (.rcWindowEnd n) s = .next t ∧ t.ref.xoActive = true ∧ t.ref.xoWin = (n :: s.ref.xoWin).take 4
      ∧ (t.ref.xoQual = true ↔ s.ref.xoQual = true
          ∨ (((n :: s.ref.xoWin).take 4).length = 4 ∧ spread ((n :: s.ref.xoWin).take 4) ≤ 8)) := by
  have hactive : decide (0 < n) = true := decide_eq_true (by omega)
  change ∃ t, execRcWindowEnd n s = .next t ∧ _
  unfold execRcWindowEnd
  dsimp only
  simp only [xoExpect_eq hf]
  rw [if_neg (by simp [hon]), if_pos ((xoWithin_iff n).2 ⟨hlo, hhi⟩)]
  simp only [xoSpread_iff]
  split
  · next h =>
    have hfour := h.2
    split <;> exact ⟨_, rfl, (congrArg RefChip.xoActive (xoGained_ref _)).trans hactive, congrArg RefChip.xoWin (xoGained_ref _),
      iff_of_true (congrArg RefChip.xoQual (xoGained_ref _)) (.inr hfour)⟩
  · next h =>
    refine ⟨_, rfl, hactive, rfl, .inl, fun hq => hq.elim id fun hfour => ?_⟩
    by_contra hne
    exact h ⟨Bool.eq_false_of_not_eq_true hne, hfour⟩

theorem exec_rcWindowEnd_dropped (hon : s.ref.xoOn = true) (hf : s.ref.xoFreq = 50000) (hn : n < 77824 ∨ 86016 < n) :
    ∃ t, exec (.rcWindowEnd n) s = .next t ∧ t.ref.xoWin = [] ∧ t.ref.xoQual = false := by
  change ∃ t, execRcWindowEnd n s = .next t ∧ _
  unfold execRcWindowEnd
  dsimp only
  simp only [xoExpect_eq hf]
  rw [if_neg (by simp [hon]), if_neg (fun h => by have := (xoWithin_iff n).1 h; omega)]
  obtain ⟨hqual, -, hwin⟩ := xoLose_ref { s with
    ref.xoActive := decide (0 < n)
    ref.xoWin := [] }
  exact ⟨_, rfl, hwin rfl, hqual⟩

theorem exec_refinWindowEnd_judged (hen : s.ref.refinEn = true) (hxo : s.ref.xoQual = true) (hf : s.ref.refinFreq ≠ 0) :
    ∃ t, exec (.refinWindowEnd n) s = .next t
      ∧ (t.ref.refinWin, t.ref.refinState) = judgeWindow (refExpect s (s.ref.refinFreq.toNat : Nat)) n s.ref.refinWin s.ref.refinState := by
  change ∃ t, execRefinWindowEnd n s = .next t ∧ _
  unfold execRefinWindowEnd
  dsimp only
  rw [if_neg (by simp [hen, hxo]), if_neg hf]
  refine ⟨_, rfl, ?_⟩
  split <;> (obtain ⟨q, hq⟩ := qualNotify_ref _; rw [hq])
  · rw [sourceLost_ref]
  · rw [refMoved_ref]

theorem exec_uplinkWindowEnd_judged (hup : s.ref.upState ≠ 0) (hxo : s.ref.xoQual = true) (hrun : (s.port 0).st = .run) :
    ∃ t, exec (.uplinkWindowEnd n) s = .next t
      ∧ (t.ref.upWin, t.ref.upState) = judgeWindow (refExpect s (322265625 / 2)) n s.ref.upWin s.ref.upState := by
  change ∃ t, execUplinkWindowEnd n s = .next t ∧ _
  unfold execUplinkWindowEnd
  dsimp only
  rw [if_neg (by simp [hup, hxo, hrun])]
  split
  · exact ⟨_, rfl, by rw [sourceLost_ref]⟩
  · split
    · exact ⟨_, rfl, by rw [uplinkSelect_ref, refMoved_ref]⟩
    · exact ⟨_, rfl, rfl⟩

theorem exec_activityMonitorFire_xo (s : State) :
    ∃ t, exec (.activityMonitorFire 0) s = .next t ∧ t.ref.xoActive = false ∧ t.ref.xoQual = false := by
  obtain ⟨hqual, hactive, -⟩ := xoLose_ref { s with ref.xoActive := false }
  have hx : exec (.activityMonitorFire 0) s = .next (sourceLost (xoLose { s with ref.xoActive := false }) .xo) := rfl
  refine ⟨_, hx, ?_⟩
  rw [sourceLost_ref]
  exact ⟨hactive, hqual⟩

theorem exec_activityMonitorFire_refin (h : s.ref.refinState = 3) :
    ∃ t, exec (.activityMonitorFire 1) s = .next t ∧ t.ref.refinState = 5 ∧ t.ref.refinWin = [] ∧ t.ref.xoQual = s.ref.xoQual := by
  have hx : exec (.activityMonitorFire 1) s = .next (qualNotify (sourceLost { s with
      ref.refinState := 5
      ref.refinWin := [] } .refin)) := by
    refine next_eq ?_
    rw [if_pos h]
    rfl
  refine ⟨_, hx, ?_⟩
  obtain ⟨q, hq⟩ := qualNotify_ref (sourceLost { s with
      ref.refinState := 5
      ref.refinWin := [] } .refin)
  rw [hq, sourceLost_ref]
  exact ⟨rfl, rfl, rfl⟩

theorem exec_activityMonitorFire_uplink (h : s.ref.upState = 3) :
    ∃ t, exec (.activityMonitorFire 2) s = .next t ∧ t.ref.upState = 5 ∧ t.ref.upWin = [] ∧ t.ref.xoQual = s.ref.xoQual := by
  have hx : exec (.activityMonitorFire 2) s = .next (sourceLost { s with
      ref.upState := 5
      ref.upWin := [] } .uplink) := by
    refine next_eq ?_
    rw [if_pos h]
    rfl
  refine ⟨_, hx, ?_⟩
  rw [sourceLost_ref]
  exact ⟨rfl, rfl, rfl⟩

theorem exec_refinCfgWrite_new {v : Word} (hh : 2 ≤ s.sec.host) (hv : fld v 0 3 ≠ (refinCfg s).toNat) :
    ∃ t, exec (.refinCfgWrite v) s = .next t ∧ t.ref.refinEn = v.getLsbD 0 ∧ t.ref.refinSe = v.getLsbD 1
      ∧ t.ref.refinTerm = v.getLsbD 2 ∧ t.ref.refinWin = []
      ∧ t.ref.refinState = (if v.getLsbD 0 then (if s.ref.xoQual then 2 else 1) else 0) := by
  refine ⟨_, next_eq ((chipWrite_owner hh ..).trans (if_neg (by exact hv))), ?_⟩
  obtain ⟨q, hq⟩ := refinRestart_ref { s.parityFresh 0x18002 with
    ref.refinEn := v.getLsbD 0
    ref.refinSe := v.getLsbD 1
    ref.refinTerm := v.getLsbD 2 }
  simp only [bitOf]
  rw [hq]
  exact ⟨rfl, rfl, rfl, rfl, rfl⟩

@[simp] theorem parityFresh_ref (s : State) (a : Nat) : (s.parityFresh a).ref = s.ref := rfl

theorem exec_refinFreqCommit_new {hi : Word} (hh : 2 ≤ s.sec.host) (hok : refinFreqOk (hi ++ s.ref.refinLo).toNat = true)
    (hne : hi ++ s.ref.refinLo ≠ s.ref.refinFreq) :
    ∃ t, exec (.refinFreqCommit hi) s = .next t ∧ t.ref.refinFreq = hi ++ s.ref.refinLo ∧ t.ref.refinFreqErr = false
      ∧ t.ref.refinWin = [] ∧ t.ref.refinState = (if s.ref.refinEn then (if s.ref.xoQual then 2 else 1) else 0) := by
  refine ⟨_, next_eq ((chipWrite_owner hh ..).trans ((if_pos (by exact hok)).trans
    ((if_neg (by rw [parityFresh_ref, hok]; decide)).trans (if_neg (by exact hne))))), ?_⟩
  obtain ⟨q, hq⟩ := refinRestart_ref { s.parityFresh 0x18005 with
    ref.refinFreqErr := false
    ref.refinFreq := hi ++ s.ref.refinLo }
  simp only [parityFresh_ref] at hq ⊢
  rw [hq]
  exact ⟨rfl, rfl, rfl, rfl⟩

theorem exec_refinFreqCommit_same {hi : Word} (hh : 2 ≤ s.sec.host) (hok : refinFreqOk (hi ++ s.ref.refinLo).toNat = true)
    (heq : hi ++ s.ref.refinLo = s.ref.refinFreq) :
    exec (.refinFreqCommit hi) s = .next { s.parityFresh 0x18005 with ref.refinFreqErr := false } :=
  next_eq ((chipWrite_owner hh ..).trans ((if_pos (by exact hok)).trans
    ((if_neg (by rw [parityFresh_ref, hok]; decide)).trans (if_pos (by exact heq)))))

theorem exec_refinFreqCommit_refused {hi : Word} (hh : 2 ≤ s.sec.host) (hok : refinFreqOk (hi ++ s.ref.refinLo).toNat = false) :
    exec (.refinFreqCommit hi) s = .next { s.parityFresh 0x18005 with ref.refinFreqErr := true, hp.ign := true } := by
  refine next_eq ((chipWrite_owner hh ..).trans ((if_neg (by rw [parityFresh_ref, hok]; decide)).trans ?_))
  have hset : commitRefin (s.parityFresh 0x18005) hi = { s.parityFresh 0x18005 with ref.refinFreqErr := true } :=
    if_pos (by exact hok)
  rw [hset]

/-- Settles O8: the window judgements, the monitors and the setting writes, each by its own branch. -/
theorem sourceWindowsQualifyAndLose : Obligations.SourceWindowsQualifyAndLose :=
  ⟨fun _ _ => exec_rcWindowEnd_kept, fun _ _ => exec_rcWindowEnd_dropped, fun _ _ => exec_refinWindowEnd_judged,
    fun _ _ => exec_uplinkWindowEnd_judged, exec_activityMonitorFire_xo, fun _ => exec_activityMonitorFire_refin,
    fun _ => exec_activityMonitorFire_uplink, fun _ _ w st => judgeWindow_within w st, fun _ _ w st => judgeWindow_outside w st,
    fun _ _ => exec_refinCfgWrite_new, fun _ _ hh hv => next_eq ((chipWrite_owner hh ..).trans (if_pos hv)),
    fun _ _ => exec_refinFreqCommit_new, fun _ _ => exec_refinFreqCommit_same, fun _ _ => exec_refinFreqCommit_refused,
    fun _ _ hh => ⟨next_eq (chipWrite_denied hh ..), next_eq (chipWrite_denied hh ..)⟩⟩

end Sys2Proof.Claims
end

section
/-! SUPPORT. Commands to a time-interval unit: who may have it, and whom a measurement overtakes. -/
namespace Sys2Proof.Claims
open Sys2Proof Sys2Proof.Machine
variable {s : State} {tag : Nat} {c : Cmd}

@[simp] theorem tiuHeld_begun (s : State) (tag k : Nat) : tiuHeld (begun s tag) k = tiuHeld s k := by simp [tiuHeld]

/-- A unit that nobody holds and that is in use runs the command. -/
theorem tiuCommand_free (hheld : tiuHeld s c.unit = false) (hst : (s.tiu c.unit).st ≠ .outOfUse) (body : State → State) :
    tiuCommand s c body = body s := by
  rw [tiuCommand, if_neg (by simp [hheld]), if_neg hst]

/-- What a waiting request needs does not depend on the state of execution of a command or on the queue itself. -/
theorem needs_begun_updBlock (s : State) (tag B A : Nat) (f : BlockSt → BlockSt) (v : Requester × Nat) :
    needs ((begun s tag).updBlock A f) B v = needs s B v := by
  have hfind : ∀ t, (findCmd ((begun s tag).updBlock A f) t).map Cmd.target = (findCmd s t).map Cmd.target := fun t => by
    change (findCmd (begun s tag) t).map Cmd.target = _
    by_cases ht : t = tag
    · subst ht
      rw [begun, findCmd_setCmd s t _ (by exact fun _ => rfl), Option.map_map]
      rfl
    · rw [begun, findCmd_setCmd_ne s _ (by exact fun _ => rfl) ht]
  obtain ⟨q, t⟩ := v
  cases q with
  | host =>
    simp only [needs]
    have ht := hfind t
    generalize findCmd ((begun s tag).updBlock A f) t = a at ht
    generalize findCmd s t = b at ht
    cases a <;> cases b <;> simp_all
  | _ => rfl

/-- A measurement goes past a queue in which no other request needs its unit. -/
theorem overtakes_free (hfind : findCmd s tag = some c)
    (hw : ∀ w ∈ (s.block (tiuBlock c.unit)).waiting, w ≠ (.host, tag) → c.unit % 4 ∉ needs s (tiuBlock c.unit) w) :
    overtakes ((begun s tag).updBlock (tiuBlock c.unit) (fun b => { b with
      waiting := if b.waiting.contains (.host, tag) then b.waiting else b.waiting ++ [(.host, tag)] })) (tiuBlock c.unit) (.host, tag)
      = false := by
  have hself : needs s (tiuBlock c.unit) (.host, tag) = [c.unit % 4] := by simp [needs, hfind, Cmd.unit]
  unfold overtakes
  rw [State.block_updBlock_self, block_begun, List.any_eq_false]
  intro v hv
  have hne : v ≠ (.host, tag) := by simpa using List.mem_takeWhile_imp hv
  have hmem : v ∈ (s.block (tiuBlock c.unit)).waiting := by
    have hin := (List.takeWhile_sublist _).subset hv
    dsimp only at hin
    split at hin
    · exact hin
    · exact (List.mem_append.1 hin).resolve_right fun h => hne (List.mem_singleton.1 h)
  rw [needs_begun_updBlock, needs_begun_updBlock, hself]
  simpa using hw v hmem hne

end Sys2Proof.Claims
end

section
/-! O26. TIU_CONFIG, TIU_ARM, FREQ_MEASURE and TIU_READ. -/
namespace Sys2Proof.Claims
open Sys2Proof Sys2Proof.Machine
variable {s : State} {tag : Nat} {c : Cmd}

theorem exec_tiuConfig_accepted (hb : Begins s tag 0x040 c) (hheld : tiuHeld s c.unit = false) (hst : (s.tiu c.unit).st ≠ .outOfUse)
    (hmode : fld (c.arg 0) 4 2 ≠ 3) (hstart : srcOk (c.arg 1) = true) (hstop : srcOk (c.arg 2) = true) (htime : c.arg 3 ≠ 0)
    (hfreq : freqCfgOk (c.arg 4) = true) (hgate : gateOk (c.arg 5 ++ c.arg 6).toNat = true) :
    ∃ t, exec (.tiuConfig tag) s = .next t ∧ Answered s t c OK [] ∧ (t.tiu c.unit).cfgErr = false
      ∧ (t.tiu c.unit).cfg = { (s.tiu c.unit).cfg.setFreq (c.arg 4) with
          mode := fld (c.arg 0) 4 2, atTime := (c.arg 0).getLsbD 6, start := wd (fld (c.arg 1) 0 12), stop := wd (fld (c.arg 2) 0 12),
          timeout := c.arg 3, gate := (c.arg 5 ++ c.arg 6).toNat }
      ∧ (t.tiu c.unit).st = (s.tiu c.unit).st ∧ ∀ k, k ≠ c.unit → t.tiu k = s.tiu k := by
  have hok : ¬(fld (c.arg 0) 4 2 = 3 ∨ srcOk (c.arg 1) = false ∨ srcOk (c.arg 2) = false ∨ c.arg 3 = 0 ∨ freqCfgOk (c.arg 4) = false
      ∨ gateOk (c.arg 5 ++ c.arg 6).toNat = false) := by rintro (h | h | h | h | h | h) <;> simp_all
  refine ⟨_, (next_eq (hb.hitan_eq _)).trans (next_eq ((tiuCommand_free (by simpa using hheld) (by simpa using hst) _).trans (if_neg hok))),
    hb.answered (by rfl) _ _, ?_⟩
  rw [tiu_complete, State.tiu_updTiu_self]
  exact ⟨rfl, rfl, rfl, fun k hk => (tiu_complete ..).trans (State.tiu_updTiu_ne _ _ hk)⟩

theorem exec_tiuConfig_refused (hb : Begins s tag 0x040 c) (hheld : tiuHeld s c.unit = false) (hst : (s.tiu c.unit).st ≠ .outOfUse)
    (hbad : fld (c.arg 0) 4 2 = 3 ∨ srcOk (c.arg 1) = false ∨ srcOk (c.arg 2) = false ∨ c.arg 3 = 0 ∨ freqCfgOk (c.arg 4) = false
      ∨ gateOk (c.arg 5 ++ c.arg 6).toNat = false) :
    exec (.tiuConfig tag) s = .next (complete (begun s tag) tag BADARG []) :=
  (next_eq (hb.hitan_eq _)).trans (next_eq ((tiuCommand_free (by simpa using hheld) (by simpa using hst) _).trans (if_pos hbad)))

/-- A measurement of a free, idle unit runs at once, and its request leaves the queue. -/
theorem measure_free {op : Nat} (hb : Begins s tag op c) (hheld : tiuHeld s c.unit = false) (hst : (s.tiu c.unit).st = .idle)
    (hw : ∀ w ∈ (s.block (tiuBlock c.unit)).waiting, w ≠ (.host, tag) → c.unit % 4 ∉ needs s (tiuBlock c.unit) w)
    (body : State → State) : Machine.measure (begun s tag) c body = body (unqueue (begun s tag) c) := by
  obtain ⟨hfind, -⟩ := id hb
  have hfree := overtakes_free hfind hw
  have hidle : (s.tiu c.unit).busy = false := by simp [TiuSt.busy, hst]
  unfold Machine.measure
  dsimp only
  rw [if_neg (by simp [hst]), hb.tag_eq, hfree, tiuHeld_begun, hheld, tiu_begun, hidle]
  rfl

theorem measure_busy {op : Nat} (hb : Begins s tag op c) (hheld : tiuHeld s c.unit = false) (hst : (s.tiu c.unit).st ≠ .outOfUse)
    (hbusy : (s.tiu c.unit).busy = true) (hno : c.noWait = true) (body : State → State) :
    Machine.measure (begun s tag) c body = complete (unqueue (begun s tag) c) tag BUSY [] := by
  unfold Machine.measure
  dsimp only
  rw [if_neg (by simpa using hst), tiuHeld_begun, hheld, tiu_begun, hbusy, hno, hb.tag_eq]
  rfl

/-- A start of measurement latches its unit's configuration and clears the edges taken. -/
theorem tiu_tiuStart_self (s : State) (k : Nat) (tag : Option Nat) : (tiuStart s k tag).tiu k = { s.tiu k with
    st := .precal, run := (s.tiu k).cfg, dly := (srcDelay s k (s.tiu k).cfg.start, srcDelay s k (s.tiu k).cfg.stop), early := 0,
    waitArm := false, stamps := [], sStart := none, sStop := none, edges := 0, preCnt := 0, seat := false, tag := tag, cfgErr := false } :=
  State.tiu_updTiu_self ..

theorem tiu_tiuStart_ne (s : State) {j k : Nat} (tag : Option Nat) (h : j ≠ k) : (tiuStart s k tag).tiu j = s.tiu j :=
  State.tiu_updTiu_ne _ _ h

theorem exec_tiuArm_eq (hb : Begins s tag 0x041 c) (hheld : tiuHeld s c.unit = false) (hst : (s.tiu c.unit).st = .idle)
    (hcan : (s.tiu c.unit).canArm = true)
    (hw : ∀ w ∈ (s.block (tiuBlock c.unit)).waiting, w ≠ (.host, tag) → c.unit % 4 ∉ needs s (tiuBlock c.unit) w) :
    ∃ t, exec (.tiuArm tag) s = .next t ∧ (t.tiu c.unit).st = .precal ∧ (t.tiu c.unit).tag = some tag
      ∧ (t.tiu c.unit).run = { (s.tiu c.unit).cfg with
          atTime := (c.arg 0).getLsbD 17
          armTime := if (c.arg 0).getLsbD 17 then c.arg 1 ++ c.arg 2 ++ c.arg 3 else (s.tiu c.unit).cfg.armTime }
      ∧ t.mbx = (begun s tag).mbx ∧ ∀ k, k ≠ c.unit → t.tiu k = s.tiu k := by
  refine ⟨_, (next_eq (hb.hitan_eq _)).trans (next_eq ((measure_free hb hheld hst hw _).trans (if_neg (by simp [hcan])))), ?_⟩
  rw [tiu_tiuStart_self, State.tiu_updTiu_self, tiu_unqueue, tiu_begun]
  refine ⟨rfl, rfl, rfl, unqueue_mbx .., fun k hk => ?_⟩
  rw [tiu_tiuStart_ne _ _ hk, State.tiu_updTiu_ne _ _ hk, tiu_unqueue, tiu_begun]

theorem exec_tiuArm_now (hb : Begins s tag 0x041 c) (hheld : tiuHeld s c.unit = false) (hst : (s.tiu c.unit).st = .idle)
    (hcan : (s.tiu c.unit).canArm = true) (hat : (c.arg 0).getLsbD 17 = false)
    (hw : ∀ w ∈ (s.block (tiuBlock c.unit)).waiting, w ≠ (.host, tag) → c.unit % 4 ∉ needs s (tiuBlock c.unit) w) :
    ∃ t, exec (.tiuArm tag) s = .next t ∧ (t.tiu c.unit).st = .precal ∧ (t.tiu c.unit).tag = some tag
      ∧ (t.tiu c.unit).run = { (s.tiu c.unit).cfg with atTime := false } ∧ t.mbx = (begun s tag).mbx ∧ ∀ k, k ≠ c.unit → t.tiu k = s.tiu k := by
  simpa only [hat, Bool.false_eq_true, if_false] using exec_tiuArm_eq hb hheld hst hcan hw

theorem exec_tiuArm_timed (hb : Begins s tag 0x041 c) (hheld : tiuHeld s c.unit = false) (hst : (s.tiu c.unit).st = .idle)
    (hcan : (s.tiu c.unit).canArm = true) (hat : (c.arg 0).getLsbD 17 = true)
    (hw : ∀ w ∈ (s.block (tiuBlock c.unit)).waiting, w ≠ (.host, tag) → c.unit % 4 ∉ needs s (tiuBlock c.unit) w) :
    ∃ t, exec (.tiuArm tag) s = .next t ∧ (t.tiu c.unit).st = .precal ∧ (t.tiu c.unit).tag = some tag
      ∧ (t.tiu c.unit).run = { (s.tiu c.unit).cfg with atTime := true, armTime := c.arg 1 ++ c.arg 2 ++ c.arg 3 }
      ∧ ∀ k, k ≠ c.unit → t.tiu k = s.tiu k := by
  obtain ⟨t, hx, h1, h2, h3, -, h4⟩ := exec_tiuArm_eq hb hheld hst hcan hw
  simp only [hat, if_true] at h3
  exact ⟨t, hx, h1, h2, h3, h4⟩

theorem exec_freqMeasure_starts (hb : Begins s tag 0x042 c) (hheld : tiuHeld s c.unit = false) (hst : (s.tiu c.unit).st = .idle)
    (hfreq : freqCfgOk (c.arg 1) = true) (hgate : gateOk (c.arg 2 ++ c.arg 3).toNat = true) (hsrc : srcOk (c.arg 4) = true)
    (hlong : 200 ≤ (c.arg 2 ++ c.arg 3).toNat / (fld (c.arg 1) 0 11 - 1))
    (hw : ∀ w ∈ (s.block (tiuBlock c.unit)).waiting, w ≠ (.host, tag) → c.unit % 4 ∉ needs s (tiuBlock c.unit) w) :
    ∃ t, exec (.freqMeasure tag) s = .next t ∧ (t.tiu c.unit).st = .precal ∧ (t.tiu c.unit).tag = some tag
      ∧ (t.tiu c.unit).run.mode = 2 ∧ (t.tiu c.unit).run.gate = (c.arg 2 ++ c.arg 3).toNat
      ∧ (t.tiu c.unit).run.start = wd (fld (c.arg 4) 0 12) ∧ ∀ k, k ≠ c.unit → t.tiu k = s.tiu k := by
  have hok : ¬(freqCfgOk (c.arg 1) = false ∨ gateOk (c.arg 2 ++ c.arg 3).toNat = false ∨ srcOk (c.arg 4) = false
      ∨ (c.arg 2 ++ c.arg 3).toNat / (fld (c.arg 1) 0 11 - 1) < 200) := by
    rw [hfreq, hgate, hsrc]
    simpa using hlong
  refine ⟨_, (next_eq (hb.hitan_eq _)).trans (next_eq ((measure_free hb hheld hst hw _).trans (if_neg hok))), ?_⟩
  rw [tiu_tiuStart_self, State.tiu_updTiu_self]
  refine ⟨rfl, rfl, rfl, rfl, rfl, fun k hk => ?_⟩
  rw [tiu_tiuStart_ne _ _ hk, State.tiu_updTiu_ne _ _ hk, tiu_unqueue, tiu_begun]

/-- TIU_READ of a unit in use answers its last result, behind its stamps where they are asked for. -/
theorem exec_tiuRead_eq (hb : Begins s tag 0x043 c) (hst : (s.tiu c.unit).st ≠ .outOfUse) :
    exec (.tiuRead tag) s = .next (tiuAnswer (begun s tag) c.unit tag OK ((c.arg 0).getLsbD 16)) :=
  (next_eq (hb.hitan_eq _)).trans (next_eq (if_neg (by simpa using hst)))

theorem exec_tiuRead_stamps (hb : Begins s tag 0x043 c) (hst : (s.tiu c.unit).st ≠ .outOfUse) (hask : (c.arg 0).getLsbD 16 = true)
    (hstream : s.mbx.streaming = none) (htun : c.tun = false) (hroom : 3 ≤ cqFree s) :
    ∃ t, exec (.tiuRead tag) s = .next t ∧ findCmd t tag = none ∧ t.tius = s.tius
      ∧ t.mbx.cq = s.mbx.cq ++ [contRecord tag 0 ((stampStream s c.unit).take 7), contRecord tag 1 ((stampStream s c.unit).drop 7),
          cmdRecord c (finalStatus c OK) false (s.tiu c.unit).res.words] := by
  refine ⟨_, (exec_tiuRead_eq hb hst).trans (next_eq (if_pos hask)), ?_⟩
  have hlen : (stampStream (begun s tag) c.unit).length = 14 := rfl
  have hfree : cqFree (begun s tag) = cqFree s := by simp [cqFree, begun, setCmd]
  obtain ⟨hleft, hcq⟩ := completeWith_pair (hb.findCmd_begun) (w := stampStream (begun s tag) c.unit) (by omega) (by omega) htun
    (by simpa using hstream) (by omega) OK ((begun s tag).tiu c.unit).res.words
  refine ⟨hleft, ?_, ?_⟩
  · rw [completeWith_tius, begun_tius]
  · rw [hcq]
    rfl

/-- Settles O26: each command on a unit that it may have. -/
theorem tiuCommandsConfigureArmAndRead : Obligations.TiuCommandsConfigureArmAndRead :=
  ⟨fun _ _ _ => exec_tiuConfig_accepted, fun _ _ _ => exec_tiuConfig_refused, fun _ _ _ => exec_tiuArm_now,
    fun _ _ _ => exec_tiuArm_timed,
    fun _ _ _ hb hheld hst hbusy hno => (next_eq (hb.hitan_eq _)).trans (next_eq (measure_busy hb hheld hst hbusy hno _)),
    fun _ _ _ => exec_freqMeasure_starts,
    fun _ _ _ hb hst hask => (exec_tiuRead_eq hb hst).trans (next_eq (if_neg (by rw [hask]; decide))),
    fun _ _ _ hb hst hask hstream htun hroom _ => exec_tiuRead_stamps hb hst hask hstream htun hroom⟩

end Sys2Proof.Claims
end

section
/-! SUPPORT. A time-interval unit changes alone, and how its measurement ends. -/
namespace Sys2Proof.Claims
open Sys2Proof Sys2Proof.Machine
variable {s u : State} {t : Nat}

theorem OnlyTiu.refl (s : State) (t : Nat) : OnlyTiu s s t := ⟨rfl, fun _ _ => rfl⟩

theorem OnlyTiu.updTiu (h : OnlyTiu s u t) (f : TiuSt → TiuSt) : OnlyTiu s (u.updTiu t f) t := by
  obtain ⟨hs, hk⟩ := h
  exact ⟨hs, fun k hne => (State.tiu_updTiu_ne _ _ hne).trans (hk k hne)⟩

/-- What the unit holds after its measurement ends with a status. -/
def tiuEnded (x : TiuSt) (status : Nat) : TiuSt :=
  { x with
    res := x.result status, last := status, st := if 2 ≤ (if status = FAULT then x.faults + 1 else 0) then .outOfUse else .idle,
    faults := if status = FAULT then x.faults + 1 else 0, tag := none,
    sStart := none, sStop := none, stamps := [], waitArm := false, seat := false }

/-- A measurement that no command waits for ends in its unit alone, as long as it is not the second fault. -/
theorem tiuEnd_eq {status : Nat} (htag : (s.tiu t).tag = none) (hfault : status = FAULT → (s.tiu t).faults = 0) :
    tiuEnd s t status = s.updTiu t (tiuEnded · status) := by
  have hfew : ¬2 ≤ (if status = FAULT then (s.tiu t).faults + 1 else 0) := by
    split
    · next h => rw [hfault h]; decide
    · decide
  unfold tiuEnd
  dsimp only
  rw [htag, if_neg hfew]
  rfl

end Sys2Proof.Claims
end

section
/-! O25. The rows of a time-interval measurement. -/
namespace Sys2Proof.Claims
open Sys2Proof Sys2Proof.Machine
variable {s : State} {t : Nat}

/-- A write in an Owner session that reaches its unit is taken by its register, and reported as ignored where it is refused. -/
theorem tiuWrite_ok (hh : 2 ≤ s.sec.host) (hreach : tiuReach s t = .ok) {off : Nat} (href : tiuRefusable off = true) (v : Word) :
    tiuWrite s t off v = if ((writeTiu (s.parityFresh (tiuBase t + off)) t off v).tiu t).cfgErr then
      { writeTiu (s.parityFresh (tiuBase t + off)) t off v with hp.ign := true }
      else writeTiu (s.parityFresh (tiuBase t + off)) t off v := by
  rw [tiuWrite, ownerWrite_owner hh, hreach]
  simp only [href, Bool.true_and]

theorem tiuWrite_busy (hh : 2 ≤ s.sec.host) (hreach : tiuReach s t = .busy) (off : Nat) (v : Word) :
    tiuWrite s t off v = { s with hp.busy := true } := by
  rw [tiuWrite, ownerWrite_owner hh, hreach]

/-- The fields that a write of TIU_CTL with an accepted mode puts into its unit. -/
def tiuModeSet (v : Word) (x : TiuSt) : TiuSt := { x with cfg.mode := fld v 4 2, cfg.atTime := v.getLsbD 6, cfgErr := false }

/-- TIU_CTL with an accepted mode stores it; then it aborts a busy unit or arms an idle one, as its bits say. -/
theorem writeTiuCtl_eq (s : State) (t : Nat) {v : Word} (hmode : fld v 4 2 ≠ 3) :
    writeTiu s t 0x00 v = if (s.tiu t).busy then (if v.getLsbD 8 then tiuEnd (s.updTiu t (tiuModeSet v)) t INCOMPLETE else s.updTiu t (tiuModeSet v))
      else if v.getLsbD 7 then tiuArmNow (s.updTiu t (tiuModeSet v)) t else s.updTiu t (tiuModeSet v) :=
  (if_pos rfl).trans (if_neg hmode)

theorem tiuArmNow_starts (hidle : (s.tiu t).busy = false) (hst : (s.tiu t).st ≠ .outOfUse) (hcan : (s.tiu t).canArm = true) :
    tiuArmNow s t = tiuStart s t none :=
  (if_neg (not_or.2 ⟨ne_true_of_eq_false hidle, hst⟩)).trans (if_pos hcan)

theorem exec_tiuCtlArm_starts {v : Word} (hh : 2 ≤ s.sec.host) (hreach : tiuReach s t = .ok) (hmode : fld (v ||| 0x80) 4 2 ≠ 3)
    (hidle : (s.tiu t).busy = false) (hst : (s.tiu t).st ≠ .outOfUse) (hcan : (tiuModeSet (v ||| 0x80) (s.tiu t)).canArm = true) :
    ∃ u, exec (.tiuCtlArm t v) s = .next u ∧ OnlyTiu (s.parityFresh (tiuBase t)) u t ∧ (u.tiu t).st = .precal ∧ (u.tiu t).tag = none
      ∧ (u.tiu t).cfgErr = false
      ∧ (u.tiu t).run = { (s.tiu t).cfg with mode := fld (v ||| 0x80) 4 2, atTime := (v ||| 0x80).getLsbD 6 } ∧ (u.tiu t).sStart = none
      ∧ (u.tiu t).sStop = none ∧ (u.tiu t).early = 0 := by
  have harm : (v ||| 0x80).getLsbD 7 = true := by simp
  have hself : ((s.parityFresh (tiuBase t)).updTiu t (tiuModeSet (v ||| 0x80))).tiu t = tiuModeSet (v ||| 0x80) (s.tiu t) :=
    State.tiu_updTiu_self ..
  have hwrite : writeTiu (s.parityFresh (tiuBase t)) t 0x00 (v ||| 0x80)
      = tiuStart ((s.parityFresh (tiuBase t)).updTiu t (tiuModeSet (v ||| 0x80))) t none := by
    rw [writeTiuCtl_eq _ _ hmode, if_neg (by exact ne_true_of_eq_false hidle), if_pos harm, tiuArmNow_starts] <;> rw [hself]
    exacts [hidle, hst, hcan]
  have hx : exec (.tiuCtlArm t v) s = .next (tiuStart ((s.parityFresh (tiuBase t)).updTiu t (tiuModeSet (v ||| 0x80))) t none) := by
    refine next_eq ((tiuWrite_ok hh hreach (by decide) _).trans ((if_neg ?_).trans hwrite))
    rw [Nat.add_zero, hwrite, tiu_tiuStart_self]
    exact Bool.false_ne_true
  refine ⟨_, hx, ((OnlyTiu.refl ..).updTiu _).updTiu _, ?_⟩
  rw [tiu_tiuStart_self, hself]
  exact ⟨rfl, rfl, rfl, rfl, rfl, rfl, rfl⟩

theorem exec_tiuCtlArm_refused {v : Word} (hh : 2 ≤ s.sec.host) (hreach : tiuReach s t = .ok) (hmode : fld (v ||| 0x80) 4 2 = 3) :
    exec (.tiuCtlArm t v) s = .next { (s.parityFresh (tiuBase t)).updTiu t (fun x => { x with cfgErr := true }) with hp.ign := true } := by
  have hwrite : writeTiu (s.parityFresh (tiuBase t)) t 0x00 (v ||| 0x80)
      = (s.parityFresh (tiuBase t)).updTiu t (fun x => { x with cfgErr := true }) := (if_pos rfl).trans (if_pos hmode)
  refine next_eq ((tiuWrite_ok hh hreach (by decide) _).trans ?_)
  rw [Nat.add_zero, hwrite, State.tiu_updTiu_self]
  rfl

/-- The word of TIU_CTL that aborts keeps the mode and asks for the abort. -/
theorem abortWord_eq {m : Nat} (hm : m < 3) (b : Bool) :
    fld (wd (b2n b * 2 ^ 6 + m * 2 ^ 4 + 2 ^ 8)) 4 2 ≠ 3 ∧ (wd (b2n b * 2 ^ 6 + m * 2 ^ 4 + 2 ^ 8)).getLsbD 8 = true := by
  revert b
  interval_cases m <;> decide

theorem exec_tiuCtlAbort_busy (hh : 2 ≤ s.sec.host) (hreach : tiuReach s t = .ok) (hmode : (s.tiu t).cfg.mode < 3)
    (hbusy : (s.tiu t).busy = true) (htag : (s.tiu t).tag = none) :
    ∃ u, exec (.tiuCtlAbort t) s = .next u ∧ OnlyTiu (s.parityFresh (tiuBase t)) u t ∧ (u.tiu t).st = .idle
      ∧ (u.tiu t).last = INCOMPLETE ∧ (u.tiu t).res = (s.tiu t).result INCOMPLETE := by
  obtain ⟨hm, hab⟩ := abortWord_eq hmode (s.tiu t).cfg.atTime
  set v := wd (b2n (s.tiu t).cfg.atTime * 2 ^ 6 + (s.tiu t).cfg.mode * 2 ^ 4 + 2 ^ 8) with hv
  have hself : ((s.parityFresh (tiuBase t)).updTiu t (tiuModeSet v)).tiu t = tiuModeSet v (s.tiu t) := State.tiu_updTiu_self ..
  have hwrite : writeTiu (s.parityFresh (tiuBase t)) t 0x00 v
      = ((s.parityFresh (tiuBase t)).updTiu t (tiuModeSet v)).updTiu t (tiuEnded · INCOMPLETE) := by
    rw [writeTiuCtl_eq _ _ hm, if_pos (by exact hbusy), if_pos hab, tiuEnd_eq (by rw [hself]; exact htag) (fun h => absurd h (by decide))]
  have hx : exec (.tiuCtlAbort t) s = .next (((s.parityFresh (tiuBase t)).updTiu t (tiuModeSet v)).updTiu t (tiuEnded · INCOMPLETE)) := by
    refine next_eq ((tiuWrite_ok hh hreach (by decide) _).trans ((if_neg ?_).trans hwrite))
    rw [← hv, Nat.add_zero, hwrite, State.tiu_updTiu_self, hself]
    exact Bool.false_ne_true
  refine ⟨_, hx, ((OnlyTiu.refl ..).updTiu _).updTiu _, ?_⟩
  rw [State.tiu_updTiu_self, hself]
  exact ⟨rfl, rfl, rfl⟩

theorem exec_gateCommit_taken {hi : Word} (hh : 2 ≤ s.sec.host) (hreach : tiuReach s t = .ok)
    (hgate : gateOk (hi ++ (s.tiu t).gateLo).toNat = true) :
    exec (.gateCommit t hi) s = .next ((s.parityFresh (tiuBase t + 7)).updTiu t (fun x => { x with
      cfg.gate := (hi ++ (s.tiu t).gateLo).toNat, gateBad := false, cfgErr := false })) := by
  have hwrite : writeTiu (s.parityFresh (tiuBase t + 7)) t 0x07 hi = (s.parityFresh (tiuBase t + 7)).updTiu t (fun x => { x with
      cfg.gate := (hi ++ (s.tiu t).gateLo).toNat, gateBad := false, cfgErr := false }) := if_pos hgate
  refine next_eq ((tiuWrite_ok hh hreach (by decide) _).trans ((if_neg ?_).trans hwrite))
  rw [hwrite, State.tiu_updTiu_self]
  exact Bool.false_ne_true

theorem exec_gateCommit_refused {hi : Word} (hh : 2 ≤ s.sec.host) (hreach : tiuReach s t = .ok)
    (hgate : gateOk (hi ++ (s.tiu t).gateLo).toNat = false) :
    exec (.gateCommit t hi) s = .next { (s.parityFresh (tiuBase t + 7)).updTiu t (fun x => { x with gateBad := true, cfgErr := true }) with
      hp.ign := true } := by
  have hwrite : writeTiu (s.parityFresh (tiuBase t + 7)) t 0x07 hi
      = (s.parityFresh (tiuBase t + 7)).updTiu t (fun x => { x with gateBad := true, cfgErr := true }) :=
    if_neg (ne_true_of_eq_false hgate)
  refine next_eq ((tiuWrite_ok hh hreach (by decide) _).trans ?_)
  rw [hwrite, State.tiu_updTiu_self]
  rfl

/-- The codes of a finished pre-calibration, in the unit that took them. -/
def tiuPrecalSet (a1 a2 b1 b2 : Nat) (x : TiuSt) : TiuSt :=
  { x with a1 := a1 % 2048, a2 := a2 % 2048, b1 := b1 % 2048, b2 := b2 % 2048 }

/-- A finished pre-calibration is judged: bad codes end the measurement, good ones make it ready or wait for its arm time. -/
theorem exec_tiuPrecalDone_eq (a1 a2 b1 b2 : Nat) (hst : (s.tiu t).st = .precal) (hwait : (s.tiu t).waitArm = false) :
    exec (.tiuPrecalDone t a1 a2 b1 b2) s =
      if precalOk (a1 % 2048) (a2 % 2048) = false ∨ precalOk (b1 % 2048) (b2 % 2048) = false then
        .next (tiuEnd (s.updTiu t (tiuPrecalSet a1 a2 b1 b2)) t FAULT)
      else if (s.tiu t).run.atTime then
        (if reached (s.region (tiuRegion t)).time (s.tiu t).run.armTime then .next (tiuEnd (s.updTiu t (tiuPrecalSet a1 a2 b1 b2)) t TIMEOUT)
         else .next ((s.updTiu t (tiuPrecalSet a1 a2 b1 b2)).updTiu t (fun x => { x with waitArm := true })))
      else .next (tiuReady (s.updTiu t (tiuPrecalSet a1 a2 b1 b2)) t) := by
  refine (if_pos ⟨hst, hwait⟩).trans ?_
  simp only [State.tiu_updTiu_self]
  rfl

theorem exec_tiuPrecalDone_ready {a1 a2 b1 b2 : Nat} (hst : (s.tiu t).st = .precal) (hwait : (s.tiu t).waitArm = false)
    (ha : precalOk (a1 % 2048) (a2 % 2048) = true) (hb : precalOk (b1 % 2048) (b2 % 2048) = true) (hat : (s.tiu t).run.atTime = false) :
    ∃ u, exec (.tiuPrecalDone t a1 a2 b1 b2) s = .next u ∧ OnlyTiu s u t ∧ (u.tiu t).st = .ready
      ∧ (u.tiu t).readyAt = (s.region (tiuRegion t)).edge ∧ (u.tiu t).a1 = a1 % 2048 ∧ (u.tiu t).b2 = b2 % 2048 := by
  refine ⟨_, (exec_tiuPrecalDone_eq a1 a2 b1 b2 hst hwait).trans ((if_neg (by simp [ha, hb])).trans (if_neg (by simp [hat]))),
    ((OnlyTiu.refl ..).updTiu _).updTiu _, ?_⟩
  rw [tiuReady, State.tiu_updTiu_self, State.tiu_updTiu_self]
  exact ⟨rfl, rfl, rfl, rfl⟩

theorem exec_tiuPrecalDone_timed {a1 a2 b1 b2 : Nat} (hst : (s.tiu t).st = .precal) (hwait : (s.tiu t).waitArm = false)
    (ha : precalOk (a1 % 2048) (a2 % 2048) = true) (hb : precalOk (b1 % 2048) (b2 % 2048) = true) (hat : (s.tiu t).run.atTime = true)
    (htime : reached (s.region (tiuRegion t)).time (s.tiu t).run.armTime = false) :
    ∃ u, exec (.tiuPrecalDone t a1 a2 b1 b2) s = .next u ∧ OnlyTiu s u t ∧ (u.tiu t).st = .precal ∧ (u.tiu t).waitArm = true := by
  refine ⟨_, (exec_tiuPrecalDone_eq a1 a2 b1 b2 hst hwait).trans ((if_neg (by simp [ha, hb])).trans ((if_pos hat).trans
    (if_neg (by simp [htime])))), ((OnlyTiu.refl ..).updTiu _).updTiu _, ?_⟩
  rw [State.tiu_updTiu_self, State.tiu_updTiu_self]
  exact ⟨hst, rfl⟩

theorem exec_tiuPrecalDone_bad {a1 a2 b1 b2 : Nat} (hst : (s.tiu t).st = .precal) (hwait : (s.tiu t).waitArm = false)
    (hbad : precalOk (a1 % 2048) (a2 % 2048) = false ∨ precalOk (b1 % 2048) (b2 % 2048) = false) (hfaults : (s.tiu t).faults = 0)
    (htag : (s.tiu t).tag = none) :
    ∃ u, exec (.tiuPrecalDone t a1 a2 b1 b2) s = .next u ∧ OnlyTiu s u t ∧ (u.tiu t).st = .idle ∧ (u.tiu t).last = FAULT
      ∧ (u.tiu t).faults = 1 := by
  have hself : (s.updTiu t (tiuPrecalSet a1 a2 b1 b2)).tiu t = tiuPrecalSet a1 a2 b1 b2 (s.tiu t) := State.tiu_updTiu_self ..
  have hx := (exec_tiuPrecalDone_eq a1 a2 b1 b2 hst hwait).trans (if_pos hbad)
  rw [tiuEnd_eq (by rw [hself]; exact htag) (fun _ => by rw [hself]; exact hfaults)] at hx
  refine ⟨_, hx, ((OnlyTiu.refl ..).updTiu _).updTiu _, ?_⟩
  rw [State.tiu_updTiu_self, hself]
  have hn : (tiuPrecalSet a1 a2 b1 b2 (s.tiu t)).faults = 0 := hfaults
  simp [tiuEnded, hn]

theorem exec_tiuReadyAtTime_come (hst : (s.tiu t).st = .precal) (hwait : (s.tiu t).waitArm = true)
    (htime : (s.region (tiuRegion t)).time = (s.tiu t).run.armTime) :
    ∃ u, exec (.tiuReadyAtTime t) s = .next u ∧ OnlyTiu s u t ∧ (u.tiu t).st = .ready ∧ (u.tiu t).waitArm = false := by
  refine ⟨_, next_eq ((if_pos ⟨hst, hwait⟩).trans (if_pos htime)), (OnlyTiu.refl ..).updTiu _, ?_⟩
  rw [tiuReady, State.tiu_updTiu_self]
  exact ⟨rfl, rfl⟩

/-- A live source's edge from two cycles after READY, in a mode other than FREQ with two sources, with a code of the converter's range. -/
theorem tiuEdge_ordered {stop : Bool} {code : Nat} (hst : (s.tiu t).st = .ready) (hmode : (s.tiu t).run.mode = 0)
    (hsame : sameSource (s.tiu t).run.start (s.tiu t).run.stop = false)
    (hlive : srcLive s (tiuBlock t) (if stop then (s.tiu t).run.stop else (s.tiu t).run.start) = true)
    (hedge : (s.tiu t).readyAt + 2 ≤ (s.region (tiuRegion t)).edge) (hcode : stop = false → code ≤ 1600)
    (hstart : (s.tiu t).sStart = none) :
    tiuEdge s t stop code = if stop then
        (if (s.tiu t).early < 0x3FFFF ∧ (((s.tiu t).stopEdge (s.region (tiuRegion t)).time code)).early = 0x3FFFF then
          (s.updTiu t (fun x => x.stopEdge (s.region (tiuRegion t)).time code)).postBlock (tiuBlock t) 8
        else s.updTiu t (fun x => x.stopEdge (s.region (tiuRegion t)).time code))
      else s.updTiu t (fun x => x.startEdge (s.region (tiuRegion t)).time code) := by
  have hlate : decide ((s.region (tiuRegion t)).edge < (s.tiu t).readyAt + 2) = false := decide_eq_false (Nat.not_lt.2 hedge)
  unfold tiuEdge
  dsimp only
  rw [hlate, if_neg (by simp [hst]), hmode, hsame, State.tiu_updTiu_self]
  simp only [Bool.false_eq_true, and_false, if_false, hlive, hstart]
  cases stop with
  | true => simp
  | false => simp [Nat.not_lt.2 (hcode rfl)]

theorem exec_tiuSourceEdge_start {code : Nat} (hst : (s.tiu t).st = .ready) (hmode : (s.tiu t).run.mode = 0)
    (hsame : sameSource (s.tiu t).run.start (s.tiu t).run.stop = false) (hlive : srcLive s (tiuBlock t) (s.tiu t).run.start = true)
    (hedge : (s.tiu t).readyAt + 2 ≤ (s.region (tiuRegion t)).edge) (hstart : (s.tiu t).sStart = none) (hcode : code ≤ 1600) :
    ∃ u, exec (.tiuSourceEdge t false code) s = .next u ∧ OnlyTiu s u t ∧ (u.tiu t).st = .running
      ∧ (u.tiu t).sStart = some (if srcExact (s.tiu t).run.start then exactStamp (s.region (tiuRegion t)).time
          else stampOf (s.region (tiuRegion t)).time code (s.tiu t).a1 (s.tiu t).a2 (s.tiu t).dly.1) ∧ (u.tiu t).sStop = (s.tiu t).sStop := by
  have hx : exec (.tiuSourceEdge t false code) s = .next (s.updTiu t (fun x => x.startEdge (s.region (tiuRegion t)).time code)) :=
    next_eq ((tiuEdge_ordered (stop := false) hst hmode hsame hlive hedge (fun _ => hcode) hstart).trans (if_neg (by decide)))
  refine ⟨_, hx, (OnlyTiu.refl ..).updTiu _, ?_⟩
  have htaken : (s.tiu t).startEdge (s.region (tiuRegion t)).time code = { s.tiu t with
      sStart := some ((s.tiu t).convert false (s.tiu t).run.start (s.tiu t).dly.1 (s.region (tiuRegion t)).time code), st := .running } :=
    if_neg (by simp [hstart])
  rw [State.tiu_updTiu_self, htaken]
  exact ⟨rfl, rfl, rfl⟩

theorem exec_tiuSourceEdge_early {code : Nat} (hst : (s.tiu t).st = .ready) (hmode : (s.tiu t).run.mode = 0)
    (hsame : sameSource (s.tiu t).run.start (s.tiu t).run.stop = false) (hlive : srcLive s (tiuBlock t) (s.tiu t).run.stop = true)
    (hedge : (s.tiu t).readyAt + 2 ≤ (s.region (tiuRegion t)).edge) (hstart : (s.tiu t).sStart = none) (hstop : (s.tiu t).sStop = none)
    (hearly : (s.tiu t).early < 0x3FFFE) :
    ∃ u, exec (.tiuSourceEdge t true code) s = .next u ∧ OnlyTiu s u t ∧ (u.tiu t).st = .ready
      ∧ (u.tiu t).early = (s.tiu t).early + 1 ∧ (u.tiu t).sStop = none := by
  have hcounted : (s.tiu t).stopEdge (s.region (tiuRegion t)).time code = { s.tiu t with early := (s.tiu t).early + 1 } := by
    refine (if_neg (by simp [hstop])).trans ((if_pos ⟨hmode, hstart⟩).trans ?_)
    rw [satAdd, if_pos (by omega)]
  have hx : exec (.tiuSourceEdge t true code) s = .next (s.updTiu t (fun x => x.stopEdge (s.region (tiuRegion t)).time code)) := by
    refine next_eq ((tiuEdge_ordered (stop := true) hst hmode hsame hlive hedge nofun hstart).trans ((if_pos rfl).trans (if_neg ?_)))
    rw [hcounted]
    rintro ⟨-, hfull⟩
    exact absurd hfull (by dsimp only; omega)
  refine ⟨_, hx, (OnlyTiu.refl ..).updTiu _, ?_⟩
  rw [State.tiu_updTiu_self, hcounted]
  exact ⟨hst, rfl, hstop⟩

theorem exec_tiuSourceEdge_freq {code : Nat} (hst : (s.tiu t).st = .ready) (hmode : (s.tiu t).run.mode = 2)
    (hpre : (s.tiu t).run.pre = 0) (hlive : srcLive s (tiuBlock t) (s.tiu t).run.start = true)
    (hedge : (s.tiu t).readyAt + 2 ≤ (s.region (tiuRegion t)).edge) (hstamps : (s.tiu t).stamps = []) (hcode : code ≤ 1600) :
    ∃ u, exec (.tiuSourceEdge t false code) s = .next u ∧ OnlyTiu s u t ∧ (u.tiu t).st = .running
      ∧ (u.tiu t).stamps = [(0, (if srcExact (s.tiu t).run.start then exactStamp (s.region (tiuRegion t)).time
          else stampOf (s.region (tiuRegion t)).time code (s.tiu t).a1 (s.tiu t).a2 (s.tiu t).dly.1).toNat)] := by
  have hlate : decide ((s.region (tiuRegion t)).edge < (s.tiu t).readyAt + 2) = false := decide_eq_false (Nat.not_lt.2 hedge)
  have hx : exec (.tiuSourceEdge t false code) s = .next (s.updTiu t (fun x => x.freqEdge (s.region (tiuRegion t)).time code)) := by
    refine next_eq ?_
    unfold tiuEdge
    dsimp only
    rw [hlate, if_neg (by simp [hst]), hmode]
    simp [hlive, Nat.not_lt.2 hcode]
  refine ⟨_, hx, (OnlyTiu.refl ..).updTiu _, ?_⟩
  rw [State.tiu_updTiu_self]
  simp [TiuSt.freqEdge, TiuSt.freqTakes, TiuSt.freqStamp, TiuSt.convert, hpre, hstamps]

/-- A measurement's end without a command, in a mode other than FREQ, gives its interval. -/
theorem ended_interval {x : TiuSt} (hmode : x.run.mode ≠ 2) {status : Nat} (hs : status ≠ FAULT) :
    tiuEnded x status = { x with
      res := x.interval status, last := status, st := .idle, faults := 0, tag := none,
      sStart := none, sStop := none, stamps := [], waitArm := false, seat := false } := by
  simp only [tiuEnded, TiuSt.result, if_neg hmode, if_neg hs]
  rfl

theorem exec_tiuResult_interval (hst : (s.tiu t).st = .running) (hfull : (s.tiu t).full = true) (hmode : (s.tiu t).run.mode ≠ 2)
    (htag : (s.tiu t).tag = none) :
    ∃ u, exec (.tiuResult t) s = .next u ∧ OnlyTiu s u t ∧ (u.tiu t).st = .idle ∧ (u.tiu t).last = OK
      ∧ (u.tiu t).res = (s.tiu t).interval OK ∧ (u.tiu t).faults = 0 ∧ (u.tiu t).sStart = none := by
  have hx : exec (.tiuResult t) s = .next (s.updTiu t (tiuEnded · OK)) := by
    refine (if_pos ⟨hst, hfull⟩).trans (next_eq ?_)
    rw [TiuSt.fullStatus, if_neg hmode]
    exact tiuEnd_eq htag (fun h => absurd h (by decide))
  refine ⟨_, hx, (OnlyTiu.refl ..).updTiu _, ?_⟩
  rw [State.tiu_updTiu_self, ended_interval hmode (by decide)]
  exact ⟨rfl, rfl, rfl, rfl, rfl⟩

theorem exec_tiuTimeout_expired (hst : (s.tiu t).st = .ready) (hfull : (s.tiu t).full = false) (hexp : tiuExpired s t = true)
    (hmode : (s.tiu t).run.mode ≠ 2) (htag : (s.tiu t).tag = none) :
    ∃ u, exec (.tiuTimeout t) s = .next u ∧ OnlyTiu s u t ∧ (u.tiu t).st = .idle ∧ (u.tiu t).last = TIMEOUT
      ∧ (u.tiu t).res = (s.tiu t).interval TIMEOUT := by
  have hx : exec (.tiuTimeout t) s = .next (s.updTiu t (tiuEnded · TIMEOUT)) := by
    refine next_eq ((if_pos ⟨.inl hst, hfull, hexp⟩).trans ?_)
    rw [if_neg (fun h => hmode h.1)]
    exact tiuEnd_eq htag (fun h => absurd h (by decide))
  refine ⟨_, hx, (OnlyTiu.refl ..).updTiu _, ?_⟩
  rw [State.tiu_updTiu_self, ended_interval hmode (by decide)]
  exact ⟨rfl, rfl, rfl⟩

/-- Settles O25: each row in the state it acts in. -/
theorem tiuMeasurementsRunTheirSteps : Obligations.TiuMeasurementsRunTheirSteps :=
  ⟨fun _ _ _ => exec_tiuCtlArm_starts, fun _ _ _ => exec_tiuCtlArm_refused, fun _ _ => exec_tiuCtlAbort_busy,
    fun _ _ _ => exec_gateCommit_taken, fun _ _ _ => exec_gateCommit_refused,
    fun _ _ _ hh => ⟨next_eq (ownerWrite_denied hh _), next_eq (ownerWrite_denied hh _), next_eq (ownerWrite_denied hh _)⟩,
    fun _ _ _ hh hr => ⟨next_eq (tiuWrite_busy hh hr ..), next_eq (tiuWrite_busy hh hr ..), next_eq (tiuWrite_busy hh hr ..)⟩,
    fun _ _ _ _ _ _ => exec_tiuPrecalDone_ready, fun _ _ _ _ _ _ => exec_tiuPrecalDone_timed, fun _ _ _ _ _ _ => exec_tiuPrecalDone_bad,
    fun _ _ => exec_tiuReadyAtTime_come, fun _ _ _ => exec_tiuSourceEdge_start, fun _ _ _ => exec_tiuSourceEdge_early,
    fun _ _ _ => exec_tiuSourceEdge_freq, fun _ _ => exec_tiuResult_interval, fun _ _ => exec_tiuTimeout_expired⟩

end Sys2Proof.Claims
end

section
/-! SUPPORT. What an acquisition's beads and strands leave of its trigger conditions and of the registered events. -/
namespace Sys2Proof.Claims
open Sys2Proof Sys2Proof.Machine
variable {s : State} {r : Nat}

/-- The registered events, and the trigger conditions of a region's acquisition. -/
def trigPart (s : State) (r : Nat) : List (Nat × Nat × Nat × Nat) × Tab Trig := (s.evRegs, (s.acq r).regs.trigs)

theorem trigPart_updAcq (s : State) (r : Nat) {f : AcqSt → AcqSt} (hf : ∀ a, (f a).regs.trigs = a.regs.trigs) :
    trigPart (s.updAcq r f) r = trigPart s r := by
  unfold trigPart
  rw [State.acq_updAcq_self, hf]
  rfl

theorem trigPart_acqs {t : State} (he : t.evRegs = s.evRegs) (ha : t.acqs = s.acqs) : trigPart t r = trigPart s r := by
  simp only [trigPart, State.acq, he, ha]

theorem trigPart_tick (s : State) (r : Nat) : trigPart s.tick r = trigPart s r := rfl

theorem trigPart_ite {c : Prop} [Decidable c] {t u v : State} (ht : trigPart t r = trigPart v r) (hu : trigPart u r = trigPart v r) :
    trigPart (if c then t else u) r = trigPart v r := by
  split
  · exact ht
  · exact hu

theorem timed_regs (a : AcqSt) (ring counted : Bool) (c : BitVec 54) (d : Option (BitVec 15)) (idx sample typ : Nat) (low : Word) :
    (a.timed ring counted c d idx sample typ low).regs = a.regs := by
  unfold AcqSt.timed
  dsimp only
  split <;> rfl

theorem trigPart_postAcq (s : State) (r k : Nat) : trigPart (s.postAcq r k) r = trigPart s r := trigPart_updAcq s r fun _ => rfl

theorem trigPart_acqCount (s : State) (r : Nat) (get : AcqRegs → Nat) {set : AcqRegs → Nat → AcqRegs}
    (hset : ∀ g n, (set g n).trigs = g.trigs) (n : Nat) : trigPart (acqCount s r get set n) r = trigPart s r := by
  have hcounted := trigPart_updAcq s r (f := fun a => { a with regs := set a.regs (satAdd 0x3FFFF (get (s.acq r).regs) n) }) fun _ => hset ..
  unfold acqCount
  exact trigPart_ite ((trigPart_postAcq ..).trans hcounted) hcounted

theorem trigPart_dropGap (s : State) (r : Nat) : trigPart (dropGap s r) r = trigPart s r := by
  unfold dropGap
  split
  · rfl
  · exact (trigPart_acqCount _ _ _ (by exact fun _ _ => rfl) _).trans (trigPart_updAcq _ _ (by exact fun _ => rfl))

theorem trigPart_lateTrigger (s : State) (r sample : Nat) : trigPart (lateTrigger s r sample) r = trigPart s r := by
  unfold lateTrigger
  exact trigPart_ite (trigPart_updAcq _ _ (by exact fun _ => rfl)) rfl

theorem trigPart_gapGroup (s : State) (r cause len lost sample : Nat) :
    trigPart (gapGroup s r cause len lost sample) r = trigPart s r := by
  unfold gapGroup
  exact (trigPart_acqCount _ _ _ (by exact fun _ _ => rfl) _).trans
    ((trigPart_postAcq ..).trans (trigPart_updAcq _ _ (by exact fun _ => rfl)))

theorem trigPart_gapEnd (s : State) (r sample : Nat) : trigPart (gapEnd s r sample) r = trigPart s r := by
  unfold gapEnd
  split
  · rfl
  · exact trigPart_ite ((trigPart_lateTrigger ..).trans ((trigPart_gapGroup ..).trans (trigPart_dropGap ..))) (trigPart_dropGap ..)

theorem trigPart_endBead (s : State) (r cause sample : Nat) : trigPart (endBead s r cause sample) r = trigPart s r := by
  unfold endBead
  exact (trigPart_tick ..).trans (trigPart_updAcq _ _ (by exact fun _ => congrArg AcqRegs.trigs (timed_regs ..)))

theorem trigPart_closeStrand (s : State) (r cause : Nat) : trigPart (closeStrand s r cause) r = trigPart s r :=
  (trigPart_postAcq ..).trans (trigPart_updAcq _ _ (by exact fun _ => rfl))

theorem trigPart_acqRecord (s : State) (r cause edge : Nat) : trigPart (acqRecord s r cause edge) r = trigPart s r := by
  have hpost : ∀ u h w, trigPart (postUntagged u h w).1 r = trigPart u r := fun u h w => by
    unfold postUntagged
    split
    · rfl
    · split
      · rfl
      · dsimp only
        exact trigPart_ite rfl rfl
  exact (trigPart_updAcq _ _ (by exact fun _ => rfl)).trans (hpost ..)

theorem trigPart_acqDone (s : State) (r : Nat) : trigPart (acqDone s r) r = trigPart s r :=
  (trigPart_acqRecord ..).trans ((trigPart_postAcq ..).trans ((trigPart_updAcq _ _ (by exact fun _ => rfl)).trans (trigPart_dropGap ..)))

/-- A strand that ends leaves the trigger conditions for the next. -/
theorem trigPart_strandEnd (s : State) (r cause sample : Nat) (stop : Bool) : trigPart (strandEnd s r cause sample stop) r = trigPart s r := by
  have hclosed : trigPart (closeStrand (endBead (gapEnd s r sample) r cause sample) r cause) r = trigPart s r :=
    (trigPart_closeStrand ..).trans ((trigPart_endBead ..).trans (trigPart_gapEnd ..))
  have hrecord := trigPart_ite (c := (s.acq r).run.perStrand = true)
    ((trigPart_acqRecord _ r 1 (sample / 8)).trans hclosed) hclosed
  unfold strandEnd
  exact trigPart_ite ((trigPart_acqDone ..).trans hrecord) ((trigPart_updAcq _ _ (by exact fun _ => rfl)).trans hrecord)

theorem trigPart_strandFull (s : State) (r sample : Nat) : trigPart (strandFull s r sample) r = trigPart s r := by
  unfold strandFull
  exact trigPart_ite (trigPart_strandEnd ..) rfl

theorem trigPart_acqBead (s : State) (r typ idx : Nat) (low : Word) (sample : Nat) (counted : Bool) :
    trigPart (acqBead s r typ idx low sample counted) r = trigPart s r := by
  unfold acqBead
  dsimp only
  split
  · rfl
  · split
    · exact trigPart_updAcq _ _ (by exact fun _ => rfl)
    · refine trigPart_ite (trigPart_strandEnd ..) (trigPart_ite (trigPart_updAcq _ _ (by exact fun _ => rfl)) ?_)
      exact (trigPart_strandFull ..).trans ((trigPart_tick ..).trans
        (trigPart_updAcq _ _ (by exact fun _ => congrArg AcqRegs.trigs (timed_regs ..))))

theorem trigPart_gapWork (s : State) (r sample : Nat) : trigPart (gapWork s r sample) r = trigPart s r := by
  unfold gapWork
  refine (trigPart_updAcq _ _ (by exact fun _ => rfl)).trans ?_
  refine (forAll_same (trigPart · r) fun u g _ => ?_).trans ?_
  · dsimp only
    split
    · rfl
    · split
      · exact trigPart_updAcq _ _ (by exact fun _ => rfl)
      · exact trigPart_ite (trigPart_strandEnd ..) (trigPart_ite (trigPart_updAcq _ _ (by exact fun _ => rfl))
          ((trigPart_strandFull ..).trans (trigPart_gapGroup ..)))
  · exact trigPart_ite (trigPart_ite ((trigPart_strandFull ..).trans (trigPart_gapEnd ..)) (trigPart_strandEnd ..)) rfl

theorem trigPart_changeBead {n : Nat} (h : n / 64 = r) (s : State) (sample : Nat) (counted : Bool) :
    trigPart (changeBead s n sample counted) r = trigPart s r := by
  subst h
  unfold changeBead
  exact trigPart_ite (trigPart_acqBead ..) ((trigPart_acqs rfl rfl).trans (trigPart_acqBead ..))

end Sys2Proof.Claims
end

section
/-! SUPPORT. One sample of an acquisition: the trigger conditions it judges, and the events it registers. -/
namespace Sys2Proof.Claims
open Sys2Proof Sys2Proof.Machine
variable {s : State} {r n : Nat}

/-- The delivery of a trigger event reaches engines alone. -/
theorem deliver_trigger (s : State) (r idx e : Nat) :
    (deliver s r 4 idx e).acqs = s.acqs ∧ (deliver s r 4 idx e).evRegs = s.evRegs := by
  refine ⟨forAll_same State.acqs fun _ _ _ => rfl, forAll_same State.evRegs fun _ _ _ => rfl⟩

theorem register_acqs (s : State) (r idx e : Nat) : (register s r 4 idx e).acqs = s.acqs := by
  unfold register
  split
  · rfl
  · dsimp only
    split
    · exact (deliver_trigger ..).1
    · rfl

theorem mem_register (s : State) (r idx e : Nat) (x : Nat × Nat × Nat × Nat) :
    x ∈ (register s r 4 idx e).evRegs ↔ x ∈ s.evRegs ∨ x = (r, 4, idx, e) := by
  unfold register
  split
  · next h =>
    exact ⟨.inl, fun hx => hx.elim id fun heq => heq ▸ List.contains_iff_mem.1 h⟩
  · dsimp only
    split
    · rw [(deliver_trigger ..).2]
      simp
    · simp

theorem mem_forAll_register (l : List Nat) (e : Nat) (h : n ∈ l ∨ (r, 4, n, e) ∈ s.evRegs) :
    (r, 4, n, e) ∈ (forAll l (fun s n => register s r 4 n e) s).evRegs := by
  induction l generalizing s with
  | nil => exact h.resolve_left (List.not_mem_nil)
  | cons m l ih =>
    rw [forAll_cons]
    refine ih ?_
    rw [mem_register]
    rcases h with h | h
    · rcases List.mem_cons.1 h with rfl | h
      · exact .inr (.inr rfl)
      · exact .inl h
    · exact .inr (.inl h)

theorem trigPart_fabricEmit (s : State) (r q m e : Nat) : trigPart (fabricEmit s q m e) r = trigPart s r := by
  have hdown : ∀ u m c, trigPart (eventDown u m c) r = trigPart u r := fun u m c =>
    forAll_same (trigPart · r) fun v i _ => trigPart_acqs (by simp) (by simp)
  unfold fabricEmit
  refine trigPart_ite rfl (trigPart_ite rfl (trigPart_ite (trigPart_ite (trigPart_acqs (by simp) (by simp)) rfl) ?_))
  exact hdown ..

/-- A sample that meets conditions registers their events; the rest of what it does leaves them and the conditions. -/
theorem trigPart_trigEvent {hits : Nat} (h : hits ≠ 0) (s : State) (r sample : Nat) :
    trigPart (trigEvent s r hits sample) r = trigPart (register (forAll ((List.range 8).filter (fun n => decide (hits / 2 ^ n % 2 = 1)))
      (fun s n => register s r 4 n (sample / 8 + 25)) s) r 4 8 (sample / 8 + 25)) r := by
  unfold trigEvent
  rw [if_neg h]
  dsimp only
  set s1 := register (forAll ((List.range 8).filter (fun n => decide (hits / 2 ^ n % 2 = 1)))
    (fun s n => register s r 4 n (sample / 8 + 25)) s) r 4 8 (sample / 8 + 25)
  generalize h2 : (if ((List.range 8).filter (fun n => decide (hits / 2 ^ n % 2 = 1))).any (fun n => bitOf ((s.acq r).trig n).cond.1 8) = true
    then fabricEmit s1 r (s.tree.fwd.getD r 0) (sample / 8 + 25) else s1) = s2
  have hemit : trigPart s2 r = trigPart s1 r := h2 ▸ trigPart_ite (trigPart_fabricEmit ..) rfl
  refine Eq.trans ?_ hemit
  have hposted : ∀ {u : State} {f : AcqSt → AcqSt}, trigPart u r = trigPart s2 r → (∀ a, (f a).regs.trigs = a.regs.trigs) →
      trigPart (u.updAcq r f) r = trigPart s2 r := fun hu hf => (trigPart_updAcq _ _ hf).trans hu
  refine trigPart_ite (trigPart_ite (hposted (hposted rfl ?_) ?_) (trigPart_ite (hposted (hposted rfl ?_) ?_)
    ((trigPart_tick ..).trans (hposted (hposted rfl ?_) ?_))))
    (trigPart_ite ((trigPart_postAcq ..).trans ((trigPart_acqCount _ _ _ ?_ _).trans (hposted rfl ?_))) rfl)
  case refine_6 => exact fun _ => congrArg AcqRegs.trigs (timed_regs ..)
  all_goals intros; rfl

theorem acq_of_trigPart {t : State} (h : trigPart t r = trigPart s r) (n : Nat) : (t.acq r).trig n = (s.acq r).trig n := by
  have htrigs : (t.acq r).regs.trigs = (s.acq r).regs.trigs := (Prod.mk.inj h).2
  rw [AcqSt.trig, htrigs]
  rfl

theorem trigEvent_trig (s : State) (r hits sample n : Nat) : ((trigEvent s r hits sample).acq r).trig n = (s.acq r).trig n := by
  by_cases h : hits = 0
  · rw [trigEvent, if_pos h]
  · rw [acq_of_trigPart (trigPart_trigEvent h s r sample), State.acq, register_acqs,
      forAll_same State.acqs fun u m _ => register_acqs u r m (sample / 8 + 25)]
    rfl

theorem mem_trigEvent {hits : Nat} (hn : n < 8) (hbit : hits / 2 ^ n % 2 = 1) (s : State) (sample : Nat) :
    (r, 4, n, sample / 8 + 25) ∈ (trigEvent s r hits sample).evRegs := by
  have hne : hits ≠ 0 := by
    rintro rfl
    simp at hbit
  have hregs : (trigEvent s r hits sample).evRegs = _ := (Prod.mk.inj (trigPart_trigEvent hne s r sample)).1
  rw [hregs, mem_register]
  exact .inl (mem_forAll_register _ _ (.inl (List.mem_filter.2 ⟨List.mem_range.2 hn, decide_eq_true hbit⟩)))

/-- A condition in force judges its sample and changes itself alone. -/
theorem trigSample_eq (s : State) (r n sample : Nat) (was now : List Nat) :
    ∃ t b, trigSample s r n sample was now = (setTrig s r n t, b * 2 ^ n) ∧ b ≤ 1 := by
  have hbit : ∀ b, b2n b ≤ 1 := by decide
  unfold trigSample
  dsimp only
  generalize ((s.acq r).trig n).inForce sample = t
  split
  · generalize (if was.getD t.input 0 ≠ now.getD t.input 0 then t.step sample _ _ _ _ else (t, false)) = q
    split
    · exact ⟨_, 1, by rw [Nat.one_mul], le_refl 1⟩
    · exact ⟨_, _, rfl, hbit _⟩
  · exact ⟨_, 0, by rw [Nat.zero_mul], Nat.zero_le 1⟩

theorem trig_setTrig (s : State) (r n m : Nat) (t : Trig) :
    ((setTrig s r n t).acq r).trig m = if m = n then t else (s.acq r).trig m := by
  rw [setTrig, State.acq_updAcq_self, AcqSt.trig, tabGet_tabSet]
  rfl

/-- A quiet time that runs out in a sample whose input stands still restarts, and its condition is met. -/
theorem trigSample_quiet {sample : Nat} {was now : List Nat} (hfrom : ((s.acq r).trig n).fromEdge = none)
    (htyp : ((s.acq r).trig n).typ = 3) (hdue : ((s.acq r).trig n).due sample = true)
    (hstill : was.getD ((s.acq r).trig n).input 0 = now.getD ((s.acq r).trig n).input 0) :
    trigSample s r n sample was now = (setTrig s r n { (s.acq r).trig n with from_ := some sample }, 2 ^ n) := by
  have hen : ((s.acq r).trig n).en = true := (Bool.and_eq_true_iff.1 hdue).1
  have hforce : ((s.acq r).trig n).inForce sample = (s.acq r).trig n := by rw [Trig.inForce, hfrom]
  unfold trigSample
  dsimp only
  rw [hforce, if_pos hen, if_neg (not_not.2 hstill)]
  dsimp only
  rw [if_pos hdue, Trig.expired, if_pos htyp]

/-- The conditions of a region judged in turn, and the sum of those met. -/
def judged (s : State) (r sample : Nat) (was now : List Nat) (k : Nat) : State × Nat :=
  (List.range k).foldl (fun (acc : State × Nat) n =>
    let q := trigSample acc.1 r n sample was now
    (q.1, acc.2 + q.2)) (s, 0)

theorem judged_succ (s : State) (r sample : Nat) (was now : List Nat) (k : Nat) : judged s r sample was now (k + 1)
    = ((trigSample (judged s r sample was now k).1 r k sample was now).1,
        (judged s r sample was now k).2 + (trigSample (judged s r sample was now k).1 r k sample was now).2) := by
  rw [judged, List.range_succ, List.foldl_append]
  rfl

/-- Conditions judged before a condition leave it, and their sum stays below its bit. -/
theorem judged_before (sample : Nat) (was now : List Nat) {k : Nat} (hk : k ≤ n) :
    ((judged s r sample was now k).1.acq r).trig n = (s.acq r).trig n ∧ (judged s r sample was now k).2 < 2 ^ k := by
  induction k with
  | zero => exact ⟨rfl, Nat.zero_lt_one⟩
  | succ k ih =>
    obtain ⟨htrig, hsum⟩ := ih (by omega)
    obtain ⟨t, b, heq, hb⟩ := trigSample_eq (judged s r sample was now k).1 r k sample was now
    rw [judged_succ, heq, trig_setTrig, if_neg (by omega)]
    refine ⟨htrig, ?_⟩
    have : b * 2 ^ k ≤ 1 * 2 ^ k := Nat.mul_le_mul_right _ hb
    rw [Nat.pow_succ]
    dsimp only
    omega

/-- A higher bit does not show in a lower one. -/
theorem add_mul_div_mod_two {a b k : Nat} (h : n < k) : (a + b * 2 ^ k) / 2 ^ n % 2 = a / 2 ^ n % 2 := by
  obtain ⟨d, rfl⟩ := Nat.exists_eq_add_of_lt h
  have hsplit : b * 2 ^ (n + d + 1) = 2 * (b * 2 ^ d) * 2 ^ n := by ring
  rw [hsplit, Nat.add_mul_div_right _ _ (Nat.two_pow_pos n), Nat.add_mul_mod_self_left]

/-- From the moment a quiet time has run out, its condition holds the sample and its bit is in the sum. -/
theorem judged_quiet {sample : Nat} {was now : List Nat} (hfrom : ((s.acq r).trig n).fromEdge = none)
    (htyp : ((s.acq r).trig n).typ = 3) (hdue : ((s.acq r).trig n).due sample = true)
    (hstill : was.getD ((s.acq r).trig n).input 0 = now.getD ((s.acq r).trig n).input 0) {k : Nat} (hk : n < k) :
    ((judged s r sample was now k).1.acq r).trig n = { (s.acq r).trig n with from_ := some sample }
    ∧ (judged s r sample was now k).2 / 2 ^ n % 2 = 1 := by
  induction k, hk using Nat.le_induction with
  | base =>
    obtain ⟨htrig, hsum⟩ := judged_before (s := s) (r := r) sample was now (Nat.le_refl n)
    rw [judged_succ, trigSample_quiet (by rw [htrig]; exact hfrom) (by rw [htrig]; exact htyp) (by rw [htrig]; exact hdue)
      (by rw [htrig]; exact hstill), trig_setTrig, if_pos rfl, htrig]
    refine ⟨rfl, ?_⟩
    dsimp only
    rw [Nat.add_div_right _ (Nat.two_pow_pos n), Nat.div_eq_of_lt hsum]
  | succ k hk ih =>
    obtain ⟨htrig, hsum⟩ := ih
    obtain ⟨t, b, heq, -⟩ := trigSample_eq (judged s r sample was now k).1 r k sample was now
    rw [judged_succ, heq, trig_setTrig, if_neg (by omega)]
    exact ⟨htrig, (add_mul_div_mod_two hk).trans hsum⟩

/-- What the inputs of a region show in a sample. -/
def shownNow (s : State) (r sample : Nat) : List Nat := (List.range 64).map (fun i => shown s (64 * r + i) sample)

/-- What they showed in the sample before; the first sample has none before it. -/
def shownWas (s : State) (r sample : Nat) : List Nat :=
  if (s.acq r).run.next = 0 then shownNow s r sample else (List.range 64).map (fun i => (s.evin (64 * r + i)).smp)

/-- An input that shows what it was sampled as stands still. -/
theorem shown_still {sample i : Nat} (hi : i < 64) (h : shown s (64 * r + i) sample = (s.evin (64 * r + i)).smp) :
    (shownWas s r sample).getD i 0 = (shownNow s r sample).getD i 0 := by
  have hgetD : ∀ f : Nat → Nat, ((List.range 64).map f).getD i 0 = f i := fun f => by
    simp [List.getD_eq_getElem?_getD, hi]
  unfold shownWas
  split
  · rfl
  · rw [hgetD, shownNow, hgetD, h]

/-- After the conditions are judged, a sample registers the triggers met and stores its beads. -/
theorem trigPart_oneSample {sample : Nat} (hpost : (s.acq r).run.postEnd = none) :
    ∃ u, trigPart u r = trigPart (judged s r sample (shownWas s r sample) (shownNow s r sample) 8).1 r
      ∧ trigPart (oneSample s r sample) r
        = trigPart (trigEvent u r (judged s r sample (shownWas s r sample) (shownNow s r sample) 8).2 sample) r := by
  have hover : postOver s r sample = s := by
    rw [postOver, hpost]
  refine ⟨gapWork (forAll (List.range 64) (fun s' i => if (s'.evin (64 * r + i)).smp = (shownNow s r sample).getD i 0 then s'
    else s'.updEvin (64 * r + i) (fun e => { e with smp := (shownNow s r sample).getD i 0 }))
    (judged s r sample (shownWas s r sample) (shownNow s r sample) 8).1) r sample, ?_, ?_⟩
  · refine (trigPart_gapWork ..).trans (forAll_same (trigPart · r) fun u i _ => ?_)
    exact trigPart_ite rfl (trigPart_acqs rfl rfl)
  · unfold oneSample
    dsimp only
    rw [hover]
    refine (trigPart_updAcq _ _ (by exact fun _ => rfl)).trans ((forAll_same (trigPart · r) fun u i hi => ?_).trans
      ((trigPart_updAcq _ _ (by exact fun _ => rfl)).trans (forAll_same (trigPart · r) fun u low _ => trigPart_acqBead ..)))
    exact trigPart_ite (trigPart_changeBead (by have := List.mem_range.1 hi; omega) ..) rfl

theorem oneSample_next (s : State) (r sample : Nat) : ((oneSample s r sample).acq r).run.next = sample + 1 := by
  unfold oneSample
  dsimp only
  rw [State.acq_updAcq_self]

/-- One sample in which a quiet time runs out: it restarts, its trigger is registered and the next sample is due. -/
theorem oneSample_quiet {sample : Nat} (hn : n < 8) (hpost : (s.acq r).run.postEnd = none) (hfrom : ((s.acq r).trig n).fromEdge = none)
    (htyp : ((s.acq r).trig n).typ = 3) (hdue : ((s.acq r).trig n).due sample = true)
    (hstill : shown s (64 * r + ((s.acq r).trig n).input) sample = (s.evin (64 * r + ((s.acq r).trig n).input)).smp) :
    ((oneSample s r sample).acq r).trig n = { (s.acq r).trig n with from_ := some sample }
    ∧ (r, 4, n, sample / 8 + 25) ∈ (oneSample s r sample).evRegs := by
  obtain ⟨htrig, hbit⟩ := judged_quiet hfrom htyp hdue (shown_still (r := r) (Nat.mod_lt _ (by decide)) hstill) hn
  obtain ⟨u, hu, hsample⟩ := trigPart_oneSample (r := r) (sample := sample) hpost
  refine ⟨?_, ?_⟩
  · rw [acq_of_trigPart hsample, trigEvent_trig, acq_of_trigPart hu, htrig]
  · rw [show (oneSample s r sample).evRegs = _ from (Prod.mk.inj hsample).1]
    exact mem_trigEvent hn hbit u sample

/-- Where the sample due is the one asked for, the acquisition takes that sample alone. -/
theorem runTo_one {k : Nat} (hk : k < 8) (harmed : (s.acq r).armed = true) (hnext : (s.acq r).run.next = 8 * (s.region r).edge + k) :
    runTo s r (8 * (s.region r).edge + k + 1) = oneSample s r (8 * (s.region r).edge + k) := by
  unfold runTo
  generalize (s.region r).edge = e at hnext ⊢
  interval_cases k <;> simp [List.range_succ, harmed, hnext]

end Sys2Proof.Claims
end

section
/-! O27. Event inputs and trigger conditions. -/
namespace Sys2Proof.Claims
open Sys2Proof Sys2Proof.Machine
variable {s : State} {tag : Nat} {c : Cmd}

/-- What a write of EVIN_CTL puts into its input: the fields, and a settling when it enables an input that was not. -/
def evinCtlSet (v : Word) (edge : Nat) (e : EvinSt) : EvinSt :=
  { e with
    store := v.getLsbD 7, term := v.getLsbD 6, hyst := v.extractLsb' 2 4, en := v.getLsbD 0, cfgErr := false, applyAt := some (edge + 1),
    settleAt := if v.getLsbD 0 then (if e.en then e.settleAt else some (edge + 64)) else none }

theorem writeEvinCtl_eq (s : State) (i : Nat) (v : Word) :
    writeEvinCtl s i v = s.updEvin i (evinCtlSet v (s.region (i / 64)).edge) := rfl

theorem exec_evinCtlWrite_reached {i : Nat} {v : Word} (hh : 2 ≤ s.sec.host) (hreach : evinReach s i = .ok) (hen : (s.evin i).en = false) :
    ∃ t, exec (.evinCtlWrite i v) s = .next t ∧ (t.evin i).en = v.getLsbD 0 ∧ (t.evin i).store = v.getLsbD 7 ∧ (t.evin i).term = v.getLsbD 6
      ∧ (t.evin i).hyst = v.extractLsb' 2 4 ∧ (t.evin i).cfgErr = false ∧ (t.evin i).applyAt = some ((s.region (i / 64)).edge + 1)
      ∧ (t.evin i).settleAt = (if v.getLsbD 0 then some ((s.region (i / 64)).edge + 64) else none)
      ∧ OnlyEvin (s.parityFresh (evinBase i)) t i := by
  have hx : exec (.evinCtlWrite i v) s = .next ((s.parityFresh (evinBase i)).updEvin i (evinCtlSet v (s.region (i / 64)).edge)) := by
    refine next_eq ((ownerWrite_owner hh _).trans ?_)
    rw [hreach]
    rfl
  refine ⟨_, hx, ?_⟩
  have hself : ((s.parityFresh (evinBase i)).updEvin i (evinCtlSet v (s.region (i / 64)).edge)).evin i
      = evinCtlSet v (s.region (i / 64)).edge (s.evin i) := State.evin_updEvin_self ..
  rw [hself]
  refine ⟨rfl, rfl, rfl, rfl, rfl, rfl, ?_, updEvin_onlyEvin ..⟩
  simp only [evinCtlSet, hen, Bool.false_eq_true, if_false]

theorem exec_comparatorChange_one {r slot k : Nat} {v : Int} (hr : Runs s r) (hk : k < 64) :
    ∃ t, exec (.evinComparatorChange r slot [(k, v)]) s = .next t ∧ (t.evin (64 * r + k)).volt = v
      ∧ (t.evin (64 * r + k)).hi = ((s.evin (64 * r + k)).force.on
          && compared v ((s.evin (64 * r + k)).force.hiV + Config.evinOffset (64 * r + k) true) (s.evin (64 * r + k)).force.half (s.evin (64 * r + k)).hi)
      ∧ (t.evin (64 * r + k)).lo = ((s.evin (64 * r + k)).force.on
          && compared v ((s.evin (64 * r + k)).force.loV + Config.evinOffset (64 * r + k) false) (s.evin (64 * r + k)).force.half (s.evin (64 * r + k)).lo)
      ∧ ((s.acq r).armed = false → OnlyEvin s t (64 * r + k)) := by
  have hx : exec (.evinComparatorChange r slot [(k, v)]) s
      = .next (senseInput s (64 * r + k) (8 * (s.region r).edge + slot % 8) (fun e => { e with volt := v })) := by
    refine (if_pos hr).trans ?_
    simp [hk]
  have hdiv : (64 * r + k) / 64 = r := by omega
  refine ⟨_, hx, ?_⟩
  have hself : (senseInput s (64 * r + k) (8 * (s.region r).edge + slot % 8) (fun e => { e with volt := v })).evin (64 * r + k)
      = ({ s.evin (64 * r + k) with volt := v } : EvinSt).sense (64 * r + k) := by
    unfold senseInput
    dsimp only
    split
    · rw [State.evin_updAcq, State.evin_updEvin_self]
    · rw [State.evin_updEvin_self]
  rw [hself]
  refine ⟨rfl, rfl, rfl, fun harmed => ?_⟩
  unfold senseInput
  dsimp only
  rw [hdiv, if_neg (by simp [harmed])]
  exact updEvin_onlyEvin ..

theorem exec_triggerQuietTime_due {r slot n x : Nat} (hx : x = 8 * (s.region r).edge + slot % 8) (harmed : (s.acq r).armed = true)
    (hnext : (s.acq r).run.next = x) (hpost : (s.acq r).run.postEnd = none) (hfrom : ((s.acq r).trig (n % 8)).fromEdge = none)
    (htyp : ((s.acq r).trig (n % 8)).typ = 3) (hdue : ((s.acq r).trig (n % 8)).due x = true)
    (hstill : shown s (64 * r + ((s.acq r).trig (n % 8)).input) x = (s.evin (64 * r + ((s.acq r).trig (n % 8)).input)).smp) :
    ∃ t, exec (.triggerQuietTime r slot n) s = .next t ∧ ((t.acq r).trig (n % 8)) = { (s.acq r).trig (n % 8) with from_ := some x }
      ∧ (t.acq r).run.next = x + 1 ∧ (r, 4, n % 8, (s.region r).edge + 25) ∈ t.evRegs := by
  subst hx
  have hslot : slot % 8 < 8 := Nat.mod_lt _ (by decide)
  have hexec : exec (.triggerQuietTime r slot n) s = .next (oneSample s r (8 * (s.region r).edge + slot % 8)) :=
    (if_pos ⟨harmed, hnext.le, hdue⟩).trans (next_eq (runTo_one hslot harmed hnext))
  obtain ⟨htrig, hmem⟩ := oneSample_quiet (Nat.mod_lt n (by decide)) hpost hfrom htyp hdue hstill
  have hedge : (8 * (s.region r).edge + slot % 8) / 8 + 25 = (s.region r).edge + 25 := by omega
  exact ⟨_, hexec, htrig, oneSample_next .., hedge ▸ hmem⟩

/-- A write in an Owner session that reaches its acquisition is taken, and reported as ignored where it is refused. -/
theorem acqWrite_ok {r : Nat} (hh : 2 ≤ s.sec.host) (hreach : acqReach s r = .ok) (off : Nat) (v : Word) :
    acqWrite s r off v = if acqRefused (s) r off v then
      { writeAcq (s.parityFresh (regionBase r + 0x5000 + off)) r off v with hp.ign := true }
      else writeAcq (s.parityFresh (regionBase r + 0x5000 + off)) r off v := by
  rw [acqWrite, ownerWrite_owner hh, hreach]

/-- The register of a trigger's control word: which trigger and which of its words it is. -/
theorem writeAcq_trigCtl (s : State) (r : Nat) {n : Nat} (hn : n < 8) (v : Word) : writeAcq s r (0x10 + 4 * n) v = writeTrig s r n 0 v := by
  have hdiv : (0x10 + 4 * n - 0x10) / 4 = n := by omega
  have hmod : (0x10 + 4 * n) % 4 = 0 := by omega
  unfold writeAcq
  rw [if_neg (by omega), if_neg (by omega), if_neg (by omega), if_neg (by omega), if_neg (by omega), if_neg (by omega),
    if_pos (by omega), hdiv, hmod]

theorem acqRefused_trigCtl (s : State) (r : Nat) {n : Nat} (hn : n < 8) (v : Word) :
    acqRefused s r (0x10 + 4 * n) v = ! trigOk v ((s.acq r).trig n).t1 ((s.acq r).trig n).t2 := by
  have hdiv : (0x10 + 4 * n - 0x10) / 4 = n := by omega
  unfold acqRefused
  dsimp only
  rw [if_neg (by omega), hdiv, decide_eq_true (by omega : 0x10 ≤ 0x10 + 4 * n), decide_eq_true (by omega : 0x10 + 4 * n < 0x30),
    decide_eq_true (by omega : (0x10 + 4 * n) % 4 = 0)]
  rfl

theorem exec_trigWrite_refused {r n : Nat} {v : Word} (hh : 2 ≤ s.sec.host) (hreach : acqReach s r = .ok) (hn : n < 8)
    (hbad : trigOk v ((s.acq r).trig n).t1 ((s.acq r).trig n).t2 = false) :
    exec (.trigRegisterWrite r (0x10 + 4 * n) v) s = .next { (s.parityFresh (regionBase r + 0x5000 + (0x10 + 4 * n))).updAcq r
      (fun a => { a with regs.cfgErr := true }) with hp.ign := true } := by
  refine next_eq ((if_pos (by omega)).trans ((acqWrite_ok hh hreach ..).trans ?_))
  rw [acqRefused_trigCtl s r hn, hbad, writeAcq_trigCtl _ _ hn]
  have hset : writeTrig (s.parityFresh (regionBase r + 0x5000 + (0x10 + 4 * n))) r n 0 v
      = (s.parityFresh (regionBase r + 0x5000 + (0x10 + 4 * n))).updAcq r (fun a => { a with regs.cfgErr := true }) :=
    if_pos ⟨rfl, hbad⟩
  rw [hset]
  rfl

theorem exec_trigWrite_taken {r n : Nat} {v : Word} (hh : 2 ≤ s.sec.host) (hreach : acqReach s r = .ok) (hn : n < 8)
    (hok : trigOk v ((s.acq r).trig n).t1 ((s.acq r).trig n).t2 = true) :
    ∃ t, exec (.trigRegisterWrite r (0x10 + 4 * n) v) s = .next t ∧ ((t.acq r).trig n).ctl = v &&& 0x3FF3F
      ∧ ((t.acq r).trig n).fromEdge = some ((s.region r).edge + 1) ∧ (t.acq r).regs.cfgErr = false
      ∧ ∀ m, m ≠ n → (t.acq r).trig m = (s.acq r).trig m := by
  set s1 := s.parityFresh (regionBase r + 0x5000 + (0x10 + 4 * n)) with hs1
  have hset : writeTrig s1 r n 0 v = (setTrig s1 r n { (s.acq r).trig n with
      fromEdge := some ((s.region r).edge + 1), ctl := v &&& 0x3FF3F }).updAcq r (fun a => { a with regs.cfgErr := false }) :=
    if_neg (by rintro ⟨-, h⟩; exact absurd (h.symm.trans hok) (by decide))
  have hx : exec (.trigRegisterWrite r (0x10 + 4 * n) v) s = .next (writeTrig s1 r n 0 v) := by
    refine next_eq ((if_pos (by omega)).trans ((acqWrite_ok hh hreach ..).trans ?_))
    rw [acqRefused_trigCtl s r hn, hok, writeAcq_trigCtl _ _ hn]
    rfl
  have htrig : ∀ m, ((writeTrig s1 r n 0 v).acq r).trig m = if m = n then { (s.acq r).trig n with
      fromEdge := some ((s.region r).edge + 1), ctl := v &&& 0x3FF3F } else (s.acq r).trig m := fun m => by
    rw [hset, State.acq_updAcq_self]
    exact trig_setTrig ..
  refine ⟨_, hx, ?_, ?_, ?_, fun m hm => ?_⟩
  · rw [htrig, if_pos rfl]
  · rw [htrig, if_pos rfl]
  · rw [hset, State.acq_updAcq_self]
  · rw [htrig, if_neg hm]

theorem exec_evinConfig_one (hb : Begins s tag 0x050 c) (hsc : tgtScope c.target = 3) (h0 : (c.arg 0 &&& 0x3FF02) = 0)
    (h1 : (c.arg 1 &&& 0x3FC00) = 0) (h2 : (c.arg 2 &&& 0x3FC00) = 0) (hle : (c.arg 2).toNat ≤ (c.arg 1).toNat) :
    ∃ t, exec (.evinConfig tag) s = .next t ∧ findCmd t tag = none ∧ (t.evin c.unit).thrHi = (c.arg 1).extractLsb' 0 10
      ∧ (t.evin c.unit).thrLo = (c.arg 2).extractLsb' 0 10 ∧ (t.evin c.unit).en = (c.arg 0).getLsbD 0 ∧ ∀ k, k ≠ c.unit → t.evin k = s.evin k := by
  have hnamed : evinNamed c = [c.unit] := if_pos hsc
  have hok : ¬(evinNamed c = [] ∨ (c.arg 0 &&& 0x3FF02) ≠ 0 ∨ (c.arg 1 &&& 0x3FC00) ≠ 0 ∨ (c.arg 2 &&& 0x3FC00) ≠ 0
      ∨ (c.arg 1).toNat < (c.arg 2).toNat) := by
    rw [hnamed]
    rintro (h | h | h | h | h)
    exacts [absurd h (by simp), h h0, h h1, h h2, absurd h (Nat.not_lt.2 hle)]
  refine ⟨_, (next_eq (hb.hitan_eq _)).trans (next_eq (if_neg hok)), findCmd_complete .., ?_⟩
  simp only [hnamed, forAll_cons, forAll_nil, writeEvinCtl_eq]
  rw [evin_complete, State.evin_updEvin_self, State.evin_updEvin_self]
  refine ⟨rfl, rfl, rfl, fun k hk => ?_⟩
  rw [evin_complete, State.evin_updEvin_ne _ _ hk, State.evin_updEvin_ne _ _ hk, evin_begun]

theorem exec_trigConfig_taken (hb : Begins s tag 0x051 c) (hok : trigOk (c.arg 1) (c.arg 2) (c.arg 3) = true) :
    ∃ t, exec (.trigConfig tag) s = .next t ∧ Answered s t c OK [] ∧ ((t.acq c.unit).trig (fld (c.arg 0) 0 3)).ctl = c.arg 1 &&& 0x3FF3F
      ∧ ((t.acq c.unit).trig (fld (c.arg 0) 0 3)).t1 = c.arg 2 ∧ ((t.acq c.unit).trig (fld (c.arg 0) 0 3)).t2 = c.arg 3 := by
  refine ⟨_, (next_eq (hb.hitan_eq _)).trans (next_eq (if_neg (by rw [hok]; decide))), hb.answered (by rfl) _ _, ?_⟩
  rw [acq_complete, State.acq_updAcq_self]
  exact ⟨congrArg Trig.ctl ((trig_setTrig ..).trans (if_pos rfl)), congrArg Trig.t1 ((trig_setTrig ..).trans (if_pos rfl)),
    congrArg Trig.t2 ((trig_setTrig ..).trans (if_pos rfl))⟩

/-- Settles O27: each row by the branch it takes. -/
theorem eventInputsAndTriggersFollowTheirRegisters : Obligations.EventInputsAndTriggersFollowTheirRegisters :=
  ⟨fun _ _ _ => exec_evinCtlWrite_reached,
    fun _ _ _ hh hr hle => exec_thresholdWrite_accepted (hi := true) hh hr (Nat.not_lt.2 hle),
    fun _ _ _ hh hr hle => exec_thresholdWrite_accepted (hi := false) hh hr (Nat.not_lt.2 hle),
    fun _ _ _ _ hh hr hc => exec_thresholdWrite_crossing hh hr hc,
    fun _ _ _ hs he => next_eq (if_pos (by rw [hs]; exact decide_eq_true he)),
    fun _ _ _ _ _ => exec_comparatorChange_one, fun _ _ _ _ _ => exec_triggerQuietTime_due, fun _ _ _ _ => exec_trigWrite_refused,
    fun _ _ _ _ => exec_trigWrite_taken, fun _ _ _ hb hsc h0 h1 h2 hle _ => exec_evinConfig_one hb hsc h0 h1 h2 hle,
    fun _ _ _ => exec_trigConfig_taken⟩

end Sys2Proof.Claims
end
section
/-! SUPPORT. A MARK due on the first edge of an OFFLINE period reaches a TIU of another block. -/
namespace Sys2Proof.Claims
open Sys2Proof Sys2Proof.Machine

/-- The run of tests 1 to 5 on block 0 that has all its grants. -/
def blockRun : BistRun := { tag := 1, tests := 0b111110, periods := [.block 0], stage := .waitGrant }

/-- TIU 4, of block 1: READY, stopped by mark 0, and one early stop short of the greatest count. -/
def tiuNearFull : TiuSt :=
  { ({} : TiuSt) with st := .ready, run := { ({} : TiuCfg) with stop := 0x400 }, early := 0x3FFFE }

/-- The run of `blockRun` is about to start in region 0; the engine of cell 0 stands at a MARK of 0 to the region's bus,
due on this edge. -/
def markAtStart : State :=
  { State.reset with
    regions := [(0, { inReset := false })], bist := { runs := [blockRun] },
    cells := [(0, { ({} : CellSt) with eng.st := .running })], hopTab := [(0, 0x10200)], tius := [(4, tiuNearFull)] }

/-- The engine of cell 0 is stopped behind the MARK (R402 step 2); as an early stop it fills the count of TIU 4, and
block 1 posts its event 8. -/
theorem exec_offlineStart_markAtStart :
    (match exec (.offlineStart (0 / 4)) markAtStart with
      | .next t => (t.block 1).events.ev
      | _ => 0) = 0x100 := by decide +kernel

/-- Refutes O33: OFFLINE_START stops the engines of its block, and a MARK that is due on this edge still has its effect, in
other blocks too. In `markAtStart` the OFFLINE period of block 0 begins and block 1 posts an event. -/
theorem not_selfTestsTakeSlotsAndRestore : ¬ Obligations.SelfTestsTakeSlotsAndRestore := by
  unfold Obligations.SelfTestsTakeSlotsAndRestore
  rintro ⟨-, -, -, hstart, -⟩
  obtain ⟨t, ht, -, -, -, -, -, hothers⟩ := hstart 0 blockRun markAtStart rfl rfl rfl rfl
  have hevents := exec_offlineStart_markAtStart
  rw [ht] at hevents
  change (t.block 1).events.ev = 0x100 at hevents
  rw [hothers 1 (by decide)] at hevents
  exact absurd hevents (by decide)

end Sys2Proof.Claims
end
section
/-! SUPPORT. An application edge of a region number that no region has. -/
namespace Sys2Proof.Claims
open Sys2Proof Sys2Proof.Machine

/-- A device with a change of TH64 mode due on this edge under the region number 4. -/
def th64ChangeOfRegion4 : State :=
  { State.reset with
    cal.applyAt := [(4, 0, none)], rmem := [(4, { th64 := 1 })] }

/-- The cells numbered for region 4 begin at 64 * 4 = 256, the spare of block 0 in region 0, which is present; it takes the
gains of the nominal set. -/
theorem exec_calApplicationEdge_th64ChangeOfRegion4 :
    (match exec (.calApplicationEdge 4) th64ChangeOfRegion4 with
      | .next t => (t.cell 256).trim.kdco.length
      | _ => 0) = 8 := by decide +kernel

/-- Refutes O32: the statement ranges over every region number, and `regionCells` of the number 4, which no region has,
holds the sixteen spares. In `th64ChangeOfRegion4` the application edge of "region 4" moves cell 256, of region 0. -/
theorem not_calibrationRunsUnitsAndCommits : ¬ Obligations.CalibrationRunsUnitsAndCommits := by
  unfold Obligations.CalibrationRunsUnitsAndCommits
  rintro ⟨-, -, -, -, -, -, -, -, -, -, -, -, -, hedge, -⟩
  obtain ⟨t, ht, -, -, -, -, hothers⟩ := hedge 4 th64ChangeOfRegion4 (by decide) (by decide)
  have hmoved := exec_calApplicationEdge_th64ChangeOfRegion4
  rw [ht] at hmoved
  change (t.cell 256).trim.kdco.length = 8 at hmoved
  rw [hothers 256 (by decide)] at hmoved
  exact absurd hmoved (by decide)

end Sys2Proof.Claims
end
section
/-! SUPPORT. The arbiter's grants, and the steps of a seating and of a return. -/
namespace Sys2Proof.Claims
open Sys2Proof Sys2Proof.Machine

variable {s : State}

/-! ### What the operations of a seating leave as it is -/

theorem chanOf_ne_spareOf {b c : Nat} (hb : b < 16) (hc : c < 16) : chanOf b c ≠ spareOf b := by
  unfold chanOf spareOf
  omega

theorem block_of_blocks {t : State} (h : t.blocks = s.blocks) (j : Nat) : t.block j = s.block j := by
  unfold State.block
  rw [h]

theorem cell_of_cells {t : State} (h : t.cells = s.cells) (j : Nat) : t.cell j = s.cell j := by
  unfold State.cell
  rw [h]

theorem block_faultBlock (s : State) (B cause action qual : Nat) (detail : Word) (k : Nat) :
    (faultBlock s B cause action qual detail k).block B = { s.block B with events := (s.block B).events.postBit k } := by
  unfold faultBlock State.postBlock
  rw [State.block_updBlock_self, block_pushFault]

theorem blocks_loadCell (s : State) (p : Nat) : (loadCell s p).blocks = s.blocks := rfl

theorem cell_loadCell_ne (s : State) {p j : Nat} (h : j ≠ p) : (loadCell s p).cell j = s.cell j :=
  State.cell_updCell_ne (undefer s p) _ h

theorem blocks_hopBoundary (s : State) (p : Nat) : (hopBoundary s p).blocks = s.blocks := by
  unfold hopBoundary
  split
  · exact blocks_loadCell s p
  · rfl

theorem cell_hopBoundary_ne (s : State) {p j : Nat} (h : j ≠ p) : (hopBoundary s p).cell j = s.cell j := by
  unfold hopBoundary
  split
  · exact cell_loadCell_ne s h
  · rfl

/-- The engine of a cell takes no part in the load of its working values. -/
theorem eng_hopBoundary (s : State) (p : Nat) : ((hopBoundary s p).cell p).eng = (s.cell p).eng := by
  unfold hopBoundary
  split
  · unfold loadCell loadCellFrom
    rw [State.cell_updCell_self]
    rfl
  · rfl

theorem blocks_markTius (s : State) (B c : Nat) : (markTius s B c).blocks = s.blocks := by
  unfold markTius
  exact forAll_same State.blocks (by
    intro s t _
    dsimp only
    split <;> rfl)

theorem cells_markTius (s : State) (B c : Nat) : (markTius s B c).cells = s.cells := by
  unfold markTius
  exact forAll_same State.cells (by
    intro s t _
    dsimp only
    split <;> rfl)

/-- The waits for lock that end are completed; the cells change in their list alone. -/
theorem cells_endLockTags (s : State) (p status : Nat) :
    (endLockTags s p status).cells = (s.updCell p (fun c => { c with hop.lockTags := [] })).cells := by
  unfold endLockTags
  exact forAll_same State.cells (fun s t _ => complete_cells ..)

theorem blocks_endLockTags (s : State) (p status : Nat) : (endLockTags s p status).blocks = s.blocks := by
  unfold endLockTags
  exact forAll_same State.blocks (fun s t _ => complete_blocks ..)

theorem cell_endLockTags (s : State) (p status j : Nat) :
    (endLockTags s p status).cell j = (s.updCell p (fun c => { c with hop.lockTags := [] })).cell j := by
  unfold State.cell
  rw [cells_endLockTags]

theorem out_endLockTags (s : State) (p status j : Nat) : ((endLockTags s p status).cell j).out = (s.cell j).out := by
  rw [cell_endLockTags, State.cell_updCell]
  split
  · next h => rw [h]
  · rfl

/-- A seating enters its record in the block (R114 step 1). -/
theorem block_seat (s : State) (B c : Nat) (req : Requester) (ret : Bool) (forced : Option Nat) (e : Nat) :
    (seat s B c req ret forced e).block B =
      { s.block B with seating := some { c := c, req := req, ret := ret, forcedFor := forced, from_ := e } } :=
  State.block_updBlock_self s B (fun b =>
    { b with seating := some { c := c, req := req, ret := ret, forcedFor := forced, from_ := e } })

theorem blocks_moveEngine (s : State) (src dst : Nat) : (moveEngine s src dst).blocks = s.blocks := rfl

theorem cell_moveEngine_ne (s : State) {src dst j : Nat} (hsrc : j ≠ src) (hdst : j ≠ dst) :
    (moveEngine s src dst).cell j = s.cell j :=
  (State.cell_updCell_ne _ _ hsrc).trans (State.cell_updCell_ne _ _ hdst)

theorem pc_lockEnded (e : Engine) (now : Nat) : (e.lockEnded now).pc = e.pc := by
  unfold Engine.lockEnded
  split <;> rfl

/-- The engine arrives with its program counter (R112). -/
theorem pc_moveEngine {src dst : Nat} (h : dst ≠ src) : ((moveEngine s src dst).cell dst).eng.pc = (s.cell src).eng.pc := by
  unfold moveEngine
  rw [State.cell_updCell_ne _ _ h, State.cell_updCell_self]
  dsimp only
  split
  · exact pc_lockEnded ..
  · rfl

theorem stopped_moveEngine (s : State) (src dst : Nat) : ((moveEngine s src dst).cell src).eng.st = .stopped := by
  unfold moveEngine
  rw [State.cell_updCell_self]
  rfl

theorem block_releaseSpare (s : State) (B j : Nat) : (releaseSpare s B).block j = s.block j := rfl

theorem cell_releaseSpare_ne (s : State) {B j : Nat} (h : j ≠ spareOf B) : (releaseSpare s B).cell j = s.cell j :=
  State.cell_updCell_ne s _ h

/-- A released spare is disabled and its engine stopped (R116). -/
theorem spare_releaseSpare (s : State) (B : Nat) :
    ((releaseSpare s B).cell (spareOf B)).cfg.ctl.en = false ∧ ((releaseSpare s B).cell (spareOf B)).eng.st = .stopped := by
  unfold releaseSpare
  rw [State.cell_updCell_self]
  exact ⟨rfl, rfl⟩

/-! ### Grants (R21) -/

theorem overtakes_front {b : Nat} {w : Requester × Nat} {rest : List (Requester × Nat)} (hw : (s.block b).waiting = w :: rest) :
    overtakes s b w = false := by
  simp [overtakes, hw]

/-- The block behind the grant of its first waiting request. -/
def granted (s : State) (b : Nat) (w : Requester × Nat) : State :=
  s.updBlock b (fun x => { x with waiting := x.waiting.erase w })

theorem block_granted {b : Nat} {w : Requester × Nat} {rest : List (Requester × Nat)} (hw : (s.block b).waiting = w :: rest) :
    (granted s b w).block b = { s.block b with waiting := rest } := by
  unfold granted
  rw [State.block_updBlock_self, hw, List.erase_cons_head]

/-- A block keeps everything but its waiting requests. -/
theorem block_granted_of {b : Nat} {w : Requester × Nat} {α : Type} (g : BlockSt → α)
    (hg : ∀ (x : BlockSt) (l : List (Requester × Nat)), g { x with waiting := l } = g x) (j : Nat) :
    g ((granted s b w).block j) = g (s.block j) := by
  unfold granted
  rw [State.block_updBlock]
  split
  · next h => rw [hg, h]
  · rfl

theorem find_waiting_front {b : Nat} {w : Requester × Nat} {rest : List (Requester × Nat)} (hw : (s.block b).waiting = w :: rest)
    (hgrant : grantable s b w = true) :
    (s.block b).waiting.find? (fun w => grantable s b w && ! overtakes s b w) = some w := by
  rw [hw, List.find?_cons_of_pos]
  rw [hgrant, overtakes_front hw]
  rfl

/-- A calibration unit of a TIU takes that TIU (R377). -/
theorem arbiterGrant_cal {b tag : Nat} {rest : List (Requester × Nat)} {r : CalRun} {u : CalUnit}
    (hw : (s.block b).waiting = (.cal, tag) :: rest) (hrun : s.cal.runs.find? (fun r => r.tag == tag) = some r)
    (hnew : b ∉ r.granted) (hunit : calUnitOf r b = some u) (hkind : u.kind = 0) (hfree : tiuFree s u.unit = true) :
    ∃ t, exec (.arbiterGrant b) s = .next t ∧ (t.block b).waiting = rest ∧ (t.block b).tiuHeld = [u.unit % 4]
      ∧ t.cells = s.cells ∧ t.tius = s.tius ∧ t.mbx = s.mbx := by
  have hnot : r.granted.contains b = false := by simpa using hnew
  have hask : calAsk s b tag = some u := by
    unfold calAsk
    rw [hrun, Option.bind_some, hnot, if_neg Bool.false_ne_true, hunit]
  have hgrant : grantable s b (.cal, tag) = true := by
    simp only [grantable, hask, hkind, if_true, hfree]
  have hexec : exec (.arbiterGrant b) s = .next (grantCal (granted s b (.cal, tag)) b tag) := by
    change execArbiterGrant b s = _
    unfold execArbiterGrant
    rw [find_waiting_front hw hgrant]
    rfl
  have hcal : grantCal (granted s b (.cal, tag)) b tag =
      ({ granted s b (.cal, tag) with cal.runs := s.cal.runs.map (fun x => if x.tag = tag then { x with granted := x.granted ++ [b] } else x) } : State).updBlock b
        (fun x => { x with tiuHeld := [u.unit % 4] }) := by
    unfold grantCal
    rw [show (granted s b (.cal, tag)).cal.runs.find? (fun r => r.tag == tag) = some r from hrun]
    simp only [hnot, if_neg Bool.false_ne_true, hunit, hkind, if_true]
    rfl
  refine ⟨_, hexec, ?_⟩
  rw [hcal]
  refine ⟨?_, ?_, rfl, rfl, rfl⟩
  · rw [State.block_updBlock_self]
    exact congrArg BlockSt.waiting (block_granted hw)
  · rw [State.block_updBlock_self]

theorem spareServes_granted {b : Nat} {w : Requester × Nat} (j : Nat) : spareServes (granted s b w) j = spareServes s j := by
  unfold spareServes
  dsimp only
  rw [block_granted_of BlockSt.seated (fun _ _ => rfl), block_granted_of BlockSt.why (fun _ _ => rfl),
    block_granted_of BlockSt.seating (fun _ _ => rfl)]

theorem outOfService_granted {b : Nat} {w : Requester × Nat} (n : Nat) : outOfService (granted s b w) n = outOfService s n := by
  unfold outOfService chanLost inService seatedIn
  rw [block_granted_of BlockSt.lost (fun _ _ => rfl), block_granted_of BlockSt.seated (fun _ _ => rfl)]

theorem onlineBarred_granted {b : Nat} {w : Requester × Nat} (n : Nat) : onlineBarred (granted s b w) n = onlineBarred s n := by
  unfold onlineBarred
  rw [outOfService_granted, spareServes_granted, block_granted_of BlockSt.spareFaulty (fun _ _ => rfl)]

/-- An ONLINE test of a cell in service has the spare seated in the cell's place (R400 step 2). -/
theorem arbiterGrant_online {b tag n : Nat} {rest : List (Requester × Nat)} {r : BistRun} {ps : List SlotKind}
    (hw : (s.block b).waiting = (.online, tag) :: rest) (hrun : bistRunOf s tag = some r) (hper : r.periods = .online n :: ps)
    (hbar : onlineBarred s n = false) (hout : outOfService s n = false) (hfree : spareFree s b = true) :
    ∃ t, exec (.arbiterGrant b) s = .next t ∧ (t.block b).waiting = rest ∧ (t.block b).holder = some .online
      ∧ (t.block b).seating.map (fun q => (q.c, q.req, q.ret)) = some (n % 16, .online, false) := by
  have hgrant : grantable s b (.online, tag) = true := by
    simp only [grantable, hrun, hper, hfree, Bool.or_true]
  have hexec : exec (.arbiterGrant b) s = .next (grantOnline (granted s b (.online, tag)) b tag) := by
    change execArbiterGrant b s = _
    unfold execArbiterGrant
    rw [find_waiting_front hw hgrant]
    rfl
  refine ⟨_, hexec, ?_⟩
  unfold grantOnline
  rw [show bistRunOf (granted s b (.online, tag)) tag = some r from hrun]
  simp only [hper, onlineBarred_granted, outOfService_granted, hbar, hout, if_neg Bool.false_ne_true]
  rw [block_seat, State.block_updBlock_self, State.block_updBlock_self]
  refine ⟨?_, rfl, rfl⟩
  exact congrArg BlockSt.waiting (block_granted hw)

/-- An OFFLINE period takes the cells and TIUs of an idle block (R402 step 1). -/
theorem arbiterGrant_offline {b tag : Nat} {rest : List (Requester × Nat)} (hw : (s.block b).waiting = (.offline, tag) :: rest)
    (hidle : blockIdle s b = true) (hseated : (s.block b).seated = none) :
    ∃ t, exec (.arbiterGrant b) s = .next t ∧ (t.block b).waiting = rest ∧ (t.block b).holder = some .offline
      ∧ (t.block b).bistState = 1 ∧ t.cells = s.cells ∧ t.tius = s.tius ∧ t.mbx = s.mbx := by
  have hexec : exec (.arbiterGrant b) s = .next (grantOffline (granted s b (.offline, tag)) b) := by
    change execArbiterGrant b s = _
    unfold execArbiterGrant
    rw [find_waiting_front hw hidle]
    rfl
  refine ⟨_, hexec, ?_⟩
  have hblock : (grantOffline (granted s b (.offline, tag)) b).block b = _ := State.block_updBlock_self ..
  rw [hblock, block_granted hw]
  refine ⟨rfl, ?_, rfl, rfl, rfl, rfl⟩
  dsimp only
  rw [hseated]
  rfl

/-! ### The changeover (R112, R114 to R116) -/

/-- The cell a seating brings in, and the one it takes out of service. -/
def incoming (b : Nat) (q : Seating) : Nat := if q.ret then chanOf b q.c else spareOf b
def outgoing (b : Nat) (q : Seating) : Nat := if q.ret then spareOf b else chanOf b q.c

theorem incoming_ne_outgoing {b : Nat} {q : Seating} (hb : b < 16) (hc : q.c < 16) : incoming b q ≠ outgoing b q := by
  unfold incoming outgoing
  split
  · exact chanOf_ne_spareOf hb hc
  · exact (chanOf_ne_spareOf hb hc).symm

/-- A cell that is neither the channel's own nor the spare takes no part. -/
theorem ne_incoming_outgoing {b p : Nat} {q : Seating} (hx : p ≠ chanOf b q.c) (hs : p ≠ spareOf b) :
    p ≠ incoming b q ∧ p ≠ outgoing b q := by
  unfold incoming outgoing
  split
  · exact ⟨hx, hs⟩
  · exact ⟨hs, hx⟩

/-- The engine has moved, and the incoming cell counts lock by the channel's own count again. -/
def engineMoved (s : State) (b : Nat) (q : Seating) : State :=
  (hopBoundary (moveEngine s (outgoing b q) (incoming b q)) (incoming b q)).updCell (incoming b q) (fun c => { c with
    loop.fast := false,
    loop.lossMute := if q.ret then false else c.loop.lossMute,
    loop.lossMuteC := if q.ret then false else c.loop.lossMuteC })

/-- CHANGEOVER_EDGE: the engine moves, the seating enters its second step, and one of fault recovery is recorded. -/
theorem changeoverEdge_eq {b : Nat} {q : Seating} (hq : (s.block b).seating = some q) (hstep : q.step = .acquiring)
    (hready : seatReady s b q = true) :
    ∃ t, exec (.changeoverEdge b) s = .next t ∧ t.cells = (engineMoved s b q).cells
      ∧ (t.block b).seating = some { q with step := .changed, cAt := (s.region (b / 4)).edge } := by
  refine ⟨_, rfl, ?_⟩
  unfold changeover
  rw [hq]
  dsimp only
  rw [if_pos ⟨hstep, hready⟩]
  split
  · rw [faultBlock_cells, block_faultBlock, State.block_updBlock_self]
    exact ⟨rfl, rfl⟩
  · rw [State.block_updBlock_self]
    exact ⟨rfl, rfl⟩

theorem cell_engineMoved_ne {b p : Nat} {q : Seating} (hx : p ≠ chanOf b q.c) (hs : p ≠ spareOf b) :
    (engineMoved s b q).cell p = s.cell p := by
  obtain ⟨hin, hout⟩ := ne_incoming_outgoing hx hs
  unfold engineMoved
  rw [State.cell_updCell_ne _ _ hin, cell_hopBoundary_ne _ hin, cell_moveEngine_ne _ hout hin]

theorem incoming_engineMoved {b : Nat} {q : Seating} (hb : b < 16) (hc : q.c < 16) :
    ((engineMoved s b q).cell (incoming b q)).eng.pc = (s.cell (outgoing b q)).eng.pc
      ∧ ((engineMoved s b q).cell (incoming b q)).loop.fast = false
      ∧ (q.ret = true → ((engineMoved s b q).cell (incoming b q)).loop.lossMute = false) := by
  unfold engineMoved
  rw [State.cell_updCell_self]
  refine ⟨?_, rfl, fun hret => if_pos hret⟩
  dsimp only
  rw [eng_hopBoundary, pc_moveEngine (incoming_ne_outgoing hb hc)]

theorem outgoing_engineMoved {b : Nat} {q : Seating} (hb : b < 16) (hc : q.c < 16) :
    ((engineMoved s b q).cell (outgoing b q)).eng.st = .stopped := by
  have hne := (incoming_ne_outgoing hb hc).symm
  unfold engineMoved
  rw [State.cell_updCell_ne _ _ hne, cell_hopBoundary_ne _ hne, stopped_moveEngine]

/-- The fourth clause of O17. -/
theorem changeoverEdge_moves {b : Nat} {q : Seating} (hb : b < 16) (hc : q.c < 16) (hq : (s.block b).seating = some q)
    (hstep : q.step = .acquiring) (hready : seatReady s b q = true) :
    ∃ t, exec (.changeoverEdge b) s = .next t ∧ (t.block b).seating = some { q with step := .changed, cAt := (s.region (b / 4)).edge }
      ∧ (t.cell (incoming b q)).eng.pc = (s.cell (outgoing b q)).eng.pc
      ∧ (t.cell (incoming b q)).loop.fast = false
      ∧ (q.ret = true → (t.cell (chanOf b q.c)).loop.lossMute = false)
      ∧ (t.cell (outgoing b q)).eng.st = .stopped
      ∧ ∀ p, p ≠ chanOf b q.c → p ≠ spareOf b → t.cell p = s.cell p := by
  obtain ⟨t, ht, hcells, hblock⟩ := changeoverEdge_eq hq hstep hready
  have hcell : ∀ p, t.cell p = (engineMoved s b q).cell p := fun p => cell_of_cells hcells p
  obtain ⟨hpc, hfast, hmute⟩ := incoming_engineMoved (s := s) hb hc
  refine ⟨t, ht, hblock, ?_, ?_, ?_, ?_, fun p hx hs => (hcell p).trans (cell_engineMoved_ne hx hs)⟩
  · rw [hcell, hpc]
  · rw [hcell, hfast]
  · intro hret
    have hx : incoming b q = chanOf b q.c := if_pos hret
    rw [hcell, ← hx, hmute hret]
  · rw [hcell, outgoing_engineMoved hb hc]

/-! ### The switch (R113, R114 step 5, R116) -/

/-- The spare's seat in the block behind the switch. -/
def seatSwitched (s : State) (b : Nat) (q : Seating) : State :=
  (markTius s b q.c).updBlock b (fun y => { y with
    seating := none, seated := if q.ret then none else some q.c, why := if q.ret then .maintenance else whyOf q.req })

theorem cells_seatSwitched (s : State) (b : Nat) (q : Seating) : (seatSwitched s b q).cells = s.cells := by
  unfold seatSwitched State.updBlock
  exact cells_markTius s b q.c

/-- The selector takes the incoming cell and disables the outgoing one. -/
def outputSwitched (s : State) (b : Nat) (q : Seating) : State :=
  ((seatSwitched s b q).updCell (incoming b q)
    (fun c => { c with out.drv := driverFor (cellWant (seatSwitched s b q) (incoming b q)), own := [] }.applyLvds)).updCell
    (outgoing b q) (fun c => { c with out.drv := .disabled, own := [] })

/-- The waits for lock of an incoming cell that is LOCKED end with the switch. -/
def switched (s : State) (b : Nat) (q : Seating) : State :=
  if ((outputSwitched s b q).cell (incoming b q)).loop.locked = true then endLockTags (outputSwitched s b q) (incoming b q) OK
  else outputSwitched s b q

theorem blocks_switched (s : State) (b : Nat) (q : Seating) : (switched s b q).blocks = (seatSwitched s b q).blocks := by
  unfold switched
  split
  · rw [blocks_endLockTags]
    rfl
  · rfl

theorem block_switched (s : State) (b : Nat) (q : Seating) : (switched s b q).block b = { s.block b with
    seating := none, seated := if q.ret then none else some q.c, why := if q.ret then .maintenance else whyOf q.req } := by
  rw [block_of_blocks (blocks_switched s b q)]
  unfold seatSwitched
  rw [State.block_updBlock_self, block_of_blocks (blocks_markTius s b q.c)]

theorem out_switched (s : State) (b : Nat) (q : Seating) (p : Nat) :
    ((switched s b q).cell p).out = ((outputSwitched s b q).cell p).out := by
  unfold switched
  split
  · exact out_endLockTags ..
  · rfl

theorem outgoing_switched (s : State) (b : Nat) (q : Seating) : ((switched s b q).cell (outgoing b q)).out.drv = .disabled := by
  rw [out_switched]
  unfold outputSwitched
  rw [State.cell_updCell_self]

theorem cell_switched_ne {b p : Nat} {q : Seating} (hx : p ≠ chanOf b q.c) (hs : p ≠ spareOf b) :
    (switched s b q).cell p = s.cell p := by
  obtain ⟨hin, hout⟩ := ne_incoming_outgoing hx hs
  have houtput : (outputSwitched s b q).cell p = s.cell p := by
    unfold outputSwitched
    rw [State.cell_updCell_ne _ _ hout, State.cell_updCell_ne _ _ hin, cell_of_cells (cells_seatSwitched s b q)]
  unfold switched
  split
  · rw [cell_endLockTags, State.cell_updCell_ne _ _ hin, houtput]
  · exact houtput

/-- What a switch leads to, by the failed channel that waits for the spare, if any. -/
def afterSwitch (s : State) (b : Nat) (q : Seating) : State :=
  match (s.block b).recover with
  | some (m, e) =>
    if q.ret then
      seat ((releaseSpare (switched s b q) b).updBlock b (fun y => { y with recover := none, holder := some .fault })) b m .fault false none e
    else seat (switched s b q) b q.c .fault true (some m) e
  | none =>
    if q.ret then maintDone (releaseSpare (switched s b q) b) b
    else if q.req = .map then maintDone (switched s b q) b else switched s b q

theorem selectorSwitch_eq {b : Nat} {q : Seating} (hq : (s.block b).seating = some q) (hstep : q.step = .changed)
    (hready : seatReady s b q = true) (hat : switchAt s b q ≤ nowA s (spareOf b)) :
    exec (.selectorSwitch b) s = .next (afterSwitch s b q) := by
  change Host.Outcome.next (selectorSwitch s b) = _
  congr 1
  unfold selectorSwitch
  rw [hq]
  dsimp only
  rw [if_pos ⟨hstep, hready, hat⟩]
  rfl

/-- The block of a maintenance that ends with no holder. -/
theorem maintDone_of_none {b : Nat} (h : (s.block b).holder = none) :
    maintDone s b = s.updBlock b (fun b => { b with holder := if b.seated.isSome then some .map else none, holdCell := none }) := by
  unfold maintDone
  rw [h]

/-- The switch of a seating for fault recovery (R114 step 5). -/
theorem selectorSwitch_fault {b : Nat} {q : Seating} (hq : (s.block b).seating = some q) (hstep : q.step = .changed)
    (hready : seatReady s b q = true) (hat : switchAt s b q ≤ nowA s (spareOf b)) (hrec : (s.block b).recover = none)
    (hret : q.ret = false) (hreq : q.req = .fault) :
    ∃ t, exec (.selectorSwitch b) s = .next t ∧ (t.block b).seated = some q.c ∧ (t.block b).seating = none ∧ (t.block b).why = .fault
      ∧ (t.cell (chanOf b q.c)).out.drv = .disabled ∧ ∀ p, p ≠ chanOf b q.c → p ≠ spareOf b → t.cell p = s.cell p := by
  have hafter : afterSwitch s b q = switched s b q := by
    simp [afterSwitch, hrec, hret, hreq]
  refine ⟨_, selectorSwitch_eq hq hstep hready hat, ?_⟩
  rw [hafter, block_switched, hret, hreq]
  refine ⟨rfl, rfl, rfl, ?_, fun p hx hs => cell_switched_ne hx hs⟩
  have hx : outgoing b q = chanOf b q.c := if_neg (ne_true_of_eq_false hret)
  rw [← hx, outgoing_switched]

/-- The switch of a return with no failed channel waiting releases the spare (R116). -/
theorem selectorSwitch_return {b : Nat} {q : Seating} (hq : (s.block b).seating = some q) (hstep : q.step = .changed)
    (hready : seatReady s b q = true) (hat : switchAt s b q ≤ nowA s (spareOf b)) (hret : q.ret = true)
    (hrec : (s.block b).recover = none) (hhold : (s.block b).holder = none) :
    ∃ t, exec (.selectorSwitch b) s = .next t ∧ (t.block b).seated = none ∧ (t.block b).seating = none
      ∧ (t.cell (spareOf b)).cfg.ctl.en = false ∧ (t.cell (spareOf b)).eng.st = .stopped
      ∧ ∀ p, p ≠ chanOf b q.c → p ≠ spareOf b → t.cell p = s.cell p := by
  have hblock : (releaseSpare (switched s b q) b).block b = _ :=
    (block_releaseSpare (switched s b q) b b).trans (block_switched s b q)
  have hafter : afterSwitch s b q = (releaseSpare (switched s b q) b).updBlock b
      (fun b => { b with holder := if b.seated.isSome then some .map else none, holdCell := none }) := by
    unfold afterSwitch
    rw [hrec]
    dsimp only
    rw [if_pos hret, maintDone_of_none (by rw [hblock]; exact hhold)]
  refine ⟨_, selectorSwitch_eq hq hstep hready hat, ?_⟩
  rw [hafter, State.block_updBlock_self, hblock, hret]
  obtain ⟨hen, hst⟩ := spare_releaseSpare (switched s b q) b
  refine ⟨rfl, rfl, ?_, ?_, ?_⟩
  · rw [State.cell_updBlock, hen]
  · rw [State.cell_updBlock, hst]
  · intro p hx hs
    rw [State.cell_updBlock, cell_releaseSpare_ne _ hs, cell_switched_ne hx hs]

/-- Behind the switch of a seating that a failed channel waits for, the return starts (R22). -/
theorem selectorSwitch_forced {b m e : Nat} {q : Seating} (hq : (s.block b).seating = some q) (hstep : q.step = .changed)
    (hready : seatReady s b q = true) (hat : switchAt s b q ≤ nowA s (spareOf b)) (hret : q.ret = false)
    (hrec : (s.block b).recover = some (m, e)) :
    ∃ t, exec (.selectorSwitch b) s = .next t ∧ (t.block b).seated = some q.c
      ∧ (t.block b).seating.map (fun x => (x.c, x.req, x.ret)) = some (q.c, .fault, true) := by
  have hafter : afterSwitch s b q = seat (switched s b q) b q.c .fault true (some m) e := by
    simp [afterSwitch, hrec, hret]
  refine ⟨_, selectorSwitch_eq hq hstep hready hat, ?_⟩
  rw [hafter, block_seat, block_switched, hret]
  exact ⟨rfl, rfl⟩

/-! ### The time-out of a seating (R117) -/

theorem blocks_loseChannel (s : State) (B c : Nat) :
    (loseChannel s B c).blocks = ((faultBlock s B 0x11 5 0 (wd c) 2).updBlock B (fun b => { b with
      lost := if b.lost.contains c then b.lost else b.lost ++ [c],
      seated := if b.seated = some c then none else b.seated })).blocks :=
  (blocks_endLockTags ..).trans (blocks_endLockTags ..)

/-- A lost channel is among the lost (R26). -/
theorem block_loseChannel (s : State) (B c : Nat) :
    (loseChannel s B c).block B = { s.block B with
      events := (s.block B).events.postBit 2,
      lost := if (s.block B).lost.contains c then (s.block B).lost else (s.block B).lost ++ [c],
      seated := if (s.block B).seated = some c then none else (s.block B).seated } := by
  rw [block_of_blocks (blocks_loseChannel s B c), State.block_updBlock_self, block_faultBlock]

theorem mem_lost_loseChannel (s : State) (B c : Nat) : c ∈ ((loseChannel s B c).block B).lost := by
  rw [block_loseChannel]
  dsimp only
  split
  · next h => simpa using h
  · simp

theorem toMuted_drv (c : CellSt) : c.toMuted.out.drv ≠ .toggling := by
  unfold CellSt.toMuted CellSt.applyLvds
  split
  · next h => rw [h]; decide
  · exact Drv.noConfusion

theorem drv_loseChannel (s : State) (B c : Nat) : ((loseChannel s B c).cell (chanOf B c)).out.drv ≠ .toggling := by
  unfold loseChannel
  dsimp only
  rw [out_endLockTags, out_endLockTags, State.cell_updCell_self]
  exact toMuted_drv _

theorem blocks_staleResults (s : State) (p : Nat) : (staleResults s p).blocks = s.blocks := by
  unfold staleResults
  exact forAll_same State.blocks (by
    intro s t _
    dsimp only
    split <;> rfl)

/-- The channel that waits for the spare is lost with it; the spare stays marked as it was. -/
theorem spareFaulty_loseWaiting (s : State) (B : Nat) : ((loseWaiting s B).block B).spareFaulty = (s.block B).spareFaulty := by
  unfold loseWaiting
  split
  · rfl
  · rw [block_loseChannel, State.block_updBlock_self]

/-- The spare marked faulty, with the channel that waits for it lost. -/
def spareMarked (s : State) (b action : Nat) (served : Word) : State :=
  loseWaiting (staleResults ((faultBlock s b 0x12 action 0 served 3).updBlock b (fun b => { b with spareFaulty := true })) (spareOf b)) b

theorem spareFaulty_spareMarked (s : State) (b action : Nat) (served : Word) :
    ((spareMarked s b action served).block b).spareFaulty = true := by
  unfold spareMarked
  rw [spareFaulty_loseWaiting, block_of_blocks (blocks_staleResults ..), State.block_updBlock_self]

/-- A spare that faults during its seating for fault recovery gives the channel up: it is lost. -/
theorem spareFault_seating {b : Nat} {q : Seating} (hq : (s.block b).seating = some q) (hstep : q.step = .acquiring)
    (hret : q.ret = false) (hreq : q.req = .fault) (honline : blockOffline s b = false) :
    ∃ action served, spareFault s b =
      loseChannel ((releaseSpare ((spareMarked s b action served).updBlock b (fun b => { b with seating := none })) b).updBlock b
        (fun b => { b with holder := none })) b q.c := by
  have hoff : ¬ ((s.block b).offline || (s.mem (b / 4)).offline) = true := ne_true_of_eq_false honline
  have hchanged : ¬ q.step = .changed := by
    rw [hstep]
    exact SeatStep.noConfusion
  unfold spareFault
  dsimp only
  rw [if_neg hoff, hq]
  dsimp only
  rw [if_neg (ne_true_of_eq_false hret), if_neg hchanged, if_pos hreq]
  exact ⟨_, _, rfl⟩

/-- The eighth clause of O17. -/
theorem seatingTimeout_fault {b : Nat} {q : Seating} (hq : (s.block b).seating = some q) (hstep : q.step = .acquiring)
    (hret : q.ret = false) (hreq : q.req = .fault) (hlock : (s.cell (spareOf b)).loop.locked = false)
    (hen : (s.cell (spareOf b)).cfg.ctl.en = true) (hhold : (s.cell (spareOf b)).inHold = false)
    (hloss : (s.cell (spareOf b)).loop.acq ≠ .loss) (hlimit : (s.cell (spareOf b)).acqLimit ≤ (s.region (b / 4)).edge)
    (honline : blockOffline s b = false) :
    ∃ t, exec (.seatingTimeout b) s = .next t ∧ (t.block b).spareFaulty = true ∧ q.c ∈ (t.block b).lost ∧ (t.block b).seating = none
      ∧ (t.cell (chanOf b q.c)).out.drv ≠ .toggling := by
  have hnot : ¬ q.ret = true := ne_true_of_eq_false hret
  have hcount : noCount (s.cell (spareOf b)) = false := by
    unfold noCount
    rw [hen, hhold]
    rfl
  have hexec : exec (.seatingTimeout b) s = .next (spareFault s b) := by
    change Host.Outcome.next (seatExpired s b) = _
    congr 1
    unfold seatExpired
    rw [hq]
    dsimp only
    rw [if_neg hnot, if_pos ⟨hstep, hlock, hloss, hcount, hlimit⟩]
    unfold seatTimeout
    rw [hq]
    exact if_neg hnot
  obtain ⟨action, served, hfault⟩ := spareFault_seating hq hstep hret hreq honline
  refine ⟨_, hexec, ?_⟩
  rw [hfault]
  refine ⟨?_, mem_lost_loseChannel .., ?_, drv_loseChannel _ _ _⟩
  · rw [block_loseChannel, State.block_updBlock_self, block_releaseSpare, State.block_updBlock_self]
    dsimp only
    rw [spareFaulty_spareMarked]
  · rw [block_loseChannel, State.block_updBlock_self, block_releaseSpare, State.block_updBlock_self]

/-- Settles O17: each grant takes the first waiter, which no earlier request stands before; changeover, switch and time-out
follow from what moving the engine, switching the output and losing a channel do to the two cells and the block. -/
theorem theArbiterGrantsAndSeatsTheSpare : Obligations.TheArbiterGrantsAndSeatsTheSpare := by
  unfold Obligations.TheArbiterGrantsAndSeatsTheSpare
  refine ⟨?_, ?_, ?_, ?_, ?_, ?_, ?_, ?_⟩
  · intro b tag rest r u s hw hrun hnew hunit hkind hfree
    exact arbiterGrant_cal hw hrun hnew hunit hkind hfree
  · intro b tag n rest r ps s hw hrun hper hbar hout hfree
    exact arbiterGrant_online hw hrun hper hbar hout hfree
  · intro b tag rest s hw hidle hseated
    exact arbiterGrant_offline hw hidle hseated
  · intro b q s hb hc hq hstep hready
    exact changeoverEdge_moves hb hc hq hstep hready
  · intro b q s _ _ hq hstep hready hat hrec hret hreq
    exact selectorSwitch_fault hq hstep hready hat hrec hret hreq
  · intro b q s _ _ hq hstep hready hat hret hrec hhold
    exact selectorSwitch_return hq hstep hready hat hret hrec hhold
  · intro b m e q s _ _ hq hstep hready hat hret hrec
    exact selectorSwitch_forced hq hstep hready hat hret hrec
  · intro b q s _ _ hq hstep hret hreq hlock hen hhold hloss hlimit honline
    exact seatingTimeout_fault hq hstep hret hreq hlock hen hhold hloss hlimit honline

end Sys2Proof.Claims
end
section
/-! SUPPORT. The clocks of the regions, which nothing but the edge itself moves. -/
namespace Sys2Proof.Claims
open Sys2Proof Sys2Proof.Machine

variable {s : State}

/-- What a CREF edge advances in a region: its times, its edge count, the events of its reference, and whether it runs. -/
def clockOf (g : RegionSt) : BitVec 54 × BitVec 10 × Nat × Sqc × Bool := (g.time, g.anchorHi, g.edge, g.refEvents, g.inReset)

/-- The clocks in a table of regions, with the fuses, which say what regions are present, and the epoch still to be loaded. -/
def clocksOf (regions : Tab RegionSt) (fuses : Fuses) (epoch : Option (BitVec 54 × BitVec 54 × Nat)) :
    (Nat → BitVec 54 × BitVec 10 × Nat × Sqc × Bool) × Fuses × Option (BitVec 54 × BitVec 54 × Nat) :=
  (fun r => clockOf (tabGet {} regions r), fuses, epoch)

/-- The clocks of a state. -/
abbrev clocks (s : State) := clocksOf s.regions s.fuses s.ref.epoch

theorem clocks_ite {c : Prop} [Decidable c] {a b : State} : clocks (if c then a else b) = if c then clocks a else clocks b :=
  apply_ite clocks c a b

theorem clocks_forAll {α : Type} {l : List α} {f : State → α → State} (hf : ∀ s a, clocks (f s a) = clocks s) :
    clocks (forAll l f s) = clocks s := forAll_same clocks (fun s a _ => hf s a)

/-! ### Fields, events, records and completions -/

theorem clocks_updRegion {r : Nat} {f : RegionSt → RegionSt} (hf : ∀ g, clockOf (f g) = clockOf g) :
    clocks (s.updRegion r f) = clocks s := by
  refine Prod.ext (funext fun j => ?_) rfl
  change clockOf ((s.updRegion r f).region j) = clockOf (s.region j)
  rw [State.region_updRegion]
  split
  · next h => rw [hf, h]
  · rfl

@[simp] theorem clocks_updMem (r : Nat) (f : RegionMem → RegionMem) : clocks (State.updMem s r f) = clocks s := by
  simp only [State.updMem]

@[simp] theorem clocks_updBlock (B : Nat) (f : BlockSt → BlockSt) : clocks (State.updBlock s B f) = clocks s := by
  simp only [State.updBlock]

@[simp] theorem clocks_updCell (p : Nat) (f : CellSt → CellSt) : clocks (State.updCell s p f) = clocks s := by
  simp only [State.updCell]

@[simp] theorem clocks_updTiu (t : Nat) (f : TiuSt → TiuSt) : clocks (State.updTiu s t f) = clocks s := by
  simp only [State.updTiu]

@[simp] theorem clocks_updEvin (i : Nat) (f : EvinSt → EvinSt) : clocks (State.updEvin s i f) = clocks s := by
  simp only [State.updEvin]

@[simp] theorem clocks_updAcq (r : Nat) (f : AcqSt → AcqSt) : clocks (State.updAcq s r f) = clocks s := by
  simp only [State.updAcq]

@[simp] theorem clocks_tick : clocks (State.tick s) = clocks s := by
  simp only [State.tick]

@[simp] theorem clocks_postRegion (r k : Nat) : clocks (s.postRegion r k) = clocks s := clocks_updRegion (fun _ => rfl)

@[simp] theorem clocks_postBlock (B k : Nat) : clocks (State.postBlock s B k) = clocks s := by
  simp only [State.postBlock, clocks_updBlock]

@[simp] theorem clocks_cellSat (t : State) (p : Nat) (f : CellSt → Nat) : clocks (s.cellSat t p f) = clocks t := by
  simp only [State.cellSat, clocks_postBlock, clocks_ite, ite_self]

@[simp] theorem clocks_postMbx (k : Nat) : clocks (State.postMbx s k) = clocks s := by
  simp only [State.postMbx]

@[simp] theorem clocks_postAcq (r k : Nat) : clocks (State.postAcq s r k) = clocks s := by
  simp only [State.postAcq, clocks_updAcq]

@[simp] theorem clocks_drainFifo : clocks (drainFifo s) = clocks s := by simp [clocks]

@[simp] theorem clocks_pushFault (level cause action qual : Nat) (unit : Word) (st : List Word) (detail : Word) :
    clocks (pushFault s level cause action qual unit st detail) = clocks s := by simp [clocks]

@[simp] theorem clocks_faultCell (p cause action qual : Nat) (detail : Word) :
    clocks (faultCell s p cause action qual detail) = clocks s := by simp [clocks]

@[simp] theorem clocks_faultBlock (B cause action qual : Nat) (detail : Word) (evBit : Nat) :
    clocks (faultBlock s B cause action qual detail evBit) = clocks s := by simp [clocks]

@[simp] theorem clocks_faultRegion (r cause action qual : Nat) (detail : Word) (evBit : Nat) :
    clocks (faultRegion s r cause action qual detail evBit) = clocks s := by
  simp only [faultRegion, clocks_postRegion, clocks_pushFault]

@[simp] theorem clocks_setCmd (tag : Nat) (f : Cmd → Cmd) : clocks (setCmd s tag f) = clocks s := by simp [clocks]

@[simp] theorem clocks_cqPush (rec_ : List Word) : clocks (cqPush s rec_) = clocks s := by simp [clocks]

@[simp] theorem clocks_updPort (i : Nat) (f : PortSt → PortSt) : clocks (State.updPort s i f) = clocks s := by
  simp only [State.updPort]

@[simp] theorem clocks_sendBlock (i : Nat) (b : LinkBlock) : clocks (sendBlock s i b) = clocks s := by simp [clocks]

@[simp] theorem clocks_recordOut (tun : Bool) (w : List Word) : clocks (recordOut s tun w) = clocks s := by
  simp only [recordOut, clocks_ite, clocks_sendBlock, clocks_cqPush, ite_self]

@[simp] theorem clocks_complete (tag status : Nat) (res : List Word) : clocks (complete s tag status res) = clocks s := by simp [clocks]

@[simp] theorem clocks_pump (tag : Nat) : clocks (pump s tag) = clocks s := by simp [clocks]

@[simp] theorem clocks_completeWith (tag status : Nat) (data res : List Word) :
    clocks (completeWith s tag status data res) = clocks s := by simp [clocks]

@[simp] theorem clocks_postUntagged (held : Option HeldRec) (w : List Word) : clocks (postUntagged s held w).1 = clocks s := by
  unfold postUntagged
  repeat' split
  all_goals simp only [clocks_cqPush, clocks_postMbx]

/-! ### Working values -/

@[simp] theorem clocks_undefer (p : Nat) : clocks (undefer s p) = clocks s := by
  simp only [undefer]

@[simp] theorem clocks_loadCellFrom (p : Nat) (user : CalSet) : clocks (loadCellFrom s p user) = clocks s := by
  simp only [loadCellFrom, clocks_updCell]

@[simp] theorem clocks_loadCell (p : Nat) : clocks (loadCell s p) = clocks s := by
  simp only [loadCell, clocks_loadCellFrom, clocks_undefer]

@[simp] theorem clocks_loadEvin (i : Nat) : clocks (loadEvin s i) = clocks s := by
  simp only [loadEvin, clocks_updEvin, clocks_ite, ite_self]

/-! ### Cells -/

@[simp] theorem clocks_hopBoundary (p : Nat) : clocks (hopBoundary s p) = clocks s := by
  simp only [hopBoundary, clocks_loadCell, clocks_ite, ite_self]

@[simp] theorem clocks_hopInCell (p idx : Nat) (w : List Word) : clocks (hopInCell s p idx w) = clocks s := by
  simp only [hopInCell, clocks_updCell, clocks_hopBoundary, clocks_ite, ite_self]

@[simp] theorem clocks_leaveHold (p : Nat) : clocks (leaveHold s p) = clocks s := by
  simp only [leaveHold, clocks_tick, clocks_updCell, clocks_hopBoundary]

/-! ### The pace -/

@[simp] theorem clocks_paceRelease : clocks (paceRelease s) = clocks s := by
  unfold paceRelease
  dsimp only
  repeat' split
  all_goals simp only [clocks]

/-! ### Maintenance -/

@[simp] theorem clocks_calFinish (r : CalRun) : clocks (calFinish s r) = clocks s := by
  simp only [calFinish, clocks_complete]

@[simp] theorem clocks_calUnitEnd (B : Nat) (early : Option Nat) : clocks (calUnitEnd s B early) = clocks s := by
  unfold calUnitEnd
  dsimp only
  repeat' split
  all_goals simp only [clocks_updBlock, clocks_updEvin, clocks_calFinish]

@[simp] theorem clocks_putResult (scope unit test : Nat) (r : TestRes) : clocks (putResult s scope unit test r) = clocks s := by
  simp only [putResult]

@[simp] theorem clocks_recordIncomplete (k : SlotKind) (m : BitVec 6) : clocks (recordIncomplete s k m) = clocks s := by
  simp only [recordIncomplete, clocks_forAll, clocks_putResult, implies_true]

@[simp] theorem clocks_bistEnd (r : BistRun) (status : Nat) : clocks (bistEnd s r status) = clocks s := by
  simp only [bistEnd, clocks_complete, clocks_paceRelease]

@[simp] theorem clocks_bistIdle (B : Nat) : clocks (bistIdle s B) = clocks s := by
  simp only [bistIdle, clocks_updBlock]

@[simp] theorem clocks_onlineStop (B status : Nat) : clocks (onlineStop s B status) = clocks s := by
  unfold onlineStop
  dsimp only
  repeat' split
  all_goals simp only [clocks_bistEnd, clocks_bistIdle, clocks_recordIncomplete]

@[simp] theorem clocks_repairEnd (B status : Nat) : clocks (repairEnd s B status) = clocks s := by
  unfold repairEnd
  split <;> simp only [clocks_complete]

@[simp] theorem clocks_maintStop (B status : Nat) : clocks (maintStop s B status) = clocks s := by
  unfold maintStop
  split <;> simp only [clocks_updBlock, clocks_calUnitEnd, clocks_onlineStop, clocks_repairEnd]

@[simp] theorem clocks_maintDone (B : Nat) : clocks (maintDone s B) = clocks s := by
  unfold maintDone
  dsimp only
  repeat' split
  all_goals simp only [clocks_updBlock, clocks_bistEnd, clocks_bistIdle, clocks_calUnitEnd, clocks_repairEnd]

@[simp] theorem clocks_staleResults (p : Nat) : clocks (staleResults s p) = clocks s := by
  simp only [staleResults, clocks_forAll, clocks_putResult, clocks_ite, ite_self, implies_true]

/-! ### Seatings, faults and relock -/

@[simp] theorem clocks_endLockTags (p status : Nat) : clocks (endLockTags s p status) = clocks s := by
  simp only [endLockTags, clocks_updCell, clocks_complete, clocks_forAll, implies_true]

@[simp] theorem clocks_endHopTags (p status : Nat) : clocks (endHopTags s p status) = clocks s := by
  simp only [endHopTags, clocks_updCell, clocks_complete, clocks_forAll, implies_true]

@[simp] theorem clocks_engRecord (p cause status value edge : Nat) : clocks (engRecord s p cause status value edge) = clocks s := by
  simp only [engRecord, clocks_updCell, clocks_postUntagged]

@[simp] theorem clocks_startSeat (B : Nat) (q : Seating) : clocks (startSeat s B q) = clocks s := by
  simp only [startSeat, clocks_updBlock, clocks_updCell, clocks_loadCell]

@[simp] theorem clocks_seat (B c : Nat) (req : Requester) (ret : Bool) (forced : Option Nat) (from_ : Nat) :
    clocks (seat s B c req ret forced from_) = clocks s := by
  simp only [seat, clocks_startSeat]

@[simp] theorem clocks_moveEngine (src dst : Nat) : clocks (moveEngine s src dst) = clocks s := by
  simp only [moveEngine, clocks_updCell]

@[simp] theorem clocks_releaseSpare (B : Nat) : clocks (releaseSpare s B) = clocks s := by
  simp only [releaseSpare, clocks_updCell]

@[simp] theorem clocks_loseChannel (B c : Nat) : clocks (loseChannel s B c) = clocks s := by
  simp only [loseChannel, clocks_updBlock, clocks_updCell, clocks_endLockTags, clocks_faultBlock]

@[simp] theorem clocks_recoverCell (B c e : Nat) : clocks (recoverCell s B c e) = clocks s := by
  unfold recoverCell
  dsimp only
  repeat' split
  all_goals simp only [clocks_updBlock, clocks_updCell, clocks_loseChannel, clocks_maintStop, clocks_moveEngine,
    clocks_releaseSpare, clocks_seat]

@[simp] theorem clocks_channelFault (p : Nat) : clocks (channelFault s p) = clocks s := by
  simp only [channelFault, clocks_postBlock, clocks_updBlock, clocks_recoverCell, clocks_staleResults, clocks_ite, ite_self]

@[simp] theorem clocks_loseWaiting (B : Nat) : clocks (loseWaiting s B) = clocks s := by
  unfold loseWaiting
  split <;> simp only [clocks_updBlock, clocks_loseChannel]

@[simp] theorem clocks_spareFault (B : Nat) : clocks (spareFault s B) = clocks s := by
  unfold spareFault
  dsimp only
  repeat' split
  all_goals simp only [clocks_updBlock, clocks_faultBlock, clocks_loseChannel, clocks_loseWaiting, clocks_maintStop,
    clocks_moveEngine, clocks_releaseSpare, clocks_seat, clocks_staleResults]

@[simp] theorem clocks_cellFault (p : Nat) : clocks (cellFault s p) = clocks s := by
  simp only [cellFault, clocks_channelFault, clocks_spareFault, clocks_ite, ite_self]

@[simp] theorem clocks_seatTimeout (B : Nat) : clocks (seatTimeout s B) = clocks s := by
  unfold seatTimeout
  split <;> simp only [clocks_channelFault, clocks_faultCell, clocks_spareFault, clocks_ite, ite_self]

@[simp] theorem clocks_loseLock (p : Nat) (cause : LossCause) (rec_ : Nat) (detail : Word) (mean : BitVec 18) :
    clocks (loseLock s p cause rec_ detail mean) = clocks s := by
  simp only [loseLock, clocks_updCell, clocks_cellFault, clocks_faultCell, clocks_ite, ite_self]

@[simp] theorem clocks_relockCheck (r : Nat) : clocks (relockCheck s r) = clocks s := clocks_updRegion (fun _ => rfl)

/-! ### The edges of a cell, hops and engines -/

@[simp] theorem clocks_setOutBits (p : Nat) (outEn mute hold releases : Bool) :
    clocks (setOutBits s p outEn mute hold releases) = clocks s := by
  simp only [setOutBits, clocks_updCell, clocks_leaveHold, clocks_ite, ite_self]

@[simp] theorem clocks_slewDone (p : Nat) : clocks (slewDone s p) = clocks s := by
  unfold slewDone
  split <;> simp only [clocks_updCell, clocks_complete]

@[simp] theorem clocks_phaseCheck (p : Nat) : clocks (phaseCheck s p) = clocks s := by
  simp only [phaseCheck, clocks_slewDone, clocks_ite, ite_self]

@[simp] theorem clocks_setCfgErr (p : Nat) (e : Bool) : clocks (setCfgErr s p e) = clocks s := by
  simp only [setCfgErr, clocks_updCell]

@[simp] theorem clocks_clearBad (mem lo hi : Nat) : clocks (clearBad s mem lo hi) = clocks s := by
  simp only [clearBad]

@[simp] theorem clocks_bandChosen (p : Nat) : clocks (bandChosen s p) = clocks s := by
  simp only [bandChosen, clocks_updCell]

@[simp] theorem clocks_gearEnd (p : Nat) : clocks (gearEnd s p) = clocks s := by
  simp only [gearEnd, clocks_updCell, clocks_ite, ite_self]

@[simp] theorem clocks_slewPeriod (p : Nat) : clocks (slewPeriod s p) = clocks s := by
  simp only [slewPeriod, clocks_updCell, clocks_slewDone, clocks_ite, ite_self]

@[simp] theorem clocks_dividerChange (p : Nat) : clocks (dividerChange s p) = clocks s := by
  unfold dividerChange
  split <;> simp only [clocks_updCell, clocks_ite, ite_self]

@[simp] theorem clocks_hopRetime (p : Nat) : clocks (hopRetime s p) = clocks s := by
  simp only [hopRetime, clocks_updCell, clocks_ite, ite_self]

@[simp] theorem clocks_retimeRise (p : Nat) : clocks (retimeRise s p) = clocks s := by
  simp only [retimeRise, clocks_updCell, clocks_ite, ite_self]

@[simp] theorem clocks_muteAtFall (p : Nat) (reported : Bool) : clocks (muteAtFall s p reported) = clocks s := by
  unfold muteAtFall
  split <;> simp only [clocks_updCell, clocks_ite, ite_self]

@[simp] theorem clocks_toutActive (p : Nat) : clocks (toutActive s p) = clocks s := by
  unfold toutActive
  split <;> simp only [clocks_updCell, clocks_ite, ite_self]

@[simp] theorem clocks_toutDisable (p : Nat) : clocks (toutDisable s p) = clocks s := by
  unfold toutDisable
  split <;> simp only [clocks_updCell, clocks_ite, ite_self]

@[simp] theorem clocks_lockNow (p : Nat) : clocks (lockNow s p) = clocks s := by
  simp only [lockNow, clocks_updCell, clocks_endLockTags, clocks_relockCheck, clocks_ite, ite_self]

@[simp] theorem clocks_hintDropped (p : Nat) : clocks (hintDropped s p) = clocks s := by
  simp only [hintDropped, clocks_cellSat, clocks_updCell]

@[simp] theorem clocks_railCheck (p : Nat) (mean : BitVec 18) : clocks (railCheck s p mean) = clocks s := by
  simp only [railCheck, clocks_updCell, clocks_hintDropped, clocks_loseLock, clocks_ite, ite_self]

@[simp] theorem clocks_relockFailed (p : Nat) : clocks (relockFailed s p) = clocks s := by
  simp only [relockFailed, clocks_updCell, clocks_endHopTags, clocks_loseLock, clocks_relockCheck, clocks_ite, ite_self]

@[simp] theorem clocks_acqTimeout (p : Nat) : clocks (acqTimeout s p) = clocks s := by
  simp only [acqTimeout, clocks_updCell, clocks_endHopTags, clocks_loseLock, clocks_relockFailed, clocks_ite, ite_self]

@[simp] theorem clocks_relockTimeout (p : Nat) : clocks (relockTimeout s p) = clocks s := by
  simp only [relockTimeout, clocks_relockFailed, clocks_ite, ite_self]

@[simp] theorem clocks_hintStale (p : Nat) : clocks (hintStale s p) = clocks s := by
  simp only [hintStale, clocks_hintDropped, clocks_ite, ite_self]

@[simp] theorem clocks_loopEdge (p : Nat) : clocks (loopEdge s p) = clocks s := by
  simp only [loopEdge, clocks_tick, clocks_updCell, clocks_lockNow, clocks_loseLock, clocks_railCheck, clocks_ite, ite_self]

@[simp] theorem clocks_meetUncorr (mem addr r : Nat) : clocks (meetUncorr s mem addr r) = clocks s := by
  unfold meetUncorr
  extract_lets s1 s2
  have hcount : clocks s1 = clocks s := clocks_updRegion (fun _ => rfl)
  have hfull : clocks s2 = clocks s := by simp only [s2, clocks_ite, clocks_postRegion, hcount, ite_self]
  split
  · exact hfull
  · rw [clocks_faultRegion]
    exact hfull

@[simp] theorem clocks_meetProfile (n idx : Nat) : clocks (meetProfile s n idx) = clocks s := by
  unfold meetProfile
  split <;> simp only [clocks_meetUncorr]

@[simp] theorem clocks_refuseHop (p n idx : Nat) (res : FetchRes) : clocks (refuseHop s p n idx res) = clocks s := by
  simp only [refuseHop, clocks_meetProfile, clocks_setCfgErr, clocks_ite, ite_self]

@[simp] theorem clocks_engFault (p : Nat) (bit : Bool) (status : Nat) : clocks (engFault s p bit status) = clocks s := by
  simp only [engFault, clocks_updCell, clocks_engRecord]

@[simp] theorem clocks_engRefused (p : Nat) (res : FetchRes) : clocks (engRefused s p res) = clocks s := by
  unfold engRefused
  split <;> simp only [clocks_engFault]

@[simp] theorem clocks_prepare (p : Nat) : clocks (prepare s p) = clocks s := by
  simp only [prepare, clocks_updCell]

@[simp] theorem clocks_hopNow (p : Nat) (h : HopReq) : clocks (hopNow s p h) = clocks s := by
  unfold hopNow
  dsimp only
  repeat' split
  all_goals simp only [clocks_updCell, clocks_complete, clocks_endHopTags, clocks_forAll, clocks_hopInCell,
    clocks_phaseCheck, implies_true]

@[simp] theorem clocks_hopLocked (p : Nat) : clocks (hopLocked s p) = clocks s := by
  simp only [hopLocked, clocks_updCell, clocks_ite, ite_self]

@[simp] theorem clocks_hopEdge (p : Nat) : clocks (hopEdge s p) = clocks s := by
  unfold hopEdge
  dsimp only
  repeat' split
  all_goals simp only [clocks_updCell, clocks_hopLocked, clocks_hopNow]

@[simp] theorem clocks_learnDone (p : Nat) : clocks (learnDone s p) = clocks s := by
  unfold learnDone
  dsimp only
  repeat' split
  all_goals simp only [clocks, clocks_updCell, clocks_clearBad]

/-! ### Time-interval units -/

@[simp] theorem clocks_tiuAnswer (t tag status : Nat) (stamps : Bool) : clocks (tiuAnswer s t tag status stamps) = clocks s := by
  simp only [tiuAnswer, clocks_complete, clocks_completeWith, clocks_ite, ite_self]

@[simp] theorem clocks_tiuEnd (t status : Nat) : clocks (tiuEnd s t status) = clocks s := by
  unfold tiuEnd
  dsimp only
  repeat' split
  all_goals simp only [clocks_updTiu, clocks_faultBlock, clocks_tiuAnswer]

@[simp] theorem clocks_tiuReady (t : Nat) : clocks (tiuReady s t) = clocks s := by
  simp only [tiuReady, clocks_updTiu]

@[simp] theorem clocks_tiuEdge (t : Nat) (stop : Bool) (code : Nat) : clocks (tiuEdge s t stop code) = clocks s := by
  simp only [tiuEdge, clocks_postBlock, clocks_updTiu, clocks_tiuEnd, clocks_ite, ite_self]

@[simp] theorem clocks_tiuMark (r cls m : Nat) : clocks (tiuMark s r cls m) = clocks s := by
  simp only [tiuMark, clocks_forAll, clocks_tiuEdge, clocks_ite, ite_self, implies_true]

/-! ### Events on the bus and the fabric -/

@[simp] theorem clocks_deliver (r cls idx e : Nat) : clocks (deliver s r cls idx e) = clocks s := by
  simp only [deliver, clocks_updCell, clocks_forAll, clocks_tiuMark, clocks_ite, ite_self, implies_true]

@[simp] theorem clocks_register (r cls idx e : Nat) : clocks (register s r cls idx e) = clocks s := by
  simp only [register, clocks_deliver, clocks_ite, ite_self]

@[simp] theorem clocks_deliverDue (r : Nat) : clocks (deliverDue s r) = clocks s := by
  simp only [deliverDue, clocks_deliver, clocks_forAll, implies_true]

@[simp] theorem clocks_eventDown (m : Nat) (c : BitVec 54) : clocks (eventDown s m c) = clocks s := by
  simp only [eventDown, clocks_forAll, clocks_sendBlock, implies_true]

@[simp] theorem clocks_fabricEmit (r m e : Nat) : clocks (fabricEmit s r m e) = clocks s := by
  simp only [fabricEmit, clocks_eventDown, clocks_sendBlock, clocks_ite, ite_self]

@[simp] theorem clocks_busEmit (r m e : Nat) (shared : Nat → Bool) : clocks (busEmit s r m e shared) = clocks s := by
  simp only [busEmit, clocks_tick, clocks_forAll, clocks_ite, clocks_register, ite_self, implies_true]

/-! ### Acquisition -/

@[simp] theorem clocks_acqRecord (r cause edge : Nat) : clocks (acqRecord s r cause edge) = clocks s := by
  simp only [acqRecord, clocks_updAcq, clocks_postUntagged]

@[simp] theorem clocks_acqCount (r : Nat) (get : AcqRegs → Nat) (set : AcqRegs → Nat → AcqRegs) (n : Nat) :
    clocks (acqCount s r get set n) = clocks s := by
  simp only [acqCount, clocks_postAcq, clocks_updAcq, clocks_ite, ite_self]

@[simp] theorem clocks_dropGap (r : Nat) : clocks (dropGap s r) = clocks s := by
  unfold dropGap
  split <;> simp only [clocks_updAcq, clocks_acqCount]

@[simp] theorem clocks_acqDone (r : Nat) : clocks (acqDone s r) = clocks s := by
  simp only [acqDone, clocks_postAcq, clocks_updAcq, clocks_acqRecord, clocks_dropGap]

@[simp] theorem clocks_gapGroup (r cause len lost sample : Nat) : clocks (gapGroup s r cause len lost sample) = clocks s := by
  simp only [gapGroup, clocks_postAcq, clocks_updAcq, clocks_acqCount]

@[simp] theorem clocks_lateTrigger (r sample : Nat) : clocks (lateTrigger s r sample) = clocks s := by
  simp only [lateTrigger, clocks_updAcq, clocks_ite, ite_self]

@[simp] theorem clocks_gapEnd (r sample : Nat) : clocks (gapEnd s r sample) = clocks s := by
  unfold gapEnd
  split <;> simp only [clocks_dropGap, clocks_gapGroup, clocks_lateTrigger, clocks_ite, ite_self]

@[simp] theorem clocks_endBead (r cause sample : Nat) : clocks (endBead s r cause sample) = clocks s := by
  simp only [endBead, clocks_tick, clocks_updAcq]

@[simp] theorem clocks_closeStrand (r cause : Nat) : clocks (closeStrand s r cause) = clocks s := by
  simp only [closeStrand, clocks_postAcq, clocks_updAcq]

@[simp] theorem clocks_strandEnd (r cause sample : Nat) (stop : Bool) : clocks (strandEnd s r cause sample stop) = clocks s := by
  simp only [strandEnd, clocks_updAcq, clocks_acqDone, clocks_acqRecord, clocks_closeStrand, clocks_endBead,
    clocks_gapEnd, clocks_ite, ite_self]

@[simp] theorem clocks_strandFull (r sample : Nat) : clocks (strandFull s r sample) = clocks s := by
  simp only [strandFull, clocks_strandEnd, clocks_ite, ite_self]

@[simp] theorem clocks_acqBead (r typ idx : Nat) (low : Word) (sample : Nat) (counted : Bool) :
    clocks (acqBead s r typ idx low sample counted) = clocks s := by
  unfold acqBead
  dsimp only
  repeat' split
  all_goals simp only [clocks_tick, clocks_updAcq, clocks_strandEnd, clocks_strandFull]

@[simp] theorem clocks_gapWork (r sample : Nat) : clocks (gapWork s r sample) = clocks s := by
  unfold gapWork
  dsimp only
  rw [clocks_updAcq, clocks_forAll]
  · simp only [clocks_ite, clocks_strandFull, clocks_gapEnd, clocks_strandEnd, ite_self]
  · intro s g
    repeat' split
    all_goals simp only [clocks_updAcq, clocks_strandEnd, clocks_strandFull, clocks_gapGroup]

@[simp] theorem clocks_senseInput (n sample : Nat) (f : EvinSt → EvinSt) : clocks (senseInput s n sample f) = clocks s := by
  simp only [senseInput, clocks_updAcq, clocks_updEvin, clocks_ite, ite_self]

@[simp] theorem clocks_evinApply (n : Nat) : clocks (evinApply s n) = clocks s := by
  unfold evinApply
  split <;> simp only [clocks_senseInput, clocks_ite, ite_self]

@[simp] theorem clocks_changeBead (n sample : Nat) (counted : Bool) : clocks (changeBead s n sample counted) = clocks s := by
  simp only [changeBead, clocks_updEvin, clocks_acqBead, clocks_ite, ite_self]

@[simp] theorem clocks_setTrig (r n : Nat) (t : Trig) : clocks (setTrig s r n t) = clocks s := by
  simp only [setTrig, clocks_updAcq]

@[simp] theorem clocks_trigEvent (r hits sample : Nat) : clocks (trigEvent s r hits sample) = clocks s := by
  simp only [trigEvent, clocks_postAcq, clocks_tick, clocks_updAcq, clocks_acqCount, clocks_fabricEmit, clocks_forAll,
    clocks_register, clocks_ite, ite_self, implies_true]

@[simp] theorem clocks_postOver (r sample : Nat) : clocks (postOver s r sample) = clocks s := by
  unfold postOver
  split <;> simp only [clocks_strandEnd, clocks_ite, ite_self]

@[simp] theorem clocks_trigSample (r n sample : Nat) (was now : List Nat) : clocks (trigSample s r n sample was now).1 = clocks s := by
  unfold trigSample
  dsimp only
  repeat' split
  all_goals exact clocks_setTrig ..

theorem clocks_foldl_trigSample (r sample : Nat) (was now : List Nat) (l : List Nat) (acc : State × Nat) :
    clocks (l.foldl (fun (acc : State × Nat) n =>
      ((trigSample acc.1 r n sample was now).1, acc.2 + (trigSample acc.1 r n sample was now).2)) acc).1 = clocks acc.1 := by
  induction l generalizing acc with
  | nil => rfl
  | cons n l ih => rw [List.foldl_cons, ih, clocks_trigSample]

@[simp] theorem clocks_oneSample (r sample : Nat) : clocks (oneSample s r sample) = clocks s := by
  simp only [oneSample, clocks_updAcq, clocks_forAll, clocks_ite, clocks_changeBead, clocks_acqBead, clocks_trigEvent,
    clocks_gapWork,
    clocks_updEvin, clocks_foldl_trigSample, clocks_postOver, ite_self, implies_true]

@[simp] theorem clocks_runTo (r sample : Nat) : clocks (runTo s r sample) = clocks s := by
  simp only [runTo, clocks_forAll, clocks_ite, clocks_oneSample, ite_self, implies_true]

@[simp] theorem clocks_acqMark (r : Nat) (low : Word) : clocks (acqMark s r low) = clocks s := by
  simp only [acqMark, clocks_updAcq, clocks_ite, ite_self]

@[simp] theorem clocks_acqCycle (r : Nat) : clocks (acqCycle s r) = clocks s := by
  simp only [acqCycle, clocks_updAcq, clocks_runTo, clocks_ite, ite_self]

@[simp] theorem clocks_strandOpen (r : Nat) : clocks (strandOpen s r) = clocks s := by
  simp only [strandOpen, clocks_updAcq, clocks_updEvin, clocks_forAll, implies_true]

@[simp] theorem clocks_acqStart (r : Nat) : clocks (acqStart s r) = clocks s := by
  unfold acqStart
  dsimp only
  repeat' split
  all_goals simp only [clocks_updAcq, clocks_complete, clocks_strandOpen]

@[simp] theorem clocks_acqReopen (r : Nat) : clocks (acqReopen s r) = clocks s := by
  simp only [acqReopen, clocks_updAcq, clocks_strandOpen, clocks_ite, ite_self]

@[simp] theorem clocks_settleAcq (r : Nat) : clocks (settleAcq s r) = clocks s := by
  simp only [settleAcq, clocks_updEvin, clocks_acqCycle, clocks_acqReopen, clocks_acqStart, clocks_forAll, clocks_ite,
    ite_self, implies_true]

/-! ### Regions with a common root -/

@[simp] theorem clocks_emitBus (r m e : Nat) : clocks (emitBus s r m e) = clocks s := by
  simp only [emitBus, clocks_busEmit]

/-! ### The settings of event inputs -/

@[simp] theorem clocks_postPort (i k : Nat) : clocks (State.postPort s i k) = clocks s := by
  simp only [State.postPort, clocks_updPort]

/-! ### The arbiter -/

@[simp] theorem clocks_changeover (b : Nat) : clocks (changeover s b) = clocks s := by
  unfold changeover
  split <;> simp only [clocks_updBlock, clocks_updCell, clocks_faultBlock, clocks_hopBoundary, clocks_moveEngine,
    clocks_ite, ite_self]

@[simp] theorem clocks_markTius (B c : Nat) : clocks (markTius s B c) = clocks s := by
  simp only [markTius, clocks_updTiu, clocks_forAll, clocks_ite, ite_self, implies_true]

@[simp] theorem clocks_selectorSwitch (b : Nat) : clocks (selectorSwitch s b) = clocks s := by
  unfold selectorSwitch
  dsimp only
  repeat' split
  all_goals simp only [clocks_updBlock, clocks_updCell, clocks_endLockTags, clocks_maintDone, clocks_markTius,
    clocks_releaseSpare, clocks_seat]

@[simp] theorem clocks_switchWait (b : Nat) : clocks (switchWait s b) = clocks s := by
  unfold switchWait
  split <;> simp only [clocks_updBlock, clocks_ite, ite_self]

@[simp] theorem clocks_seatExpired (b : Nat) : clocks (seatExpired s b) = clocks s := by
  unfold seatExpired
  split <;> simp only [clocks_seatTimeout, clocks_ite, ite_self]

/-! ### Calibration -/

@[simp] theorem clocks_applicationEdge (r : Nat) : clocks (applicationEdge s r) = clocks s := by
  simp only [applicationEdge, clocks_updMem, clocks_forAll, clocks_loadCell, clocks_loadCellFrom, clocks_loadEvin,
    clocks_ite, ite_self, implies_true]

/-! ### Engine instructions -/

@[simp] theorem clocks_engNext (p cost : Nat) : clocks (engNext s p cost) = clocks s := by
  simp only [engNext, clocks_updCell]

theorem clocks_engIssue {p opc : Nat} {f : State → Engine → Nat → State} (hf : ∀ s e v, clocks (f s e v) = clocks s) :
    clocks (engIssue s p opc f) = clocks s := by
  simp only [engIssue, clocks_ite, clocks_engFault, clocks_meetUncorr, hf, ite_self]

@[simp] theorem clocks_engLate (p : Nat) : clocks (engLate s p) = clocks s := by
  simp only [engLate, clocks_cellSat, clocks_updCell, clocks_engRecord, clocks_prepare, clocks_ite, ite_self]

theorem clocks_act {p : Nat} {e : Engine} {t : State} (ht : clocks t = clocks s) : clocks (act s p e t) = clocks s := by
  simp only [act, clocks_ite, clocks_engLate, ht, ite_self]

@[simp] theorem clocks_doHalt (p : Nat) : clocks (doHalt s p) = clocks s := by
  simp only [doHalt, clocks_updCell, clocks_engIssue, clocks_engRecord, clocks_ite, ite_self, implies_true]

@[simp] theorem clocks_doNop (p : Nat) : clocks (doNop s p) = clocks s := by
  simp only [doNop, clocks_engIssue, clocks_engNext, implies_true]

@[simp] theorem clocks_doHop (p opc : Nat) (lock : Bool) : clocks (doHop s p opc lock) = clocks s := by
  refine clocks_engIssue (fun s e v => ?_)
  dsimp only
  split
  · exact clocks_engFault ..
  · refine clocks_act ?_
    repeat' split
    all_goals simp only [clocks_prepare, clocks_updCell, clocks_engRefused, clocks_refuseHop]

@[simp] theorem clocks_doWaitc (p : Nat) : clocks (doWaitc s p) = clocks s := by
  simp only [doWaitc, clocks_updCell, clocks_engIssue, clocks_engNext, clocks_ite, ite_self, implies_true]

/-- Equal clocks, under a name that the kernel does not see through: of WAITT's operand, with its 2^54, it must not work
out the choice between the two ends. -/
def SameClocks (s t : State) : Prop := clocks t = clocks s

theorem sameClocks_waitFor {p cost : Nat} {c : Prop} [Decidable c] {w : Wait} :
    SameClocks s (if c then engNext s p cost else (engNext s p cost).updCell p (fun x => { x with eng := x.eng.waitFor w })) := by
  simp only [SameClocks, clocks_ite, clocks_updCell, clocks_engNext, ite_self]

theorem sameClocks_engIssue {p opc : Nat} {f : State → Engine → Nat → State} (hf : ∀ s e v, SameClocks s (f s e v)) :
    SameClocks s (engIssue s p opc f) := clocks_engIssue hf

theorem sameClocks_doWaitt (p : Nat) : SameClocks s (doWaitt s p) := sameClocks_engIssue (fun _ _ _ => sameClocks_waitFor)

@[simp] theorem clocks_doWaitt (p : Nat) : clocks (doWaitt s p) = clocks s := sameClocks_doWaitt p

@[simp] theorem clocks_doWaite (p : Nat) : clocks (doWaite s p) = clocks s := by
  refine clocks_engIssue (fun s e v => ?_)
  dsimp only
  split
  · exact clocks_engFault ..
  · split <;> simp only [clocks_updCell, clocks_engNext]

@[simp] theorem clocks_doSync (p : Nat) : clocks (doSync s p) = clocks s := by
  refine clocks_engIssue (fun s e v => ?_)
  dsimp only
  split <;> simp only [clocks_updCell, clocks_engNext]

@[simp] theorem clocks_markoPulse (r pin m : Nat) : clocks (markoPulse s r pin m) = clocks s := by
  simp only [markoPulse]

@[simp] theorem clocks_doMark (p : Nat) : clocks (doMark s p) = clocks s := by
  simp only [doMark, clocks_acqMark, clocks_act, clocks_emitBus, clocks_engIssue, clocks_engNext, clocks_fabricEmit,
    clocks_markoPulse, clocks_prepare, clocks_ite, ite_self, implies_true]

@[simp] theorem clocks_doPhs (p : Nat) : clocks (doPhs s p) = clocks s := by
  refine clocks_engIssue (fun s e v => clocks_act ?_)
  simp only [clocks_ite, clocks_phaseCheck, clocks_forAll, clocks_updCell, clocks_prepare, clocks_engNext, ite_self, implies_true]

@[simp] theorem clocks_doSeto (p : Nat) : clocks (doSeto s p) = clocks s := by
  refine clocks_engIssue (fun s e v => clocks_act ?_)
  simp only [clocks_ite, clocks_forAll, clocks_setOutBits, clocks_updCell, clocks_prepare, clocks_engNext, ite_self, implies_true]

@[simp] theorem clocks_doLoop (p : Nat) : clocks (doLoop s p) = clocks s := by
  simp only [doLoop, clocks_updCell, clocks_engFault, clocks_engIssue, clocks_engNext, clocks_ite, ite_self, implies_true]

@[simp] theorem clocks_doEndl (p : Nat) : clocks (doEndl s p) = clocks s := by
  simp only [doEndl, clocks_updCell, clocks_engIssue, implies_true]

@[simp] theorem clocks_doJmp (p : Nat) : clocks (doJmp s p) = clocks s := by
  simp only [doJmp, clocks_updCell, clocks_engFault, clocks_engIssue, clocks_ite, ite_self, implies_true]

@[simp] theorem clocks_doBrl (p : Nat) : clocks (doBrl s p) = clocks s := by
  simp only [doBrl, clocks_updCell, clocks_engFault, clocks_engIssue, clocks_engNext, clocks_prepare, clocks_ite,
    ite_self, implies_true]

@[simp] theorem clocks_doIrq (p : Nat) : clocks (doIrq s p) = clocks s := by
  simp only [doIrq, clocks_engIssue, clocks_engNext, clocks_engRecord, implies_true]

@[simp] theorem clocks_doExt (p : Nat) : clocks (doExt s p) = clocks s := by
  simp only [doExt, clocks_updCell, clocks_engFault, clocks_meetUncorr, clocks_ite, ite_self]

@[simp] theorem clocks_doIllegal (p : Nat) : clocks (doIllegal s p) = clocks s := by
  simp only [doIllegal, clocks_engFault, clocks_engIssue, clocks_ite, ite_self, implies_true]

@[simp] theorem clocks_waitTimeout (p : Nat) : clocks (waitTimeout s p) = clocks s := by
  unfold waitTimeout
  dsimp only
  repeat' split
  all_goals simp only [clocks_updCell, clocks_prepare]

@[simp] theorem clocks_doWord (p : Nat) : clocks (doWord s p) = clocks s := by
  simp only [doWord, clocks_doBrl, clocks_doEndl, clocks_doExt, clocks_doHalt, clocks_doHop, clocks_doIllegal,
    clocks_doIrq, clocks_doJmp, clocks_doLoop, clocks_doMark, clocks_doNop, clocks_doPhs, clocks_doSeto, clocks_doSync,
    clocks_doWaitc, clocks_doWaite, clocks_doWaitt, clocks_ite, ite_self]

@[simp] theorem clocks_settleWord (p : Nat) : clocks (settleWord s p) = clocks s := by
  simp only [settleWord, clocks_doWord, clocks_engLate, clocks_ite, ite_self]

@[simp] theorem clocks_engSettle (p n : Nat) : clocks (engSettle p n s) = clocks s := by
  induction n generalizing s with
  | zero => rfl
  | succ n ih => simp only [engSettle, clocks_ite, clocks_engFault, ih, clocks_settleWord, ite_self]

/-! ### Events of the tree -/

@[simp] theorem clocks_eventsLate (k : Nat) : clocks (eventsLate s k) = clocks s := by
  simp only [eventsLate, clocks_postPort, clocks_ite, ite_self]

@[simp] theorem clocks_deliverEvent (x : FabEvent) : clocks (deliverEvent s x) = clocks s := by
  simp only [deliverEvent, clocks_eventsLate, clocks_forAll, clocks_register, clocks_ite, ite_self, implies_true]

/-! ### The steps of a measurement -/

@[simp] theorem clocks_readyAtTime (t : Nat) : clocks (readyAtTime s t) = clocks s := by
  simp only [readyAtTime, clocks_tiuEnd, clocks_tiuReady, clocks_ite, ite_self]

@[simp] theorem clocks_tiuLate (t : Nat) : clocks (tiuLate s t) = clocks s := by
  simp only [tiuLate, clocks_tiuEnd, clocks_ite, ite_self]

/-! ### What is due on an edge -/

@[simp] theorem clocks_settleOut (p : Nat) : clocks (settleOut s p) = clocks s := by
  simp only [settleOut, clocks_dividerChange, clocks_forAll, clocks_hopRetime, clocks_muteAtFall, clocks_retimeRise,
    clocks_slewPeriod, clocks_toutActive, clocks_toutDisable, implies_true]

@[simp] theorem clocks_hopMissed (p : Nat) : clocks (hopMissed s p) = clocks s := by
  unfold hopMissed
  dsimp only
  repeat' split
  all_goals simp only [clocks_updCell, clocks_complete]

@[simp] theorem clocks_settleCell (p : Nat) : clocks (settleCell s p) = clocks s := by
  simp only [settleCell, clocks_acqTimeout, clocks_engSettle, clocks_gearEnd, clocks_hintStale, clocks_hopEdge,
    clocks_hopMissed, clocks_learnDone, clocks_loopEdge, clocks_relockTimeout, clocks_settleOut, clocks_waitTimeout, clocks_ite,
    ite_self]

@[simp] theorem clocks_settleBlock (B : Nat) : clocks (settleBlock s B) = clocks s := by
  simp only [settleBlock, clocks_changeover, clocks_seatExpired, clocks_selectorSwitch, clocks_switchWait]

@[simp] theorem clocks_settleTiu (t : Nat) : clocks (settleTiu s t) = clocks s := by
  simp only [settleTiu, clocks_readyAtTime, clocks_tiuLate]

@[simp] theorem clocks_settleRegion (r : Nat) : clocks (settleRegion s r) = clocks s := by
  simp only [settleRegion, clocks_applicationEdge, clocks_forAll, clocks_settleAcq, clocks_settleBlock, clocks_settleCell,
    clocks_settleTiu, implies_true]

@[simp] theorem clocks_wakeRegion (r : Nat) : clocks (wakeRegion s r) = clocks s := by
  simp only [wakeRegion, clocks_updCell, clocks_forAll, implies_true]

@[simp] theorem clocks_dropPulses (r : Nat) : clocks (dropPulses s r) = clocks s := by
  simp only [dropPulses]

@[simp] theorem clocks_applyEvins (r : Nat) : clocks (applyEvins s r) = clocks s := by
  simp only [applyEvins, clocks_evinApply, clocks_forAll, implies_true]

@[simp] theorem clocks_applyTh64 (r : Nat) : clocks (applyTh64 s r) = clocks s := by
  simp only [applyTh64, clocks_updMem, clocks_ite, ite_self]

@[simp] theorem clocks_launchBlocks : clocks (launchBlocks s) = clocks s := by
  simp only [launchBlocks, clocks_ite, ite_self]

@[simp] theorem clocks_settleFabric : clocks (settleFabric s) = clocks s := by
  simp only [settleFabric, clocks_deliverEvent, clocks_forAll, implies_true]

end Sys2Proof.Claims
end
section
/-! SUPPORT. A CREF edge in every region, and the loads of system time. -/
namespace Sys2Proof.Claims
open Sys2Proof Sys2Proof.Machine

variable {s : State}

/-! ### Clocks, region by region -/

theorem clockOf_region {t : State} (h : clocks t = clocks s) (r : Nat) : clockOf (t.region r) = clockOf (s.region r) :=
  congrFun (congrArg Prod.fst h) r

theorem presentRegions_of_clocks {t : State} (h : clocks t = clocks s) : presentRegions t = presentRegions s := by
  have hfuses : t.fuses = s.fuses := congrArg (fun c => c.2.1) h
  unfold presentRegions regionPresent
  rw [hfuses]

theorem runningRegions_of_clocks {t : State} (h : clocks t = clocks s) : runningRegions t = runningRegions s := by
  have hreset : ∀ r, (t.region r).inReset = (s.region r).inReset := fun r =>
    congrArg (fun c : BitVec 54 × BitVec 10 × Nat × Sqc × Bool => c.2.2.2.2) (clockOf_region h r)
  unfold runningRegions
  rw [presentRegions_of_clocks h]
  simp only [hreset]

theorem nodup_runningRegions (s : State) : (runningRegions s).Nodup :=
  ((by decide : [0, 1, 2, 3].Nodup).filter _).filter _

theorem mem_runningRegions {r : Nat} (h : Runs s r) : r ∈ runningRegions s := by
  obtain ⟨hpresent, hout⟩ := h
  have hlt : r < 4 := by
    unfold regionPresent at hpresent
    simp only [Bool.and_eq_true, decide_eq_true_eq] at hpresent
    exact hpresent.1
  unfold runningRegions presentRegions
  rw [List.mem_filter, List.mem_filter, hout]
  refine ⟨⟨?_, hpresent⟩, rfl⟩
  simp only [List.mem_cons, List.not_mem_nil, or_false]
  omega

/-! ### The edge (R56, R57, R99) -/

/-- The clock behind an edge comes from the clock before it. -/
theorem clockOf_tickEdge {g g' : RegionSt} (h : clockOf g = clockOf g') : clockOf g.tickEdge = clockOf g'.tickEdge := by
  simp only [clockOf, Prod.mk.injEq] at h
  obtain ⟨htime, hanchor, hedge, hevents, hreset⟩ := h
  unfold RegionSt.tickEdge
  rw [htime]
  split <;> simp only [clockOf, hanchor, hedge, hevents, hreset]

theorem clocks_tickRegion (r : Nat) : clocks (tickRegion s r) = clocks (s.updRegion r RegionSt.tickEdge) := by
  simp only [tickRegion, clocks_applyTh64, clocks_applyEvins, clocks_dropPulses, clocks_deliverDue, clocks_wakeRegion]

theorem clockOf_forAll_tickRegion_of_notMem {r : Nat} {l : List Nat} (h : r ∉ l) (s : State) :
    clockOf ((forAll l tickRegion s).region r) = clockOf (s.region r) := by
  induction l generalizing s with
  | nil => rfl
  | cons q l ih =>
    obtain ⟨hne, hrest⟩ := not_or.1 (mt List.mem_cons.2 h)
    rw [forAll_cons, ih hrest, clockOf_region (clocks_tickRegion q), State.region_updRegion, if_neg hne]

theorem clockOf_forAll_tickRegion {r : Nat} {l : List Nat} (hmem : r ∈ l) (hnodup : l.Nodup) (s : State) :
    clockOf ((forAll l tickRegion s).region r) = clockOf (s.region r).tickEdge := by
  induction l generalizing s with
  | nil => exact absurd hmem List.not_mem_nil
  | cons q l ih =>
    obtain ⟨hq, hl⟩ := List.nodup_cons.1 hnodup
    rw [forAll_cons]
    rcases List.mem_cons.1 hmem with rfl | hrest
    · rw [clockOf_forAll_tickRegion_of_notMem hq, clockOf_region (clocks_tickRegion r), State.region_updRegion, if_pos rfl]
    · have hne : r ≠ q := fun h => hq (h ▸ hrest)
      rw [ih hrest hl]
      refine clockOf_tickEdge ?_
      rw [clockOf_region (clocks_tickRegion q), State.region_updRegion, if_neg hne]

/-- What is due on the present edge has had its effect. -/
def settled (s : State) : State := launchBlocks (forAll (runningRegions s) settleRegion (settleFabric s))

theorem clocks_settled (s : State) : clocks (settled s) = clocks s := by
  unfold settled
  rw [clocks_launchBlocks, clocks_forAll (fun s r => clocks_settleRegion r), clocks_settleFabric]

theorem idleEdge_of_none (h : s.ref.epoch = none) : idleEdge s = forAll (runningRegions (settled s)) tickRegion (settled s) := by
  have hload : epochLoad s = s := by
    unfold epochLoad
    rw [h]
  have hlaunch : runningRegions (settled s) = runningRegions (forAll (runningRegions s) settleRegion (settleFabric s)) :=
    runningRegions_of_clocks clocks_launchBlocks
  rw [hlaunch]
  unfold idleEdge
  rw [hload]
  rfl

/-- An edge on which no epoch loads advances the clock of every running region by one. -/
theorem clockOf_idleEdge {r : Nat} (hrun : Runs s r) (hepoch : s.ref.epoch = none) :
    clockOf ((idleEdge s).region r) = clockOf (s.region r).tickEdge := by
  have hmem : r ∈ runningRegions (settled s) := by
    rw [runningRegions_of_clocks (clocks_settled s)]
    exact mem_runningRegions hrun
  rw [idleEdge_of_none hepoch, clockOf_forAll_tickRegion hmem (nodup_runningRegions _)]
  exact clockOf_tickEdge (clockOf_region (clocks_settled s) r)

/-- TIME_WRAP (R57). -/
theorem timeWrap_wraps {r : Nat} (hrun : Runs s r) (hepoch : s.ref.epoch = none) (htime : (s.region r).time = 0x3FFFFFFFFFFFFF) :
    ∃ t, exec (.timeWrap r) s = .next t ∧ (t.region r).time = 0 ∧ (t.region r).anchorHi = (s.region r).anchorHi + 1
      ∧ (t.region r).refEvents = (s.region r).refEvents.postBit 6 ∧ (t.region r).edge = (s.region r).edge + 1 := by
  have hclock := clockOf_idleEdge hrun hepoch
  unfold RegionSt.tickEdge at hclock
  rw [if_pos htime] at hclock
  simp only [clockOf, Prod.mk.injEq] at hclock
  obtain ⟨hzero, hanchor, hedge, hevents, -⟩ := hclock
  have hexec : exec (.timeWrap r) s = .next (idleEdge s) := by
    change execTimeWrap r s = _
    unfold execTimeWrap
    rw [if_pos ⟨hrun.1, hrun.2, htime⟩]
  exact ⟨_, hexec, hzero, hanchor, hevents, hedge⟩

/-! ### The load of an epoch (R56, R59) -/

/-- The system time of a region and the high bits of its anchor count. -/
def timeOf (g : RegionSt) : BitVec 54 × BitVec 10 := (g.time, g.anchorHi)

theorem timeOf_region {t : State} (h : clocks t = clocks s) (r : Nat) : timeOf (t.region r) = timeOf (s.region r) :=
  congrArg (fun c : BitVec 54 × BitVec 10 × Nat × Sqc × Bool => (c.1, c.2.1)) (clockOf_region h r)

theorem timeOf_postRef (r k j : Nat) : timeOf ((s.postRef r k).region j) = timeOf (s.region j) := by
  unfold State.postRef
  rw [State.region_updRegion]
  split
  · next h => rw [h]; rfl
  · rfl

theorem clocks_tiuStop (t status : Nat) : clocks (tiuStop s t status) = clocks s := by
  simp only [tiuStop, clocks_ite, clocks_tiuEnd, ite_self]

theorem clocks_acqEpoch (r : Nat) : clocks (acqEpoch s r) = clocks s := by
  unfold acqEpoch
  dsimp only
  repeat' split
  all_goals simp only [clocks_updAcq, clocks_strandEnd, clocks_strandFull]

/-- A region that its time is loaded into; everything else in it that the epoch ends or moves. -/
theorem epochRegion_eq (r : Nat) (v : BitVec 54) : ∃ t,
    clocks t = clocks (s.updRegion r (fun g => { g with time := v, anchorHi := 0, loadAt := some g.edge }))
      ∧ epochRegion s r v = if (s.region r).steering then
          ((t.postRef r 7).updRegion r (fun g => { g with steering := false, timeAligned := oneRoot (t.postRef r 7) })).postRef r 9
        else t.postRef r 7 := by
  refine ⟨_, ?_, rfl⟩
  rw [clocks_acqEpoch, clocks_forAll (fun s t => clocks_tiuStop t INCOMPLETE), clocks_forAll (fun s p => clocks_updCell p _)]

theorem timeOf_epochRegion (r j : Nat) (v : BitVec 54) :
    timeOf ((epochRegion s r v).region j) = if j = r then (v, 0) else timeOf (s.region j) := by
  obtain ⟨t, ht, heq⟩ := epochRegion_eq (s := s) r v
  have hload : timeOf (t.region j) = if j = r then (v, 0) else timeOf (s.region j) := by
    rw [timeOf_region ht, State.region_updRegion]
    split <;> rfl
  have hsteer : timeOf (((t.postRef r 7).updRegion r
      (fun g => { g with steering := false, timeAligned := oneRoot (t.postRef r 7) })).region j) = timeOf (t.region j) := by
    rw [timeOf_region (clocks_updRegion (by exact fun _ => rfl)), timeOf_postRef]
  rw [heq]
  split
  · rw [timeOf_postRef, hsteer, hload]
  · rw [timeOf_postRef, hload]

theorem epoch_epochRegion (r : Nat) (v : BitVec 54) : (epochRegion s r v).ref.epoch = s.ref.epoch := by
  obtain ⟨t, ht, heq⟩ := epochRegion_eq (s := s) r v
  have hload : t.ref.epoch = s.ref.epoch := congrArg (fun c => c.2.2) ht
  rw [heq]
  split <;> exact hload

theorem timeOf_epochAll (l : List Nat) (j : Nat) (v : BitVec 54) (s : State) :
    timeOf ((forAll l (fun s r => epochRegion s r v) s).region j) = if j ∈ l then (v, 0) else timeOf (s.region j) := by
  induction l generalizing s with
  | nil => rfl
  | cons r l ih =>
    rw [forAll_cons, ih, timeOf_epochRegion]
    by_cases hl : j ∈ l
    · rw [if_pos hl, if_pos (List.mem_cons_of_mem r hl)]
    · simp only [List.mem_cons, hl, or_false, if_false]

/-- EPOCH_LOAD (R56). -/
theorem epochLoad_loads {v tl : BitVec 54} {r q : Nat} (hepoch : s.ref.epoch = some (v, tl, r))
    (hreach : reached (s.region r).time tl = true) (hq : q ∈ runningRegions s) :
    ∃ t, exec .epochLoad s = .next t ∧ t.ref.epoch = none ∧ (t.region q).time = v ∧ (t.region q).anchorHi = 0 := by
  have hnone : (epochAll { s with ref.epoch := none } v).ref.epoch = none :=
    forAll_same (fun s => s.ref.epoch) (fun s r _ => epoch_epochRegion r v)
  have htime : timeOf ((epochAll { s with ref.epoch := none } v).region q) = (v, 0) :=
    (timeOf_epochAll _ q v _).trans (if_pos hq)
  obtain ⟨hv, hhi⟩ := Prod.mk.inj htime
  refine ⟨epochLoad s, rfl, ?_⟩
  unfold epochLoad
  rw [hepoch]
  dsimp only
  rw [if_pos hreach]
  split
  · exact ⟨hnone, hv, hhi⟩
  · rw [complete_ref, region_complete]
    exact ⟨hnone, hv, hhi⟩

/-! ### Realignment (R52, R56) -/

/-- The region takes the time of the region it steers to; the cells, whose waits move with it, are no part of a region. -/
theorem realigned_eq {r : Nat} (h : (s.region r).steering = true) : ∃ u : State,
    u.regions = (s.updRegion r (fun g => { g with
      steering := false, time := (s.region (s.region r).steerTo).time, anchorHi := (s.region (s.region r).steerTo).anchorHi,
      timeAligned := oneRoot s })).regions ∧ exec (.realigned r) s = .next (u.postRef r 9) := by
  change ∃ u : State, _ ∧ execRealigned r s = _
  unfold execRealigned
  rw [if_pos h]
  dsimp only
  split
  · exact ⟨_, rfl, rfl⟩
  · refine ⟨_, ?_, rfl⟩
    exact forAll_same State.regions (fun _ _ _ => rfl)

/-- REALIGNED (R52). -/
theorem realigned_takes {r : Nat} (h : (s.region r).steering = true) :
    ∃ t, exec (.realigned r) s = .next t ∧ (t.region r).steering = false
      ∧ (t.region r).time = (s.region (s.region r).steerTo).time ∧ (t.region r).anchorHi = (s.region (s.region r).steerTo).anchorHi
      ∧ (t.region r).timeAligned = oneRoot s ∧ (t.region r).refEvents = (s.region r).refEvents.postBit 9
      ∧ ∀ q, q ≠ r → t.region q = s.region q := by
  obtain ⟨u, hregions, hexec⟩ := realigned_eq h
  have hregion : ∀ q, u.region q = _ := fun q => congrArg (fun l => tabGet ({} : RegionSt) l q) hregions
  have hself := (hregion r).trans (State.region_updRegion_self ..)
  have hpost : (u.postRef r 9).region r = _ := State.region_updRegion_self ..
  rw [hself] at hpost
  refine ⟨_, hexec, ?_⟩
  rw [hpost]
  refine ⟨rfl, rfl, rfl, rfl, rfl, ?_⟩
  intro q hq
  exact (State.region_updRegion_ne u _ hq).trans ((hregion q).trans (State.region_updRegion_ne s _ hq))

/-- How a region runs, and the RESET that waits for it. -/
def runOf (g : RegionSt) : RegionRun × Option Nat := (g.run, g.resetTag)

theorem runOf_updRegion (s : State) {f : RegionSt → RegionSt} (hf : ∀ g, runOf (f g) = runOf g) (k r : Nat) :
    runOf ((s.updRegion k f).region r) = runOf (s.region r) := by
  rw [State.region_updRegion]
  split
  · next h => rw [hf, h]
  · rfl

theorem runOf_postRef (s : State) (k b r : Nat) : runOf ((s.postRef k b).region r) = runOf (s.region r) :=
  runOf_updRegion s (by exact fun _ => rfl) k r

theorem runOf_rootsMoved (s : State) (r : Nat) : runOf ((rootsMoved s).region r) = runOf (s.region r) := by
  refine forAll_same (fun s => runOf (s.region r)) fun u q _ => ?_
  dsimp only
  split
  · rw [runOf_postRef]
    exact runOf_updRegion u (by exact fun _ => rfl) q r
  · exact runOf_updRegion u (by exact fun _ => rfl) q r

/-- A region that an update lets run goes on running through the events and roots that follow. -/
theorem runOf_restarted (s : State) (r k : Nat) {f g : RegionSt → RegionSt} (hf : ∀ x, runOf (f x) = (.run, none))
    (hg : ∀ x, runOf (g x) = runOf x) :
    runOf ((rootsMoved (((s.updRegion r f).postRef r k).updRegion r g)).region r) = (.run, none) := by
  rw [runOf_rootsMoved, runOf_updRegion _ hg, runOf_postRef, State.region_updRegion_self, hf]

/-- On a realign tick the region runs, and the RESET that waits for it, if any, completes. -/
theorem regionRealignTick_eq {r : Nat} (hrun : (s.region r).run = .realign) (hlock : (s.region r).rrp = .locked)
    (htick : s.ref.startTick = true) : ∃ u : State, runOf (u.region r) = (.run, none)
      ∧ (exec (.regionRealignTick r) s = .next u ∨ ∃ tag, exec (.regionRealignTick r) s = .next (complete u tag OK [])) := by
  change ∃ u : State, _ ∧ (execRegionRealignTick r s = _ ∨ ∃ tag, execRegionRealignTick r s = _)
  unfold execRegionRealignTick
  dsimp only
  rw [if_pos ⟨hrun, hlock, htick⟩]
  split
  · refine ⟨_, ?_, .inl rfl⟩
    exact runOf_restarted s r _ (by exact fun _ => rfl) (by exact fun _ => rfl)
  · refine ⟨_, ?_, .inr ⟨_, rfl⟩⟩
    exact runOf_restarted s r _ (by exact fun _ => rfl) (by exact fun _ => rfl)

/-- A realign tick lets the region accept commands. -/
theorem regionRealignTick_runs {r : Nat} (hrun : (s.region r).run = .realign) (hlock : (s.region r).rrp = .locked)
    (htick : s.ref.startTick = true) :
    ∃ t, exec (.regionRealignTick r) s = .next t ∧ (t.region r).run = .run ∧ (t.region r).resetTag = none := by
  obtain ⟨u, hu, hexec⟩ := regionRealignTick_eq hrun hlock htick
  obtain ⟨hmode, htag⟩ := Prod.mk.inj hu
  rcases hexec with hexec | ⟨tag, hexec⟩
  · exact ⟨_, hexec, hmode, htag⟩
  · refine ⟨_, hexec, ?_, ?_⟩
    · rw [region_complete, hmode]
    · rw [region_complete, htag]

/-- Settles O10: no operation that an edge brings about touches a region's clock but the edge itself; the loads of system
time write it directly. -/
theorem systemTimeWrapsLoadsAndRealigns : Obligations.SystemTimeWrapsLoadsAndRealigns := by
  unfold Obligations.SystemTimeWrapsLoadsAndRealigns
  refine ⟨?_, ?_, ?_, ?_⟩
  · intro r s hrun hepoch htime
    exact timeWrap_wraps hrun hepoch htime
  · intro s v tl r q hepoch hreach hq
    exact epochLoad_loads hepoch hreach hq
  · intro r s h
    exact realigned_takes h
  · intro r s hrun hlock htick
    exact regionRealignTick_runs hrun hlock htick

end Sys2Proof.Claims
end
